-- ==== Sys2Proof/Word.lean ====
section
/-! DEFINITION. The word types of the Kaztun and their plainest arithmetic (spec/00_scope.md R16,
spec/03_atset_instructions.md R108, R137). -/

namespace Sys2Proof

abbrev Byte := BitVec 8
abbrev W16 := BitVec 16
abbrev W32 := BitVec 32
abbrev W48 := BitVec 48
abbrev W64 := BitVec 64
abbrev W128 := BitVec 128

/-- Bits `[hi:lo]` of a number, as a number; bit 0 is the least significant (R16). -/
def bitsOf (w hi lo : Nat) : Nat := w / 2 ^ lo % 2 ^ (hi + 1 - lo)

/-- Bits `[hi:lo]` of `w` replaced by the low bits of `v`. -/
def bitsPut (w hi lo v : Nat) : Nat :=
  w - bitsOf w hi lo * 2 ^ lo + v % 2 ^ (hi + 1 - lo) * 2 ^ lo

/-- One bit of a number. -/
def bitOf (w i : Nat) : Bool := w.testBit i

/-- A truth value as a bit. -/
def b2n (b : Bool) : Nat := if b then 1 else 0

/-- The lane numbers 0 to 31 of a clause, in ascending order (R46). -/
def lanes : List Nat := List.range 32

end Sys2Proof
end

