-- ==== Sys2Proof/Syntax.lean ====
section
/-! DEFINITION. The commands: one constructor per row of spec/opcode_table.json, with the row's operands,
and the types the operands have. An Atset row carries the clause that issues and the instruction word less
its opcode byte (spec/03 R116 to R118). -/

namespace Sys2Proof

/-- The clause that issues: a tile number and a clause state entry of that tile (spec/02). -/
structure At where
  tile : Nat
  entry : Nat
  deriving DecidableEq, Repr

/-- An Atset word: the header of Table 3.2 and bits [47:0]. Its opcode byte, bits [55:48], is the row's own; `op` is the byte of a word
that has another, a reserved one (R109, R176). -/
structure Enc where
  p : Bool
  n : Bool
  pg : BitVec 3
  imm : Bool
  rsv : BitVec 2
  body : W48
  op : Option (BitVec 8) := none
  deriving DecidableEq, Repr

/-- A 128-byte line as it crosses the host link, with its poison bits (Tables 6.4, 6.6). -/
structure LineData where
  bytes : List Byte
  poison : BitVec 4
  deriving DecidableEq, Repr

/-- An error that a read of a frame met: the sector, whether the code could correct it, and the bit within the sector's burst. Its
channel, bank, row and column follow from the frame and the sector (R326, R327). -/
structure MemErr where
  sector : Nat
  correctable : Bool
  bit : Nat
  deriving DecidableEq, Repr

/-- An error in a sector that the command reads from the slice's data array, and whether it was corrected (R223). -/
structure ArrayErr where
  sector : Nat
  correctable : Bool
  deriving DecidableEq, Repr

/-- What a slice measured over an occupancy window (R260, Table 5.10). -/
structure HotWindow where
  average : Nat
  topTag : Nat
  topPart : Nat
  accepted : Nat
  deriving DecidableEq, Repr

/-- What the two ends of a link agreed in a training step (Table 9.2, R405). -/
structure TrainInfo where
  good : BitVec 9
  bothReport : Nat
  verMin : Nat
  verMax : Nat
  peer : BitVec 14
  deriving DecidableEq, Repr

/-- What a port measured of its wavelengths (R406): the symbol errors of each before the FEC, out of so many symbols, and those without
their comb line. -/
structure SerRead where
  errs : List Nat
  symbols : Nat
  dark : BitVec 9
  deriving DecidableEq, Repr

/-- How a port goes down (R403): it loses its light, or block lock for 64 consecutive blocks. -/
structure PortLoss where
  port : Nat
  light : Bool
  deriving DecidableEq, Repr

/-- A flit (Table 9.4): the fields of its link word, the body's bytes, and the CRC. -/
structure Flit where
  kind : BitVec 2
  vc : BitVec 4
  seq : BitVec 12
  ack : BitVec 12
  rsv : BitVec 2
  body : List Byte
  crc : BitVec 32
  deriving DecidableEq, Repr

/-- A laser source that is gone (R36, R37, R410): removed, or failed where it is seated. -/
structure ElsLoss where
  els : Nat
  failed : Bool
  deriving DecidableEq, Repr

/-- Why a member is lost (R443). -/
inductive LossWhy where
  | heartbeat | response | route | probe
  deriving DecidableEq, Repr

/-- The fields of QUE_EVLOG whose write resets the log (Table 10.20). -/
inductive EvlogField where
  | base | ctx | log2
  deriving DecidableEq, Repr

/-- The host's answer to a page request (Table 11.7). -/
inductive PrCode where
  | success | invalid | failure
  deriving DecidableEq, Repr

/-- The transports of the SPDM responder (R553). -/
inductive Transport where
  | doe | vdm | i3c
  deriving DecidableEq, Repr

/-- The algorithms a requester offers (Table 12.2), as named there. -/
structure SpdmAlgs where
  p384 : Bool
  sha384 : Bool
  ecdhe384 : Bool
  aes256gcm : Bool
  deriving DecidableEq, Repr

/-- What the TC's checks of a requester found: its chain's root hash, and whether chain and signature
verified (R558; log 10). -/
structure SpdmAuth where
  mutualAuth : Bool
  rootHash : BitVec 384
  ok : Bool
  deriving DecidableEq, Repr

/-- The kinds of IDE stream of the host link (R573). -/
inductive IdeKind where
  | link | selective | cxl
  deriving DecidableEq, Repr

/-- IDE key management (R573): program or switch a key of a stream. -/
structure IdeKm where
  stream : Nat
  kind : IdeKind
  tx : Bool
  sub : BitVec 2
  kbit : Bool
  key : BitVec 256
  go : Bool
  deriving DecidableEq, Repr

/-- A GET_MEASUREMENTS request (Table 12.2): its index, and whether the answer is to be signed. -/
structure MeasReq where
  index : Nat
  signed : Bool
  deriving DecidableEq, Repr

/-- A KZ_UNLOCK request (R579): its serial number, challenge, and whether its signature verified. -/
structure UnlockReq where
  serial : W64
  challenge : BitVec 256
  sigOk : Bool
  deriving DecidableEq, Repr

/-- A write of TC_MB_CMD with go (Table 12.9). -/
structure MbCmd where
  force : Bool
  type : BitVec 2
  slot : BitVec 7
  deriving DecidableEq, Repr

/-- A firmware image (R546, R630): its SVN, the first bytes of its hash, and whether its signature verifies
(log 10). -/
structure Image where
  svn : Nat
  hash : BitVec 384
  sigOk : Bool
  deriving DecidableEq, Repr

/-- What the power controller reads each 10 us (R586): watts, phase currents as the energy of each tile group
in that interval in half picojoules, and the temperature readings in eighths of a degree, none when a
reading is missing. -/
structure PowerSample where
  pIn : Option Int
  pLoad : Option Int
  groupEnergy : List Nat
  frondTemp : List (List (Option Int))
  stackTemp : List (Option Int)
  opticTemp : List (Option Int)
  deriving DecidableEq, Repr

/-- The readings that can go stale (R595, R613). -/
inductive Sensor where
  | power
  | pmbus
  | frond (f : Nat)
  deriving DecidableEq, Repr

inductive TripCause where
  | junction | stack | optics
  deriving DecidableEq, Repr

/-- The converter's telemetry (R585). -/
structure Pmbus where
  vin : Nat
  iin : Nat
  vout : Nat
  iout : Nat
  temp : Nat
  status : W64
  deriving DecidableEq, Repr

/-- Three samples of each strap (R627). -/
structure Straps where
  compat : List Bool
  slot : List (BitVec 6)
  deriving DecidableEq, Repr

/-- What boot self-test found (Table 14.2). -/
structure SelfTest where
  badTiles : List Nat
  badSpares : List (Nat × Nat)
  badSpines : List (Nat × Nat)
  badWays : List (Nat × Nat)
  badMissRegs : List (Nat × Nat)
  badSlice : Bool
  badCore : Bool
  deriving DecidableEq, Repr

/-- What tier training found: the channels whose PHY did not train (R355). -/
structure MemTrain where
  badFast : List Nat
  badCap : List Nat
  deriving DecidableEq, Repr

/-- A tile's error report (R622). -/
inductive TileErr where
  | corrected (syndrome : W64)
  | sram (entry : Option Nat) (offset : Nat)
  | parity (entry : Option Nat)
  deriving DecidableEq, Repr

/-- The end of a self-test (Table 14.8). -/
structure BistResult where
  sig : W64
  fails : W16
  ms : W32
  badUnits : List Nat
  deriving DecidableEq, Repr

/-- A host access through BAR4 (R642). `tBit` and `stream` say on which IDE stream it came (R576). -/
structure Bar4 where
  offset : Nat
  write : Option (List Byte)
  size : Nat
  atomic : Bool
  stream : Option Nat
  tBit : Bool
  deriving DecidableEq, Repr


/-- The commands of the Kaztun, in the order of spec/opcode_table.json. -/
inductive Instr where
  /-- IADD (R138). -/
  | iadd (at_ : At) (e : Enc)
  /-- ISUB (R138). -/
  | isub (at_ : At) (e : Enc)
  /-- INEG (R141). -/
  | ineg (at_ : At) (e : Enc)
  /-- IABS (R141). -/
  | iabs (at_ : At) (e : Enc)
  /-- IMIN (R137). -/
  | imin (at_ : At) (e : Enc)
  /-- IMAX (R137). -/
  | imax (at_ : At) (e : Enc)
  /-- IADDC (R138). -/
  | iaddc (at_ : At) (e : Enc)
  /-- ISUBB (R138). -/
  | isubb (at_ : At) (e : Enc)
  /-- IMUL (R139). -/
  | imul (at_ : At) (e : Enc)
  /-- IMULH (R139). -/
  | imulh (at_ : At) (e : Enc)
  /-- IMAD (R139). -/
  | imad (at_ : At) (e : Enc)
  /-- IDIV (R140). -/
  | idiv (at_ : At) (e : Enc)
  /-- IREM (R140). -/
  | irem (at_ : At) (e : Enc)
  /-- IMULW (R139). -/
  | imulw (at_ : At) (e : Enc)
  /-- AND (R143). -/
  | and (at_ : At) (e : Enc)
  /-- OR (R143). -/
  | or (at_ : At) (e : Enc)
  /-- XOR (R143). -/
  | xor (at_ : At) (e : Enc)
  /-- ANDN (R143). -/
  | andn (at_ : At) (e : Enc)
  /-- NOT (R143). -/
  | not (at_ : At) (e : Enc)
  /-- POPC (R143). -/
  | popc (at_ : At) (e : Enc)
  /-- CLZ (R143). -/
  | clz (at_ : At) (e : Enc)
  /-- CTZ (R143). -/
  | ctz (at_ : At) (e : Enc)
  /-- BREV (R143). -/
  | brev (at_ : At) (e : Enc)
  /-- BFE (R144). -/
  | bfe (at_ : At) (e : Enc)
  /-- BFI (R144). -/
  | bfi (at_ : At) (e : Enc)
  /-- PRMT (R145). -/
  | prmt (at_ : At) (e : Enc)
  /-- SHL (R142). -/
  | shl (at_ : At) (e : Enc)
  /-- SHR (R142). -/
  | shr (at_ : At) (e : Enc)
  /-- SAR (R142). -/
  | sar (at_ : At) (e : Enc)
  /-- SETP (R146). -/
  | setp (at_ : At) (e : Enc)
  /-- SEL (R147). -/
  | sel (at_ : At) (e : Enc)
  /-- PAND (R147). -/
  | pand (at_ : At) (e : Enc)
  /-- POR (R147). -/
  | por (at_ : At) (e : Enc)
  /-- PXOR (R147). -/
  | pxor (at_ : At) (e : Enc)
  /-- PNOT (R147). -/
  | pnot (at_ : At) (e : Enc)
  /-- P2U (R147). -/
  | p2u (at_ : At) (e : Enc)
  /-- U2P (R147). -/
  | u2p (at_ : At) (e : Enc)
  /-- MOV (R152). -/
  | mov (at_ : At) (e : Enc)
  /-- MOVI (R121). -/
  | movi (at_ : At) (e : Enc)
  /-- MOVIH (R121). -/
  | movih (at_ : At) (e : Enc)
  /-- CVT (R150). -/
  | cvt (at_ : At) (e : Enc)
  /-- SRD (R152). -/
  | srd (at_ : At) (e : Enc)
  /-- SWR (R152). -/
  | swr (at_ : At) (e : Enc)
  /-- V2U (R149). -/
  | v2u (at_ : At) (e : Enc)
  /-- FADD (R153). -/
  | fadd (at_ : At) (e : Enc)
  /-- FSUB (R153). -/
  | fsub (at_ : At) (e : Enc)
  /-- FMUL (R153). -/
  | fmul (at_ : At) (e : Enc)
  /-- FFMA (R153). -/
  | ffma (at_ : At) (e : Enc)
  /-- FMIN (R156). -/
  | fmin (at_ : At) (e : Enc)
  /-- FMAX (R156). -/
  | fmax (at_ : At) (e : Enc)
  /-- FABS (R154). -/
  | fabs (at_ : At) (e : Enc)
  /-- FNEG (R154). -/
  | fneg (at_ : At) (e : Enc)
  /-- FDIV (R153). -/
  | fdiv (at_ : At) (e : Enc)
  /-- FSQRT (R153). -/
  | fsqrt (at_ : At) (e : Enc)
  /-- FCLASS (R157). -/
  | fclass (at_ : At) (e : Enc)
  /-- EXP2 (R158). -/
  | exp2 (at_ : At) (e : Enc)
  /-- LOG2 (R158). -/
  | log2 (at_ : At) (e : Enc)
  /-- RCP (R158). -/
  | rcp (at_ : At) (e : Enc)
  /-- RSQ (R158). -/
  | rsq (at_ : At) (e : Enc)
  /-- TANH (R158). -/
  | tanh (at_ : At) (e : Enc)
  /-- SMXSTEP (R216). -/
  | smxstep (at_ : At) (e : Enc)
  /-- MASKGEN (R218). -/
  | maskgen (at_ : At) (e : Enc)
  /-- SHFL (R148). -/
  | shfl (at_ : At) (e : Enc)
  /-- VOTE (R149). -/
  | vote (at_ : At) (e : Enc)
  /-- LD (R161). -/
  | ld (at_ : At) (e : Enc)
  /-- LDS (R161). -/
  | lds (at_ : At) (e : Enc)
  /-- ST (R161). -/
  | st (at_ : At) (e : Enc)
  /-- LDU (R165). -/
  | ldu (at_ : At) (e : Enc)
  /-- STU (R165). -/
  | stu (at_ : At) (e : Enc)
  /-- PREF (R166). -/
  | pref (at_ : At) (e : Enc)
  /-- ATOM_ADD (R167). -/
  | atomAdd (at_ : At) (e : Enc)
  /-- ATOM_MINU (R167). -/
  | atomMinu (at_ : At) (e : Enc)
  /-- ATOM_MINS (R167). -/
  | atomMins (at_ : At) (e : Enc)
  /-- ATOM_MAXU (R167). -/
  | atomMaxu (at_ : At) (e : Enc)
  /-- ATOM_MAXS (R167). -/
  | atomMaxs (at_ : At) (e : Enc)
  /-- ATOM_AND (R167). -/
  | atomAnd (at_ : At) (e : Enc)
  /-- ATOM_OR (R167). -/
  | atomOr (at_ : At) (e : Enc)
  /-- ATOM_XOR (R167). -/
  | atomXor (at_ : At) (e : Enc)
  /-- ATOM_EXCH (R167). -/
  | atomExch (at_ : At) (e : Enc)
  /-- ATOM_CAS (R167). -/
  | atomCas (at_ : At) (e : Enc)
  /-- ATOM_FADD (R170). -/
  | atomFadd (at_ : At) (e : Enc)
  /-- BR (R126). -/
  | br (at_ : At) (e : Enc)
  /-- BRX (R130). -/
  | brx (at_ : At) (e : Enc)
  /-- CALL (R130). -/
  | call (at_ : At) (e : Enc)
  /-- SPLIT (R125). -/
  | split (at_ : At) (e : Enc)
  /-- JOIN (R127). -/
  | join (at_ : At) (e : Enc)
  /-- NOP (R174). -/
  | nop (at_ : At) (e : Enc)
  /-- BAR (R83). -/
  | bar (at_ : At) (e : Enc)
  /-- WAIT (R76). -/
  | wait (at_ : At) (e : Enc)
  /-- FENCE (R173). -/
  | fence (at_ : At) (e : Enc)
  /-- EXIT (R129). -/
  | exit (at_ : At) (e : Enc)
  /-- MMA (R191). -/
  | mma (at_ : At) (e : Enc)
  /-- MMAS (R204). -/
  | mmas (at_ : At) (e : Enc)
  /-- ACCLD (R199). -/
  | accld (at_ : At) (e : Enc)
  /-- ACCST (R199). -/
  | accst (at_ : At) (e : Enc)
  /-- ACCZ (R198). -/
  | accz (at_ : At) (e : Enc)
  /-- MATRIX_FINISH (R190). -/
  | matrixFinish (tile : Nat)
  /-- BLOCK_PLACE (R59). -/
  | blockPlace (kernel : Nat)
  /-- ARGUMENT_READ_RETURN (R669). -/
  | argumentReadReturn (at_ : At)
  /-- PROMOTE (R68). -/
  | promote (tile slot : Nat)
  /-- LOADDEP_DEMOTE (R71). -/
  | loaddepDemote (at_ : At) (load : Nat)
  /-- WAIT_LIMIT_EXPIRE (R79). -/
  | waitLimitExpire (at_ : At)
  /-- SLEEP_END (R74). -/
  | sleepEnd (at_ : At)
  /-- WATCH_REREAD_RETURN (R172). -/
  | watchRereadReturn (at_ : At)
  /-- HOST_WATCH_POLL (R77). -/
  | hostWatchPoll (at_ : At)
  /-- QSC (R92). -/
  | qsc (tile : Nat)
  /-- DEADLOCK_DECLARE (R93). -/
  | deadlockDeclare (kernel : Nat)
  /-- STOP (R89). -/
  | stop (kernel : Nat)
  /-- SWITCH_OUT_REQUEST (R100). -/
  | switchOutRequest (tile : Nat)
  /-- SWITCH_OUT_DRAIN_END (R99). -/
  | switchOutDrainEnd (tile : Nat)
  /-- TILE_SAVED (R100). -/
  | tileSaved (tile : Nat)
  /-- KERNEL_SWITCHED_OUT (R100). -/
  | kernelSwitchedOut (kernel : Nat)
  /-- KERNEL_RESUME (R101). -/
  | kernelResume (kernel : Nat)
  /-- TILE_ASSIGN (R534). -/
  | tileAssign (tile : Nat)
  /-- PREEMPT_QUANTUM_EXPIRE (R536). -/
  | preemptQuantumExpire (part : Nat)
  /-- RD (R302). -/
  | rd (req : Nat) (errs : List ArrayErr)
  /-- RD_RO (R302). -/
  | rdRo (req : Nat) (errs : List ArrayErr)
  /-- WR (R302). -/
  | wr (req : Nat)
  /-- ATOM (R293). -/
  | atom (req : Nat) (errs : List ArrayErr)
  /-- RED (R255). -/
  | red (req : Nat) (errs : List ArrayErr)
  /-- WATCH (R77). -/
  | watch (req : Nat)
  /-- UNWATCH (R300). -/
  | unwatch (req : Nat)
  /-- WATCH_NOTIFY (R77). -/
  | watchNotify (msg : Nat)
  /-- HOST_READ_SHARED (R302). -/
  | hostReadShared (line : Nat)
  /-- HOST_READ_EXCLUSIVE (R302). -/
  | hostReadExclusive (line : Nat)
  /-- HOST_WRITE_BACK (R302). -/
  | hostWriteBack (line : Nat) (keepS : Bool) (data : LineData)
  /-- FWD (R303). -/
  | fwd (msg : Nat)
  /-- FWD_ACK (R302). -/
  | fwdAck (msg : Nat)
  /-- FWD_MISS (R302). -/
  | fwdMiss (msg : Nat)
  /-- BIRSPS (R302). -/
  | birsps (line : Nat) (data : Option LineData)
  /-- BIRSPI (R302). -/
  | birspi (line : Nat) (data : Option LineData)
  /-- DATA (R310). -/
  | dataRsp (msg : Nat)
  /-- DATA_F (R243). -/
  | dataF (msg : Nat)
  /-- ACK (R75). -/
  | ack (msg : Nat)
  /-- ATOM_RSP (R167). -/
  | atomRsp (msg : Nat)
  /-- RETRY (R305). -/
  | retry (msg : Nat)
  /-- GRANT (R305). -/
  | grant (slice : Nat)
  /-- GRANT_HOLD_EXPIRE (R305). -/
  | grantHoldExpire (req : Nat)
  /-- NACK (R307). -/
  | nack (msg : Nat)
  /-- NACK_BACKOFF_EXPIRE (R307). -/
  | nackBackoffExpire (req : Nat)
  /-- FWD_TIMEOUT (R314). -/
  | fwdTimeout (req : Nat)
  /-- BISNP_TIMEOUT (R315). -/
  | bisnpTimeout (line : Nat)
  /-- FILL_RETURN (R234). -/
  | fillReturn (line : Nat) (errs : List MemErr) (array : List ArrayErr)
  /-- HOT_WINDOW_END (R260). -/
  | hotWindowEnd (slice : Nat) (w : HotWindow)
  /-- HASH_ROT_REQUEST (R265). -/
  | hashRotRequest
  /-- HASH_ROT_DRAINED (R265). -/
  | hashRotDrained
  /-- HASH_ROT_DONE (R265). -/
  | hashRotDone (us : Nat)
  /-- UC_REG_APPLY (R396). -/
  | ucRegApply
  /-- TELEMETRY_EPOCH (R609). -/
  | telemetryEpoch
  /-- TELEMETRY_LATCH_END (R610). -/
  | telemetryLatchEnd
  /-- PAGE_MOVE_START (R335). -/
  | pageMoveStart (page : Nat)
  /-- PAGE_MOVE_DONE (R336). -/
  | pageMoveDone (page : Nat) (badSectors : List Nat)
  /-- MAP_REBUILD_DONE (R322). -/
  | mapRebuildDone (channel : Nat)
  /-- TIER_MANAGE (R339). -/
  | tierManage
  /-- TIER_PIN_FAST (R341). -/
  | tierPinFast
  /-- TIER_PIN_CAP (R339). -/
  | tierPinCap
  /-- TIER_RELEASE (R344). -/
  | tierRelease
  /-- TIER_MAPOUT_FAST (R355). -/
  | tierMapoutFast
  /-- TIER_MAPOUT_CAP (R355). -/
  | tierMapoutCap
  /-- STACK_TEMP_SAMPLE (R345). -/
  | stackTempSample (stack : Nat) (temp : Int)
  /-- TEMP_READING_TIMEOUT (R346). -/
  | tempReadingTimeout (fast : Bool) (unit : Nat)
  /-- CAP_TEMP_REPORT (R347). -/
  | capTempReport (device : Nat) (refr : BitVec 2) (temp : Int)
  /-- SCRUB_READ (R348). -/
  | scrubRead (fast : Bool) (frame : Nat) (errs : List MemErr)
  /-- SCRUB_PASS_END (R351). -/
  | scrubPassEnd (fast : Bool)
  /-- COLUMN_REPAIR_DONE (R353). -/
  | columnRepairDone (channel : Nat)
  /-- CHANNEL_NO_ANSWER (R355). -/
  | channelNoAnswer (fast : Bool) (channel : Nat)
  /-- CHANNEL_MAPPED_OUT (R356). -/
  | channelMappedOut (fast : Bool) (channel : Nat)
  /-- STIPE_FLIT_REPLAY (R366). -/
  | stipeFlitReplay (link : Nat) (ok : Bool)
  /-- MSIX_SEND (R382). -/
  | msixSend (fn vector : Nat)
  /-- PORT_LIGHT_ON (R403). -/
  | portLightOn (port : Nat)
  /-- PORT_TRAIN_STEP_DONE (R403). -/
  | portTrainStepDone (port : Nat) (info : TrainInfo)
  /-- PORT_TRAIN_TIMEOUT (R404). -/
  | portTrainTimeout (port : Nat)
  /-- PORT_RETRY_WAIT_END (R404). -/
  | portRetryWaitEnd (port : Nat)
  /-- PORT_DOWN (R413). -/
  | portDown (port : PortLoss)
  /-- WAVELENGTH_SER_CHECK (R406). -/
  | wavelengthSerCheck (port : Nat) (read : SerRead)
  /-- WAVELENGTH_SWAP (R406). -/
  | wavelengthSwap (port : Nat)
  /-- WAVELENGTH_RETEST (R406). -/
  | wavelengthRetest (port : Nat) (pass : BitVec 9)
  /-- PORT_RETRAIN (R403). -/
  | portRetrain (port : Nat)
  /-- FAB_ID_SET (R404). -/
  | fabIdSet (value : W32)
  /-- ELS_SVC (R409). -/
  | elsSvc (els : Nat)
  /-- ELS_REMOVED (R36, R37, R410). -/
  | elsRemoved (els : ElsLoss)
  /-- ELS_INSERTED (R409). -/
  | elsInserted (els : Nat)
  /-- ELS_COMB_LOCK (R409). -/
  | elsCombLock (els : Nat)
  /-- ELS_LOCK_TIMEOUT (R410). -/
  | elsLockTimeout (els : Nat)
  /-- FLIT_RECEIVE (R412). -/
  | flitReceive (port : Nat) (flit : Flit)
  /-- REPLAY_REQUEST (R412). -/
  | replayRequest (port : Nat) (seq : BitVec 12)
  /-- PUT_DATA (R427). -/
  | putData (inbox : Nat)
  /-- PUT_FLAG (R428). -/
  | putFlag (inbox : Nat)
  /-- GET_REQ (R427). -/
  | getReq (inbox : Nat)
  /-- GET_DATA (R427). -/
  | getData (inbox : Nat)
  /-- FABRIC_ACK (R416). -/
  | fabricAck (inbox : Nat)
  /-- ROUTE_LOST_NAK (R413). -/
  | routeLostNak (inbox : Nat)
  /-- COLL_DATA (R433). -/
  | collData (inbox : Nat)
  /-- KV_DATA (R438). -/
  | kvData (inbox : Nat)
  /-- KV_CREDIT (R439). -/
  | kvCredit (inbox : Nat)
  /-- KV_CONSUMED_RISE (R439). -/
  | kvConsumedRise (ring : Nat)
  /-- HB (R443). -/
  | hb (inbox : Nat)
  /-- HB_SEND (R443). -/
  | hbSend (part : Nat)
  /-- PACE (R449). -/
  | pace (inbox : Nat)
  /-- PACE_SEND (R448). -/
  | paceSend
  /-- PACE_HOLD_EXPIRE (R449). -/
  | paceHoldExpire (source : Nat)
  /-- COHORT_FENCE_MSG (R445). -/
  | cohortFenceMsg (inbox : Nat)
  /-- PROBE (R447). -/
  | probe (inbox : Nat)
  /-- PROBE_RSP (R447). -/
  | probeRsp (inbox : Nat)
  /-- ROUTE_WAIT_TIMEOUT (R423). -/
  | routeWaitTimeout (msg : Nat)
  /-- PEER_TIMEOUT (R443). -/
  | peerTimeout (part member : Nat) (why : LossWhy)
  /-- COLL_STEP_TIMEOUT (R437). -/
  | collStepTimeout (xfer : Nat)
  /-- SWEEP_END (R447). -/
  | sweepEnd (part : Nat)
  /-- COH_FENCE_SET (R445). -/
  | cohFenceSet (part : Nat)
  /-- EPOCH_WRITE (R442). -/
  | epochWrite (part : Nat) (epoch : W32)
  /-- NEG_COMMIT (R454). -/
  | negCommit (fn : Nat)
  /-- QUE_CREATE (R457). -/
  | queCreate (fn : Nat) (queue : BitVec 14)
  /-- QUE_START (R458). -/
  | queStart (fn : Nat) (queue : BitVec 14)
  /-- QUE_STOP (R458). -/
  | queStop (fn : Nat) (queue : BitVec 14)
  /-- QUE_DESTROY (R459). -/
  | queDestroy (fn : Nat) (queue : BitVec 14)
  /-- SQ_TAIL (R461). -/
  | sqTail (fn page : Nat) (value : W32)
  /-- CQ_HEAD (R464). -/
  | cqHead (fn page : Nat) (value : W32)
  /-- ABORT (R502). -/
  | abort (fn page : Nat) (seq : W32)
  /-- ABORT_ALL (R504). -/
  | abortAll (fn page : Nat)
  /-- DESCRIPTOR_FETCH (R463). -/
  | descriptorFetch (queue : Nat)
  /-- LAUNCH (R476). -/
  | launch (queue : Nat)
  /-- MOVE_COPY (R478). -/
  | moveCopy (queue : Nat)
  /-- MOVE_FILL (R478). -/
  | moveFill (queue : Nat)
  /-- MOVE_GATHER (R478). -/
  | moveGather (queue : Nat)
  /-- MOVE_REDUCE (R478). -/
  | moveReduce (queue : Nat)
  /-- MOVE_TIER (R478). -/
  | moveTier (queue : Nat)
  /-- SIGNAL (R479). -/
  | signalOp (queue : Nat)
  /-- CMD_WAIT (R480). -/
  | cmdWait (queue : Nat)
  /-- PARSER_HOST_POLL (R481). -/
  | parserHostPoll (queue : Nat)
  /-- EVENT (R491). -/
  | eventOp (queue : Nat)
  /-- COND (R483). -/
  | cond (queue : Nat)
  /-- LOOP (R485). -/
  | loopOp (queue : Nat)
  /-- ENDLOOP (R485). -/
  | endloop (queue : Nat)
  /-- CMD_CALL (R484). -/
  | cmdCall (queue : Nat)
  /-- RETURN (R484). -/
  | returnOp (queue : Nat)
  /-- CMD_FENCE (R487). -/
  | cmdFence (queue : Nat)
  /-- PUT (R488). -/
  | putOp (queue : Nat)
  /-- PUT_KIND_FLAG (R428). -/
  | putKindFlag (queue : Nat)
  /-- GET (R488). -/
  | getOp (queue : Nat)
  /-- ALL_REDUCE (R433). -/
  | allReduce (queue : Nat)
  /-- REDUCE_SCATTER (R433). -/
  | reduceScatter (queue : Nat)
  /-- ALL_GATHER (R433). -/
  | allGather (queue : Nat)
  /-- BROADCAST (R433). -/
  | broadcastOp (queue : Nat)
  /-- REDUCE (R433). -/
  | reduceOp (queue : Nat)
  /-- KV_RING (R438). -/
  | kvRing (queue : Nat)
  /-- INVOKE (R542). -/
  | invoke (queue : Nat)
  /-- TIMESTAMP (R491). -/
  | timestampOp (queue : Nat)
  /-- PREEMPT_POINT (R537). -/
  | preemptPoint (queue : Nat)
  /-- CMD_NOP (R491). -/
  | cmdNop (queue : Nat)
  /-- COMMAND_COMPLETE (R503). -/
  | commandComplete (queue cmd : Nat)
  /-- COMMAND_TIMEOUT (R499). -/
  | commandTimeout (queue cmd : Nat)
  /-- EVLOG_CONFIG_WRITE (R498). -/
  | evlogConfigWrite (fn part : Nat) (field : EvlogField) (value : W64)
  /-- EVLOG_HEAD_WRITE (R498). -/
  | evlogHeadWrite (fn part : Nat) (value : W32)
  /-- CTX_CREATE (R506). -/
  | ctxCreate (fn : Nat)
  /-- CTX_DESTROY (R509). -/
  | ctxDestroy (fn : Nat) (ctx : BitVec 12)
  /-- CTX_QUERY (R511). -/
  | ctxQuery (fn : Nat) (ctx : BitVec 12)
  /-- CTX_KILL (R509). -/
  | ctxKill (fn : Nat) (ctx : BitVec 12)
  /-- CTX_INV (R518). -/
  | ctxInv (fn : Nat) (pages : W32) (ctx : BitVec 12)
  /-- CTX_INV_DONE (R518). -/
  | ctxInvDone (fn : Nat)
  /-- ATS_INVALIDATE (R518). -/
  | atsInvalidate (fn : Nat) (addr : W64) (pages : Nat)
  /-- PAGE_RESPONSE (R520). -/
  | pageResponse (ctx page : Nat) (write : Bool) (code : PrCode)
  /-- PRT_CREATE (R523). -/
  | prtCreate (part : BitVec 6)
  /-- PRT_DESTROY (R526). -/
  | prtDestroy (part : BitVec 6)
  /-- PRT_RESET (R528). -/
  | prtReset (part : BitVec 6)
  /-- PRT_ASSIGN (R525). -/
  | prtAssign (part : BitVec 6)
  /-- PRT_UNASSIGN (R525). -/
  | prtUnassign (part : BitVec 6)
  /-- PRT_GROW (R524). -/
  | prtGrow (part : BitVec 6)
  /-- PRT_RESET_DRAIN_END (R528). -/
  | prtResetDrainEnd (part : Nat)
  /-- PRT_ZERO_DONE (R526). -/
  | prtZeroDone (part : Nat)
  /-- FUNCTION_LEVEL_RESET (R527). -/
  | functionLevelReset (fn : Nat)
  /-- DLOG_ENABLE (R532). -/
  | dlogEnable (part : Nat) (value : W64)
  /-- DLOG_ROUND (R531). -/
  | dlogRound (part : Nat)
  /-- DLOG_HEAD_WRITE (R532). -/
  | dlogHeadWrite (part : Nat) (value : W32)
  /-- HERB_REGISTER (R540). -/
  | herbRegister (fn : Nat)
  /-- HERB_UNREGISTER (R545). -/
  | herbUnregister (fn : Nat) (handle : BitVec 10)
  /-- HERB_PIN (R541). -/
  | herbPin (fn : Nat) (handle : BitVec 10)
  /-- HERB_UNPIN (R541). -/
  | herbUnpin (fn : Nat) (handle : BitVec 10)
  /-- HERB_PREFETCH (R545). -/
  | herbPrefetch (fn : Nat) (handle : BitVec 10)
  /-- HERB_FILL_DONE (R542). -/
  | herbFillDone (handle : Nat)
  /-- GET_VERSION (R553). -/
  | getVersion (via : Transport)
  /-- GET_CAPABILITIES (R553). -/
  | getCapabilities (via : Transport)
  /-- NEGOTIATE_ALGORITHMS (R553). -/
  | negotiateAlgorithms (via : Transport) (algs : SpdmAlgs)
  /-- GET_DIGESTS (R553). -/
  | getDigests (via : Transport)
  /-- GET_CERTIFICATE (R552). -/
  | getCertificate (via : Transport) (slot : Nat)
  /-- CHALLENGE (R553). -/
  | spdmChallenge (via : Transport) (slot : Nat)
  /-- GET_MEASUREMENTS (R554). -/
  | getMeasurements (via : Transport) (req : MeasReq)
  /-- KEY_EXCHANGE (R553). -/
  | keyExchange (via : Transport)
  /-- FINISH (R553). -/
  | spdmFinish (sess : Nat) (auth : SpdmAuth)
  /-- KEY_UPDATE (R553). -/
  | keyUpdate (sess : Nat)
  /-- SPDM_HEARTBEAT (R553). -/
  | spdmHeartbeat (sess : Nat)
  /-- END_SESSION (R553). -/
  | endSession (sess : Nat)
  /-- KZ_KEY_SET (R558). -/
  | kzKeySet (sess : Nat) (slot : BitVec 7) (type : BitVec 2) (force : Bool) (key : BitVec 512)
  /-- IDE_KM (R573). -/
  | ideKm (sess : Nat) (op : IdeKm)
  /-- LOCK_INTERFACE (R575). -/
  | lockInterface (sess part stream : Nat)
  /-- START_INTERFACE (R574). -/
  | startInterface (sess part : Nat)
  /-- STOP_INTERFACE (R578). -/
  | stopInterface (sess part : Nat)
  /-- GET_DEVICE_INTERFACE_REPORT (R575). -/
  | getDeviceInterfaceReport (sess part : Nat)
  /-- KZ_UNLOCK (R580). -/
  | kzUnlock (via : Transport) (sess : Option Nat) (req : UnlockReq)
  /-- TDI_ERROR (R577). -/
  | tdiError (part : Nat) (why : BitVec 8)
  /-- IDE_INTEGRITY_FAIL (R574). -/
  | ideIntegrityFail (stream : Nat)
  /-- GENERATE (R557). -/
  | mbGenerate (cmd : MbCmd)
  /-- SET_PLAIN (R557). -/
  | mbSetPlain (cmd : MbCmd)
  /-- ERASE (R561). -/
  | mbErase (cmd : MbCmd)
  /-- QUERY (R557). -/
  | mbQuery (cmd : MbCmd)
  /-- KEY_RETIRE_DONE (R560). -/
  | keyRetireDone (slot : Nat)
  /-- FIRMWARE_UPDATE (R630). -/
  | firmwareUpdate (comp : Nat) (image : Image)
  /-- ACTIVATE_FIRMWARE (R630). -/
  | activateFirmware (comp : Nat)
  /-- POWER_SAMPLE (R587). -/
  | powerSample (s : PowerSample)
  /-- CAP_FAIL (R590). -/
  | capFail
  /-- BRAKE_ASSERT (R593). -/
  | brakeAssert (lowNs : Nat)
  /-- BRAKE_RELEASE (R593). -/
  | brakeRelease (highNs : Nat)
  /-- CONVERTER_ALERT (R593). -/
  | converterAlert (ns : Nat) (status : W64)
  /-- ALERT_RELEASE (R593). -/
  | alertRelease (ns : Nat)
  /-- SENSOR_TIMEOUT (R595). -/
  | sensorTimeout (sensor : Sensor)
  /-- TRIP (R598). -/
  | trip (cause : TripCause) (unit : Nat)
  /-- TRIP_CLEAR (R634). -/
  | tripClear
  /-- PWR_CAP_WRITE (R591). -/
  | pwrCapWrite (value : W32)
  /-- TCLK_SET (R600). -/
  | tclkSet (frond : Nat) (value : W64)
  /-- TCLK_SWITCH (R601). -/
  | tclkSwitch (frond : Nat)
  /-- PMBUS_POLL (R585). -/
  | pmbusPoll (r : Pmbus)
  /-- INPUT_IN_RANGE (R614). -/
  | inputInRange (millivolts : Nat) (els : BitVec 4)
  /-- INPUT_BELOW_RANGE (R653). -/
  | inputBelowRange (millivolts : Nat)
  /-- RAILS_UP (R656). -/
  | railsUp
  /-- PERST_DEASSERT (R614). -/
  | perstDeassert (straps : Straps)
  /-- TRUST_STAGE_DONE (R614). -/
  | trustStageDone
  /-- IMAGES_STAGE_DONE (R547). -/
  | imagesStageDone
  /-- SELFTEST_STAGE_DONE (R616). -/
  | selftestStageDone (r : SelfTest)
  /-- MEMORY_STAGE_DONE (R614). -/
  | memoryStageDone (r : MemTrain) (bootMs : Nat)
  /-- PERST_ASSERT (R619). -/
  | perstAssert (ns : Nat)
  /-- HOT_RESET (R618). -/
  | hotReset
  /-- HOST_LINK_TRAINED (R316). -/
  | hostLinkTrained
  /-- FATAL_ERROR (R620). -/
  | fatalError (why : W64)
  /-- TILE_ERROR_REPORT (R622). -/
  | tileErrorReport (tile : Nat) (err : TileErr)
  /-- SPARE_QUARANTINE (R622). -/
  | spareQuarantine (tile : BitVec 11)
  /-- SPARE_CANCEL (R624). -/
  | spareCancel (tile : BitVec 11)
  /-- TILE_SUBSTITUTE (R623). -/
  | tileSubstitute (tile : Nat)
  /-- BIST_TILE_GROUP (R625). -/
  | bistTileGroup (unit : BitVec 9) (seed : W16)
  /-- BIST_SPARES (R625). -/
  | bistSpares (unit : BitVec 9) (seed : W16)
  /-- BIST_FAST_CHANNEL (R625). -/
  | bistFastChannel (unit : BitVec 9) (seed : W16)
  /-- BIST_CAP_CHANNEL (R625). -/
  | bistCapChannel (unit : BitVec 9) (seed : W16)
  /-- BIST_PORT (R625). -/
  | bistPort (unit : BitVec 9) (seed : W16)
  /-- BIST_DONE (R625). -/
  | bistDone (r : BistResult)
  /-- SERVICE_RECORD_WRITE (R631). -/
  | serviceRecordWrite
  /-- CHANNEL_RECAL (R632). -/
  | channelRecal (fast : Bool) (channel : Nat) (temp : Int)
  /-- SVC_READ (R635). -/
  | svcRead
  /-- I3C_ENTDAA (R660). -/
  | i3cEntdaa (addr : BitVec 7)
  /-- I3C_STALL_TIMEOUT (R633). -/
  | i3cStallTimeout
  /-- PCIE_COMPLETION_TIMEOUT (R633). -/
  | pcieCompletionTimeout (req : Nat)
  /-- H2D_SNOOP (R370). -/
  | h2dSnoop (line : Nat)
  /-- BAR4_ACCESS (R642). -/
  | bar4Access (fn : Nat) (a : Bar4)
  /-- MSIX_UNMASK (R646). -/
  | msixUnmask (fn vector : Nat)
  /-- REGISTER_WRITE (R637). -/
  | registerWrite (fn : Nat) (bar : BitVec 3) (offset bytes : Nat) (value : W64)
  /-- HOST_LINK_COMPLETION (R272). -/
  | hostLinkCompletion (req : Nat) (poisoned : Bool)
  /-- LOCAL_LOAD_RETURN (R75). -/
  | localLoadReturn (at_ : At) (load : Nat) (bad : Bool)
  /-- TRANSLATION_WALK_DONE (R73). -/
  | translationWalkDone (at_ : At)
  /-- BOUNDARY_SCAN_INSTRUCTION (R661). -/
  | boundaryScanInstruction (ir : W32)
  deriving DecidableEq, Repr

end Sys2Proof
end

