-- ==== Sys2Proof/Decode.lean ====
section
/-! DEFINITION. Words as commands. No row of spec/opcode_table.json is given bits, so no word of the table spells a command. What
spec/03 gives an Atset word is here beside it: the map of class and function (Tables 3.12 and 3.13). -/

namespace Sys2Proof

/-! ### The functions of Table 3.13, class by class -/

/-- Class 0x0: add, subtract, negate, min, max. -/
def ops0 : List (Nat × (At → Enc → Instr)) :=
  [(0x00, .iadd), (0x01, .isub), (0x02, .ineg), (0x03, .iabs), (0x04, .imin), (0x05, .imax), (0x06, .iaddc),
   (0x07, .isubb)]

/-- Class 0x1: multiply and divide. -/
def ops1 : List (Nat × (At → Enc → Instr)) :=
  [(0x10, .imul), (0x11, .imulh), (0x12, .imad), (0x13, .idiv), (0x14, .irem), (0x15, .imulw)]

/-- Class 0x2: logical and bit operations. -/
def ops2 : List (Nat × (At → Enc → Instr)) :=
  [(0x20, .and), (0x21, .or), (0x22, .xor), (0x23, .andn), (0x24, .not), (0x25, .popc), (0x26, .clz), (0x27, .ctz),
   (0x28, .brev), (0x29, .bfe), (0x2A, .bfi), (0x2B, .prmt)]

/-- Class 0x3: shifts. -/
def ops3 : List (Nat × (At → Enc → Instr)) :=
  [(0x30, .shl), (0x31, .shr), (0x32, .sar)]

/-- Class 0x4: compare, select, predicates. -/
def ops4 : List (Nat × (At → Enc → Instr)) :=
  [(0x40, .setp), (0x41, .sel), (0x42, .pand), (0x43, .por), (0x44, .pxor), (0x45, .pnot), (0x46, .p2u), (0x47, .u2p)]

/-- Class 0x5: conversion, moves, special registers. -/
def ops5 : List (Nat × (At → Enc → Instr)) :=
  [(0x50, .mov), (0x51, .movi), (0x52, .movih), (0x53, .cvt), (0x54, .srd), (0x55, .swr), (0x56, .v2u)]

/-- Class 0x6: floating-point arithmetic. -/
def ops6 : List (Nat × (At → Enc → Instr)) :=
  [(0x60, .fadd), (0x61, .fsub), (0x62, .fmul), (0x63, .ffma), (0x64, .fmin), (0x65, .fmax), (0x66, .fabs), (0x67, .fneg),
   (0x68, .fdiv), (0x69, .fsqrt), (0x6A, .fclass)]

/-- Class 0x7: special functions. -/
def ops7 : List (Nat × (At → Enc → Instr)) :=
  [(0x70, .exp2), (0x71, .log2), (0x72, .rcp), (0x73, .rsq), (0x74, .tanh), (0x75, .smxstep), (0x76, .maskgen)]

/-- Class 0x8: lane exchange and vote. -/
def ops8 : List (Nat × (At → Enc → Instr)) :=
  [(0x80, .shfl), (0x81, .vote)]

/-- Class 0x9: loads and stores. -/
def ops9 : List (Nat × (At → Enc → Instr)) :=
  [(0x90, .ld), (0x91, .lds), (0x92, .st), (0x93, .ldu), (0x94, .stu), (0x95, .pref)]

/-- Class 0xA: atomics. -/
def opsA : List (Nat × (At → Enc → Instr)) :=
  [(0xA0, .atomAdd), (0xA1, .atomMinu), (0xA2, .atomMins), (0xA3, .atomMaxu), (0xA4, .atomMaxs), (0xA5, .atomAnd),
   (0xA6, .atomOr), (0xA7, .atomXor), (0xA8, .atomExch), (0xA9, .atomCas), (0xAA, .atomFadd)]

/-- Class 0xB: branches. -/
def opsB : List (Nat × (At → Enc → Instr)) :=
  [(0xB0, .br), (0xB1, .brx), (0xB2, .call), (0xB3, .split), (0xB4, .join)]

/-- Class 0xC: synchronisation and control. -/
def opsC : List (Nat × (At → Enc → Instr)) :=
  [(0xC0, .nop), (0xC1, .bar), (0xC2, .wait), (0xC3, .fence), (0xC4, .exit)]

/-- Class 0xD: matrix. -/
def opsD : List (Nat × (At → Enc → Instr)) :=
  [(0xD0, .mma), (0xD1, .mmas), (0xD2, .accld), (0xD3, .accst), (0xD4, .accz)]

/-- Table 3.13: class and function, bits [55:48] of a word, and the instruction they name. -/
def opTable : List (Nat × (At → Enc → Instr)) :=
  ops0 ++ ops1 ++ ops2 ++ ops3 ++ ops4 ++ ops5 ++ ops6 ++ ops7 ++ ops8 ++ ops9 ++ opsA ++ opsB ++ opsC ++ opsD

/-- A class and function that Table 3.13 lists; all others are reserved (R176). -/
def opListed (op : BitVec 8) : Bool := opTable.any (·.1 == op.toNat)

/-- A word less its opcode byte (R116, R118). -/
def encOf (w : BitVec 64) : Enc :=
  { p := w.getLsbD 63, n := w.getLsbD 62, pg := w.extractLsb' 59 3, imm := w.getLsbD 58, rsv := w.extractLsb' 56 2,
    body := w.extractLsb' 0 48 }

/-- The instruction that an Atset word is for a clause. A word with a reserved opcode is none of the table's; any row carries it, with
the byte in its place, and it raises ILLEGAL_ENC (R109). -/
def decodeAtset (a : At) (w : BitVec 64) : Instr :=
  let op := w.extractLsb' 48 8
  match opTable.find? (·.1 == op.toNat) with
  | some x => x.2 a (encOf w)
  | none => .nop a { encOf w with op := some op }

/-- The command a word spells by the table's bits: none, for no row has bits. -/
def decodeTableWord (_nbits _w : Nat) : Option Instr := none

end Sys2Proof
end

