-- ==== Sys2Proof/Machine/Tab.lean ====
section
/-! DEFINITION. Sparse tables: a list of (key, value) pairs in one canonical form (keys strictly rising,
no entry equal to what an unlisted key reads as). Memories, register files and every numbered set of units
(tiles, queues, contexts, pages) are held in this one form. -/

namespace Sys2Proof.Machine

/-- A sparse table from numbers to `α`. What an unlisted key reads as is given where the table is read. -/
abbrev Tab (α : Type) := List (Nat × α)

variable {α : Type}

/-- The value at key `k`; `d` says what an unlisted key reads as. -/
def tabGet (d : Nat → α) : Tab α → Nat → α
  | [], k => d k
  | (j, v) :: t, k => if k < j then d k else if k = j then v else tabGet d t k

/-- What stands after key `k` in a table whose head lies at or below it. -/
def tabSkip (k : Nat) : Tab α → Tab α
  | [] => []
  | (j, v) :: t => if j ≤ k then tabSkip k t else (j, v) :: t

/-- The table with key `k` reading as `v`, in canonical form. -/
def tabSet [DecidableEq α] (d : Nat → α) : Tab α → Nat → α → Tab α
  | [], k, v => if v = d k then [] else [(k, v)]
  | (j, w) :: t, k, v =>
    if k < j then (if v = d k then (j, w) :: t else (k, v) :: (j, w) :: t)
    else if k = j then (if v = d k then tabSkip k t else (k, v) :: t)
    else (j, w) :: tabSet d t k v

/-- The table with the entry at `k` changed by `f`. -/
def tabUpd [DecidableEq α] (d : Nat → α) (t : Tab α) (k : Nat) (f : α → α) : Tab α :=
  tabSet d t k (f (tabGet d t k))

/-- The canonical form: keys rise strictly (from `lo` on) and no entry equals the unlisted value. -/
def tabWfFrom [DecidableEq α] (d : Nat → α) : Nat → Tab α → Bool
  | _, [] => true
  | lo, (j, v) :: t => decide (lo ≤ j) && decide (v ≠ d j) && tabWfFrom d (j + 1) t

def tabWf [DecidableEq α] (d : Nat → α) (t : Tab α) : Bool := tabWfFrom d 0 t

/-- `n` values from key `k` on, in ascending order. -/
def tabRange (d : Nat → α) (t : Tab α) (k n : Nat) : List α :=
  (List.range n).map fun i => tabGet d t (k + i)

/-- The values `vs` written from key `k` on. -/
def tabPut [DecidableEq α] (d : Nat → α) : Tab α → Nat → List α → Tab α
  | t, _, [] => t
  | t, k, v :: vs => tabPut d (tabSet d t k v) (k + 1) vs

/-- The listed entries whose value meets `p`, with their keys. -/
def tabFilter (p : Nat → α → Bool) (t : Tab α) : Tab α := t.filter fun e => p e.1 e.2

/-- Every listed entry changed by `f`, back in canonical form. -/
def tabMap [DecidableEq α] (d : Nat → α) (f : Nat → α → α) (t : Tab α) : Tab α :=
  (t.map fun e => (e.1, f e.1 e.2)).filter fun e => decide (e.2 ≠ d e.1)

/-- The least key at or above `k`, within `n` steps, at which `p` holds. -/
def tabFind (p : Nat → Bool) : Nat → Nat → Option Nat
  | _, 0 => none
  | k, n + 1 => if p k then some k else tabFind p (k + 1) n

/-! ### Memories -/

/-- A memory is a table of bytes (spec/06 R271, R276). -/
abbrev Mem := Tab Byte

/-- A byte that nothing has written reads as 0 (DESIGN CHOICE, log 4; R324 leaves it undefined). -/
def memDef : Nat → Byte := fun _ => 0

def memByte (m : Mem) (a : Nat) : Byte := tabGet memDef m a
def memSetByte (m : Mem) (a : Nat) (b : Byte) : Mem := tabSet memDef m a b
def memBytes (m : Mem) (a n : Nat) : List Byte := tabRange memDef m a n
def memPut (m : Mem) (a : Nat) (bs : List Byte) : Mem := tabPut memDef m a bs

/-- The canonical form of a memory. -/
def memWf (m : Mem) : Bool := tabWf memDef m

/-- The number a list of bytes spells, byte 0 least significant (R16). -/
def leNat : List Byte → Nat
  | [] => 0
  | b :: bs => b.toNat + 256 * leNat bs

/-- The `n` bytes of a number, least significant first (R16). -/
def leBytes : Nat → Nat → List Byte
  | 0, _ => []
  | n + 1, v => BitVec.ofNat 8 v :: leBytes n (v / 256)

/-- The `n`-byte little-endian number at `a`. -/
def memLe (m : Mem) (a n : Nat) : Nat := leNat (memBytes m a n)

def memPutLe (m : Mem) (a n v : Nat) : Mem := memPut m a (leBytes n v)

end Sys2Proof.Machine
end

