-- ==== Sys2Proof/Machine/Clause.lean ====
section
/-! DEFINITION. A clause, its block and its tile's matrix queue as data (spec/02 Tables 2.3, 2.5, 2.7, 2.12,
2.13; spec/03 Tables 3.5 to 3.7; spec/04 R190). -/

namespace Sys2Proof.Machine

/-- The states of Table 2.5. A clause that is SAVED stands only in the save area: its entry is EMPTY and its
kernel lists the tile as saved. -/
inductive CSt where
  | empty | admitted | ready | waiting | active | exited | faulted
  deriving DecidableEq, Repr

/-- A wait in progress: the kind codes of Table 2.7, and what R74 to R79 and R171, R172 keep of it. -/
structure Wait where
  kind : Nat := 0
  /-- thresholds of CNT: ldcnt, stcnt, mxcnt -/
  thr : Nat := 0
  opnd : W32 := 0
  /-- LOADDEP: the load (R71) -/
  load : Nat := 0
  va : W64 := 0
  /-- the watched word's place: host memory or device memory, and its address there (R77) -/
  host : Bool := false
  pa : Nat := 0
  /-- MEM_* limit or SLEEP cycles; 0 = none -/
  limit : Nat := 0
  /-- the tile cycle at which it issued -/
  since : Nat := 0
  pe : Bool := false
  pd : Nat := 0
  /-- BAR: the generation awaited and the rank of arrival in it -/
  gen : W32 := 0
  rank : Nat := 0
  /-- MEM_*: a watch is registered at the home, a read or reread is outstanding, a notification has come
  whose reread has not been made (R77, R91) -/
  watching : Bool := false
  reading : Bool := false
  notified : Bool := false
  /-- the request whose answer is awaited -/
  rdId : Nat := 0
  deriving DecidableEq, Repr

/-- A memory access that has issued and is not yet complete: for a load or returning atomic the registers
still to be written, with the lanes each still waits for; how many responses are due, and the values
returned so far by lane (R66, R71, R75, R164). Registers are written when the last response is in. -/
structure Access where
  id : Nat
  store : Bool := false
  /-- what remains to be written: register, and lane mask -/
  dst : List (Nat × W32) := []
  /-- the first register of the destination -/
  dreg : Nat := 255
  udst : Option Nat := none
  due : Nat := 1
  /-- access width in bytes, and sign extension (R161) -/
  bytes : Nat := 4
  sext : Bool := false
  /-- values by lane -/
  vals : List (Nat × Nat) := []
  acquire : Bool := false
  /-- some response carried poison -/
  bad : Bool := false
  /-- the address of the lowest acting lane, for the fault state -/
  va : W64 := 0
  /-- this access may be kept in the L1 (R239) -/
  l1 : Bool := false
  /-- a part that the tile itself serves is still due -/
  loc : Bool := false
  deriving DecidableEq, Repr

/-- The rights an access needs (R514). -/
inductive Acc where
  | read | write | atomic | exec
  deriving DecidableEq, Repr

/-- A stall on a translation walk (R73): the access, and the addresses of the acting lanes in lane order. -/
structure XlatStall where
  acc : Acc
  addrs : List W64 := []
  deriving DecidableEq, Repr

/-- When a clause entered READY, which orders promotion (R68): the tile cycle; among clauses of one cycle the block index; within
a block the order of arrival at the barrier that released it, or else sr.clause. -/
structure ReadyAt where
  cycle : Nat := 0
  blk : Nat := 0
  sub : Nat := 0
  deriving DecidableEq, Repr

/-- R68: the earlier of two entries into READY. -/
def ReadyAt.before (a b : ReadyAt) : Bool :=
  decide (a.cycle < b.cycle) || (a.cycle == b.cycle &&
    (decide (a.blk < b.blk) || (a.blk == b.blk && decide (a.sub < b.sub))))

/-- A stall of an ACTIVE clause on loads that its next instruction needs (R71): the cycle at which that instruction could
otherwise have issued, and the loads. -/
structure LoadStall where
  since : Nat
  loads : List Nat
  deriving DecidableEq, Repr

/-- A clause state entry (Tables 2.3, 2.5, 2.13). -/
structure Clause where
  st : CSt := .empty
  /-- the model's own: which clause this is (log 13) -/
  uid : Nat := 0
  /-- block table entry -/
  blk : Nat := 0
  /-- sr.clause -/
  idx : Nat := 0
  pc : W64 := 0
  active : W32 := 0
  live : W32 := 0
  /-- the reconvergence stack, newest entry first (R124) -/
  stack : List W64 := []
  /-- u0 to u63 -/
  u : Tab W64 := []
  /-- p0 to p7, bit l for lane l -/
  p : Tab W32 := []
  /-- vector registers, keyed 32 * register + lane -/
  v : Tab W32 := []
  /-- sr.status of each lane -/
  status : Tab W32 := []
  ustatus : W32 := 0
  mode : W32 := 0
  /-- the rounding counter (R184) -/
  ctr : W32 := 0
  ldcnt : Nat := 0
  stcnt : Nat := 0
  mxcnt : Nat := 0
  wait : Wait := {}
  /-- when it entered READY (R68), and the count of its tile's entries into READY before it -/
  readyAt : ReadyAt := {}
  readyRank : Nat := 0
  /-- the tile cycle of its promotion (R69) -/
  promotedAt : Nat := 0
  /-- ADMITTED: argument words still to be returned (R669) -/
  argsLeft : List Nat := []
  loads : List Access := []
  xlat : Option XlatStall := none
  /-- a FENCE in force: no later memory access issues until the loads, the stores, and at module scope the
  host writes issued before it are performed (R280, R281) -/
  fenceLd : Bool := false
  fenceSt : Bool := false
  fenceHost : Bool := false
  /-- host writes accepted and not yet completed at the host (R272) -/
  hostWr : Nat := 0
  deriving DecidableEq, Repr

def clauseNone : Nat → Clause := fun _ => {}

/-- A block table entry (Table 2.12). -/
structure Block where
  used : Bool := false
  index : Nat := 0
  gen : W32 := 0
  arrivals : Nat := 0
  exited : Nat := 0
  /-- scratchpad base and size in 4 KiB units -/
  spmBase : Nat := 0
  spmSize : Nat := 0
  deriving DecidableEq, Repr

/-- An instruction in the matrix unit's queue (R190). `src` holds its source registers; `read` says that the
unit has read them (until then the clause's writes of them stall); `dst` the registers ACCST will write, with the lanes no later write has taken. -/
structure MatJob where
  entry : Nat
  uid : Nat
  op : Nat
  body : W48
  ctr : W32 := 0
  key : W64 := 0
  mode : W32 := 0
  blk : Nat := 0
  idx : Nat := 0
  read : Bool := false
  srcRegs : List Nat := []
  src : Tab W32 := []
  dst : List (Nat × W32) := []
  deriving DecidableEq, Repr

def wDef : Nat → W32 := fun _ => 0
def uDef : Nat → W64 := fun _ => 0

/-- Lane `l` of register `r`; v255 reads as 0 (R112). -/
def Clause.getV (c : Clause) (r l : Nat) : W32 := if r = 255 then 0 else tabGet wDef c.v (r * 32 + l)

def Clause.getU (c : Clause) (r : Nat) : W64 := tabGet uDef c.u r
def Clause.getP (c : Clause) (r : Nat) : W32 := tabGet wDef c.p r
def Clause.getStatus (c : Clause) (l : Nat) : W32 := tabGet wDef c.status l

/-- The lanes of `m`, in ascending order. -/
def maskLanes (m : W32) : List Nat := lanes.filter fun l => m.getLsbD l

/-- A mask from a test of each lane. -/
def maskOf (f : Nat → Bool) : W32 := lanes.foldl (fun m l => if f l then m ||| (1 <<< l) else m) 0

/-- What remains to be written of a list of destinations once lanes `m` of register `r` are overwritten. -/
def cancelDst (r : Nat) (m : W32) (ds : List (Nat × W32)) : List (Nat × W32) :=
  (ds.map fun d => if d.1 = r then (d.1, d.2 &&& ~~~m) else d).filter fun d => d.2 != 0

/-- A later write of a register leaves the later value when an outstanding load returns (R164). -/
def Clause.cancel (c : Clause) (r : Nat) (m : W32) : Clause :=
  { c with loads := c.loads.map fun d => { d with dst := cancelDst r m d.dst } }

/-- The lanes of `m` of register `r` written; a write to v255 is discarded (R112). -/
def Clause.putV (c : Clause) (r : Nat) (m : W32) (f : Nat → W32) : Clause :=
  if r = 255 then c
  else { c.cancel r m with
    v := (maskLanes m).foldl (fun t l => tabSet wDef t (r * 32 + l) (f l)) c.v }

def Clause.putU (c : Clause) (r : Nat) (x : W64) : Clause :=
  { c with
    u := tabSet uDef c.u r x
    loads := c.loads.map fun d => if d.udst = some r then { d with udst := none } else d }

/-- The lanes of `m` of predicate `r` written with the bits of `x`. -/
def Clause.putP (c : Clause) (r : Nat) (m x : W32) : Clause :=
  { c with p := tabSet wDef c.p r ((c.getP r &&& ~~~m) ||| (x &&& m)) }

def Clause.putStatus (c : Clause) (m : W32) (f : Nat → W32) : Clause :=
  { c with status := (maskLanes m).foldl (fun t l => tabSet wDef t l (f l)) c.status }

end Sys2Proof.Machine
end

