-- ==== Sys2Proof/Machine/Num.lean ====
section
/-! DEFINITION. Number formats and exact rounding (spec/04_matrix_and_formats.md, Tables 4.1 to 4.3;
spec/03 R136, R153 to R157). A finite value is `(-1)^neg * m * 2^e` with exact integers; nothing rounds but
`roundPack`. -/

namespace Sys2Proof.Machine

/-- The rounding modes of R136. `sr` carries its 16 random bits (R182). -/
inductive Rnd where
  | rne | rtz | rup | rdn | rna
  | sr (r : Nat)
  deriving DecidableEq, Repr

/-- The IEEE sticky flags of Table 3.6: invalid, division by zero, overflow, underflow, inexact. -/
structure FFlags where
  iv : Bool := false
  dz : Bool := false
  ov : Bool := false
  uf : Bool := false
  nx : Bool := false
  deriving DecidableEq, Repr

def FFlags.or (a b : FFlags) : FFlags :=
  ⟨a.iv || b.iv, a.dz || b.dz, a.ov || b.ov, a.uf || b.uf, a.nx || b.nx⟩

/-- A binary format of Table 4.1: exponent and significand field widths, and which special patterns it has. -/
structure Fmt where
  eb : Nat
  mb : Nat
  /-- the all-ones exponent holds infinity and NaN (IEEE style) -/
  ieee : Bool
  /-- only the all-ones pattern is NaN and there is no infinity (E4M3) -/
  oneNan : Bool
  deriving DecidableEq, Repr

def fmtF64 : Fmt := ⟨11, 52, true, false⟩
def fmtF32 : Fmt := ⟨8, 23, true, false⟩
def fmtBf16 : Fmt := ⟨8, 7, true, false⟩
def fmtF16 : Fmt := ⟨5, 10, true, false⟩
def fmtE4m3 : Fmt := ⟨4, 3, false, true⟩
def fmtE5m2 : Fmt := ⟨5, 2, true, false⟩
def fmtE2m3 : Fmt := ⟨2, 3, false, false⟩
def fmtE3m2 : Fmt := ⟨3, 2, false, false⟩
def fmtE2m1 : Fmt := ⟨2, 1, false, false⟩

def Fmt.bias (f : Fmt) : Int := 2 ^ (f.eb - 1) - 1
def Fmt.width (f : Fmt) : Nat := 1 + f.eb + f.mb
def Fmt.signBit (f : Fmt) : Nat := 2 ^ (f.eb + f.mb)

/-- The exponent of the least significant bit of the subnormals (Table 4.2). -/
def Fmt.qMin (f : Fmt) : Int := 1 - f.bias - f.mb

/-- The pattern of the largest finite magnitude (Table 4.2). -/
def Fmt.maxFinite (f : Fmt) : Nat :=
  if f.ieee then (2 ^ f.eb - 1) * 2 ^ f.mb - 1
  else if f.oneNan then 2 ^ (f.eb + f.mb) - 2
  else 2 ^ (f.eb + f.mb) - 1

/-- The pattern of +infinity, for the formats that have it. -/
def Fmt.infPat (f : Fmt) : Nat := (2 ^ f.eb - 1) * 2 ^ f.mb

/-- The canonical NaN (Table 4.2). -/
def Fmt.nanPat (f : Fmt) : Nat :=
  if f.ieee then (2 ^ f.eb - 1) * 2 ^ f.mb + 2 ^ (f.mb - 1) else 2 ^ (f.eb + f.mb) - 1

/-- What a pattern stands for. -/
inductive FVal where
  | nan (signalling : Bool)
  | inf (neg : Bool)
  | fin (neg : Bool) (m : Nat) (e : Int)
  deriving DecidableEq, Repr

/-- The value of a pattern (Tables 4.1, 4.2). -/
def Fmt.decode (f : Fmt) (x : Nat) : FVal :=
  let neg := bitOf x (f.eb + f.mb)
  let ex := bitsOf x (f.eb + f.mb - 1) f.mb
  let mn := x % 2 ^ f.mb
  if f.ieee && ex == 2 ^ f.eb - 1 then
    if mn == 0 then .inf neg else .nan (! bitOf mn (f.mb - 1))
  else if f.oneNan && x % 2 ^ (f.eb + f.mb) == 2 ^ (f.eb + f.mb) - 1 then .nan false
  else if ex == 0 then .fin neg mn f.qMin
  else .fin neg (mn + 2 ^ f.mb) (f.qMin + ex - 1)

/-- `m / 2^s` rounded to an integer, and whether it was inexact; `sticky` says that a nonzero amount below
the last bit of `m` was dropped already (then `s` is at least 2). -/
def roundShift (rm : Rnd) (neg : Bool) (m s : Nat) (sticky : Bool) : Nat × Bool :=
  let q := m / 2 ^ s
  let r := m % 2 ^ s
  let inexact := r != 0 || sticky
  let above := decide (2 * r > 2 ^ s) || (decide (2 * r = 2 ^ s) && decide (0 < r) && sticky)
  let tie := decide (2 * r = 2 ^ s) && decide (0 < r) && !sticky
  let up := match rm with
    | .rne => above || (tie && q % 2 == 1)
    | .rna => above || tie
    | .rtz => false
    | .rup => inexact && !neg
    | .rdn => inexact && neg
    | .sr d => decide (2 ^ (s + 16) ≤ r * 2 ^ 16 + d * 2 ^ s)
  (if up then q + 1 else q, inexact)

/-- The significand of `m * 2^e` rounded to a multiple of `2^q`. -/
def roundTo (rm : Rnd) (neg : Bool) (m : Nat) (e q : Int) (sticky : Bool) : Nat × Bool :=
  if q ≤ e then (m * 2 ^ (e - q).toNat, sticky) else roundShift rm neg m (q - e).toNat sticky

/-- The result of an overflow (Table 4.3, and IEEE 754-2019 for the directed modes). -/
def Fmt.overflowPat (f : Fmt) (rm : Rnd) (neg sat : Bool) : Nat :=
  let s := if neg then f.signBit else 0
  if sat || (!f.ieee && !f.oneNan) then s + f.maxFinite
  else if f.oneNan then s + f.nanPat
  else match rm with
    | .rne | .rna | .sr _ => s + f.infPat
    | .rtz => s + f.maxFinite
    | .rup => if neg then s + f.maxFinite else s + f.infPat
    | .rdn => if neg then s + f.infPat else s + f.maxFinite

/-- The finite value `(-1)^neg * m * 2^e` (plus a dropped nonzero amount if `sticky`) rounded once into `f`,
with the flags of R153 and Table 4.3. Tininess is detected after rounding; `ftz` flushes a subnormal result
to a zero of the same sign and sets FUF and FNX (R155). -/
def Fmt.roundPack (f : Fmt) (rm : Rnd) (sat ftz : Bool) (neg : Bool) (m : Nat) (e : Int)
    (sticky : Bool := false) : Nat × FFlags :=
  let s := if neg then f.signBit else 0
  if m = 0 then (s, {}) else
  let top : Int := e + Nat.log2 m
  let q := max (top - f.mb) f.qMin
  let (n, nx) := roundTo rm neg m e q sticky
  let eminTop := f.qMin + f.mb
  let tiny := decide (top < eminTop) &&
    (let (n', _) := roundTo rm neg m e (top - f.mb) sticky
     decide (top < eminTop - 1) || decide (n' < 2 ^ (f.mb + 1)))
  let pat := if n < 2 ^ f.mb then n
    else if n < 2 ^ (f.mb + 1) then ((q - f.qMin).toNat) * 2 ^ f.mb + n
    else ((q - f.qMin).toNat + 1) * 2 ^ f.mb + n / 2
  if f.maxFinite < pat then (f.overflowPat rm neg sat, { ov := true, nx := true })
  else if ftz && n != 0 && decide (n < 2 ^ f.mb) then (s, { uf := true, nx := true })
  else (s + pat, { uf := tiny && nx, nx := nx })

/-- Integer square root, bit by bit: the largest `r` below `2^n` (added to `acc`) with `r * r ≤ x`. -/
def isqrtBits (x : Nat) : Nat → Nat → Nat
  | 0, acc => acc
  | n + 1, acc =>
    let t := acc + 2 ^ n
    isqrtBits x n (if t * t ≤ x then t else acc)

def isqrt (x : Nat) : Nat := isqrtBits x (Nat.log2 x / 2 + 1) 0

/-- A signed exact integer as sign and magnitude. -/
def signMag (i : Int) : Bool × Nat := (decide (i < 0), i.natAbs)

/-- `(-1)^neg * m` as an integer. -/
def toInt (neg : Bool) (m : Nat) : Int := if neg then - (m : Int) else m

/-! ### Reading operands (R154, R155) -/

/-- The value of an operand, a subnormal read as zero under `ftz` (R155). -/
def Fmt.operand (f : Fmt) (ftz : Bool) (x : Nat) : FVal :=
  match f.decode x with
  | .fin neg m e => if ftz && decide (m < 2 ^ f.mb) then .fin neg 0 e else .fin neg m e
  | v => v

def FVal.isNan : FVal → Bool
  | .nan _ => true
  | _ => false

def FVal.isSnan : FVal → Bool
  | .nan b => b
  | _ => false

def FVal.isZero : FVal → Bool
  | .fin _ m _ => m == 0
  | _ => false

/-- The canonical NaN of R154, with FIV when some operand was signalling. -/
def Fmt.nanOf (f : Fmt) (vs : List FVal) : Nat × FFlags :=
  (f.nanPat, { iv := vs.any FVal.isSnan })

def Fmt.infOf (f : Fmt) (neg : Bool) : Nat := (if neg then f.signBit else 0) + f.infPat

def Fmt.zeroOf (f : Fmt) (neg : Bool) : Nat := if neg then f.signBit else 0

/-- The sign of an exact zero sum (IEEE 754-2019 6.3): the common sign, else minus under RDN only. -/
def zeroSumNeg (rm : Rnd) (a b : Bool) : Bool := if a == b then a else rm == .rdn

/-- The exact sum of two finite values, as sign, magnitude and exponent. -/
def addExact (an : Bool) (am : Nat) (ae : Int) (bn : Bool) (bm : Nat) (be : Int) : Int × Int :=
  let e := min ae be
  (toInt an (am * 2 ^ (ae - e).toNat) + toInt bn (bm * 2 ^ (be - e).toNat), e)

/-- FADD: the correctly rounded sum (R153). -/
def Fmt.add (f : Fmt) (rm : Rnd) (ftz : Bool) (x y : Nat) : Nat × FFlags :=
  let a := f.operand ftz x
  let b := f.operand ftz y
  match a, b with
  | .nan _, _ | _, .nan _ => f.nanOf [a, b]
  | .inf s, .inf t => if s == t then (f.infOf s, {}) else (f.nanPat, { iv := true })
  | .inf s, _ => (f.infOf s, {})
  | _, .inf s => (f.infOf s, {})
  | .fin an am ae, .fin bn bm be =>
    let (sum, e) := addExact an am ae bn bm be
    if sum = 0 then (f.zeroOf (zeroSumNeg rm an bn), {})
    else f.roundPack rm false ftz (signMag sum).1 (signMag sum).2 e

/-- The pattern with its sign flipped. -/
def Fmt.neg (f : Fmt) (x : Nat) : Nat := if bitOf x (f.eb + f.mb) then x - f.signBit else x + f.signBit

/-- FSUB: `a - b`. A NaN operand keeps its quiet or signalling kind under negation. -/
def Fmt.sub (f : Fmt) (rm : Rnd) (ftz : Bool) (x y : Nat) : Nat × FFlags := f.add rm ftz x (f.neg y)

/-- FMUL (R153). -/
def Fmt.mul (f : Fmt) (rm : Rnd) (ftz : Bool) (x y : Nat) : Nat × FFlags :=
  let a := f.operand ftz x
  let b := f.operand ftz y
  match a, b with
  | .nan _, _ | _, .nan _ => f.nanOf [a, b]
  | .inf s, .inf t => (f.infOf (s != t), {})
  | .inf s, .fin t m _ => if m = 0 then (f.nanPat, { iv := true }) else (f.infOf (s != t), {})
  | .fin s m _, .inf t => if m = 0 then (f.nanPat, { iv := true }) else (f.infOf (s != t), {})
  | .fin an am ae, .fin bn bm be => f.roundPack rm false ftz (an != bn) (am * bm) (ae + be)

/-- FFMA: `a * b + c` rounded once (R153). An invalid product with a quiet NaN addend sets FIV too
(DESIGN CHOICE within IEEE 754-2019 7.2, log 20). -/
def Fmt.fma (f : Fmt) (rm : Rnd) (ftz : Bool) (x y z : Nat) : Nat × FFlags :=
  let a := f.operand ftz x
  let b := f.operand ftz y
  let c := f.operand ftz z
  let infZero := match a, b with
    | .inf _, .fin _ m _ => decide (m = 0)
    | .fin _ m _, .inf _ => decide (m = 0)
    | _, _ => false
  if a.isNan || b.isNan || c.isNan then
    (f.nanPat, { iv := a.isSnan || b.isSnan || c.isSnan || infZero })
  else if infZero then (f.nanPat, { iv := true })
  else
    let sgn : FVal → Bool
      | .inf s => s
      | .fin s _ _ => s
      | .nan _ => false
    let isInf : FVal → Bool
      | .inf _ => true
      | _ => false
    let ps := sgn a != sgn b
    if isInf a || isInf b then
      if isInf c && sgn c != ps then (f.nanPat, { iv := true }) else (f.infOf ps, {})
    else match a, b, c with
      | _, _, .inf s => (f.infOf s, {})
      | .fin _ am ae, .fin _ bm be, .fin cn cm ce =>
        let (sum, e) := addExact ps (am * bm) (ae + be) cn cm ce
        if sum = 0 then (f.zeroOf (zeroSumNeg rm ps cn), {})
        else f.roundPack rm false ftz (signMag sum).1 (signMag sum).2 e
      | _, _, _ => (f.nanPat, {})

/-- FDIV (R153). The quotient carries 2 bits more than the format, and a sticky bit. -/
def Fmt.div (f : Fmt) (rm : Rnd) (ftz : Bool) (x y : Nat) : Nat × FFlags :=
  let a := f.operand ftz x
  let b := f.operand ftz y
  match a, b with
  | .nan _, _ | _, .nan _ => f.nanOf [a, b]
  | .inf _, .inf _ => (f.nanPat, { iv := true })
  | .inf s, .fin t _ _ => (f.infOf (s != t), {})
  | .fin s _ _, .inf t => (f.zeroOf (s != t), {})
  | .fin an am ae, .fin bn bm be =>
    if bm = 0 then
      if am = 0 then (f.nanPat, { iv := true }) else (f.infOf (an != bn), { dz := true })
    else if am = 0 then (f.zeroOf (an != bn), {})
    else
      let k := f.mb + 4 + Nat.log2 bm
      let num := am * 2 ^ k
      f.roundPack rm false ftz (an != bn) (num / bm) (ae - be - k) (num % bm != 0)

/-- FSQRT (R153). The root of -0 is -0. -/
def Fmt.sqrt (f : Fmt) (rm : Rnd) (ftz : Bool) (x : Nat) : Nat × FFlags :=
  let a := f.operand ftz x
  match a with
  | .nan _ => f.nanOf [a]
  | .inf s => if s then (f.nanPat, { iv := true }) else (f.infOf false, {})
  | .fin s m e =>
    if m = 0 then (f.zeroOf s, {})
    else if s then (f.nanPat, { iv := true })
    else
      let k := 2 * (f.mb + 3) + (if e % 2 = 0 then 0 else 1)
      let y := m * 2 ^ k
      let r := isqrt y
      f.roundPack rm false ftz false r ((e - k) / 2) (r * r != y)

/-- The order of two numbers: compares exact values; -0 equals +0. -/
def FVal.cmp : FVal → FVal → Ordering
  | .nan _, _ | _, .nan _ => .eq
  | .inf s, .inf t => if s == t then .eq else if s then .lt else .gt
  | .inf s, .fin .. => if s then .lt else .gt
  | .fin .., .inf s => if s then .gt else .lt
  | .fin an am ae, .fin bn bm be =>
    let d := (addExact an am ae (!bn) bm be).1
    if d < 0 then .lt else if d = 0 then .eq else .gt

def FVal.isNeg : FVal → Bool
  | .inf s => s
  | .fin s _ _ => s
  | .nan _ => false

/-- FMIN and FMAX: minimumNumber and maximumNumber, -0 below +0 (R156). -/
def Fmt.minMax (f : Fmt) (isMax ftz : Bool) (x y : Nat) : Nat × FFlags :=
  let a := f.operand ftz x
  let b := f.operand ftz y
  let fl : FFlags := { iv := a.isSnan || b.isSnan }
  let pat (v : FVal) (w : Nat) : Nat := if v.isZero then f.zeroOf v.isNeg else w
  if a.isNan && b.isNan then (f.nanPat, fl)
  else if a.isNan then (pat b y, fl)
  else if b.isNan then (pat a x, fl)
  else
    let aLess := match a.cmp b with
      | .lt => true
      | .gt => false
      | .eq => a.isNeg && !b.isNeg
    if aLess == isMax then (pat b y, fl) else (pat a x, fl)

/-- FCLASS: one of ten class bits (R157). FCLASS does not flush (R155). -/
def Fmt.classMask (f : Fmt) (x : Nat) : Nat :=
  match f.decode x with
  | .nan true => 1
  | .nan false => 2
  | .inf true => 4
  | .inf false => 512
  | .fin neg m _ =>
    if m = 0 then (if neg then 32 else 64)
    else if m < 2 ^ f.mb then (if neg then 16 else 128)
    else (if neg then 8 else 256)

/-- Conversion into a narrower format, or from an integer: Table 4.3 (R181). -/
def Fmt.convert (f : Fmt) (rm : Rnd) (sat ftzOut : Bool) (v : FVal) : Nat × FFlags :=
  match v with
  | .nan s => (f.nanPat, { iv := s })
  | .inf neg =>
    let s := if neg then f.signBit else 0
    if f.ieee then (s + f.infPat, {})
    else if sat then (s + f.maxFinite, { iv := true })
    else (s + f.nanPat, { iv := true })
  | .fin neg m e =>
    if m = 0 then (f.zeroOf neg, {}) else f.roundPack rm sat ftzOut neg m e

/-- Floating to integer (Table 3.10): NaN gives 0 and FIV; out of range clamps and sets FIV; inexact sets
FNX. `lo` and `hi` bound the target type. -/
def toIntConv (rm : Rnd) (lo hi : Int) (v : FVal) : Int × FFlags :=
  match v with
  | .nan _ => (0, { iv := true })
  | .inf s => (if s then lo else hi, { iv := true })
  | .fin neg m e =>
    let (n, nx) := roundTo rm neg m e 0 false
    let i := toInt neg n
    if hi < i then (hi, { iv := true }) else if i < lo then (lo, { iv := true })
    else (i, { nx := nx })

/-- R183: the 16 random bits of one stochastic rounding. -/
def srBits (key block clause index ctr : Nat) : Nat :=
  let M := 2 ^ 64
  let z := Nat.xor key (block * 0x9E3779B97F4A7C15 % M)
  let z := Nat.xor (Nat.xor (Nat.xor z ctr) (index * 2 ^ 32 % M)) (clause * 2 ^ 48 % M)
  let z := Nat.xor z (z / 2 ^ 30) * 0xBF58476D1CE4E5B9 % M
  let z := Nat.xor z (z / 2 ^ 27) * 0x94D049BB133111EB % M
  let z := Nat.xor z (z / 2 ^ 31)
  z % 2 ^ 16

end Sys2Proof.Machine
end

