-- ==== Sys2Proof/Machine/Flags.lean ====
section
/-! DEFINITION. The status word of Table 3.6 and the flag computations of the Atset integer and
floating-point instructions (spec/03 R131, R132, R137 to R141, R153). -/

namespace Sys2Proof.Machine

/-- What an instruction does to a status word: C and V only where it writes them, sticky bits only set. -/
structure FlagEff where
  c : Option Bool := none
  v : Option Bool := none
  idz : Bool := false
  fp : FFlags := {}
  deriving DecidableEq, Repr

/-- The bits a status word can hold; the others are reserved and read as 0. -/
def statusMask : W32 := 0x1F0303

def setIf (b : Bool) (i : Nat) (st : W32) : W32 := if b then st ||| (1 <<< i) else st

/-- A status word after an instruction's flags are merged (R132): IOV is set with every V = 1. -/
def FlagEff.apply (f : FlagEff) (st : W32) : W32 :=
  let st := match f.c with
    | none => st
    | some b => (st &&& ~~~1) ||| (if b then 1 else 0)
  let st := match f.v with
    | none => st
    | some b => (st &&& ~~~2) ||| (if b then 2 else 0)
  let st := setIf (f.v == some true) 8 st
  let st := setIf f.idz 9 st
  let st := setIf f.fp.iv 16 st
  let st := setIf f.fp.dz 17 st
  let st := setIf f.fp.ov 18 st
  let st := setIf f.fp.uf 19 st
  setIf f.fp.nx 20 st

/-- The result of an integer operation whose exact value is `x`, in a type of `w` bits: it wraps, or clamps
when `sat`; also whether `x` was outside the range of the type (R137). -/
def intResult (w : Nat) (signed sat : Bool) (x : Int) : Nat × Bool :=
  let lo : Int := if signed then -(2 ^ (w - 1) : Nat) else 0
  let hi : Int := if signed then (2 ^ (w - 1) : Nat) - 1 else (2 ^ w : Nat) - 1
  let out := decide (x < lo) || decide (hi < x)
  let y := if sat && out then (if x < lo then lo else hi) else x
  ((y % (2 ^ w : Nat)).toNat, out)

/-- An operand of `w` bits read as signed or unsigned. -/
def intVal (w : Nat) (signed : Bool) (x : Nat) : Int :=
  if signed && bitOf x (w - 1) then (x : Int) - (2 ^ w : Nat) else x

end Sys2Proof.Machine
end

