-- ==== Sys2Proof/Config.lean ====
section
/-! DEFINITION. What an implementation fixes and what the spec leaves open, as constants without a body:
no proof can see a value of any of them, so a claim holds whatever they are (log 3, 8, 9, 10, 11, 15). -/

namespace Sys2Proof

/-- A free value: the number drawn at a count. `State.freeCtr` counts the draws (log 3). -/
opaque Config.free : Nat → Nat

/-- The bits of EXP2 for an input; used only within the error bound of R158 (log 11). -/
opaque Config.exp2Bits : W32 → W32
opaque Config.log2Bits : W32 → W32
opaque Config.rcpBits : W32 → W32
opaque Config.rsqBits : W32 → W32
opaque Config.tanhBits : W32 → W32

/-- The bits of an exponential of SMXSTEP, 2^(v - m'), for v and m'; used only within the error bound of R158 (R216; log 11). -/
opaque Config.smxExp2Bits : W32 → W32 → W32

/-- The rescale factor of SMXSTEP when the running maximum is +infinity and the score is not: no rule gives
2^(∞ - ∞) (R216, Table 4.11; log 20). -/
opaque Config.smxAlpha : W32 → W32

/-- The keyed permutation F of the slice hash (R228): its rounds are not given (log 8). -/
opaque Config.hashF : W128 → W64 → W64

/-- The hash that picks a port for a message: source module, source partition, tag, segment (R421; log 9). -/
opaque Config.routeHash : Nat → Nat → Nat → Nat → Nat

/-- The AES-GCM-256 authentication tag: key, the bytes of the nonce, associated data, ciphertext (R419, R567; log 10). -/
opaque Config.gcmTag : Nat → List Byte → List Byte → List Byte → W128

/-- AES-GCM-256 encryption and decryption of data: key, the bytes of the nonce, data (R419; log 10). -/
opaque Config.gcmSeal : Nat → List Byte → List Byte → List Byte
opaque Config.gcmOpen : Nat → List Byte → List Byte → List Byte

/-- AES-XTS-256 encryption and decryption of a data unit of 32 bytes: key pair, tweak, bytes (R563; log 10). -/
opaque Config.xtsSeal : Nat → W128 → List Byte → List Byte
opaque Config.xtsOpen : Nat → W128 → List Byte → List Byte

/-- The SHA-384 hash (R547, R552; log 10). -/
opaque Config.sha384 : List Byte → Nat

/-- The SHA-384 hash of a component's image as shipped, by its index in Table 12.1 (log 15). -/
opaque Config.imageHash : Nat → BitVec 384

/-- The module's serial number (Table 15.4; log 15). -/
opaque Config.serial : W64

/-- The unique device secret that stands in the fuses (R552; log 15). -/
opaque Config.deviceSecret : Nat

/-- A key pair's private part derived from a secret or a private key and a measurement, after TCG DICE; the public part of an ECDSA P-384
key pair; and a signature with a private key (R552, R553; log 10). -/
opaque Config.deriveKey : Nat → Nat → Nat
opaque Config.p384Pub : Nat → Nat
opaque Config.p384Sign : Nat → List Byte → Nat

/-- The certificates of slot 0 that were issued before boot: Dydacon root, Kaztun intermediate, device (R552; log 15). -/
opaque Config.issuedCert : Nat → List Byte

/-- The alias certificate: the identity key that signs it, the alias public key, the measurements of indices 1 to 3 and whether test modes
are unlocked (R552, R581; log 10). -/
opaque Config.aliasCert : Nat → Nat → List Nat → Bool → List Byte

/-- A nonce of an SPDM session or challenge from its drawn seed, by its count (R551; log 10). -/
opaque Config.spdmNonce : Nat → Nat → Nat

/-- A word of the service record's 4 KiB summary, whose layout R635 does not give: from the record, by its index (log 10). -/
opaque Config.svcSummary : List Byte → Nat → W64

/-- The fault-free self-test signature for a kind and a seed (R625; log 10). -/
opaque Config.bistSig : Nat → W16 → W64

end Sys2Proof
end

