-- ==== Sys2Proof/Machine/Special.lean ====
section
/-! DEFINITION. EXP2, LOG2, RCP, RSQ and TANH (spec/03 R158). The bits are free within the stated bound:
the implementation's bits (`Config`) are taken when they lie within the bound of an exact reference, computed
here with integers, and the correctly rounded reference stands otherwise (log 11). -/

namespace Sys2Proof.Machine

/-- A positive real reference: `m * 2^e`, with a relative error far below one f32 ulp. -/
structure Ref where
  m : Nat
  e : Int
  exact : Bool
  deriving DecidableEq, Repr

/-- The exponent of one ulp of f32 at the magnitude of the reference, subnormal spacing included. -/
def Ref.ulpExp (r : Ref) : Int := max (r.e + Nat.log2 r.m - 23) fmtF32.qMin

/-- Whether the finite f32 pattern `w` has sign `neg` and lies within `k` ulp of the reference. -/
def Ref.within (r : Ref) (neg : Bool) (k : Nat) (w : Nat) : Bool :=
  match fmtF32.decode w with
  | .fin s m e =>
    let (d, q) := addExact false m e true r.m r.e
    decide ((s == neg) = true) && decide (d.natAbs * 2 ^ (q - min q r.ulpExp).toNat
      ≤ k * 2 ^ (r.ulpExp - min q r.ulpExp).toNat)
  | _ => false

/-- The result for a reference: the free bits within `k` ulp, else the RNE rounding; flags of the exact
result (FNX unless exact, FUF on tiny and inexact, FOF beyond range). Under ftz free bits that are subnormal are flushed too (R155). -/
def Ref.result (r : Ref) (ftz neg : Bool) (k : Nat) (free : Nat) : Nat × FFlags :=
  let (p, fl) := fmtF32.roundPack .rne false ftz neg (r.m * 4 + b2n (! r.exact)) (r.e - 2)
  let fl := { fl with nx := fl.nx || !r.exact }
  if fl.ov || p % 2 ^ 31 == 0 || (ftz && fl.uf) then (p, fl)
  else if r.within neg k free then
    (if ftz && decide (free % 2 ^ 31 < 2 ^ 23) then (fmtF32.zeroOf neg, { fl with uf := true, nx := true }) else (free, fl))
  else (p, fl)

/-- 2^(2^-i) for i = 1, 2, … with 128 fraction bits, by repeated square roots, multiplied in where the
fraction `f` (64 bits, most significant first) has a one. -/
def exp2Frac : Nat → Nat → Nat → Nat → Nat
  | 0, _, _, acc => acc
  | n + 1, f, c, acc =>
    let c' := isqrt (c * 2 ^ 128)
    exp2Frac n (f * 2 % 2 ^ 64) c' (if f / 2 ^ 63 % 2 = 1 then acc * c' / 2 ^ 128 else acc)

/-- 2^(num / 2^128) as a reference, for a signed fixed-point exponent. -/
def exp2Ref (x : Int) : Ref :=
  let n := x / 2 ^ 128
  let f := (x % 2 ^ 128).toNat
  if f = 0 then ⟨1, n, true⟩
  else ⟨exp2Frac 64 (f / 2 ^ 64) (2 ^ 129) (2 ^ 128), n - 128, false⟩

/-- `(-1)^neg * m * 2^e` in fixed point with 128 fraction bits, truncated toward zero. -/
def toFix (neg : Bool) (m : Nat) (e : Int) : Int :=
  let e' := e + 128
  toInt neg (if 0 ≤ e' then m * 2 ^ e'.toNat else m / 2 ^ (-e').toNat)

/-- 2^x for the exact value x = `(-1)^neg * m * 2^e`, with the implementation's bits for it. -/
def exp2Of (ftz neg : Bool) (m : Nat) (e : Int) (free : W32) : Nat × FFlags :=
  if m = 0 then (0x3F800000, {})
  else if 9 ≤ e + Nat.log2 m then
    -- |x| ≥ 512: beyond every f32 exponent
    fmtF32.roundPack .rne false ftz false 1 (if neg then -400 else 400)
  else
    let r := exp2Ref (toFix neg m e)
    -- bits of x below the 128 fraction bits that are kept
    let lost := decide (e < -128) && m % 2 ^ (-128 - e).toNat != 0
    { r with exact := r.exact && !lost }.result ftz false 2 free.toNat

def spExp2 (ftz : Bool) (x : Nat) : Nat × FFlags :=
  match fmtF32.operand ftz x with
  | .nan s => fmtF32.nanOf [.nan s]
  | .inf s => (if s then 0 else fmtF32.infPat, {})
  | .fin neg m e => exp2Of ftz neg m e (Config.exp2Bits (BitVec.ofNat 32 x))

/-- The first `n` fraction bits of log2 of `y / 2^192`, for `y` in [1, 2). -/
def log2Frac : Nat → Nat → Nat → Nat
  | 0, _, acc => acc
  | n + 1, y, acc =>
    let y2 := y * y / 2 ^ 192
    if 2 ^ 193 ≤ y2 then log2Frac n (y2 / 2) (acc * 2 + 1) else log2Frac n y2 (acc * 2)

def spLog2 (ftz : Bool) (x : Nat) : Nat × FFlags :=
  match fmtF32.operand ftz x with
  | .nan s => fmtF32.nanOf [.nan s]
  | .inf s => if s then (fmtF32.nanPat, { iv := true }) else (fmtF32.infPat, {})
  | .fin neg m e =>
    if m = 0 then (fmtF32.infOf true, { dz := true })
    else if neg then (fmtF32.nanPat, { iv := true })
    else
      let k := Nat.log2 m
      let fr := log2Frac 80 (m * 2 ^ (192 - k)) 0
      let v : Int := (e + k) * 2 ^ 80 + fr
      let (s, mag) := signMag v
      if mag = 0 then (0, {})
      else (Ref.mk mag (-80) (m == 2 ^ k)).result ftz s 2 (Config.log2Bits (BitVec.ofNat 32 x)).toNat

def spRcp (ftz : Bool) (x : Nat) : Nat × FFlags :=
  match fmtF32.operand ftz x with
  | .nan s => fmtF32.nanOf [.nan s]
  | .inf s => (fmtF32.zeroOf s, {})
  | .fin neg m e =>
    if m = 0 then (fmtF32.infOf neg, { dz := true })
    else (Ref.mk (2 ^ 128 / m) (-128 - e) (2 ^ 128 % m == 0)).result ftz neg 1
      (Config.rcpBits (BitVec.ofNat 32 x)).toNat

def spRsq (ftz : Bool) (x : Nat) : Nat × FFlags :=
  match fmtF32.operand ftz x with
  | .nan s => fmtF32.nanOf [.nan s]
  | .inf s => if s then (fmtF32.nanPat, { iv := true }) else (0, {})
  | .fin neg m e =>
    if m = 0 then (fmtF32.infOf neg, { dz := true })
    else if neg then (fmtF32.nanPat, { iv := true })
    else
      let odd : Nat := if e % 2 = 0 then 0 else 1
      let q := 2 ^ (256 - odd) / m
      let r := isqrt q
      (Ref.mk r ((-e + odd - 256) / 2) (r * r * m == 2 ^ (256 - odd))).result ftz false 2
        (Config.rsqBits (BitVec.ofNat 32 x)).toNat

/-- log2(e) with 128 fraction bits. -/
def log2e : Nat := 490923683258796565746369346286093237521

def spTanh (ftz : Bool) (x : Nat) : Nat × FFlags :=
  let free := (Config.tanhBits (BitVec.ofNat 32 x)).toNat
  match fmtF32.operand ftz x with
  | .nan s => fmtF32.nanOf [.nan s]
  | .inf s => (Ref.mk 1 0 true).result ftz s 2 free
  | .fin neg m e =>
    if m = 0 then (fmtF32.zeroOf neg, {})
    else if e + Nat.log2 m < -30 then
      -- tanh x = x - x^3/3 + …: below x by less than 2^-60 of it
      (Ref.mk (m * 2 ^ 60 - 1) (e - 60) false).result ftz neg 2 free
    else if 5 ≤ e + Nat.log2 m then
      (Ref.mk (2 ^ 60 - 1) (-60) false).result ftz neg 2 free
    else
      let t := exp2Ref (2 * toFix false m e * log2e / 2 ^ 128)
      -- (t - 1) / (t + 1), t = m' * 2^e' with e' negative or the exponent of a whole number
      let tf : Nat := if 0 ≤ t.e + 128 then t.m * 2 ^ (t.e + 128).toNat else t.m / 2 ^ (-(t.e + 128)).toNat
      let one := 2 ^ 128
      (Ref.mk ((tf - one) * 2 ^ 128 / (tf + one)) (-128) false).result ftz neg 2 free

end Sys2Proof.Machine
end

