-- ==== Sys2Proof/Machine/Alu.lean ====
section
/-! DEFINITION. What each Atset instruction of classes 0x0 to 0x8 computes in one lane, from numbers to a
number and flags (spec/03 R137 to R158, spec/04 R181 to R185, R216 to R218). Registers and lanes are the
business of Machine/Operands.lean. -/

namespace Sys2Proof.Machine

/-- The operands of one lane: `w` is the width of the type, values are unsigned numbers. -/
structure AluIn where
  w : Nat := 32
  sg : Bool := false
  a : Nat := 0
  b : Nat := 0
  c : Nat := 0
  sat : Bool := false
  cin : Bool := false
  rm : Rnd := .rne
  ftz32 : Bool := false
  ftz64 : Bool := false
  aux : Nat := 0
  ty : Nat := 0
  deriving DecidableEq, Repr

abbrev AluOut := Nat × FlagEff

def plain (x : Nat) : AluOut := (x, {})

namespace AluIn
variable (i : AluIn)
def va : Int := intVal i.w i.sg i.a
def vb : Int := intVal i.w i.sg i.b
def vc : Int := intVal i.w i.sg i.c
/-- a number reduced to the width of the type -/
def trunc (x : Nat) : AluOut := (x % 2 ^ i.w, {})
def fmt : Fmt := if i.w = 64 then fmtF64 else fmtF32
def ftz : Bool := if i.w = 64 then i.ftz64 else i.ftz32
end AluIn

/-! ### Integer arithmetic (R137 to R141) -/

/-- A sum `a + b + carry`, with C and V as R138 gives them. -/
def aluSum (i : AluIn) (cin : Bool) : AluOut :=
  let (r, out) := intResult i.w i.sg i.sat (i.va + i.vb + b2n cin)
  let carry := decide (2 ^ i.w ≤ i.a + i.b + b2n cin)
  (r, { c := some carry, v := some out })

def aluDiff (i : AluIn) (cin : Bool) : AluOut :=
  let (r, out) := intResult i.w i.sg i.sat (i.va - i.vb - b2n cin)
  let borrow := decide (i.a < i.b + b2n cin)
  (r, { c := some borrow, v := some out })

def aluIadd (i : AluIn) : AluOut := aluSum i false
def aluIaddc (i : AluIn) : AluOut := aluSum i i.cin
def aluIsub (i : AluIn) : AluOut := aluDiff i false
def aluIsubb (i : AluIn) : AluOut := aluDiff i i.cin

def aluIneg (i : AluIn) : AluOut :=
  let (r, out) := intResult i.w i.sg i.sat (-i.va)
  (r, { v := some out })

def aluIabs (i : AluIn) : AluOut :=
  let (r, out) := intResult i.w i.sg i.sat i.va.natAbs
  (r, { v := some out })

def aluImin (i : AluIn) : AluOut := plain (if i.vb < i.va then i.b else i.a)
def aluImax (i : AluIn) : AluOut := plain (if i.va < i.vb then i.b else i.a)

def aluImul (i : AluIn) : AluOut :=
  let (r, out) := intResult i.w i.sg i.sat (i.va * i.vb)
  (r, { c := some false, v := some out })

def aluImulh (i : AluIn) : AluOut := plain ((i.va * i.vb % (2 ^ (2 * i.w) : Nat)).toNat / 2 ^ i.w)
def aluImulw (i : AluIn) : AluOut := plain (i.va * i.vb % (2 ^ 64 : Nat)).toNat
def aluImad (i : AluIn) : AluOut := i.trunc (i.a * i.b + i.c)

/-- Whether a signed division is MIN by -1. -/
def AluIn.minByMinus1 (i : AluIn) : Bool := i.sg && i.a == 2 ^ (i.w - 1) && i.b == 2 ^ i.w - 1

def aluIdiv (i : AluIn) : AluOut :=
  if i.b = 0 then (2 ^ i.w - 1, { v := some false, idz := true })
  else if i.minByMinus1 then (i.a, { v := some true })
  else ((i.va.tdiv i.vb % (2 ^ i.w : Nat)).toNat, { v := some false })

def aluIrem (i : AluIn) : AluOut :=
  if i.b = 0 then (i.a, { v := some false, idz := true })
  else if i.minByMinus1 then (0, { v := some true })
  else ((i.va.tmod i.vb % (2 ^ i.w : Nat)).toNat, { v := some false })

/-! ### Logical and bit operations, shifts (R142 to R145) -/

def aluAnd (i : AluIn) : AluOut := plain (Nat.land i.a i.b)
def aluOr (i : AluIn) : AluOut := plain (Nat.lor i.a i.b)
def aluXor (i : AluIn) : AluOut := plain (Nat.xor i.a i.b)
def aluAndn (i : AluIn) : AluOut := plain (Nat.land i.a (2 ^ i.w - 1 - i.b))
def aluNot (i : AluIn) : AluOut := plain (2 ^ i.w - 1 - i.a)
def aluPopc (i : AluIn) : AluOut := plain ((List.range i.w).filter (bitOf i.a)).length
def aluClz (i : AluIn) : AluOut := plain (if i.a = 0 then i.w else i.w - 1 - Nat.log2 i.a)

def aluCtz (i : AluIn) : AluOut := plain (((List.range i.w).find? (bitOf i.a)).getD i.w)

def aluBrev (i : AluIn) : AluOut :=
  plain ((List.range i.w).foldl (fun r k => 2 * r + b2n (bitOf i.a k)) 0)

def aluBfe (i : AluIn) : AluOut :=
  if i.w ≤ i.b ∨ i.c = 0 then plain 0
  else
    let n := min i.c (i.w - i.b)
    let x := i.a / 2 ^ i.b % 2 ^ n
    plain (if i.sg && bitOf x (n - 1) then 2 ^ i.w - 2 ^ n + x else x)

def aluBfi (i : AluIn) : AluOut :=
  let start := bitsOf i.c 15 0
  let len := bitsOf i.c 31 16
  if i.w ≤ start ∨ len = 0 then plain i.a
  else plain (bitsPut i.a (start + min len (i.w - start) - 1) start i.b)

def aluPrmt (i : AluIn) : AluOut :=
  let src := i.a + 2 ^ 32 * i.b
  let byte (k : Nat) : Nat :=
    let x := src / 2 ^ (8 * bitsOf i.c (4 * k + 2) (4 * k)) % 256
    if bitOf i.c (4 * k + 3) then (if bitOf x 7 then 255 else 0) else x
  plain (byte 0 + 2 ^ 8 * byte 1 + 2 ^ 16 * byte 2 + 2 ^ 24 * byte 3)

def aluShl (i : AluIn) : AluOut := if i.w ≤ i.b then plain 0 else i.trunc (i.a * 2 ^ i.b)
def aluShr (i : AluIn) : AluOut := if i.w ≤ i.b then plain 0 else plain (i.a / 2 ^ i.b)

def aluSar (i : AluIn) : AluOut :=
  plain (i.va / (2 ^ min i.b i.w : Nat) % (2 ^ i.w : Nat)).toNat

/-! ### Compare (R146, Table 3.9): 1 for true -/

/-- Conditions EQ, NE, LT, LE, GT, GE over an ordering. -/
def condOrd (aux : Nat) (o : Ordering) : Bool :=
  match aux with
  | 0 => o == .eq
  | 1 => o != .eq
  | 2 => o == .lt
  | 3 => o != .gt
  | 4 => o == .gt
  | _ => o != .lt

def aluSetp (i : AluIn) : AluOut :=
  if i.ty < 8 then (b2n (condOrd i.aux (compare i.va i.vb)), {})
  else
    let x := i.fmt.decode i.a
    let y := i.fmt.decode i.b
    let un := x.isNan || y.isNan
    let o := x.cmp y
    let r := match i.aux with
      | 6 => !un
      | 7 => un
      | 8 => un || o == .lt
      | 9 => un || o != .gt
      | 10 => un || o == .gt
      | 11 => un || o != .lt
      | 12 => un || o == .eq
      | 1 => un || o != .eq
      | n => !un && condOrd n o
    let signals := x.isSnan || y.isSnan || (un && decide (2 ≤ i.aux) && decide (i.aux ≤ 5))
    (b2n r, { fp := { iv := signals } })

/-! ### Floating point (R153 to R158) -/

def fpOut (r : Nat × FFlags) : AluOut := (r.1, { fp := r.2 })

def aluFadd (i : AluIn) : AluOut := fpOut (i.fmt.add i.rm i.ftz i.a i.b)
def aluFsub (i : AluIn) : AluOut := fpOut (i.fmt.sub i.rm i.ftz i.a i.b)
def aluFmul (i : AluIn) : AluOut := fpOut (i.fmt.mul i.rm i.ftz i.a i.b)
def aluFfma (i : AluIn) : AluOut := fpOut (i.fmt.fma i.rm i.ftz i.a i.b i.c)
def aluFdiv (i : AluIn) : AluOut := fpOut (i.fmt.div i.rm i.ftz i.a i.b)
def aluFsqrt (i : AluIn) : AluOut := fpOut (i.fmt.sqrt i.rm i.ftz i.a)
def aluFmin (i : AluIn) : AluOut := fpOut (i.fmt.minMax false i.ftz i.a i.b)
def aluFmax (i : AluIn) : AluOut := fpOut (i.fmt.minMax true i.ftz i.a i.b)
def aluFabs (i : AluIn) : AluOut := plain (i.a % i.fmt.signBit)
def aluFneg (i : AluIn) : AluOut := plain (i.fmt.neg i.a)
def aluFclass (i : AluIn) : AluOut := plain (i.fmt.classMask i.a)
def aluExp2 (i : AluIn) : AluOut := fpOut (spExp2 i.ftz32 i.a)
def aluLog2 (i : AluIn) : AluOut := fpOut (spLog2 i.ftz32 i.a)
def aluRcp (i : AluIn) : AluOut := fpOut (spRcp i.ftz32 i.a)
def aluRsq (i : AluIn) : AluOut := fpOut (spRsq i.ftz32 i.a)
def aluTanh (i : AluIn) : AluOut := fpOut (spTanh i.ftz32 i.a)

/-! ### Conversion (R150, R151, R181 to R185) -/

/-- The width in bits of a type of Table 3.4. -/
def tyBits (ty : Nat) : Nat :=
  match ty with
  | 2 | 3 | 9 => 64
  | 4 | 5 | 10 | 11 => 16
  | 6 | 7 | 12 | 13 => 8
  | _ => 32

def tyIsFloat (ty : Nat) : Bool := decide (8 ≤ ty)

/-- Signed integer types have odd codes (Table 3.4). -/
def tySigned (ty : Nat) : Bool := decide (ty < 8) && ty % 2 == 1

def tyFmt (ty : Nat) : Fmt :=
  match ty with
  | 9 => fmtF64
  | 10 => fmtF16
  | 11 => fmtBf16
  | 12 => fmtE4m3
  | 13 => fmtE5m2
  | _ => fmtF32

/-- R150: whether the floating type `a` holds every value of another floating type `b`. -/
def tyWider (a b : Nat) : Bool :=
  a != b && (a == 9 || (a == 8 && b != 9) || ((a == 10 || a == 11) && (b == 12 || b == 13)))

/-- R150: a conversion to a narrower floating-point type. -/
def cvtNarrows (src dst : Nat) : Bool := tyIsFloat src && tyIsFloat dst && src != dst && !tyWider dst src

/-- CVT of `a` from the type `aux` to the type `ty`. -/
def aluCvt (i : AluIn) : AluOut :=
  let sw := tyBits i.aux
  let x := i.a % 2 ^ sw
  let dw := tyBits i.ty
  let ftzOf (t : Nat) : Bool := (t == 8 && i.ftz32) || (t == 9 && i.ftz64)
  if tyIsFloat i.aux then
    let v := (tyFmt i.aux).operand (ftzOf i.aux) x
    if tyIsFloat i.ty then
      if cvtNarrows i.aux i.ty then fpOut ((tyFmt i.ty).convert i.rm i.sat (i.ty == 8 && i.ftz32) v)
      else fpOut ((tyFmt i.ty).convert .rne false (ftzOf i.ty) v)
    else
      let sg := tySigned i.ty
      let lo : Int := if sg then -(2 ^ (dw - 1) : Nat) else 0
      let hi : Int := if sg then (2 ^ (dw - 1) : Nat) - 1 else (2 ^ dw : Nat) - 1
      let (r, fl) := toIntConv i.rm lo hi v
      ((r % (2 ^ dw : Nat)).toNat, { fp := fl })
  else
    let n := intVal sw (tySigned i.aux) x
    if tyIsFloat i.ty then
      let (neg, m) := signMag n
      fpOut ((tyFmt i.ty).convert i.rm i.sat false (.fin neg m 0))
    else
      let (r, out) := intResult dw (tySigned i.ty) i.sat n
      (r, { v := some (i.sat && out) })

/-! ### Softmax and masks (R216 to R218) -/

/-- A value that a row of Table 4.11 passes on: a subnormal reads as zero under ftz32 (R155), and every NaN is canonical (R154). -/
def smxPass (ftz : Bool) (x : Nat) : Nat :=
  match fmtF32.operand ftz x with
  | .nan _ => fmtF32.nanPat
  | .fin neg 0 _ => fmtF32.zeroOf neg
  | _ => x

/-- The α for which the spec gives no value, as a result: canonical where it is a NaN (R154), and a subnormal flushed with its flags under
ftz32 (R155). -/
def smxFree (ftz : Bool) (y : Nat) : Nat × FFlags :=
  let x := (Config.smxAlpha (BitVec.ofNat 32 y)).toNat
  match fmtF32.decode x with
  | .nan _ => (fmtF32.nanPat, {})
  | .fin neg m _ => if ftz && m != 0 && decide (m < 2 ^ 23) then (fmtF32.zeroOf neg, { uf := true, nx := true }) else (x, {})
  | .inf _ => (x, {})

/-- An exponential of SMXSTEP: 2 to the exact difference of the operand `v` and the new maximum, with the error of EXP2 (R216,
R158). -/
def smxExp2 (ftz : Bool) (v m' : Nat) : Nat × FFlags :=
  match fmtF32.operand ftz v, fmtF32.operand ftz m' with
  | .fin an am ae, .fin bn bm be =>
    let (d, e) := addExact an am ae (!bn) bm be
    exp2Of ftz (signMag d).1 (signMag d).2 e (Config.smxExp2Bits (BitVec.ofNat 32 v) (BitVec.ofNat 32 m'))
  | _, _ => (0, {})

/-- One step of SMXSTEP: the state (m, l), the other maximum `y`, and what is added at weight p: the one of
an update, or the other sum of a merge. Answers m', l', p, α. A maximum of +∞ with a -∞ for `y` is in no row of Table 4.11; it is taken
as the row x = -∞ (DESIGN CHOICE, log 20). -/
def smxStep (ftz : Bool) (m l y add : Nat) (merge : Bool) : (Nat × Nat × Nat × Nat) × FFlags :=
  let f := fmtF32
  let one := 0x3F800000
  let vm := f.operand ftz m
  let vy := f.operand ftz y
  let nan := f.nanPat
  let pinf := f.infPat
  let quiet : FFlags := { iv := vm.isSnan || vy.isSnan || (f.decode l).isSnan ||
    (merge && (f.decode add).isSnan) }
  if vm.isNan || vy.isNan then ((nan, nan, nan, nan), quiet)
  else if vy == .inf true then
    ((smxPass ftz m, smxPass ftz l, 0, one), quiet)
  else if vm == .inf true then
    ((smxPass ftz y, if merge then smxPass ftz add else one, one, 0), quiet)
  else if vy == .inf false then
    if vm == .inf false then
      ((pinf, (f.add .rne ftz l (if merge then add else one)).1, one, one), quiet)
    else ((pinf, if merge then smxPass ftz add else one, one, 0), quiet)
  else
    let (m', _) := f.minMax true ftz m y
    -- m = +∞ above a lesser y: the spec gives no value of 2^(∞ - ∞), so α is free (log 20)
    let al := if vm == .inf false then smxFree ftz y else smxExp2 ftz m m'
    let p := smxExp2 ftz y m'
    -- l' = l * α + p (or + l2 * p), rounded once
    let va := f.operand ftz l
    let vb := f.operand ftz al.1
    let vc := f.operand ftz (if merge then add else one)
    let vd := f.operand ftz p.1
    let l' := match va, vb, vc, vd with
      | .fin an am ae, .fin bn bm be, .fin cn cm ce, .fin dn dm' de =>
        let (s, e) := addExact (an != bn) (am * bm) (ae + be) (cn != dn) (cm * dm') (ce + de)
        if s = 0 then (f.zeroOf (zeroSumNeg .rne (an != bn) (cn != dn)), ({} : FFlags))
        else f.roundPack .rne false ftz (signMag s).1 (signMag s).2 e
      | _, _, _, _ =>
        let x := f.mul .rne ftz l al.1
        let y := f.mul .rne ftz (if merge then add else one) p.1
        let z := f.add .rne ftz x.1 y.1
        (z.1, { iv := x.2.iv || y.2.iv || z.2.iv })
    ((m', l'.1, p.1, al.1), ((al.2.or p.2).or l'.2).or quiet)

/-- The visible key positions of MASKGEN (R218): a 32-bit mask. -/
def maskGen (q kb c : Nat) : Nat :=
  let q := q % 2 ^ 24
  let kb := kb % 2 ^ 24
  let w := if bitsOf c 31 8 = 0 then 2 ^ 24 else bitsOf c 31 8
  let vis (k : Nat) : Bool := decide (k < 2 ^ 24) && (match bitsOf c 1 0 with
    | 0 => decide (k ≤ q)
    | 1 => decide (k ≤ q) && decide (q - k < w)
    | 2 => decide (k < w) || decide (k ≤ q)
    | _ => true)
  lanes.foldl (fun m j => if vis (kb + j) then m + 2 ^ j else m) 0

end Sys2Proof.Machine
end

