-- ==== Sys2Proof/Machine/Sys.lean ====
section
/-! DEFINITION. Contexts, partitions, kernels, translations, requests and frames as data (spec/05, 06, 11). -/

namespace Sys2Proof.Machine

/-! ### Contexts and translations (spec/11) -/

inductive CtxSt where
  | free | live | lost
  deriving DecidableEq, Repr

/-- A context (Tables 11.1, 11.4). -/
structure Ctx where
  st : CtxSt := .free
  fn : Nat := 0
  part : Nat := 0
  bl1 : Bool := false
  pasidEn : Bool := false
  pasid : Nat := 0
  ptRoot : Nat := 0
  savePpn : Nat := 0
  saveSlots : Nat := 0
  slotPages : Nat := 0
  /-- save slots in use, by the kernel that uses each (R508) -/
  slots : List (Nat × Nat) := []
  cause : Nat := 0
  status : Nat := 0
  seq : Nat := 0
  faultVa : W64 := 0
  queue : Nat := 0
  launched : W64 := 0
  completed : W64 := 0
  held : Nat := 0
  deriving DecidableEq, Repr

/-- A cached translation (R517): a run of 4 KiB pages, where it leads, and what may be done through it. `off`
is a host byte address, or a byte offset in the partition's pages. -/
structure XEntry where
  ctx : Nat
  vpn : Nat
  pages : Nat
  host : Bool
  off : Nat
  rd : Bool
  wr : Bool
  at_ : Bool
  ex : Bool
  deriving DecidableEq, Repr

/-- An open page request (R519): a 4 KiB page with its access. `after` marks a waiter that walked again. -/
structure PageReq where
  ctx : Nat
  page : Nat
  write : Bool
  exec : Bool
  /-- the request has gone to the host; others wait for its allocation -/
  sent : Bool := false
  /-- what waits: kernels with the access each needs, commands (queue, command), and by queue the fetch of its next descriptor and the
  control read of the one at its front -/
  kernels : List (Nat × Acc) := []
  cmds : List (Nat × Nat) := []
  fetches : List Nat := []
  reads : List Nat := []
  deriving DecidableEq, Repr

/-! ### Partitions (spec/11) -/

inductive PartSt where
  | free | ready | resetting | destroying
  deriving DecidableEq, Repr

/-- A partition (Tables 11.8, 11.10; R534, R536). -/
structure Part where
  st : PartSt := .free
  vf : Bool := false
  herb : Bool := false
  key : Nat := 0
  enc : Bool := false
  ctxMax : Nat := 0
  groups : Nat := 0
  quantumUs : Nat := 0
  drainMs : Nat := 0
  /-- used extents: first device page and page count, in descriptor order -/
  grant : List (Nat × Nat) := []
  /-- the placement list, head first -/
  placing : List Nat := []
  /-- the context that was given the last tile (round-robin) -/
  rrCtx : Nat := 0
  /-- the queue of which the Parser served a command last (round-robin, R471); before the first, none: the round starts at queue 0 -/
  servedQ : Nat := 12287
  /-- a preemption pending or in progress: the kernel that waits, and the victim -/
  preempt : Option (Nat × Nat) := none
  /-- DESTROYING: pages not yet zeroed -/
  zeroing : Nat := 0
  /-- a destroy is waiting for its reset to end -/
  destroyAfter : Bool := false
  /-- when the reset began, in ps; whether PRT_CMD waits for it; whether a Function Level Reset or a Hot Reset does -/
  resetAt : Nat := 0
  byCmd : Bool := false
  byFn : Bool := false
  /-- after the reset the slot is erased by force and the TDI unlocked (R578); the session whose request this is -/
  tdiStop : Bool := false
  tdiSess : Option Nat := none
  /-- pages written in the current logging round (R531) -/
  dlogged : List Nat := []
  deriving DecidableEq, Repr

/-! ### Kernels (spec/02, 10, 11) -/

inductive KSt where
  | running | stopping | switching | out | resuming | done
  deriving DecidableEq, Repr

/-- The parameters of an INVOKE (R543). -/
structure Invoke where
  handle : Nat
  input : W64
  output : W64
  count : Nat
  param : W64
  weights : W64
  deriving DecidableEq, Repr

/-- Where a fault of a kernel came from (R90): the HCLK cycle in which it reached the Rhizome, the tile, sr.block and
sr.clause. -/
structure FaultBy where
  cycle : Nat
  tile : Nat
  blk : Nat
  idx : Nat
  deriving DecidableEq, Repr

/-- R90: of two faults that reach the Rhizome in one HCLK cycle, the one that is recorded. -/
def FaultBy.over (a b : FaultBy) : Bool :=
  a.cycle == b.cycle && (decide (a.tile < b.tile) || (a.tile == b.tile &&
    (decide (a.blk < b.blk) || (a.blk == b.blk && decide (a.idx < b.idx)))))

/-- A kernel: its launch parameters and its progress. -/
structure Kernel where
  st : KSt := .running
  ctx : Nat := 0
  part : Nat := 0
  queue : Nat := 0
  seq : Nat := 0
  cmd : Nat := 0
  tag : Nat := 0
  entry : W64 := 0
  args : W64 := 0
  blkCount : Nat := 0
  blkClauses : Nat := 1
  granules : Nat := 1
  spmSplit : Nat := 0
  blkSpm : Nat := 0
  tilesMax : Nat := 0
  /-- used read-only regions: first byte and length -/
  ro : List (Nat × Nat) := []
  /-- used reduction windows: first byte, length, format word -/
  win : List (Nat × Nat × W32) := []
  nextBlock : Nat := 0
  retired : Nat := 0
  tiles : List Nat := []
  /-- the first fault to reach the Rhizome: cause, tile, address -/
  fault : Option (Nat × Nat × W64) := none
  /-- where that fault came from, for the rule of R90 on faults of one HCLK cycle -/
  faultBy : Option FaultBy := none
  /-- switch-out: 1 page fault, 2 preemption -/
  swCause : Nat := 0
  faultVa : W64 := 0
  faultTile : Nat := 0
  slot : Nat := 0
  /-- tiles saved, with the sizes of their records (R104) -/
  savedTiles : List (Nat × Nat) := []
  /-- page requests it raised and that are unanswered -/
  waitsReq : Nat := 0
  eligible : Bool := false
  /-- held in place for want of a slot (R508) -/
  held : Bool := false
  /-- when it entered the placement list or reached its head, when it became eligible to resume, and when it last started or resumed, in ps -/
  waitSince : Nat := 0
  eligibleAt : Nat := 0
  ranSince : Nat := 0
  /-- when it was switched out, in ps -/
  outSince : Nat := 0
  resumedOnce : Bool := false
  invoke : Option Invoke := none
  /-- stores not yet acknowledged after their clause left (R66) -/
  storesOut : Nat := 0
  deriving DecidableEq, Repr

/-! ### Requests and responses (spec/06 Table 6.4) -/

inductive ReqKind where
  | rd | rdRo | wr | atom | red | watch | unwatch
  /-- the host's reads, shared and exclusive -/
  | hostS | hostX
  deriving DecidableEq, Repr

/-- Who sent a request: a clause (or its tile for PREF), or the patrol scrubber and its like in the Rhizome. -/
inductive Src where
  | clause (c : At)
  | watchRead (c : At)
  | args (c : At) (word : Nat)
  /-- a PREF of a clause; whether its line goes into the L1 -/
  | prefetch (c : At) (l1 : Bool)
  /-- the watch of a queue's WAIT command (R481) -/
  | parser (queue cmd : Nat)
  /-- the host, through the host link -/
  | host
  deriving DecidableEq, Repr

/-- One lane's part of a request: the lane, the byte offset in the line, operand and compare value. -/
structure LaneOp where
  lane : Nat
  off : Nat
  val : Nat := 0
  new : Nat := 0
  deriving DecidableEq, Repr

/-- Where a request stands. -/
inductive ReqSt where
  | sent
  /-- waits on its line's miss register or snoop -/
  | waiter
  /-- RETRY: holds a ticket; GRANT: a resource is held for it -/
  | ticket
  | granted
  /-- NACK: backs off -/
  | backoff
  deriving DecidableEq, Repr

structure Req where
  id : Nat
  kind : ReqKind
  src : Src
  /-- device physical line number -/
  line : Nat
  kernel : Nat := 0
  part : Nat := 0
  tag : Nat := 0
  bl1 : Bool := false
  /-- sectors read -/
  mask : Nat := 0
  /-- the access of the clause it belongs to -/
  acc : Nat := 0
  bytes : Nat := 4
  /-- the atomic's function code (Table 3.13) and whether it returns -/
  op : Nat := 0
  nr : Bool := false
  fmt : W32 := 0
  ops : List LaneOp := []
  st : ReqSt := .sent
  nacks : Nat := 0
  /-- the age of its ticket; whether what a GRANT holds for it is a waiter entry, else a register (R305) -/
  ticket : Nat := 0
  entry : Bool := false
  /-- the earlier request that an adder folded it into (R374, R377) -/
  into : Option Nat := none
  /-- its data has come already, from a forwarder that the home then gave up (R314) -/
  had : Bool := false
  deriving DecidableEq, Repr

inductive RspKind where
  | data | dataF | ack | atomRsp | retry | grant | nack | fwd | fwdAck | fwdMiss | notify
  deriving DecidableEq, Repr

structure Rsp where
  id : Nat
  kind : RspKind
  /-- the request it answers -/
  req : Req
  /-- FWD, FWD_ACK, FWD_MISS: the forwarder's tile -/
  tile : Nat := 0
  data : List Byte := []
  poison : Nat := 0
  bad : Bool := false
  olds : List (Nat × Nat) := []
  deriving DecidableEq, Repr

/-- A request on the host link for a clause (R272, R294). -/
structure HostReq where
  id : Nat
  src : Src
  kind : ReqKind
  kernel : Nat := 0
  part : Nat := 0
  acc : Nat := 0
  bytes : Nat := 4
  op : Nat := 0
  nr : Bool := false
  /-- the host byte address of each lane, with its operands -/
  ops : List LaneOp := []
  /-- a write already accepted: the zero-length read is out -/
  zlr : Bool := false
  /-- the clause that sent it (log 13) -/
  uid : Nat := 0
  /-- it goes by CXL.cache, as RdCurr or WrCur, not by PCIe (R272, R576) -/
  cxl : Bool := false
  deriving DecidableEq, Repr

/-! ### Home slices (spec/05, 06) -/

/-- A frame of a slice, or one half of a compressed frame (R223, R244, R258, R297). Its data is the line of
device memory (log 12). -/
structure Frame where
  way : Nat
  valid : Nat
  dirty : Nat := 0
  fwd : Option Nat := none
  tag : Nat := 0
  part : Nat := 0
  packed : Bool := false
  reserve : Bool := false
  deriving DecidableEq, Repr

/-- The host's state for a line (Table 6.3); I is no entry. -/
inductive HostSt where
  | s | em
  deriving DecidableEq, Repr

/-- What holds a line's requests: a fill, a snoop to the host, a forward, a forward that waits for room in its tile's queue
(R301), or the recall of another line for want of a host filter entry (R299). -/
inductive MissWhy where
  | fill | snoopData | snoopInv | fwd (tile : Nat) | fwdHold (tile : Nat) | recall (victim : Nat)
  deriving DecidableEq, Repr

/-- A miss register and the requests that wait on it, in order (R233, R234, R302). -/
structure Miss where
  why : MissWhy
  need : Nat := 0
  waiters : List Req := []
  /-- its first waiter is the request that took it, and so needs no waiter entry; the case tag it was taken under -/
  own : Bool := true
  tag : Nat := 15
  /-- when its FWD or BISnp was sent, in ps (R313) -/
  since : Nat := 0
  /-- the forwarder's DATA_F has reached the requester -/
  given : Bool := false
  deriving DecidableEq, Repr

/-- A line held in an L1 (R240). -/
structure L1Line where
  valid : Nat := 0
  data : List Byte := []
  fwd : Bool := false
  use : Nat := 0
  deriving DecidableEq, Repr

/-! ### A tile (spec/02 Table 2.1) -/

structure Tile where
  kernel : Option Nat := none
  /-- the partition whose kernel ran here last (R56) -/
  lastPart : Option Nat := none
  clauses : Tab Clause := []
  blocks : Tab Block := []
  /-- active slots 0 to 7: the clause state entry in each -/
  slots : Tab (Option Nat) := []
  /-- the slot that issued last, and the cycle it did -/
  lastSlot : Nat := 7
  lastIssue : Nat := 0
  readyNext : Nat := 0
  acc : Tab W32 := []
  spm : Mem := []
  l1 : Tab (Option L1Line) := []
  l1Use : Nat := 0
  matq : List MatJob := []
  /-- a fault or the Rhizome stopped issue (R89, R97) -/
  stopped : Bool := false
  /-- quiescent since this cycle, as reported to the Rhizome (R92) -/
  quiet : Option Nat := none
  /-- switch-out in progress: drained, saved -/
  switching : Bool := false
  saved : Bool := false
  /-- ACTIVE clauses whose next instruction has been found to need outstanding loads, by state entry (R71) -/
  stalls : Tab (Option LoadStall) := []
  /-- ACTIVE clauses whose next instruction has been found to stall, by state entry, with what was outstanding then (R67; log 77) -/
  tried : Tab (Option (List Nat)) := []
  /-- stores of its kernel not yet acknowledged whose clauses have left their entries (R66, R91, R99) -/
  storesOut : Nat := 0
  /-- the sectors that the instruction cache holds, newest first (R49; log 12) -/
  icache : List Nat := []
  /-- the Herbarium store: handles whose code and image it holds -/
  store : List Nat := []
  deriving DecidableEq, Repr

def tileNone : Nat → Tile := fun _ => {}
def blockNone : Nat → Block := fun _ => {}
def slotNone : Nat → Option Nat := fun _ => none
def l1None : Nat → Option L1Line := fun _ => none
def stallNone : Nat → Option LoadStall := fun _ => none
def triedNone : Nat → Option (List Nat) := fun _ => none

def Tile.clause (t : Tile) (e : Nat) : Clause := tabGet clauseNone t.clauses e
def Tile.setClause (t : Tile) (e : Nat) (c : Clause) : Tile :=
  { t with clauses := tabSet clauseNone t.clauses e c }
def Tile.block (t : Tile) (b : Nat) : Block := tabGet blockNone t.blocks b
def Tile.setBlock (t : Tile) (b : Nat) (x : Block) : Tile :=
  { t with blocks := tabSet blockNone t.blocks b x }
def Tile.slot (t : Tile) (i : Nat) : Option Nat := tabGet slotNone t.slots i
def Tile.setSlot (t : Tile) (i : Nat) (x : Option Nat) : Tile :=
  { t with slots := tabSet slotNone t.slots i x }

def Tile.stall (t : Tile) (e : Nat) : Option LoadStall := tabGet stallNone t.stalls e
def Tile.setStall (t : Tile) (e : Nat) (x : Option LoadStall) : Tile := { t with stalls := tabSet stallNone t.stalls e x }

/-- The active slot that holds entry `e`. -/
def Tile.slotOf (t : Tile) (e : Nat) : Option Nat := (List.range 8).find? fun i => t.slot i == some e

/-- The entries that hold a clause, in entry order. -/
def Tile.resident (t : Tile) : List Nat := (t.clauses.filter fun x => x.2.st != .empty).map (·.1)

end Sys2Proof.Machine
end

