-- ==== Sys2Proof/Machine/Operands.lean ====
section
/-! DEFINITION. The operand forms of Atset 2: fields, registers, types, immediates, guards, and the encoding
checks of R109 (spec/03 R110 to R123, R136; Tables 3.1 to 3.4). -/

namespace Sys2Proof.Machine

/-- Bits `[hi:lo]` of the low 48 bits of an instruction. -/
def Enc.f (e : Enc) (hi lo : Nat) : Nat := bitsOf e.body.toNat hi lo

/-- What a 9-bit register field names (Table 3.1). -/
inductive Opd where
  | v (n : Nat)
  | u (n : Nat)
  | bad
  deriving DecidableEq, Repr

def Opd.of (f : Nat) : Opd := if f < 256 then .v f else if f < 320 then .u (f - 256) else .bad

def Opd.isU : Opd → Bool
  | .u _ => true
  | _ => false

def Opd.isV : Opd → Bool
  | .v _ => true
  | _ => false

/-- The registers an operand of `k` registers takes (R111). -/
def Opd.vregs (o : Opd) (k : Nat) : List Nat :=
  match o with
  | .v n => (List.range k).map (n + ·)
  | _ => []

def Opd.uregs : Opd → List Nat
  | .u n => [n]
  | _ => []

/-- R111: a pair starts at an even register, four registers at a multiple of 4. -/
def Opd.aligned (o : Opd) (k : Nat) : Bool :=
  match o with
  | .v n => n % k == 0
  | .u _ => true
  | .bad => false

/-- What an operation makes of an operand field. -/
inductive Use where
  | no
  | reg
  | vec
  | uni
  | pred
  /-- checked by the operation itself -/
  | own
  deriving DecidableEq, Repr

/-- The form of an operation of classes 0x0 to 0x8: its row of Table 3.13 and what its rules say of fields. -/
structure Form where
  tys : List Nat := [0]
  imm : Bool := false
  d : Use := .reg
  a : Use := .reg
  b : Use := .no
  c : Use := .no
  sat : Bool := false
  rm : Bool := false
  aux : Nat := 0
  /-- widths of d and a where they are not those of the type -/
  dw : Option Nat := none
  aw : Option Nat := none
  deriving DecidableEq, Repr

/-- What a Format T or Format I instruction (Table 3.3) holds. -/
structure AluF where
  d : Nat
  a : Nat
  b : Nat
  c : Nat
  ty : Nat
  rm : Nat
  sat : Bool
  aux : Nat
  rsv : Bool
  imm : Option Nat
  deriving DecidableEq, Repr

/-- The fields of an instruction. Format I has no rm field: its operation rounds as rm = 0 says, RNE (R136; DESIGN CHOICE, log 77). -/
def aluFields (e : Enc) : AluF :=
  if e.imm then
    { d := Enc.f e 47 39, a := Enc.f e 38 30, b := 0, c := 0, ty := Enc.f e 29 26, rm := 0,
      sat := bitOf e.body.toNat 25, aux := 0, rsv := bitOf e.body.toNat 24, imm := some (Enc.f e 23 0) }
  else
    { d := Enc.f e 47 39, a := Enc.f e 38 30, b := Enc.f e 29 21, c := Enc.f e 20 12, ty := Enc.f e 11 8,
      rm := Enc.f e 7 5, sat := bitOf e.body.toNat 4, aux := Enc.f e 3 0, rsv := false, imm := none }

/-- R117, R109: the header of Table 3.2. -/
def headerOk (e : Enc) : Bool := e.rsv == 0 && (e.p || (!e.n && e.pg == 0))

/-- The second source of Format I (R120), as a number of the width of the type. -/
def immVal (ty v : Nat) : Nat :=
  match ty with
  | 1 => (intVal 24 true v % (2 ^ 32 : Nat)).toNat
  | 3 => (intVal 24 true v % (2 ^ 64 : Nat)).toNat
  | 8 => v * 2 ^ 8
  | 9 => v * 2 ^ 40
  | _ => v

/-- How many 32-bit registers a value of `w` bits takes. -/
def regsOf (w : Nat) : Nat := if w = 64 then 2 else 1

def Form.dWidth (fm : Form) (x : AluF) : Nat := fm.dw.getD (tyBits x.ty)
def Form.aWidth (fm : Form) (x : AluF) : Nat := fm.aw.getD (tyBits x.ty)

/-- Whether an operand field is legal for its use, at a width. -/
def Use.ok (u : Use) (w f : Nat) : Bool :=
  match u with
  | .no => f == 0
  | .reg => (Opd.of f).aligned (regsOf w)
  | .vec => (Opd.of f).isV && (Opd.of f).aligned (regsOf w)
  | .uni => (Opd.of f).isU
  | .pred => decide (f < 8)
  | .own => true

/-- A uniform instruction of classes 0x0 to 0x5: its register destination is uniform (R113). -/
def Form.uniform (fm : Form) (x : AluF) : Bool := fm.d == .reg && (Opd.of x.d).isU

/-- R109, R113, R115, R117, R119, R123: the encoding of an operation of classes 0x0 to 0x8 is legal, its own
further checks apart. An operation that the spec does not give a sat bit is taken to need sat = 0, as R140 has it of IDIV and IREM
(DESIGN CHOICE, log 77). -/
def Form.ok (fm : Form) (e : Enc) : Bool :=
  let x := aluFields e
  let aw := fm.aWidth x
  let w := tyBits x.ty
  headerOk e && (!e.imm || fm.imm) && !x.rsv && fm.tys.contains x.ty &&
    fm.d.ok (fm.dWidth x) x.d && fm.a.ok aw x.a &&
    (if e.imm then true else fm.b.ok w x.b && fm.c.ok w x.c) &&
    (fm.sat || !x.sat) && (if fm.rm then x.rm != 6 else x.rm == 0) && decide (x.aux ≤ fm.aux) &&
    (!fm.uniform x || (!e.p && ! (fm.a == .reg && (Opd.of x.a).isV) && !(fm.b == .reg && !e.imm && (Opd.of x.b).isV)
      && !(fm.c == .reg && !e.imm && (Opd.of x.c).isV)))

/-- The vector registers an operation reads and writes, and the uniform ones (R71, R112, R190). -/
structure RegUse where
  vr : List Nat := []
  vw : List Nat := []
  ur : List Nat := []
  uw : List Nat := []
  deriving DecidableEq, Repr

def Use.isReg : Use → Bool
  | .reg | .vec | .uni => true
  | _ => false

def Form.regs (fm : Form) (e : Enc) : RegUse :=
  let x := aluFields e
  let rd (u : Use) (w f : Nat) : List Nat := if u.isReg then (Opd.of f).vregs (regsOf w) else []
  let ru (u : Use) (f : Nat) : List Nat := if u.isReg then (Opd.of f).uregs else []
  let w := tyBits x.ty
  let imm := x.imm.isSome
  { vr := rd fm.a (fm.aWidth x) x.a ++ (if imm then [] else rd fm.b w x.b ++ rd fm.c w x.c)
    vw := rd fm.d (fm.dWidth x) x.d
    ur := ru fm.a x.a ++ (if imm then [] else ru fm.b x.b ++ ru fm.c x.c)
    uw := ru fm.d x.d }

/-- A register operand's value in a lane, `w` bits wide (R111, R114). -/
def Clause.opd (c : Clause) (f w l : Nat) : Nat :=
  match Opd.of f with
  | .v n => if w = 64 then (c.getV n l).toNat + 2 ^ 32 * (c.getV (n + 1) l).toNat else (c.getV n l).toNat
  | .u n => if w = 64 then (c.getU n).toNat else (c.getU n).toNat % 2 ^ 32
  | .bad => 0

/-- The lanes on which an instruction acts (R122). -/
def Clause.acting (c : Clause) (e : Enc) : W32 :=
  let g := c.getP e.pg.toNat
  c.active &&& (if e.p then (if e.n then ~~~g else g) else ~~~0)

/-- The lane masks that write a `w`-bit value to a destination field: the low register, and the high one. -/
def Clause.writeReg (c : Clause) (f w : Nat) (m : W32) (val : Nat → Nat) : Clause :=
  match Opd.of f with
  | .v n =>
    let c := c.putV n m fun l => BitVec.ofNat 32 (val l)
    if w = 64 then c.putV (n + 1) m fun l => BitVec.ofNat 32 (val l / 2 ^ 32) else c
  | _ => c

/-- The rounding an rm field selects (R136); `r` are the random bits of R183. A frm of 5 to 7, which only a resumed record can hold,
rounds as RNE (DESIGN CHOICE, log 77). -/
def rmOf (rm : Nat) (mode : W32) (r : Nat) : Rnd :=
  let of : Nat → Rnd
    | 1 => .rtz
    | 2 => .rup
    | 3 => .rdn
    | 4 => .rna
    | _ => .rne
  if rm = 5 then .sr r else if rm = 7 then of (bitsOf mode.toNat 2 0) else of rm

/-- The inputs of one lane (or of a uniform instruction) given the operands and the status word. -/
def aluIn (c : Clause) (x : AluF) (a b cc : Nat) (st : W32) (r : Nat) : AluIn :=
  let b := match x.imm with
    | some v => immVal x.ty v
    | none => b
  { w := if tyBits x.ty = 64 then 64 else 32, sg := tySigned x.ty, a := a, b := b, c := cc, sat := x.sat,
    cin := st.getLsbD 0, rm := rmOf x.rm c.mode r, ftz32 := c.mode.getLsbD 3, ftz64 := c.mode.getLsbD 4,
    aux := x.aux, ty := x.ty }

/-- A vector instruction of classes 0x0 to 0x8 with a register destination: each acting lane's result and
flags (R122, R132). `r` gives each lane's random bits. -/
def Clause.aluVec (c : Clause) (fm : Form) (f : AluIn → AluOut) (e : Enc) (r : Nat → Nat) : Clause :=
  let x := aluFields e
  let m := c.acting e
  let w := tyBits x.ty
  let out (l : Nat) : AluOut := f (aluIn c x (c.opd x.a (fm.aWidth x) l)
    (if fm.b.isReg then c.opd x.b w l else 0) (if fm.c.isReg then c.opd x.c w l else 0) (c.getStatus l) (r l))
  (c.writeReg x.d (fm.dWidth x) m fun l => (out l).1).putStatus m fun l => (out l).2.apply (c.getStatus l)

/-- The same as a uniform instruction: once, with sr.ustatus (R113). -/
def Clause.aluUni (c : Clause) (fm : Form) (f : AluIn → AluOut) (e : Enc) (r : Nat) : Clause :=
  let x := aluFields e
  let w := tyBits x.ty
  let o := f (aluIn c x (c.opd x.a (fm.aWidth x) 0)
    (if fm.b.isReg then c.opd x.b w 0 else 0) (if fm.c.isReg then c.opd x.c w 0 else 0) c.ustatus r)
  let c := match Opd.of x.d with
    | .u n => c.putU n (BitVec.ofNat 64 (o.1 % 2 ^ (if fm.dWidth x = 64 then 64 else 32)))
    | _ => c
  { c with ustatus := o.2.apply c.ustatus }

/-- An instruction of classes 0x0 to 0x8 with a register destination, vector or uniform. -/
def Clause.alu (c : Clause) (fm : Form) (f : AluIn → AluOut) (e : Enc) : Clause :=
  if fm.uniform (aluFields e) then c.aluUni fm f e 0 else c.aluVec fm f e fun _ => 0

end Sys2Proof.Machine
end

