-- ==== Sys2Proof/Machine/Work.lean ====
section
/-! DEFINITION. Queues, commands, transfers, collectives, ports and messages as data (spec/09, 10). -/

namespace Sys2Proof.Machine

/-! ### Queues (spec/10) -/

/-- The states of Table 10.6. -/
inductive QSt where
  | empty | running | stopped | lost
  deriving DecidableEq, Repr

/-- A descriptor the Parser has read and not yet acted on (R463, R484): its 64 bytes, its ring count or its
index in its buffer, and whether an abort has marked it (R502). -/
structure Desc where
  bytes : List Byte := []
  idx : Nat := 0
  marked : Bool := false
  deriving DecidableEq, Repr

/-- An open LOOP (R485): the index after it, the repeats still to make, and its own seq and cookie. -/
structure Loop where
  start : Nat
  left : Nat
  seq : W32
  cookie : W64
  deriving DecidableEq, Repr

/-- A called buffer (R484). `skip` descriptors are to be discarded (R483); `out` counts LOOPs to be left
without acting (R485). -/
structure Call where
  base : W64
  count : Nat
  next : Nat := 0
  ahead : List Desc := []
  loops : List Loop := []
  skip : Nat := 0
  out : Nat := 0
  /-- the indices that an abort has marked and that have not been reached since (R502) -/
  marks : List Nat := []
  deriving DecidableEq, Repr

/-- What a command in flight waits for. -/
inductive Work where
  | kernel (k : Nat)
  /-- INVOKE: a model that is not yet resident (R542) -/
  | model (handle : Nat)
  | mover
  /-- WAIT: the place of its word, and whether a watch stands at the home (R481) -/
  | wait (host : Bool) (pa : Nat)
  /-- WAIT: its word's page is asked for -/
  | waitAsk
  /-- FENCE: the commands (queue, command) it waits for (R487) -/
  | fence (before : List (Nat × Nat))
  | xfer (x : Nat)
  /-- SIGNAL, TIMESTAMP, MOVE TIER: not yet acted, for it waits for a page request (4 KiB page, write) or for the host -/
  | once (page : Option (Nat × Bool))
  /-- MOVE TIER: its pin state waits for the end of these pages' moves (R342, R359) -/
  | tier (pages : List Nat)
  deriving DecidableEq, Repr

/-- A segment of a segmented command (R492, R493). -/
inductive SegSt where
  | open_
  /-- waits for a page request: the 4 KiB page, and whether for a write (R520) -/
  | paused (page : Nat) (write : Bool)
  | done
  | failed
  deriving DecidableEq, Repr

/-- A command in flight or blocked (R472, R474). -/
structure Cmd where
  id : Nat
  raw : List Byte := []
  engine : Nat := 0
  work : Work
  segs : List SegSt := []
  /-- where its destination starts, the size of a segment, and of the whole (R426, R492) -/
  dst : W64 := 0
  segSz : Nat := 1
  total : Nat := 0
  /-- when its timer started, and the time that does not count, in ps (R499) -/
  since : Nat := 0
  notCounted : Nat := 0
  blocking : Bool := false
  deriving DecidableEq, Repr

/-- A completion record not yet written (R464, R672), and whether an event follows it (R498). -/
structure Rec where
  seq : W32
  cookie : W64
  status : Nat
  engine : Nat
  bitmap : W64
  time : Nat
  /-- a record is written; a quiet command that COMPLETED has none -/
  write : Bool := true
  event : Bool := false
  /-- a page request for its place has been made (R672) -/
  asked : Bool := false
  deriving DecidableEq, Repr

/-- The abort state of Table 10.8 (R502 to R505). -/
structure Abort where
  result : Nat := 0
  status : Nat := 0
  count : Nat := 0
  seq : W32 := 0
  /-- pending: the ring count at which the matching descriptor lies, or (all) up to which every one is aborted -/
  upTo : Option W32 := none
  all : Bool := false
  deriving DecidableEq, Repr

structure Queue where
  st : QSt := .empty
  fn : Nat := 0
  part : Nat := 0
  ctx : Nat := 0
  tag : Nat := 0
  vector : Nat := 0
  sqLog2 : Nat := 6
  cqLog2 : Nat := 6
  sqBase : W64 := 0
  cqBase : W64 := 0
  headWb : W64 := 0
  tmoUs : Nat := 1000
  errEvent : Bool := false
  sqHead : W32 := 0
  sqTail : W32 := 0
  cqHead : W32 := 0
  cqTail : W32 := 0
  phase : Bool := true
  ahead : List Desc := []
  skip : Nat := 0
  /-- open calls, innermost first -/
  calls : List Call := []
  cmds : List Cmd := []
  records : List Rec := []
  /-- a head write-back waits for a page request (R672) -/
  wbWaits : Bool := false
  wbAsked : Bool := false
  /-- pages of descriptors that the host has refused, or that were still absent after its answer (R500, R520, R521) -/
  fetchBad : List Nat := []
  /-- the page that a control read of the descriptor at the front waits for, and one refused to it -/
  readPage : Option Nat := none
  readBad : Option Nat := none
  /-- the front's control read has had to wait: the number under which its timer runs (the model's own), and since when (R499) -/
  frontWait : Option (Nat × Nat) := none
  dbErr : Nat := 0
  abort : Abort := {}
  deriving DecidableEq, Repr

/-- The control reads of the descriptor at the front are over. -/
def Queue.readOver (q : Queue) : Queue := { q with readPage := none, readBad := none, frontWait := none }

/-- The number of a command's queue, and the command. -/
def Queue.cmd? (q : Queue) (id : Nat) : Option Cmd := q.cmds.find? (·.id == id)
def Queue.setCmd (q : Queue) (c : Cmd) : Queue :=
  { q with cmds := q.cmds.map fun d => if d.id = c.id then c else d }

/-- An event to be appended to a partition's log once its page is there (R498, R672). -/
structure EvtWait where
  part : Nat
  bytes : List Byte
  fn : Nat
  vector : Nat
  asked : Bool := false
  /-- the queue that it tells of, and that queue's case tag (R387) -/
  queue : Nat := 0
  tag : Nat := 0
  deriving DecidableEq, Repr

/-! ### Messages (Tables 9.5, 9.6) -/

structure FabMsg where
  type : Nat := 0
  poison : Bool := false
  enc : Bool := false
  dst : Nat := 0
  hop : Nat := 0
  src : Nat := 0
  dpart : Nat := 0
  spart : Nat := 0
  epoch : W32 := 0
  counter : W32 := 0
  addr : W64 := 0
  len : Nat := 0
  seg : Nat := 0
  ver : Nat := 2
  tag : W32 := 0
  gcm : W128 := 0
  data : List Byte := []
  /-- the reserved fields, all 0 in a message that is taken (R415) -/
  rsv : Nat := 0
  deriving DecidableEq, Repr

/-- A message with the sequence numbers of its flits at the port that holds it for replay (R412, R413). -/
structure Held where
  msg : FabMsg
  first : BitVec 12
  n : Nat
  /-- a control flit that acts on its link alone -/
  link : Bool := false
  deriving DecidableEq, Repr

/-- A fabric port: its replay buffer, what it has received of a message on each channel, and its timers. -/
structure Port where
  /-- in DARK with light: waits 100 ms after a failed training -/
  waitUntil : Nat := 0
  light : Bool := false
  /-- the wavelength data it runs on (UP: 8, UP_NARROW: 4), and one under test for a swap -/
  lanes : BitVec 9 := 0
  swapping : Option Nat := none
  txNext : BitVec 12 := 0
  rxNext : BitVec 12 := 0
  held : List Held := []
  /-- messages that wait for room in the replay buffer -/
  queue : List FabMsg := []
  /-- the replays asked for in a row of one flit -/
  replaySeq : BitVec 12 := 0
  replays : Nat := 0
  /-- a replay asked for and not yet seen to start, and how often in a row this end has asked -/
  asked : Bool := false
  asks : Nat := 0
  parts : List (Nat × List Byte) := []
  /-- when the training state in progress began, in ps -/
  since : Nat := 0
  deriving DecidableEq, Repr

/-- An ELS (Tables 9.3, 9.11). -/
inductive ElsSt where
  | off
  /-- inserted, its comb not yet locked, since when in ps -/
  | locking (since : Nat)
  | on
  deriving DecidableEq, Repr

/-! ### Transfers and collectives -/

/-- A message of a transfer (R426): its segment, its data's place and length, whether it has been answered. -/
structure XMsg where
  seg : Nat
  off : Nat
  len : Nat
  /-- the message as it is to be sent, then as it was sent, for a resend (R413) -/
  msg : FabMsg := {}
  answered : Bool := false
  failed : Bool := false
  /-- its data met an uncorrectable error at the peer (Table 9.7) -/
  bad : Bool := false
  /-- when it was sent first, in ps -/
  since : Option Nat := none
  deriving DecidableEq, Repr

inductive XKind where
  | put | flag | get | coll | ring
  deriving DecidableEq, Repr

/-- The parameters of a collective (R431 to R433, R489). -/
structure CollOp where
  kind : Nat := 0
  op : Nat := 0
  fmt : W32 := 0
  n : Nat := 0
  inp : W64 := 0
  out : W64 := 0
  work : W64 := 0
  /-- module and partition of each rank -/
  members : List (Nat × Nat) := []
  rank : Nat := 0
  root : Nat := 0
  deriving DecidableEq, Repr

/-- An open PUT, GET, PUT_FLAG, collective or KV ring (R426 to R439). -/
structure Xfer where
  kind : XKind
  queue : Nat := 0
  cmd : Nat := 0
  part : Nat := 0
  ctx : Nat := 0
  peer : Nat := 0
  peerPart : Nat := 0
  loc : W64 := 0
  rem : W64 := 0
  len : Nat := 0
  segSz : Nat := 4096
  value : W64 := 0
  msgs : List XMsg := []
  coll : CollOp := {}
  /-- contributions received of the own chunk: rank, byte offset in the chunk, bytes with their poison (R434); of a GET, the data come
  for segments that are not whole yet: segment, byte offset, bytes -/
  contrib : List (Nat × Nat × List (Byte × Bool)) := []
  /-- pages that a collective or ring has asked for, and whether for a write -/
  asked : List (Nat × Bool) := []
  /-- output bytes that are final: offset and length (R436) -/
  final : List (Nat × Nat) := []
  /-- the own chunk is combined (or needs no combining), and its results are sent -/
  combined : Bool := false
  /-- the step timer, and the members probed since it ran out with the time of the PROBE (R437) -/
  timer : Nat := 0
  probed : List (Nat × Nat) := []
  /-- KV ring: the steps sent and landed, the bytes of each step received, the successor's credit, and the
  own consumed word as last seen (R438, R439) -/
  stepSent : Nat := 0
  stepDone : Nat := 0
  got : List (Nat × Nat × Nat) := []
  credit : Nat := 0
  consumed : Nat := 0
  /-- what came for it could not be written where it was to go: ranges of the own chunk of a collective, or steps of a ring (R425) -/
  denied : List (Nat × Nat) := []
  /-- exact data of it was to leave over a version-1 link (R405) -/
  oldLink : Bool := false
  /-- the transfer tag of the predecessor's ring, as its data named it -/
  peerTag : Option W32 := none
  deriving DecidableEq, Repr

/-- What the fabric keeps of a partition (R440 to R451, R570). -/
structure Cohort where
  counter : W32 := 0
  /-- counter generation: it rises with each wrap of the counter (R568) -/
  wraps : Nat := 0
  sweep : Option Nat := none
  answered : List Nat := []
  probeNo : Nat := 0
  /-- when the last HB of each member came, and when each REQ to it went out -/
  hbSeen : List (Nat × Nat) := []
  hbSent : Nat := 0
  lost : List Nat := []
  /-- the largest b held since a time, newest first, as far as a timer can still look back (R450) -/
  held : List (Nat × Nat) := []
  deriving DecidableEq, Repr

/-- A bubble ratio held from a source (R449): module, b, when its last PACE came. -/
structure Pace where
  src : Nat
  b : Nat
  at_ : Nat
  deriving DecidableEq, Repr

end Sys2Proof.Machine
end

