-- ==== Sys2Proof/Machine/Units.lean ====
section
/-! DEFINITION. The memory tiers, the Herbarium and the module's other units as data (spec/07, 11 to 14). -/

namespace Sys2Proof.Machine

/-! ### The memory tiers (spec/07) -/

/-- A frame of a tier (R326, R327). -/
structure FrameNo where
  fast : Bool := true
  n : Nat := 0
  deriving DecidableEq, Repr

/-- An entry of the page map (R321). `pin`: 0 managed, 1 fast, 2 capacity. `late`: a pin or release that takes
effect when the page's move ends (R342). -/
structure Page where
  at_ : FrameNo := {}
  pin : Nat := 0
  heat : Nat := 0
  count : Nat := 0
  freeze : Nat := 0
  released : Bool := false
  late : Option Nat := none
  deriving DecidableEq, Repr

/-- Why a page moves (R335). -/
inductive MoveWhy where
  | policy | pin | retire
  deriving DecidableEq, Repr

/-- A move planned or in progress (R332, R335, R336). `whole`: the old channel answers nothing (R356). -/
structure Move where
  page : Nat
  dest : FrameNo := {}
  why : MoveWhy := .policy
  /-- the page that swaps with it -/
  pair : Option Nat := none
  whole : Bool := false
  /-- the copy cursor: lines of the page that stand in the new frame -/
  cursor : Nat := 0
  deriving DecidableEq, Repr

/-- The state of a channel (Table 7.14). -/
structure Chan where
  st : Nat := 0
  refr : Nat := 0
  retired : Nat := 0
  spares : Nat := 0
  /-- a draining channel that answers nothing (R356) -/
  dead : Bool := false
  /-- the spares used in each subarray (pseudo-channel, bank, subarray) -/
  subs : List (Nat × Nat) := []
  deriving DecidableEq, Repr

/-- What was not good when the map was last laid out: channels and frames (R323 to R325). -/
structure BadSet where
  fastCh : List Nat := []
  capCh : List Nat := []
  frames : List FrameNo := []
  deriving DecidableEq, Repr

/-- The patrol scrub of a tier (R348): the next frame of the pass, and when the pass began, in ps. -/
structure Scrub where
  pos : Nat := 0
  start : Nat := 0
  deriving DecidableEq, Repr

/-- Where a memory error stands: the fields of the classifier's record (R351). -/
structure MemLoc where
  channel : Nat
  bank : Nat
  column : Nat
  bit : Nat
  row : Nat
  deriving DecidableEq, Repr

/-- A key of the classifier with its distinct rows (R351). `age` orders the keys. -/
structure CellKey where
  fast : Bool
  channel : Nat
  bank : Nat
  column : Nat
  bit : Nat
  rows : List Nat := []
  age : Nat := 0
  deriving DecidableEq, Repr

/-- A stack's or a capacity device's temperature state (R345 to R347): refresh rate code, the readings before this
one (nine at most, newest first), whether an invalid reading is in force, and valid readings since. -/
structure StackTemp where
  refr : Nat := 0
  last : List Int := []
  invalid : Bool := false
  valid : Nat := 0
  deriving DecidableEq, Repr

/-! ### The Herbarium (spec/11) -/

/-- A registered model (Table 11.13), with the places taken at registration (R540). -/
structure Model where
  ctx : Nat := 0
  clauses : Nat := 1
  spmSplit : Nat := 0
  granules : Nat := 1
  blkSpm : Nat := 0
  tiles : Nat := 0
  items : Nat := 1
  entry : W64 := 0
  weights : W64 := 0
  weightBytes : Nat := 0
  codeBytes : Nat := 0
  imageBytes : Nat := 0
  /-- device byte ranges of the weights; the places of the image: host memory or not, address and length -/
  weightAt : List (Nat × Nat) := []
  imageAt : List (Bool × Nat × Nat) := []
  /-- the image as the last fill put it into the stores -/
  imageData : List Byte := []
  pinned : Bool := false
  resident : Bool := false
  filling : Bool := false
  /-- it was resident when a hash-key rotation emptied the cache, and is to be refilled (Table 5.11) -/
  refill : Bool := false
  used : Nat := 0
  /-- weight pages pinned to the fast tier at registration -/
  pins : List Nat := []
  deriving DecidableEq, Repr

/-! ### Trust (spec/12) -/

/-- A TDI (Table 12.12): 0 CONFIG_UNLOCKED, 1 CONFIG_LOCKED, 2 RUN, 3 ERROR. -/
structure Tdi where
  st : Nat := 0
  stream : Nat := 0
  err : Nat := 0
  deriving DecidableEq, Repr

/-- A key slot (R555, R556, R560): 0 EMPTY, 1 ACTIVE, 2 RETIRING; type 1 MEM, 2 FAB; the key, and the one that waits.
`users` are the lines whose fills were in flight when it began to retire. -/
structure KeySlot where
  st : Nat := 0
  type : Nat := 0
  key : Nat := 0
  next : Nat := 0
  /-- the mailbox waits for the replacement -/
  viaMb : Bool := false
  users : List Nat := []
  /-- as QUERY last found them, and keys installed (Table 12.11) -/
  usersSeen : Nat := 0
  installs : Nat := 0
  /-- sectors written back while it retires: they stand under the replacement (R560) -/
  late : List Nat := []
  deriving DecidableEq, Repr

/-- The error codes of an SPDM or TDISP response (R553, R558, R575, R579). -/
inductive SpdmErr where
  | unsupportedRequest | unexpectedRequest | invalidRequest | busy | unauthorized | decryptError
  deriving DecidableEq, Repr

/-- What the TC answers. `status` of a vendor response is a code of Table 10.18. -/
inductive SpdmRsp where
  | error (e : SpdmErr)
  | version (v : List Nat)
  | capabilities
  | algorithms
  | digests (slot0 : Nat)
  | certificate (chain : List Byte)
  | challengeAuth (nonce : Nat)
  /-- the number of measurement blocks, or blocks: index and SHA-384 digest; with the signature, where one was asked for -/
  | count (n : Nat) (sig : Option Nat)
  | measurements (blocks : List (Nat × Nat)) (sig : Option Nat)
  | keyExchange (sess : Nat)
  | finish
  | keyUpdateAck
  | heartbeatAck
  | endSessionAck
  | vendor (status : Nat)
  | ideAck
  | tdispAck
  /-- a TDI's tile groups, grant extents, key slot, and the sizes of the function's BARs -/
  | report (groups : Nat) (grant : List (Nat × Nat)) (slot bar0 bar2 bar4 : Nat)
  /-- PLDM: a firmware request taken, or refused -/
  | pldm (ok : Bool)
  deriving DecidableEq, Repr

/-- An SPDM session (R553): open once FINISH has been taken; the root of the requester's chain. -/
structure Sess where
  id : Nat
  via : Transport
  open_ : Bool := false
  mutual_ : Bool := false
  root : Nat := 0
  deriving DecidableEq, Repr

/-- A key of an IDE stream (R573): per direction, sub-stream and K bit; and whether it is the one in use. -/
structure IdeKey where
  stream : Nat
  kind : IdeKind
  tx : Bool
  sub : Nat
  kbit : Bool
  key : Nat
  active : Bool := false
  deriving DecidableEq, Repr

/-- The Trust Controller (R546 to R554, R573, R579). -/
structure Trust where
  /-- how far each transport's connection has been negotiated: 1 version, 2 capabilities, 3 algorithms -/
  conns : Tab Nat := []
  sessions : List Sess := []
  /-- challenges issued, with the time -/
  challenges : List (Nat × Nat) := []
  ide : List IdeKey := []
  /-- measurements 3, 8 and 10 -/
  m3 : Nat := 0
  m8 : Nat := 0
  m10 : Nat := 0
  /-- the images that this boot has verified, measured and released, by index (R547) -/
  measured : List Nat := []
  /-- the private parts of the identity and alias key pairs (R552) -/
  identity : Nat := 0
  aliasKey : Nat := 0
  /-- the module memory key, the seed of the nonces, and how many of them have been issued (R551, R563) -/
  memKey : Nat := 0
  nonceSeed : Nat := 0
  nonces : Nat := 0
  /-- the address association blocks of each Selective IDE stream, up to 4: base and limit (R573) -/
  assoc : List (Nat × List (W64 × W64)) := []
  deriving DecidableEq, Repr

/-- A component's firmware: flash copies A and B, which one is tried first, and the image that runs, with its copy
(R546, R630). -/
structure Fw where
  a : Image
  b : Image
  bFirst : Bool := false
  run : Image
  runB : Bool := false
  deriving DecidableEq, Repr

/-- What is fused (R548, R580, log 15). -/
structure Fuses where
  secret : Nat := Config.deviceSecret
  svnMin : Tab Nat := []
  unlocks : Nat := 0
  deriving DecidableEq, Repr

/-- The service record (R598, R621, R631): physical tiles by tile number where not as shipped, failed physical tiles by Frond,
tiles failed with no spare, retired frames, channels mapped out, and trips and fatal errors with what they were. -/
structure Svc where
  tmap : List (Nat × Nat) := []
  failed : List (Nat × Nat) := []
  noSpare : List Nat := []
  retired : List FrameNo := []
  fastCh : List Nat := []
  capCh : List Nat := []
  trips : List (Nat × Nat) := []
  fatals : List W64 := []
  /-- trips not yet logged by a boot -/
  tripNew : List (Nat × Nat) := []
  deriving DecidableEq, Repr

/-! ### Power (spec/13) -/

/-- A temperature reading (R595): in force in eighths of a degree, whether an invalid one is, valid ones since, and when it
was last refreshed. -/
structure Reading where
  val : Int := 0
  invalid : Bool := false
  valid : Nat := 0
  seen : Nat := 0
  deriving DecidableEq, Repr

/-- The power controller and the Device Management Controller's view of the converter (spec/13). -/
structure Pwr where
  /-- 0 off, 1 input in or below range with no load rail, 2 load rails up, 3 tripped (Table 14.1, R634, R653) -/
  supply : Nat := 0
  /-- the input is in its operating range, and PERST_N is asserted; PERST_N deasserted before the rails were up (R659) -/
  inRange : Bool := false
  perst : Bool := true
  early : Option Straps := none
  sampleAt : Nat := 0
  /-- since when b has stood at 224 with every sample above the cap, and since when samples lie 5 % below it (R590) -/
  overSince : Option Nat := none
  underSince : Option Nat := none
  /-- a cap failure holds the lowest state -/
  capFail : Bool := false
  /-- Fronds in the lowest state by themselves (R597) -/
  therm : List Nat := []
  /-- an invalid power reading is in force, valid ones since, and when it was last refreshed (R613) -/
  bad : Bool := false
  good : Nat := 0
  seen : Nat := 0
  /-- the Frond sensors: 20 * Frond + sensor -/
  sens : Tab Reading := []
  /-- readings at or above their trip limit, and since when: 0 junction, 1 stack, 2 optics; the unit (R598) -/
  hotSince : List (Nat × Nat × Nat) := []
  /-- each Frond's count at the last sample -/
  cycles : List Nat := []
  /-- when lowest_ns was last brought up to date, and each Frond's count when its bubbles were -/
  meterAt : Nat := 0
  meterC : List Nat := []
  /-- the b that the last PACE carried, and when (R448) -/
  paceB : Nat := 0
  paceAt : Nat := 0
  /-- the length of the telemetry epoch in progress (R608) -/
  epochUs : Nat := 1000
  /-- the last readings of the converter, and its warning thresholds in mV (R585) -/
  pmbus : Option Pmbus := none
  /-- when they were taken (Table 14.12), and until when b is held by an activation of the power controller (Table 14.11) -/
  pmbusAt : Nat := 0
  holdTill : Nat := 0
  warn : Option (Nat × Nat) := none
  deriving DecidableEq, Repr

end Sys2Proof.Machine
end

