-- ==== Sys2Proof/Machine/State.lean ====
section
/-! DEFINITION. The state of the Kaztun as plain data, the ways a step can stop, and the state right after
power-on (INVENTORY.md, section State). -/

namespace Sys2Proof.Machine

/-- Why a step stops with a fault. -/
inductive Fault where
  /-- Raised by every meaning whose operand names a unit the part does not have (a tile above 1,535, a state
  entry above 71, a function above 48, a port above 31 …). Safe: the hardware has no such event (log 1). -/
  | noSuchUnit
  deriving DecidableEq, Repr

/-- Why a step is refused. -/
inductive Refusal where
  /-- Raised by Machine/Dispatch.lean alone, for a command without a meaning yet. Safe. -/
  | notModelled (mnemonic : String)
  deriving DecidableEq, Repr

/-- The TCLK clock of a Frond: its count at a time, and its rate since (R599 to R603). -/
structure Clk where
  mhz : Nat := 1600
  t0 : Nat := 0
  c0 : Nat := 0
  deriving DecidableEq, Repr

/-- The steps of a hash-key rotation (Table 5.11). -/
inductive Rot where
  | idle | waiting | draining | rekey
  deriving DecidableEq, Repr

/-- A message that left the module (log 23). -/
inductive Sent where
  | msix (fn vector : Nat) (addr : W64) (data : W32)
  | pageRequest (ctx : Nat) (pasid : Option Nat) (page : Nat) (write exec : Bool)
  | unsupported (fn offset : Nat)
  | bar4Data (fn offset : Nat) (data : List Byte) (poisoned : Bool)
  /-- a back-invalidate snoop of a line, to I or at most S (Table 6.4) -/
  | snoop (line : Nat) (inv : Bool)
  /-- a line supplied to the host -/
  | hostData (line : Nat) (excl : Bool) (data : List Byte) (poison : Nat)
  /-- a fabric message that left by a port, as its flits; a request for replay from a sequence number on, in a control flit that bears
  a number of its own; and a replay of the flits held from a number on -/
  | fabric (port : Nat) (msg : FabMsg) (flits : List Flit)
  | link (port : Nat) (seq own : BitVec 12)
  | resend (port : Nat) (seq : BitVec 12)
  | rspIHitI (line : Nat)
  /-- an ATS invalidation of a function complete -/
  | atsDone (fn : Nat)
  /-- the answer to STOP_INTERFACE of a session, once the reset is complete -/
  | tdispDone (sess part : Nat)
  /-- an answer of the Trust Controller, or of the Device Management Controller to PLDM -/
  | spdm (via : Transport) (rsp : SpdmRsp)
  /-- an Uncorrectable Internal Error through PCIe AER (R620), and the service record (R635) -/
  | aerFatal
  | svcRecord (r : Svc)
  deriving DecidableEq, Repr

structure State where
  /-- the commands that wait, first in, first out -/
  pending : List Instr := []
  /-- the model's own: draws of free values so far (log 3), and the next identifier (log 13) -/
  freeCtr : Nat := 0
  fresh : Nat := 0
  /-- time since power-on in picoseconds, and when module time was zero (R603, log 2) -/
  now : Nat := 0
  t0 : Nat := 0
  clks : Tab Clk := []
  /-- the set-up registers, by BAR0 byte offset of their 64-bit word (spec/15) -/
  regs : Tab W64 := []
  tiles : Tab Tile := []
  kernels : Tab Kernel := []
  ctxs : Tab Ctx := []
  parts : Tab Part := []
  xcache : List XEntry := []
  pageReqs : List PageReq := []
  /-- CTX_INV operations in progress: function, context, and the identifiers given out before it started (R518) -/
  invs : List (Nat × Nat × Nat) := []
  mem : Mem := []
  /-- poisoned 32-byte sectors of device memory, by sector number -/
  poison : Tab Bool := []
  host : Mem := []
  /-- 8-byte words of host memory known to come back poisoned, by word number (log 12) -/
  hostBad : List Nat := []
  /-- the host reported an AtomicOp completer at attach (R294; log 22) -/
  hostAtomics : Bool := true
  /-- the outstanding page requests that the host's PRI capability allows (R519; log 22) -/
  priAlloc : Nat := 512
  /-- CXL.cache was agreed at attach (R272; log 22) -/
  hostCache : Bool := true
  /-- an op of PRT_CMD that a rotation holds up, and its partition (R268) -/
  prtHeld : Option (Nat × Nat) := none
  /-- a hash-key rotation in progress, and its step (R265) -/
  rot : Rot := .idle
  /-- when the rotation in progress began to hold the requesters, in ps -/
  rotAt : Nat := 0
  /-- MSI-X vectors raised and not yet sent or latched, by function (R382, R646) -/
  raised : List (Nat × Nat) := []
  /-- what has left the module, newest first (log 23) -/
  sent : List Sent := []
  reqs : List Req := []
  rsps : List Rsp := []
  hostReqs : List HostReq := []
  frames : Tab (Option Frame) := []
  misses : Tab (Option Miss) := []
  hosts : Tab (Option HostSt) := []
  /-- the order in which the host filter's lines were last used, by line; and its count (R299) -/
  hostUse : Tab Nat := []
  hostTick : Nat := 0
  /-- the host agent is silent (R315) -/
  silent : Bool := false
  /-- pseudo-LRU bits of each set of each slice (R226; log 18) -/
  plru : Tab Nat := []
  /-- errors in the slices' data arrays that no read has met yet: sector, and whether it can be corrected (R223) -/
  upsets : List (Nat × Bool) := []
  /-- errors in the memory tiers that no fill has met yet: line, and error (R309, R350; log 12) -/
  tierErrs : List (Nat × MemErr) := []
  /-- requests whose forward timed out, until its late answers have come (R317) -/
  timedOut : List Nat := []
  /-- watches registered at the homes: line and watcher (R77) -/
  watches : List (Nat × Src) := []
  queues : Tab Queue := []
  /-- events whose log page waits for the host's answer (R672) -/
  events : List EvtWait := []
  ports : Tab Port := []
  els : Tab ElsSt := []
  xfers : Tab (Option Xfer) := []
  cohorts : Tab Cohort := []
  paces : List Pace := []
  /-- fabric messages received whole and not yet acted on, and messages that wait for a port, since when -/
  inbox : List (Nat × FabMsg) := []
  outbox : List (Nat × FabMsg × Nat) := []
  /-- ways and miss registers that self-test disabled, by slice (Table 14.2) -/
  waysOff : List (Nat × Nat) := []
  missOff : List (Nat × Nat) := []
  /-- the page map: how it was laid out at the last memory stage, and what differs from that (R321, R324) -/
  bad : BadSet := {}
  pageCount : Nat := 0
  pages : Tab Page := []
  /-- frames freed and taken since the layout, frames retired, frames whose pages are being rehoused -/
  freed : List FrameNo := []
  taken : List FrameNo := []
  retired : List FrameNo := []
  retiring : List FrameNo := []
  fastCh : Tab Chan := []
  capCh : Tab Chan := []
  /-- capacity channels whose share of a map copy is being rebuilt (R322) -/
  rebuilding : List Nat := []
  /-- frames that a rebuilt map copy took from the free ones (R322) -/
  mapFrames : List FrameNo := []
  /-- moves in progress, moves needed for pins, retirement and drain, and the epoch's planned moves -/
  moves : List Move := []
  todo : List Move := []
  plan : List Move := []
  policyStarts : Nat := 0
  otherStarts : Nat := 0
  /-- sectors poisoned in memory while their homes hold them valid (R337) -/
  under : List Nat := []
  /-- pages whose moves an op of TIER_CMD waits for (R342, R359) -/
  tierWaits : List Nat := []
  /-- the patrol scrub of the fast tier and of the capacity tier (R348) -/
  scrubFast : Scrub := {}
  scrubCap : Scrub := {}
  /-- accesses seen by each channel's sampler, and the classifier (R329, R351) -/
  sampled : Tab Nat := []
  cells : List CellKey := []
  lastCells : List (CellKey × Nat) := []
  /-- rows with uncorrectable errors in this pass: tier, (pseudo-)channel, bank, row (R355) -/
  badRows : List (Bool × Nat × Nat × Nat) := []
  /-- column repairs whose rewrite goes on: fast channel and subarray (R353) -/
  repairs : List (Nat × Nat) := []
  stackTemps : Tab StackTemp := []
  /-- capacity-device temperature readings in force as invalid, by device, and valid ones since -/
  capTemps : Tab StackTemp := []
  models : Tab Model := []
  herbTick : Nat := 0
  /-- prefetches in progress: function and handle -/
  prefetches : List (Nat × Nat) := []
  /-- slices that are hot, and those with an entering record this epoch (R260, R261) -/
  hot : List Nat := []
  hotSeen : List Nat := []
  /-- the telemetry epoch in progress, and the module time at which it began, in ns (R608) -/
  epoch : Nat := 0
  epochStart : Nat := 0
  /-- quarantined tiles, with whether the supervisor asked for it; tiles failed with no spare (R622, R624) -/
  quarantined : List (Nat × Bool) := []
  noSpare : List Nat := []
  /-- energy charged in the 10 us interval in progress, in half picojoules, by owner: a queue, or 16,384 + a partition
  (R605, R606) -/
  spent : Tab Nat := []
  /-- changes of a tile's kernel in that interval, newest first: tile, the queue before, the cycle -/
  occ : List (Nat × Option Nat × Nat) := []
  /-- corrected errors of each tile in this epoch (R622) -/
  tileCe : Tab Nat := []
  keys : Tab KeySlot := []
  /-- messages that wait for a RETIRING slot, with the partition that sends them (R560) -/
  stalled : List (Nat × FabMsg) := []
  /-- responses and CTL messages of this module as they were sent, for a ROUTE_LOST NAK (R413; log 71) -/
  kept : List FabMsg := []
  /-- messages of PUTs that ended before they were acknowledged, with their queue (R428) -/
  putsOut : List (Nat × FabMsg) := []
  /-- the applied hash key (R230) -/
  hashKey : W128 := 0
  /-- each Frond's count when the rotation in progress began to hold the requesters (R267) -/
  rotCycles : List Nat := []
  /-- virtual functions enabled through SR-IOV, and the size of each function's BAR4 in bytes (R636, R648) -/
  vfs : Nat := 0
  bar4 : Tab Nat := []
  /-- functions whose Function Level Reset waits for a rotation (R268) -/
  flrs : List Nat := []
  tdis : Tab Tdi := []
  pwr : Pwr := {}
  trust : Trust := {}
  fuses : Fuses := {}
  /-- the firmware of a component of Table 12.1, where it is not as shipped -/
  fw : Tab (Option Fw) := []
  svc : Svc := {}
  /-- the tile map, physical tiles marked failed by Frond, and trips and fatal errors not yet in the service record -/
  tmap : Tab Nat := []
  failedPhys : List (Nat × Nat) := []
  unsaved : Svc := {}
  /-- a self-test that runs: kind, unit, seed, and when it started (R625) -/
  bist : Option (Nat × Nat × W16 × Nat) := none
  /-- each channel's last recalibration: temperature and time, by channel, capacity channels from 512 on (R632) -/
  recals : Tab (Option (Int × Nat)) := []
  /-- failed resends in a row of each Stipe link (R366) -/
  links : Tab Nat := []
  /-- the I3C dynamic address, and the TAP's instruction register where it is not bypass (R660, R661) -/
  i3c : Option (BitVec 7) := none
  tap : Option W32 := none
  /-- RO/L words that have been written since they were last cleared (R22) -/
  locks : List Nat := []
  deriving DecidableEq, Repr

/-- The module right after power-on. -/
def State.reset : State := {}

abbrev Res := Host.Outcome State Fault Refusal

end Sys2Proof.Machine
end

