-- ==== Sys2Proof/Machine/Regs.lean ====
section
/-! DEFINITION. The set-up registers: where every field stands, and reading and writing one (spec/15; the
field maps of the other chapters). -/

namespace Sys2Proof.Machine

/-- A field of a register: the key of its 64-bit word, and its bits there. -/
structure Field where
  key : Nat
  hi : Nat
  lo : Nat
  deriving DecidableEq, Repr

/-- A field of the 32-bit or 64-bit register at a BAR0 offset: bits of the word that holds it. -/
def fieldAt (off hi lo : Nat) : Field :=
  if off % 8 = 4 then ⟨off - 4, hi + 32, lo + 32⟩ else ⟨off, hi, lo⟩

/-- The copy of a field that function `fn` has (R640); function 0 is the physical function. -/
def Field.of (f : Field) (fn : Nat) : Field := { f with key := f.key + fn * 2 ^ 32 }

/-- Live counters stand beside their snapshots (R609). -/
def liveKey (off : Nat) : Nat := 2 ^ 60 + off

/-- A row of the reset table: registers at `off`, `off + stride`, … (`n` of them) with the reset value `val`. -/
structure ResetRow where
  off : Nat
  stride : Nat := 8
  n : Nat := 1
  val : W64
  deriving DecidableEq, Repr

/-- The words whose reset value is not 0 (field maps of spec/05 to spec/15). -/
def resetRows : List ResetRow :=
  [ ⟨0x00000000, 8, 1, 0x00004B3202100102⟩   -- ID_PART of a KZ2-48L (Table 15.3; log 15)
  , ⟨0x00000010, 8, 1, 0x0100100080300600⟩   -- ID_CAP, every group enabled (Table 15.5)
  , ⟨0x00000020, 8, 1, 0x0008000000000200⟩   -- ID_CACHE, every way enabled (Table 15.7)
  , ⟨0x00010000, 8, 1, 0x0200040406040604⟩   -- NEG_OFFER (Table 10.2)
  , ⟨0x00101008, 64, 48, 0x0C⟩               -- PRT_DLOG.log2 (Table 11.12)
  , ⟨0x00201008, 32, 48, 0x60000⟩            -- QUE_EVLOG.log2 (Table 10.20)
  , ⟨0x00400000, 8, 1, 0x10261⟩              -- TIER_CFG (Table 7.7)
  , ⟨0x00400008, 8, 1, 0x0000080000100040⟩   -- TIER_POLICY (Table 7.8)
  , ⟨0x00400030, 8, 1, 0x1180C⟩              -- TIER_SCRUB (Table 7.13)
  , ⟨0x00400100, 8, 48, 0xFFFFFF⟩            -- TIER_QUOTA (Table 7.12)
  , ⟨0x00500010, 8, 1, 0x0000FFFFFFFFFFFF⟩   -- UC_COMP_EN (Table 5.7)
  , ⟨0x00500200, 8, 1, 0x106C0⟩              -- UC_HOT_CFG (Table 5.9)
  , ⟨0x00500300, 8, 1, 0x32⟩                 -- UC_COH_TMO (Table 6.8)
  , ⟨0x00500400, 8, 1, 0x0F800401FF40⟩       -- UC_CASE[0] (Table 8.7)
  , ⟨0x00500410, 16, 14, 0x0F800401FF00⟩     -- UC_CASE[1] to [14]
  , ⟨0x005004F0, 8, 1, 0x0F800401BF00⟩       -- UC_CASE[15]
  , ⟨0x00500508, 8, 1, 0x71⟩                 -- UC_NET_CFG (Table 8.9)
  , ⟨0x00600000, 8, 1, 0x210000⟩             -- FAB_ID (Table 9.9)
  , ⟨0x00600010, 8, 1, 0x00000400140C80C8⟩   -- FAB_TMO (Table 9.10)
  , ⟨0x00601000, 64, 32, 0x505⟩              -- FAB_PORT_CTL (Table 9.12)
  , ⟨0x00601008, 64, 32, 0x1E000⟩            -- FAB_PORT_STAT.spare (Table 9.13)
  , ⟨0x00602010, 64, 48, 1⟩                  -- FAB_COH_CFG.enc (Table 9.15)
  , ⟨0x00800000, 8, 1, 0xE100E10⟩            -- PWR_CAP of a KZ2-48L (Table 13.2; log 15)
  , ⟨0x00800008, 8, 1, 0x64001C⟩             -- PWR_CTL (Table 13.3)
  , ⟨0x00800100, 8, 12, 0x6400640⟩           -- PWR_TCLK (Table 13.6)
  , ⟨0x00A00008, 8, 1, 0x88010000⟩           -- RAS_CTL (Table 14.10)
  , ⟨0x00A00020, 8, 1, 0x10A0A⟩              -- RAS_CAL (R632)
  , ⟨0x00C00000, 8, 1, 0x3E8⟩                -- TEL_CTL (Table 13.7)
  , ⟨0x00E00008, 16, 2048, 0x100000000⟩      -- MSI-X vector control: masked (PCIe; log 19)
  ]

/-- What a register word that nothing has written reads as: its reset value. -/
def regReset (k : Nat) : W64 :=
  if 2 ^ 60 ≤ k ∧ k < 2 ^ 61 then 0
  else
    let o := k % 2 ^ 32
    match resetRows.find? fun r => decide (r.off ≤ o) && (o - r.off) % r.stride == 0 &&
        decide ((o - r.off) / r.stride < r.n) with
    | some r => r.val
    | none => 0

end Sys2Proof.Machine
end

