-- ==== Sys2Proof/Machine/Ops.lean ====
section
/-! DEFINITION. The named operations over the state: units, time, registers, records and events, tiles
and translations. -/

namespace Sys2Proof.Machine

/-! ### Units and outcomes (log 1) -/

/-- A meaning that acts on a unit: a fault where the part has no such unit, else the next state. -/
def unit (ok : Bool) (s : State) : Res := if ok then .next s else .fault .noSuchUnit

def tileOk (t : Nat) : Bool := decide (t < 1536)
def atOk (a : At) : Bool := tileOk a.tile && decide (a.entry < 72)

/-! ### Time (R603, R599; log 2) -/

def frondOf (tile : Nat) : Nat := tile / 128

def clkDef : Nat → Clk := fun _ => {}

def State.clk (s : State) (f : Nat) : Clk := tabGet clkDef s.clks f

/-- TCLK cycles of a Frond since reset (Table 3.11). -/
def State.cycle (s : State) (f : Nat) : Nat :=
  let k := s.clk f
  k.c0 + (s.now - k.t0) * k.mhz / 1000000

/-- The state with time moved on to `ps` where it stands before it (log 2). -/
def State.reach (s : State) (ps : Nat) : State := { s with now := max s.now ps }

/-- The state with time moved on until a Frond's count is at least `c` (log 2). -/
def State.reachCycle (s : State) (f c : Nat) : State :=
  let k := s.clk f
  if c ≤ s.cycle f then s else s.reach (k.t0 + ((c - k.c0) * 1000000 + k.mhz - 1) / k.mhz)

/-- Module time in nanoseconds: a multiple of 5 (R603). -/
def State.timeNs (s : State) : Nat := (s.now - s.t0) / 5000 * 5

/-- A hash-key rotation holds every requester (Table 5.11, steps 2 to 6). -/
def State.rotating (s : State) : Bool := s.rot == .draining || s.rot == .rekey

/-! ### Registers -/

def State.word (s : State) (k : Nat) : W64 := tabGet regReset s.regs k
def State.setWord (s : State) (k : Nat) (v : W64) : State := { s with regs := tabSet regReset s.regs k v }

def State.fld (s : State) (f : Field) : Nat := bitsOf (s.word f.key).toNat f.hi f.lo
def State.setFld (s : State) (f : Field) (v : Nat) : State :=
  s.setWord f.key (BitVec.ofNat 64 (bitsPut (s.word f.key).toNat f.hi f.lo v))

/-- One added to a 64-bit count. -/
def State.bump (s : State) (k : Nat) (n : Nat := 1) : State := s.setWord k (s.word k + BitVec.ofNat 64 n)

/-- A free value is drawn (log 3). -/
def State.draw (s : State) : Nat × State := (Config.free s.freeCtr, { s with freeCtr := s.freeCtr + 1 })

def State.freshId (s : State) : Nat × State := (s.fresh, { s with fresh := s.fresh + 1 })

/-! ### MSI-X, the reliability log (R629, R646, Table 14.9) -/

/-- A vector is raised; it is sent, or kept pending while masked, by MSIX_SEND. -/
def State.raiseVec (s : State) (fn v : Nat) : State := { s with raised := s.raised ++ [(fn, v)] }

def msixWord (fn v half : Nat) : Nat := fn * 2 ^ 32 + 0x00E00000 + 16 * v + 8 * half
def pbaWord (fn v : Nat) : Nat := fn * 2 ^ 32 + 0x00E10000 + 8 * (v / 64)

def rasRelVec : Field := fieldAt 0x00A00008 10 0
def rasFabVec : Field := fieldAt 0x00A00008 26 16
def rasLogHead : Field := fieldAt 0x00A00010 15 0

/-- How a record code is handled: logged, and reported as an event (Table 14.9). -/
def rasLogged (code : Nat) : Bool :=
  [0x01, 0x02, 0x03, 0x04, 0x05, 0x06, 0x07, 0x08, 0x0A, 0x0C, 0x0D, 0x0E, 0x0F, 0x11, 0x13, 0x14, 0x16,
   0x19, 0x1A, 0x1B, 0x1C].contains code
def rasEvent (code : Nat) : Bool :=
  [0x02, 0x03, 0x04, 0x05, 0x06, 0x08, 0x0E, 0x0F, 0x10, 0x11, 0x13, 0x14, 0x19, 0x1A].contains code

/-- One occurrence of a code counted (R629). -/
def State.rasCount (s : State) (code : Nat) (n : Nat := 1) : State := s.bump (0x00A00800 + 8 * code) n

/-- A record appended to the reliability log ring. -/
def State.rasAppend (s : State) (code sev part unit : Nat) (d0 d1 : W64) : State :=
  let h := s.fld rasLogHead
  let a := 0x00A01000 + 32 * (h % 1024)
  let s := s.setWord a (BitVec.ofNat 64 s.timeNs)
  let s := s.setWord (a + 8) (BitVec.ofNat 64 (code + 2 ^ 8 * sev + 2 ^ 16 * part + 2 ^ 32 * unit))
  let s := s.setWord (a + 16) d0
  let s := s.setWord (a + 24) d1
  s.setFld rasLogHead (h + 1)

/-- A reliability occurrence: counted, logged and raised as its code says (R629). -/
def State.ras (s : State) (code sev part unit : Nat) (d0 : W64 := 0) (d1 : W64 := 0) : State :=
  let s := s.rasCount code
  let s := if rasLogged code then s.rasAppend code sev part unit d0 d1 else s
  if rasEvent code then s.raiseVec 0 (s.fld rasRelVec) else s

/-- An input the boundary rejects (R633). -/
def State.rejectInput (s : State) : State := s.rasCount 0x1D

/-! ### The boot stage (Tables 14.1, 14.10) -/

def bootStage : Field := ⟨0x00A00000, 3, 0⟩
def bootCompat : Field := ⟨0x00A00000, 8, 8⟩
def bootSlot : Field := ⟨0x00A00000, 21, 16⟩
def bootMs : Field := ⟨0x00A00000, 47, 32⟩

/-- Stage 5 READY: every register answers. Before it the host link answers no memory access; in stages 6 to 8 only the ID_,
RAS_, TC_ and PWR_ blocks answer (R614, R615, R620). -/
def State.ready (s : State) : Bool := s.fld bootStage == 5
def State.answers (s : State) : Bool := decide (5 ≤ s.fld bootStage)

/-- A write of the supervisor to a register that answers in stage 5 alone. -/
def State.sup (s : State) (f : State → State) : State := if s.ready then f s else s
/-- A write of the supervisor to a register that answers in stages 6 to 8 too (R615, R620). -/
def State.ans (s : State) (f : State → State) : State := if s.answers then f s else s

/-- FAB_COH_EPOCH of a partition (Table 9.15). -/
def cohEpoch (p : Nat) : Field := ⟨0x00602000 + 64 * p, 31, 0⟩

/-! ### Issue bubbles (R72, R588, R589) -/

def pwrB : Field := ⟨0x00800010, 19, 12⟩
def pwrLowest : Field := ⟨0x00800010, 22, 22⟩
def tclkReg (f hi lo : Nat) : Field := ⟨0x00800100 + 8 * f, hi, lo⟩

/-- The effective bubble ratio of a Frond. -/
def State.bubbles (s : State) (f : Nat) : Nat :=
  if s.fld pwrLowest = 1 || s.fld (tclkReg f 28 28) = 1 then 224 else max (s.fld pwrB) (s.fld (tclkReg f 39 32))

/-- Cycle `n` of a Frond with ratio `b` is a bubble. -/
def isBubble (b n : Nat) : Bool := decide (n * b / 256 < (n + 1) * b / 256)

/-- The first cycle from `c` on that is no bubble. -/
def State.openCycle (s : State) (f c : Nat) : Nat := (tabFind (fun n => !isBubble (s.bubbles f) n) c 256).getD c

/-! ### Tiles and clauses -/

def State.tile (s : State) (t : Nat) : Tile := tabGet tileNone s.tiles t
def State.setTile (s : State) (t : Nat) (x : Tile) : State := { s with tiles := tabSet tileNone s.tiles t x }
def State.clause (s : State) (a : At) : Clause := (s.tile a.tile).clause a.entry
def State.setClause (s : State) (a : At) (c : Clause) : State :=
  s.setTile a.tile ((s.tile a.tile).setClause a.entry c)

def kernelNone : Nat → Kernel := fun _ => { st := .done }
def ctxNone : Nat → Ctx := fun _ => {}
def partNone : Nat → Part := fun _ => {}

def State.kernel (s : State) (k : Nat) : Kernel := tabGet kernelNone s.kernels k
def State.setKernel (s : State) (k : Nat) (x : Kernel) : State :=
  { s with kernels := tabSet kernelNone s.kernels k x }
def State.ctx (s : State) (c : Nat) : Ctx := tabGet ctxNone s.ctxs c
def State.setCtx (s : State) (c : Nat) (x : Ctx) : State := { s with ctxs := tabSet ctxNone s.ctxs c x }
def State.part (s : State) (p : Nat) : Part := tabGet partNone s.parts p
def State.setPart (s : State) (p : Nat) (x : Part) : State := { s with parts := tabSet partNone s.parts p x }

/-- The kernel whose clauses a tile holds. -/
def State.tileKernel (s : State) (t : Nat) : Kernel :=
  match (s.tile t).kernel with
  | some k => s.kernel k
  | none => { st := .done }

/-- What a tile's kernel was until now, noted for the energy of the interval (R606). -/
def State.occupy (s : State) (t : Nat) : State :=
  let q := (s.tile t).kernel.map fun k => (s.kernel k).queue
  { s with occ := (t, q, s.cycle (frondOf t)) :: s.occ }

/-- The HCLK cycle in progress: 1.5 GHz (Table 1.3). -/
def State.hclk (s : State) : Nat := s.now * 3 / 2000

/-- A fault reaches the Rhizome, which records the kernel's first; of those of one HCLK cycle it records the one of R90, and
it counts the others. -/
def State.kernelFault (s : State) (k : Nat) (cause : Nat) (va : W64) (f : FaultBy) : State :=
  let kn := s.kernel k
  let set (s : State) : State := s.setKernel k { kn with fault := some (cause, f.tile, va), faultBy := some f }
  match kn.fault, kn.faultBy with
  | none, _ => set s
  | some _, some g => if f.over g then (set s).rasCount 0x15 else s.rasCount 0x15
  | some _, none => s.rasCount 0x15

/-- A clause raises a fault: its tile stops issuing, and the Rhizome is told (R89, R90). An ACTIVE or ADMITTED clause is
FAULTED; a clause that poison reaches in another state stays there until the kernel ends (Table 2.6, Table 6.7; log 35). -/
def State.clauseFault (s : State) (a : At) (cause : Nat) (va : W64) : State :=
  let t := s.tile a.tile
  let c := t.clause a.entry
  let st := if c.st == .active || c.st == .admitted then .faulted else c.st
  let s := s.setTile a.tile { (t.setClause a.entry { c with st := st, xlat := none }) with stopped := true }
  match t.kernel with
  | none => s
  | some k => s.kernelFault k cause va { cycle := s.hclk, tile := a.tile, blk := (t.block c.blk).index, idx := c.idx }

/-! ### Translations (R513 to R517) -/

/-- The function's page-table format: its copies of NEG_HTFD0 to NEG_HTFD3 (Table 11.5, R640). -/
def htfd (fn i : Nat) : Nat := fn * 2 ^ 32 + 0x00010040 + 8 * i
def htfdLevels (fn : Nat) : Field := ⟨htfd fn 0, 58, 56⟩

/-- The width of a context's virtual addresses: 48 or 57 bits. -/
def State.vaBits (s : State) (ctx : Nat) : Nat :=
  if s.fld (htfdLevels (s.ctx ctx).fn) = 5 then 57 else 48

/-- An address is canonical for a width: its upper bits copy its top bit (R160). -/
def canonical (w : Nat) (va : W64) : Bool :=
  let t := va.toNat / 2 ^ (w - 1)
  t == 0 || t == 2 ^ (65 - w) - 1

def XEntry.grants (x : XEntry) : Acc → Bool
  | .read => x.rd
  | .write => x.wr
  | .atomic => x.at_
  | .exec => x.ex

/-- A cached translation that serves an access. -/
def State.xlook (s : State) (ctx : Nat) (va : W64) (acc : Acc) : Option XEntry :=
  let vpn := va.toNat / 4096
  s.xcache.find? fun x => x.ctx == ctx && decide (x.vpn ≤ vpn) && decide (vpn < x.vpn + x.pages) && x.grants acc

/-- The device physical byte of byte `off` of a partition's pages (R523). -/
def grantByte : List (Nat × Nat) → Nat → Option Nat
  | [], _ => none
  | (first, n) :: rest, off =>
    if off < n * 65536 then some (first * 65536 + off) else grantByte rest (off - n * 65536)

/-- Where an access lands: host memory or device memory, with the byte address there. -/
structure Loc where
  host : Bool
  addr : Nat
  deriving DecidableEq, Repr

/-- Where a cached translation leads (R516). -/
def State.resolve (s : State) (x : XEntry) (va : W64) : Option Loc :=
  let off := x.off + (va.toNat - x.vpn * 4096)
  if x.host then some ⟨true, off⟩
  else (grantByte (s.part (s.ctx x.ctx).part).grant off).map fun a => ⟨false, a⟩

/-- Where an address leads for an access, if its translation is cached. -/
def State.locate (s : State) (ctx : Nat) (va : W64) (acc : Acc) : Option Loc :=
  match s.xlook ctx va acc with
  | some x => s.resolve x va
  | none => none

/-! ### Where a line stands (R227; log 8) -/

/-- The slice and the set of a line, as one number: 512 * slice + set. -/
def State.setOf (s : State) (line : Nat) : Nat :=
  let a := line * 128
  let f := (Config.hashF s.hashKey (BitVec.ofNat 64 (a / 2 ^ 17))).toNat
  512 * Nat.xor (bitsOf a 16 8) (bitsOf f 8 0) + Nat.xor (bitsOf a 25 17) (bitsOf f 17 9)

def State.sliceOf (s : State) (line : Nat) : Nat := s.setOf line / 512

/-- Both lines have one home slice; both lines of a pair have (R229). -/
def State.sameSlice (s : State) (a b : Nat) : Bool := a / 2 == b / 2 || s.sliceOf a == s.sliceOf b

/-! ### Requests on their way (R232) -/

/-- The network port of a requester: a tile's, a Parser's, the host link's. -/
def Src.tile : Src → Nat
  | .clause c | .watchRead c => c.tile
  | .args c _ => c.tile
  | .prefetch c _ => c.tile
  | .parser q _ => 2000 + q
  | .host => 20000

def Miss.waits (m : Option Miss) : List Req := match m with
  | some m => m.waiters
  | none => []

/-- An answer that ends a request. -/
def RspKind.ends (k : RspKind) : Bool := [RspKind.data, .dataF, .ack, .atomRsp].contains k

/-- R232: a request that waits in its requester, whose port has 16 requests outstanding at the slice: at the home, on their way to it,
turned away, or answered and the answer not yet taken. -/
def State.unsent (s : State) (r : Req) : Bool :=
  let ws := s.misses.flatMap fun e => Miss.waits e.2
  let as := s.rsps.filter (·.kind.ends)
  if s.reqs.length + ws.length + as.length ≤ 16 then false
  else
    let mine (q : Req) : Bool := q.src.tile == r.src.tile && s.sameSlice q.line r.line
    let out := (ws.filter mine).length + (as.filter fun x => mine x.req).length + (s.reqs.filter fun q => q.st != .sent && mine q).length
    let ahead := ((s.reqs.takeWhile (·.id != r.id)).filter fun q => q.st == .sent && mine q).length
    r.st == .sent && decide (16 ≤ out + ahead)

/-- A clause stalls while one of its requests waits in its tile (R75, R232). -/
def State.crowded (s : State) (a : At) : Bool := s.reqs.any fun r =>
  (r.src == .clause a || r.src == .prefetch a true || r.src == .prefetch a false) && s.unsent r

/-! ### Memory keys (R556, R561) -/

def State.keySlot (s : State) (n : Nat) : KeySlot := tabGet (fun _ => {}) s.keys n
def State.setKey (s : State) (n : Nat) (k : KeySlot) : State := { s with keys := tabSet (fun _ => {}) s.keys n k }

/-- The TDI of a partition (Table 12.5). -/
def State.tdi (s : State) (p : Nat) : Tdi := tabGet (fun _ => {}) s.tdis p
def State.setTdi (s : State) (p : Nat) (t : Tdi) : State := { s with tdis := tabSet (fun _ => {}) s.tdis p t }

/-- The slot whose key the pages of an encrypted partition use, for a page. -/
def State.memSlot (s : State) (page : Nat) : Option Nat :=
  (s.parts.find? fun x => x.2.st != .free && x.2.enc && x.2.grant.any fun g => decide (g.1 ≤ page) && decide (page < g.1 + g.2)).map
    (·.2.key)

/-- The key of a page's partition is gone: fills deliver poison, and write-backs store it (R561). -/
def State.keyless (s : State) (page : Nat) : Bool := match s.memSlot page with
  | some n => (s.keySlot n).st == 0 || (s.keySlot n).type != 1
  | none => false

/-- A sector reads as poisoned: it is marked so, or it is not cached and its key is gone. -/
def State.sectorBad (s : State) (sector : Nat) : Bool :=
  tabGet (fun _ => false) s.poison sector ||
    (s.keyless (sector / 2048) && !(match tabGet (fun _ => none) s.frames (sector / 4) with
      | some f => bitOf f.valid (sector % 4)
      | none => false))

end Sys2Proof.Machine
end

