-- ==== Sys2Proof/Machine/MemOps.lean ====
section
/-! DEFINITION. What every write and read of memory does beside the bytes: the forwarder and the watches of a
line, poison, and the migration log (spec/05 R223, spec/06 R302 to R316, spec/11 R530 to R532). -/

namespace Sys2Proof.Machine

def frameNone : Nat → Option Frame := fun _ => none
def missNone : Nat → Option Miss := fun _ => none
def hostNone : Nat → Option HostSt := fun _ => none

def State.frame (s : State) (line : Nat) : Option Frame := tabGet frameNone s.frames line
def State.setFrame (s : State) (line : Nat) (f : Option Frame) : State :=
  { s with frames := tabSet frameNone s.frames line f }
def State.miss (s : State) (line : Nat) : Option Miss := tabGet missNone s.misses line
def State.setMiss (s : State) (line : Nat) (m : Option Miss) : State :=
  { s with misses := tabSet missNone s.misses line m }
def State.hostOf (s : State) (line : Nat) : Option HostSt := tabGet hostNone s.hosts line
def State.setHost (s : State) (line : Nat) (h : Option HostSt) : State :=
  let use := if h.isSome then s.hostTick + 1 else 0
  { s with
    hosts := tabSet hostNone s.hosts line h
    hostUse := tabSet (fun _ => 0) s.hostUse line use
    hostTick := s.hostTick + 1 }

/-! ### Poison (R309, R312) -/

def State.setPoison (s : State) (sector : Nat) (b : Bool) : State :=
  { s with poison := tabSet (fun _ => false) s.poison sector b }

/-- The poison bits of a line, bit i for sector i. -/
def State.linePoison (s : State) (line : Nat) : Nat :=
  (List.range 4).foldl (fun m i => if s.sectorBad (4 * line + i) then m + 2 ^ i else m) 0

/-- Some sector of a byte range is poisoned. -/
def State.rangeBad (s : State) (a n : Nat) : Bool :=
  (s.poison.any fun x => x.2 && decide (a / 32 ≤ x.1) && decide (x.1 * 32 < a + n)) ||
    (s.parts.any (fun x => x.2.enc) && (List.range ((a + n + 31) / 32 - a / 32)).any fun i => s.sectorBad (a / 32 + i))

/-- The sectors of a byte range, each with whether the range covers it whole. -/
def rangeSectors (a n : Nat) : List (Nat × Bool) :=
  if n = 0 then []
  else (List.range ((a + n - 1) / 32 - a / 32 + 1)).map fun i =>
    let k := a / 32 + i
    (k, decide (a ≤ 32 * k) && decide (32 * k + 32 ≤ a + n))

def rangeLines (a n : Nat) : List Nat :=
  if n = 0 then [] else (List.range ((a + n - 1) / 128 - a / 128 + 1)).map (a / 128 + ·)

/-! ### Migration log (Table 11.12) -/

def dlogOff (p : Nat) : Nat := 0x00101000 + 64 * p
def dlogLog2 (p : Nat) : Field := ⟨dlogOff p + 8, 4, 0⟩
def dlogEn (p : Nat) : Field := ⟨dlogOff p + 8, 8, 8⟩
def dlogOverflow (p : Nat) : Field := ⟨dlogOff p + 8, 10, 10⟩
def dlogHead (p : Nat) : Field := ⟨dlogOff p + 16, 31, 0⟩
def dlogTail (p : Nat) : Field := ⟨dlogOff p + 16, 63, 32⟩
def dlogRounds (p : Nat) : Field := ⟨dlogOff p + 24, 31, 0⟩

/-- The partition page number of a device page (R523). -/
def partPage : List (Nat × Nat) → Nat → Nat → Option Nat
  | [], _, _ => none
  | (first, n) :: rest, page, at_ =>
    if first ≤ page ∧ page < first + n then some (at_ + (page - first)) else partPage rest page (at_ + n)

/-- An entry appended to the log; on a full ring logging stops (R532). -/
def State.dlogAppend (s : State) (p entry : Nat) : State :=
  let size := 2 ^ s.fld (dlogLog2 p)
  let tail := s.fld (dlogTail p)
  if size ≤ (2 ^ 32 + tail - s.fld (dlogHead p)) % 2 ^ 32 then
    (s.setFld (dlogOverflow p) 1).ras 0x19 1 p 0
  else
    ({ s with host := memPutLe s.host ((s.word (dlogOff p)).toNat + 8 * (tail % size)) 8 entry }).setFld
      (dlogTail p) (tail + 1)

/-- DLOG_ENTRY (R530, R531): the page of a write made for partition `p`, once in each round. -/
def State.dlog (s : State) (p : Nat) (host : Bool) (addr : Nat) : State :=
  if s.fld (dlogEn p) = 0 || s.fld (dlogOverflow p) = 1 then s
  else
    let pt := s.part p
    let key := if host then 2 ^ 60 + addr / 4096 else addr / 65536
    if pt.dlogged.contains key then s
    else
      let mark (s : State) : State := s.setPart p { pt with dlogged := key :: pt.dlogged }
      if host then mark (s.dlogAppend p (addr / 4096 * 4096))
      else match partPage pt.grant (addr / 65536) 0 with
        | some pg => mark (s.dlogAppend p (pg * 65536 + 1))
        | none => s

/-! ### Lines written (Table 6.5, R288, R304, R386) -/

/-- A watch notification, which one that waits for the same watcher and line absorbs (R386). -/
def State.notifyWatch (s : State) (w : Nat × Src) : State :=
  if s.rsps.any fun r => r.kind == .notify && r.req.src == w.2 && r.req.line == w.1 then s
  else
    let (id, s) := s.freshId
    { s with rsps := s.rsps ++ [{ id := id, kind := .notify
                                  req := { id := id, kind := .watch, src := w.2, line := w.1 } }] }

/-- A watch notification for each watcher of a line that has none waiting. -/
def State.notifyLine (s : State) (line : Nat) : State := (s.watches.filter (·.1 == line)).foldl State.notifyWatch s

/-- A line in an L1 is in state F or S (Table 6.2). -/
def State.l1State (s : State) (line tile : Nat) (f : Bool) : State :=
  match tabGet l1None (s.tile tile).l1 line with
  | some l => s.setTile tile { s.tile tile with l1 := tabSet l1None (s.tile tile).l1 line (some { l with fwd := f }) }
  | none => s

/-- The home's record of a line's forwarder. The L1 that holds the line in F is the one recorded, so that there is never a
second: no message tells the one before (R296, Tables 6.2 and 6.3; log 79). -/
def State.setFwd (s : State) (line : Nat) (new : Option Nat) : State :=
  match s.frame line with
  | none => s
  | some f =>
    let s := match f.fwd with
      | some u => s.l1State line u false
      | none => s
    let s := match new with
      | some u => s.l1State line u true
      | none => s
    s.setFrame line (some { f with fwd := new })

/-- A line has been written at its home: no forwarder is recorded any more, and its watchers are told. -/
def State.lineWritten (s : State) (line : Nat) : State := (s.setFwd line none).notifyLine line

/-- A byte range meets a released page (R344). -/
def State.releasedIn (s : State) (a n : Nat) : Bool :=
  s.pages.any fun x => x.2.released && decide (a / 65536 ≤ x.1) && decide (x.1 * 65536 < a + n)

/-- The device byte range of a place. -/
def Loc.dev (l : Loc) (n : Nat) : List (Nat × Nat) := if l.host then [] else [(l.addr, n)]

end Sys2Proof.Machine
end

