-- ==== Sys2Proof/Machine/TierOps.lean ====
section
/-! DEFINITION. Frames, pages and channels of the two memory tiers (spec/07 R319 to R328, R344, R349 to R357). -/

namespace Sys2Proof.Machine

/-! ### Channels and frames (Table 7.1) -/

def chanNone : Nat → Chan := fun _ => {}
def tierCh (fast : Bool) : Nat := if fast then 512 else 32
/-- Frames of one channel. -/
def tierSlots (fast : Bool) : Nat := if fast then 24576 else 1048576
def FrameNo.ch (f : FrameNo) : Nat := f.n % tierCh f.fast
def FrameNo.slot (f : FrameNo) : Nat := f.n / tierCh f.fast

/-- Where a bit of a sector of a frame lies: pseudo-channel, bank, row and 32-byte burst of the row (R326, Table 7.2, R327). -/
def FrameNo.loc (f : FrameNo) (sector bit : Nat) : MemLoc :=
  let a := 32 * sector
  let s := f.slot
  if f.fast then
    { channel := 2 * f.ch + bitsOf a 7 7, bank := Nat.xor (bitsOf a 14 11) (s % 16), row := 2 * s + bitsOf a 15 15
      column := (bitsOf a 10 8 * 128 + bitsOf a 6 0) / 32, bit := bit }
  else { channel := f.ch, bank := 8 * (s % 2) + bitsOf a 15 13, row := s / 2, column := bitsOf a 12 0 / 32, bit := bit }

def State.chan (s : State) (fast : Bool) (c : Nat) : Chan := tabGet chanNone (if fast then s.fastCh else s.capCh) c
def State.setChan (s : State) (fast : Bool) (c : Nat) (x : Chan) : State :=
  if fast then { s with fastCh := tabSet chanNone s.fastCh c x } else { s with capCh := tabSet chanNone s.capCh c x }

/-- Good frames of a tier: neither retired nor in a channel that drains or is mapped out (Table 7.5). -/
def State.goodFrames (s : State) (fast : Bool) : Nat :=
  let t := if fast then s.fastCh else s.capCh
  let out := (t.filter fun x => x.2.st != 0).length
  let ret := (t.filter fun x => x.2.st == 0).foldl (fun n x => n + x.2.retired) 0
  tierSlots fast * (tierCh fast - out) - ret

def State.good (s : State) : Nat := s.goodFrames true + s.goodFrames false

/-- usable, live, owed and free of Table 7.5. -/
def State.usable (s : State) : Nat := s.good - 32768
def State.live (s : State) : Nat := s.pageCount - (s.pages.filter fun x => x.2.released).length
def State.owed (s : State) : Nat := s.live - s.usable
def State.freeCount (s : State) : Nat := s.good - 16384 - s.live

/-! ### The dense layout (R321, R324) -/

/-- The `n`-th element of the natural numbers without a rising list of excluded ones. -/
def skipList (n : Nat) : List Nat → Nat
  | [] => n
  | r :: rs => if r ≤ n then skipList (n + 1) rs else n

/-- The channels of a tier not in a list. -/
def okCh (fast : Bool) (out : List Nat) : List Nat := (List.range (tierCh fast)).filter fun c => !out.contains c

/-- Slots at the bottom of a capacity channel that its half's map copy takes: an even share, the lower channels
one more (R321). -/
def reserveSlots (out : List Nat) (c : Nat) : Nat :=
  let half := c % 16 / 8
  let mine := (okCh false out).filter fun d => d % 16 / 8 == half
  match mine.idxOf? c with
  | none => 0
  | some i => 8192 / mine.length + (if i < 8192 % mine.length then 1 else 0)

/-- The first slot of a channel above the reserve, whose frames are the channel's lowest good ones. -/
def reserveTop (b : BadSet) (fast : Bool) (c : Nat) : Nat :=
  match (if fast then 0 else reserveSlots b.capCh c) with
  | 0 => 0
  | n + 1 => skipList n (((b.frames.filter fun f => f.fast == fast && f.ch == c).map FrameNo.slot).mergeSort (· ≤ ·)) + 1

/-- The numbering of a tier's frames, in ascending (slot, channel) order over its channels `ok` from slot `low` on, with the numbers
of the frames that carry no page: those of the reserve, and those that are not good. -/
structure Layout where
  fast : Bool
  ok : List Nat
  low : Nat
  gone : List Nat
  deriving DecidableEq, Repr

def BadSet.layout (b : BadSet) (fast : Bool) : Layout :=
  let out := if fast then b.fastCh else b.capCh
  let ok := okCh fast out
  let k := ok.length
  let low := if fast then 0 else ok.foldl (fun m c => min m (reserveTop b fast c)) 1048576
  let number (f : FrameNo) : Option Nat := (ok.idxOf? f.ch).map fun j => (f.slot - low) * k + j
  let extra : List Nat := ok.zipIdx.flatMap fun x => (List.range (reserveTop b fast x.1 - low)).map fun i => i * k + x.2
  let bad : List Nat := (b.frames.eraseDups.filter fun f => f.fast == fast && decide (reserveTop b fast f.ch ≤ f.slot)).filterMap number
  { fast := fast, ok := ok, low := low, gone := (extra ++ bad).mergeSort (· ≤ ·) }

/-- Where the `n`-th good frame of a tier (outside the reserve) stands. -/
def nthFrame (b : BadSet) (fast : Bool) (n : Nat) : FrameNo :=
  let l := b.layout fast
  let i := skipList n l.gone
  ⟨fast, (l.low + i / l.ok.length) * tierCh fast + l.ok.getD (i % l.ok.length) 0⟩

/-- The number of a good frame outside the reserve, of which `nthFrame` is the inverse. -/
def rankOf (b : BadSet) (f : FrameNo) : Option Nat :=
  let l := b.layout f.fast
  match l.ok.idxOf? f.ch with
  | none => none
  | some j =>
    let i := (f.slot - l.low) * l.ok.length + j
    if f.slot < l.low || l.gone.contains i then none else some (i - (l.gone.filter fun g => decide (g < i)).length)

/-- Good fast frames when the map was laid out. -/
def BadSet.goodFast (b : BadSet) : Nat :=
  24576 * (512 - b.fastCh.length) - (b.frames.filter fun f => f.fast && !b.fastCh.contains f.ch).length
def BadSet.goodCap (b : BadSet) : Nat :=
  1048576 * (32 - b.capCh.length) - (b.frames.filter fun f => !f.fast && !b.capCh.contains f.ch).length

/-- The layout of a module as shipped: every frame good. -/
def BadSet.clean (b : BadSet) : Bool := b.fastCh.isEmpty && b.capCh.isEmpty && b.frames.isEmpty

/-- The page that the layout gives page number `n`. -/
def basePage (b : BadSet) (n : Nat) : Page :=
  if b.clean then { at_ := if n < 12582912 then ⟨true, n⟩ else ⟨false, n - 12582912 + 16384⟩ }
  else if n < b.goodFast then { at_ := nthFrame b true n }
  else { at_ := nthFrame b false (n - b.goodFast) }

def State.page (s : State) (n : Nat) : Page := tabGet (basePage s.bad) s.pages n
def State.setPage (s : State) (n : Nat) (p : Page) : State := { s with pages := tabSet (basePage s.bad) s.pages n p }

/-- The first capacity frame that the layout leaves free; those from it on are the spare pool (R323). -/
def State.poolFrom (s : State) : Nat :=
  if s.bad.clean then 33538048 else (nthFrame s.bad false (s.pageCount - s.bad.goodFast)).n

/-- A frame that can take a page. -/
def State.isGood (s : State) (f : FrameNo) : Bool :=
  (s.chan f.fast f.ch).st == 0 && !s.retired.contains f && !s.bad.frames.contains f

/-- The lowest free frame of a channel (DESIGN CHOICE, log 81: R328 names only the channel). -/
def State.freeIn (s : State) (fast : Bool) (c : Nat) : Option FrameNo :=
  let fs := (s.freed.filter fun f => f.fast == fast && f.ch == c && s.isGood f).map (·.n)
  let low := fs.foldl (fun (b : Option Nat) n => some (b.elim n (min n))) none
  let pool := if fast || s.pageCount == 0 then none
    else
      let a := s.poolFrom
      let first := a + (c + 32 - a % 32) % 32
      ((List.range (s.taken.length + s.bad.frames.length + s.retired.length + 1)).map fun i => first + 32 * i).find?
        fun n => decide (n < 33554432) && !s.taken.contains ⟨false, n⟩ && s.isGood ⟨false, n⟩
  match low, pool with
  | some x, some y => some ⟨fast, min x y⟩
  | some x, none => some ⟨fast, x⟩
  | none, some y => some ⟨fast, y⟩
  | none, none => none

/-- The free frame of a tier for a page: of the nearest channel after the page's own, with wrap-around (R328). -/
def State.findFree (s : State) (fast : Bool) (page : Nat) : Option FrameNo :=
  let n := tierCh fast
  (List.range n).findSome? fun i => s.freeIn fast ((page % n + 1 + i) % n)

def State.takeFrame (s : State) (f : FrameNo) : State :=
  if s.freed.contains f then { s with freed := s.freed.filter (· != f) } else { s with taken := f :: s.taken }

def State.freeFrame (s : State) (f : FrameNo) : State :=
  if s.taken.contains f then { s with taken := s.taken.filter (· != f) } else { s with freed := f :: s.freed }

/-- The page that lies in a frame. -/
def State.pageAt (s : State) (f : FrameNo) : Option Nat :=
  match s.pages.find? fun x => x.2.at_ == f && !x.2.released with
  | some x => some x.1
  | none =>
    -- a page that has never moved: its number follows from the layout
    let guess : Option Nat := if s.bad.clean then some (if f.fast then f.n else f.n - 16384 + 12582912)
      else (rankOf s.bad f).map fun n => if f.fast then n else s.bad.goodFast + n
    guess.filter fun n => decide (n < s.pageCount) && (s.page n).at_ == f && !(s.page n).released

def State.moving (s : State) (page : Nat) : Bool := s.moves.any (·.page == page)

/-- A page moves into a frame. -/
def State.comesTo (s : State) (f : FrameNo) : Bool := s.moves.any (·.dest == f)

/-- The frame that holds a line now: while its page moves, the new one below the copy cursor (R336). -/
def State.frameOf (s : State) (line : Nat) : FrameNo :=
  match s.moves.find? (·.page == line / 512) with
  | some m => if line % 512 < m.cursor then m.dest else (s.page (line / 512)).at_
  | none => (s.page (line / 512)).at_

/-- A memory access to a page that moves finds the copy at some line at or after the one where the last access found it: a free
value (R336; log 3). -/
def State.steer (s : State) (line : Nat) : State :=
  if s.moving (line / 512) then
    match s.draw with
    | (v, s) => { s with moves := s.moves.map fun m => if m.page = line / 512 then { m with cursor := m.cursor + v % (513 - m.cursor) } else m }
  else s

/-- The partition that owns a page (R343): the one whose grant holds it. -/
def State.ownerOf (s : State) (page : Nat) : Option Nat :=
  (s.parts.find? fun p => p.2.st != .free && p.2.grant.any fun g => decide (g.1 ≤ page) && decide (page < g.1 + g.2)).map (·.1)

/-- The partition of a TDI in CONFIG_LOCKED or RUN that owns a page (Table 12.5, R576). -/
def State.lockedPage (s : State) (page : Nat) : Option Nat :=
  (s.ownerOf page).filter fun p => (s.tdi p).st == 1 || (s.tdi p).st == 2

def quotaOf (p : Nat) : Field := ⟨0x00400100 + 8 * p, 23, 0⟩

/-! ### Accounts after a change (R357) -/

/-- The event of a risen owed count, from what it was. -/
def State.owedCheck (s : State) (was : Nat) : State :=
  let now := s.owed
  if (was = 0 && now != 0) || was / 16384 < now / 16384 then s.ras 0x0F 1 0xFF 0 else s

/-! ### Retirement and drain (R352 to R356) -/

/-- A move needed for a page, unless one is needed already; one for retirement stands in place of one for a pin (R339). -/
def State.wantMove (s : State) (m : Move) : State :=
  if s.todo.any fun x => x.page == m.page && (x.why == .retire || m.why == .pin) then s
  else { s with todo := s.todo.filter (·.page != m.page) ++ [m] }

/-- FRAME_RETIRE: a frame without a page is retired (R354). -/
def State.markRetired (s : State) (f : FrameNo) : State :=
  if s.retired.contains f then s
  else
    let was := s.owed
    let c := s.chan f.fast f.ch
    let s := { s with retired := f :: s.retired, retiring := s.retiring.filter (· != f) }
    let s := (s.setChan f.fast f.ch { c with retired := c.retired + 1 }).ras 0x0D 2 0xFF f.ch (BitVec.ofNat 64 f.n)
    s.owedCheck was

/-- Frames of a capacity channel that hold a map copy. -/
def State.mapShare (s : State) (c : Nat) : Nat :=
  if s.pageCount = 0 then 0 else reserveSlots s.bad.capCh c + (s.mapFrames.filter fun f => f.ch == c).length

/-- The lowest-numbered channel of a capacity channel's half, outside its device, with a free frame (R322). -/
def State.halfFree (s : State) (c : Nat) : Option FrameNo :=
  ((List.range 32).filter fun d => d % 16 / 8 == c % 16 / 8 && d % 16 != c % 16).findSome? fun d => s.freeIn false d

/-- `n` free frames of a capacity channel's half taken for the map; none where the half has not as many (R322). -/
def State.takeHalf (s : State) (c : Nat) : Nat → Option State
  | 0 => some s
  | n + 1 => match s.halfFree c with
    | some f => ({ s.takeFrame f with mapFrames := f :: s.mapFrames }).takeHalf c n
    | none => none

/-- A channel starts to drain: each page it holds is to be rehoused; a capacity channel's share of the map is
rebuilt first (R322, R355, R356). -/
def State.drain (s : State) (fast : Bool) (c : Nat) (dead : Bool) : State :=
  let ch := s.chan fast c
  if ch.st != 0 then (if dead then s.setChan fast c { ch with dead := true } else s)
  else
    let was := s.owed
    let s := s.setChan fast c { ch with st := 1, dead := dead }
    let s := if !fast && s.mapShare c != 0 then
        (if (s.takeHalf c (s.mapShare c)).isSome then { s with rebuilding := s.rebuilding ++ [c] } else s.raiseVec 0 (s.fld rasRelVec)) else s
    let mine := (List.range (tierSlots fast)).filterMap fun i => s.pageAt ⟨fast, i * tierCh fast + c⟩
    let s := mine.foldl (fun s p => s.wantMove { page := p, why := .retire, whole := dead }) s
    s.owedCheck was

/-- A frame is to be retired: at once where it holds no page and none comes to it, else after that page has moved (R354). -/
def State.retire (s : State) (f : FrameNo) : State :=
  if s.retired.contains f || s.retiring.contains f then s
  else
    let lim := if f.fast then 2048 else 65536
    let s : State := match s.pageAt f with
      | none => if s.comesTo f then { s with retiring := f :: s.retiring } else s.markRetired f
      | some p => { s with retiring := f :: s.retiring }.wantMove { page := p, why := .retire }
    if lim < (s.chan f.fast f.ch).retired + (s.retiring.filter fun g => g.fast == f.fast && g.ch == f.ch).length then
      s.drain f.fast f.ch false
    else s

/-! ### Pins (R339 to R342) -/

/-- The place of a device page among the pages of a grant. -/
def grantIndex : List (Nat × Nat) → Nat → Option Nat
  | [], _ => none
  | x :: xs, page => if x.1 ≤ page ∧ page < x.1 + x.2 then some (page - x.1) else (grantIndex xs page).map (x.2 + ·)

/-- A page of the save area of a context that exists: it stays pinned (R507). -/
def State.saved (s : State) (page : Nat) : Bool :=
  s.ctxs.any fun x => x.2.st != .free && (grantIndex (s.part x.2.part).grant page).any fun i =>
    decide (x.2.savePpn ≤ i) && decide (i < x.2.savePpn + x.2.saveSlots * x.2.slotPages)

/-- A page of the weights of a registered model: it stays pinned (R540). -/
def State.weight (s : State) (page : Nat) : Bool :=
  s.models.any fun x => x.2.clauses != 0 && x.2.weightAt.any fun r => decide (r.1 / 65536 ≤ page) && decide (page * 65536 < r.1 + r.2)

/-- The pin state of a page set; a page that moves takes it when its move ends (R342). -/
def State.setPin (s : State) (page pin : Nat) : State :=
  let p := s.page page
  if p.released || p.late == some 3 || (pin != 1 && (s.saved page || s.weight page)) then s
  else if s.moving page then s.setPage page { p with late := some pin }
  else
    let s := s.setPage page { p with pin := pin }
    let s := { s with
      todo := s.todo.filter fun m => !(m.page == page && m.why == .pin)
      -- a pinned page moves no more by policy, and a swap falls with either page (R339)
      plan := if pin = 0 then s.plan else s.plan.filter fun m => m.page != page && m.pair != some page }
    if (pin == 1 && !p.at_.fast) || (pin == 2 && p.at_.fast) then s.wantMove { page := page, why := .pin } else s

/-- A page's pin state, or the one that it will take. -/
def Page.pinned (p : Page) : Bool := match p.late with
  | some x => x == 1
  | none => p.pin == 1

/-- R341: whether a pin of these pages to the fast tier is refused. -/
def State.pinRefused (s : State) (pages : List Nat) : Bool :=
  let new := pages.filter fun n => !(s.page n).pinned && !(s.page n).released
  let now := (s.pages.filter fun x => x.2.pinned).map (·.1)
  let owners := (new.filterMap fun n => s.ownerOf n).eraseDups
  decide (s.goodFrames true - 1024 < now.length + new.length) || owners.any fun p =>
    decide (s.fld (quotaOf p) < (now.filter fun n => s.ownerOf n == some p).length + (new.filter fun n => s.ownerOf n == some p).length)

/-! ### The classifier (R351, R352) -/

/-- The stack or device of a channel key. -/
def cellUnit (fast : Bool) (channel : Nat) : Nat := (if fast then channel / 2 else channel) % 16
def cellCh (fast : Bool) (channel : Nat) : Nat := if fast then channel / 2 else channel

def CellKey.same (k : CellKey) (fast : Bool) (l : MemLoc) : Bool :=
  k.fast == fast && k.channel == l.channel && k.bank == l.bank && k.column == l.column && k.bit == l.bit

/-- A record entered: a known key gains the row; a new key may push out the one with the fewest rows, and then
the oldest. -/
def enterCell (ks : List CellKey) (fast : Bool) (l : MemLoc) : List CellKey :=
  if ks.any (·.same fast l) then
    ks.map fun k => if k.same fast l && !k.rows.contains l.row && decide (k.rows.length < 4) then { k with rows := k.rows ++ [l.row] } else k
  else
    let unit := cellUnit fast l.channel
    let mine := ks.filter fun k => k.fast == fast && cellUnit fast k.channel == unit
    let age := ks.foldl (fun m k => max m (k.age + 1)) 0
    let ks := if mine.length < 128 then ks
      else match mine.foldl (fun (b : Option CellKey) k => match b with
          | none => some k
          | some y => if k.rows.length < y.rows.length || (k.rows.length == y.rows.length && decide (k.age < y.age)) then some k else some y) none with
        | some v => ks.filter (· != v)
        | none => ks
    ks ++ [{ fast := fast, channel := l.channel, bank := l.bank, column := l.column, bit := l.bit, rows := [l.row], age := age }]

/-- The frames with a row in the subarray of a record. -/
def subarrayFrames (fast : Bool) (l : MemLoc) : List FrameNo :=
  let c := cellCh fast l.channel
  let sub := l.row / 1024
  if fast then (List.range 512).map fun i => ⟨true, (512 * sub + i) * 512 + c⟩
  else (List.range 1024).map fun i => ⟨false, (2 * (1024 * sub + i) + l.bank / 8) * 32 + c⟩

/-- The subarray of a record in its channel: pseudo-channel, bank and 1,024 rows. -/
def MemLoc.sub (l : MemLoc) : Nat := (l.channel % 2) * 2 ^ 20 + l.bank * 2 ^ 10 + l.row / 1024

/-- A column fault (Table 7.4, R353): a spare bit line of the subarray if one remains, else its frames are retired. -/
def State.columnFault (s : State) (fast : Bool) (l : MemLoc) : State :=
  let c := cellCh fast l.channel
  let ch := s.chan fast c
  let used := (ch.subs.find? (·.1 == l.sub)).elim 0 (·.2)
  if fast && decide (used < 2) then
    let ch := { ch with spares := ch.spares + 1, subs := (l.sub, used + 1) :: ch.subs.filter (·.1 != l.sub) }
    ({ s.setChan fast c ch with repairs := s.repairs ++ [(c, l.sub)] }).ras 0x0C 1 0xFF c
  else (subarrayFrames fast l).foldl (fun s f => s.retire f) s

/-- An uncorrectable error (Table 7.4, R355): its row counts against the channel, and unless the home recovered the data the frame
is retired. -/
def State.uncorrectable (s : State) (f : FrameNo) (recovered : Bool) (l : MemLoc) : State :=
  let c := cellCh f.fast l.channel
  let row := (f.fast, l.channel, l.bank, l.row)
  let s := if s.badRows.contains row then s else { s with badRows := row :: s.badRows }
  let s := if recovered then s else s.retire f
  if 16 < (s.badRows.filter fun x => x.1 == f.fast && cellCh f.fast x.2.1 == c).length then s.drain f.fast c false else s

/-- FAULT_CLASSIFY: an error in a sector of a frame enters the classifier, and the fault it declares is acted on (R351, R352). -/
def State.classify (s : State) (f : FrameNo) (sector : Nat) (correctable recovered : Bool) (bit : Nat) : State :=
  let l := f.loc sector bit
  let had := ((s.cells.find? (·.same f.fast l)).elim 0 (·.rows.length))
  let s := { s with cells := enterCell s.cells f.fast l }
  let rows := ((s.cells.find? (·.same f.fast l)).elim 0 (·.rows.length))
  let s := if rows = 4 && had != 4 then s.columnFault f.fast l else s
  if !correctable then s.uncorrectable f recovered l
  else if rows != 4 && s.lastCells.any fun x => x.1.same f.fast l && x.2 == l.row then s.retire f
  else s

/-- Sectors of a line stand in a subarray whose column is being rewritten (R353). -/
def State.repairing (s : State) (line mask : Nat) : Bool :=
  !s.repairs.isEmpty && (s.frameOf line).fast && (List.range 4).any fun i => bitOf mask i &&
    s.repairs.contains ((s.frameOf line).ch, ((s.frameOf line).loc (line % 512 * 4 + i) 0).sub)

/-! ### Sampling (R329) -/

def smpField (fast : Bool) : Field := if fast then ⟨0x00400000, 7, 4⟩ else ⟨0x00400000, 11, 8⟩

/-- An access of a channel seen by its sampler: every 2^n-th adds 2^n to its page's count (log 28). -/
def State.sample (s : State) (line : Nat) : State :=
  let page := line / 512
  let p := s.page page
  let f := s.frameOf line
  let n := s.fld (smpField f.fast)
  let k := (if f.fast then 0 else 512) + f.ch
  let seen := tabGet (fun _ => 0) s.sampled k + 1
  if seen < 2 ^ n then { s with sampled := tabSet (fun _ => 0) s.sampled k seen }
  else { s.setPage page { p with count := min 65535 (p.count + 2 ^ n) } with
      sampled := tabSet (fun _ => 0) s.sampled k 0 }

/-- Bytes moved at a tier's channels for a line, counted for a case tag (Table 8.13), and sampled. -/
def State.tierBytes (s : State) (line tag n : Nat) : State :=
  if n = 0 then s
  else (s.bump (liveKey (0x00C01000 + 64 * tag + (if (s.frameOf line).fast then 0x20 else 0x28))) n).sample line

end Sys2Proof.Machine
end

