-- ==== Sys2Proof/Machine/Frames.lean ====
section
/-! DEFINITION. The frames of the home slices (spec/05 R220 to R250, R257 to R259; spec/06 R302, R309, R312 to R316; spec/08 R392,
R393): who an access serves, sectors, replacement, compression, errors of the data array, and what host copies and registers stand in
the way. A frame's data is the line of device memory (log 12). -/

namespace Sys2Proof.Machine

/-! ### The applied case-tag table (R387, R392, R393, R395) -/

/-- The key of a staged register's applied value. -/
def appliedKey (off : Nat) : Nat := 2 ^ 61 + off
def State.caseField (s : State) (tag hi lo : Nat) : Nat := s.fld ⟨appliedKey (0x00500400 + 16 * tag), hi, lo⟩
def State.qres (s : State) (tag : Nat) : Nat := s.caseField tag 29 24
def State.wayLimit (s : State) (tag : Nat) : Nat := s.caseField tag 43 40 + 1
/-- The entries of a slice's request queue that a tag may hold (R392). -/
def State.qmost (s : State) (tag : Nat) : Nat := s.caseField tag 39 32

/-- The tag of an access of a privileged master to a page (R387). -/
def State.privTag (s : State) (m page : Nat) : Nat :=
  let entry (k : Nat) : Nat := appliedKey (0x00500800 + 256 * m + 16 * k)
  match (List.range 16).find? fun k => s.fld ⟨entry k, 40, 40⟩ == 1 && decide (s.fld ⟨entry k, 35, 0⟩ ≤ page) &&
      decide (page ≤ s.fld ⟨entry k + 8, 35, 0⟩) with
  | some k => s.fld ⟨entry k, 39, 36⟩
  | none => s.fld ⟨appliedKey (0x00500600 + 8 * m), 3, 0⟩

def telCase (tag off : Nat) : Nat := liveKey (0x00C01000 + 64 * tag + off)
def telPcnt (p off : Nat) : Nat := liveKey (0x00C03000 + 64 * p + off)

/-! ### Energy and bytes moved (R605, R606, Table 13.1) -/

/-- Whom an access serves: a queue, or a partition through no queue (48 and above: none); and its case tag. -/
structure Who where
  queue : Option Nat := none
  part : Nat := 255
  tag : Nat := 15
  deriving DecidableEq, Repr

/-- Half picojoules charged to an owner (Table 13.1). -/
def State.charge (s : State) (w : Who) (n : Nat) : State :=
  let at_ (k : Nat) : State := { s with spent := tabSet (fun _ => 0) s.spent k (tabGet (fun _ => 0) s.spent k + n) }
  match w.queue with
  | some q => at_ q
  | none => if w.part < 48 then at_ (16384 + w.part) else s

/-- The Thallus of a tile, and of a slice. -/
def thallusOf (tile : Nat) : Nat := tile / 384
def sliceThallus (slice : Nat) : Nat := slice / 128

/-- `n` bytes carried on a lane between Thalli (`tt`) or between a Thallus and the Rhizome. -/
def State.lane (s : State) (w : Who) (tt : Bool) (n : Nat) : State :=
  (s.bump (telCase w.tag (if tt then 0x10 else 0x18)) n).charge w n

/-- The kernel's queue, as long as there is the kernel. -/
def State.whoKernel (s : State) (k part tag : Nat) : Who :=
  { queue := if (s.kernel k).st == .done then none else some (s.kernel k).queue, part := part, tag := tag }

/-- Whom a request serves; the host's serve the partition that owns the page. -/
def State.whoReq (s : State) (r : Req) : Who :=
  if r.src == .host then { part := (s.ownerOf (r.line / 512)).getD 255, tag := r.tag } else s.whoKernel r.kernel r.part r.tag

/-- `n` bytes read or written at the home of a line for a tile. -/
def State.homeBytes (s : State) (w : Who) (tile line n : Nat) (write : Bool) : State :=
  let s := (s.bump (telCase w.tag (if write then 8 else 0)) n).charge w (2 * n)
  s.lane w true (if thallusOf tile = sliceThallus (s.sliceOf line) then 0 else n)

/-- `n` bytes moved at the channel of a line (R326): the tier's count, the energy, and the lane between slice and channel. -/
def State.chanBytes (s : State) (w : Who) (line n : Nat) : State :=
  if n = 0 then s
  else
    let s := s.steer line
    let at_ := s.frameOf line
    let s := s.tierBytes line w.tag n
    if at_.fast then
      (s.charge w (24 * n)).lane w true (if at_.ch % 16 / 4 = sliceThallus (s.sliceOf line) then 0 else n)
    else (s.charge w (80 * n)).lane w false n

/-! ### Sectors of a line -/

/-- A mask of the four sectors of a line, from a test of each. -/
def sectors (f : Nat → Bool) : Nat := (List.range 4).foldl (fun m i => if f i then m + 2 ^ i else m) 0

def sectorCount (m : Nat) : Nat := ((List.range 4).filter fun i => bitOf m i).length

/-- Sectors in aligned 64-byte halves (R224). -/
def halves (m : Nat) : Nat := (if m % 4 != 0 then 3 else 0) + (if m / 4 % 4 != 0 then 12 else 0)

/-- The valid sectors of a line's frame. -/
def State.validAt (s : State) (line : Nat) : Nat := match s.frame line with
  | some f => f.valid
  | none => 0

/-- What a home fetches so that the sectors of `want` are valid: the halves of those that are not, less what is (R224). -/
def State.lacks (s : State) (line want : Nat) : Nat :=
  let have_ := s.validAt line
  let missing := sectors fun i => bitOf want i && !bitOf have_ i
  sectors fun i => bitOf (halves missing) i && !bitOf have_ i

/-! ### Pseudo-LRU (R226, Table 5.1): a tree of 15 bits over 16 ways; node 1 is its root -/

def plruTouch (bits way : Nat) : Nat :=
  (List.range 4).foldl (fun (x : Nat × Nat) l =>
    let (bits, node) := x
    let b := bitsOf way (3 - l) (3 - l)
    (bitsPut bits node node (1 - b), 2 * node + b)) (bits, 1) |>.1

/-- The way the tree points at among those allowed. -/
def plruVictim (bits : Nat) (ok : Nat → Bool) : Nat → Nat → Nat → Nat → Option Nat
  | 0, lo, _, _ => if ok lo then some lo else none
  | l + 1, lo, size, node =>
    let half := size / 2
    let b := bitsOf bits node node
    let side (b : Nat) := plruVictim bits ok l (lo + b * half) half (2 * node + b)
    (side b).orElse fun _ => side (1 - b)

def State.touch (s : State) (line way : Nat) : State :=
  let k := s.setOf line
  { s with plru := tabSet (fun _ => 0) s.plru k (plruTouch (tabGet (fun _ => 0) s.plru k) way) }

/-! ### Frames -/

def herbWays : Field := fieldAt 0x00300010 3 0

/-- The key of a page is being retired: a fill or a write-back begun now waits for the new one (R560). -/
def State.keyWaits (s : State) (page : Nat) : Bool := match s.memSlot page with
  | some n => (s.keySlot n).st == 2
  | none => false

/-- Memory takes or gives these sectors of a line only later: their column is being rewritten, or their key retired (R353, R560). -/
def State.stuck (s : State) (line mask : Nat) : Bool :=
  mask != 0 && ((!s.repairs.isEmpty && s.repairing line mask) || (s.keys.any (fun k => k.2.st == 2) && s.keyWaits (line / 512)))

/-- The frames of a line's set. -/
def State.setFrames (s : State) (line : Nat) : List (Nat × Frame) :=
  let k := s.setOf line
  s.frames.filterMap fun e => match e.2 with
    | some f => if s.setOf e.1 = k then some (e.1, f) else none
    | none => none

/-- Errors of the data array that are gone with what stood in these sectors. -/
def State.forget (s : State) (line mask : Nat) : State :=
  { s with upsets := s.upsets.filter fun u => u.1 / 4 != line || !bitOf mask (u.1 % 4) }

/-- An eviction's reads of the data array (R223): a corrected error is counted, an uncorrectable one poisons its sector. -/
def State.evictErrs (s : State) (line part : Nat) (dirty : Nat) : State :=
  if s.upsets.isEmpty then s
  else
    let hit := s.upsets.filter fun u => u.1 / 4 == line && bitOf dirty (u.1 % 4)
    (hit.foldl (fun s u => if u.2 then s.rasCount 0x09 else (s.setPoison u.1 true).ras 0x0A 2 part (s.sliceOf line)) s).forget line 15

/-- Sectors of a line that are clean at its home leave it: where memory holds them poisoned, they are so from now on (R337). -/
def State.uncover (s : State) (line dirty : Nat) : State :=
  if s.under.isEmpty then s
  else
    let bad := s.under.filter fun k => k / 4 == line && !bitOf dirty (k % 4)
    bad.foldl (fun s k => s.setPoison k true) { s with under := s.under.filter fun k => k / 4 != line }

/-- Errors that stood in sectors of memory stand there no more: they are met, or written over. -/
def State.overwritten (s : State) (line mask : Nat) : State :=
  if s.tierErrs.isEmpty then s else { s with tierErrs := s.tierErrs.filter fun e => e.1 != line || !bitOf mask e.2.sector }

/-- Sectors written back while their slot retires: the write-back waits for the new key, under which they stand (R560). -/
def State.lateBack (s : State) (line : Nat) (back : List Nat) : State :=
  match s.memSlot (line / 512) with
  | some n =>
    let k := s.keySlot n
    if k.st = 2 && !back.isEmpty then s.setKey n { k with late := k.late ++ back.map (4 * line + ·) } else s
  | none => s

/-- FRAME_EVICT (R226): dirty sectors are written back, as poison where their key is gone (R561); clean ones are dropped, and the
record of the forwarder with them. -/
def State.evict (s : State) (line : Nat) : State :=
  match s.frame line with
  | none => s
  | some f =>
    let s := ((s.evictErrs line f.part f.dirty).uncover line f.dirty).overwritten line f.dirty
    let back := (List.range 4).filter fun i => bitOf f.dirty i
    let s := if s.keyless (line / 512) then back.foldl (fun s i => s.setPoison (4 * line + i) true) s else s.lateBack line back
    ((s.setFwd line none).setFrame line none).chanBytes { part := f.part, tag := f.tag } line (32 * back.length)

/-- The ordinary ways of a set in which a tag has a frame; a packed pair stands in one way (R393). -/
def tagWays (fs : List (Nat × Frame)) (tag : Nat) : Nat := ((fs.filter fun x => x.2.tag == tag && !x.2.reserve).map (·.2.way)).eraseDups.length

/-- A way for a new frame of a tag in a line's set: a free ordinary way, else a victim's (R226, R259, R393).
None where every candidate is in use. A frame whose write-back would have to wait is no victim (R353, R560). Ordinary frames that stood
in ways when HERB_RESERVE took them stay there and are no victims here, until a fill of the reserve takes their way (DESIGN CHOICE,
log 79). -/
def State.pickWay (s : State) (line tag : Nat) (disabled : Nat → Bool) : Option (Nat × List Nat) :=
  let fs := s.setFrames line
  let low := s.fld herbWays
  let ord (w : Nat) : Bool := decide (low ≤ w) && decide (w < 16) && !disabled w
  let busy (l : Nat) : Bool := (s.miss l).isSome || s.stuck l ((s.frame l).elim 0 (·.dirty))
  let mine := tagWays fs tag
  let free := (List.range 16).find? fun w => ord w && !(fs.any fun x => x.2.way == w)
  let linesAt (w : Nat) : List Nat := (fs.filter fun x => x.2.way == w).map (·.1)
  let can (w : Nat) : Bool := ord w && !(linesAt w).isEmpty && !((linesAt w).any busy)
  let bits := tabGet (fun _ => 0) s.plru (s.setOf line)
  if decide (mine < s.wayLimit tag) && free.isSome then free.map fun w => (w, [])
  else
    let own (w : Nat) : Bool := can w && (decide (mine < s.wayLimit tag) || (fs.any fun x => x.2.way == w && x.2.tag == tag))
    (plruVictim bits own 4 0 16 1).map fun w => (w, linesAt w)

/-- Ways of a slice that self-test disabled (Table 14.2). -/
def State.wayOff (s : State) (line w : Nat) : Bool :=
  (!s.waysOff.isEmpty) && s.waysOff.contains (s.sliceOf line, w)

/-- R393: a tag at its limit in a set, all of whose frames are in use, misses as though no register were free. -/
def State.wayRoom (s : State) (line tag : Nat) : Bool :=
  (s.misses.isEmpty && s.repairs.isEmpty && !(s.keys.any fun k => k.2.st == 2)) || (s.frame line).isSome ||
    decide (tagWays (s.setFrames line) tag < s.wayLimit tag) || (s.pickWay line tag (s.wayOff line)).isSome

/-! ### Compression (R244 to R248) -/

/-- The code of a valid sector's encoding, by its words (R245, Table 5.6). -/
def sectorCode (ws : List Nat) : Nat :=
  let w0 := ws.headD 0
  let near (k : Nat) : Bool := ws.all fun w => decide ((w + 2 ^ 32 - w0 + k) % 2 ^ 32 < 2 * k)
  if ws.all (· == 0) then 1
  else if ws.all (· == w0) then 2
  else if near 128 then 3
  else if near 32768 then 4
  else 5

/-- The bytes stored for a sector under its code (Table 5.6). -/
def sectorEnc (ws : List Nat) : List Byte :=
  let w0 := ws.headD 0
  let diffs (n : Nat) : List Byte := (ws.drop 1).flatMap fun w => leBytes n (w + 2 ^ 32 - w0)
  match sectorCode ws with
  | 1 => []
  | 2 => leBytes 4 w0
  | 3 => leBytes 4 w0 ++ diffs 1
  | 4 => leBytes 4 w0 ++ diffs 2
  | _ => ws.flatMap (leBytes 4)

/-- The words of sector `i` of a pair of lines. -/
def State.pairWords (s : State) (pair i : Nat) : List Nat :=
  (List.range 8).map fun w => memLe s.mem (pair * 256 + 32 * i + 4 * w) 4

/-- Sector `i` of a pair is valid. -/
def pairHas (valid0 valid1 i : Nat) : Bool := bitOf (if i < 4 then valid0 else valid1) (i % 4)

/-- The header of a compressed frame: three bits of code for each sector, ABSENT where it is not valid (R244). -/
def State.pairHeader (s : State) (pair valid0 valid1 : Nat) : Nat :=
  (List.range 8).foldl (fun n i => if pairHas valid0 valid1 i then n + sectorCode (s.pairWords pair i) * 2 ^ (3 * i) else n) 0

/-- A compressed frame: its header, then the eight sectors as encoded (R244). -/
def State.pairImage (s : State) (pair valid0 valid1 : Nat) : List Byte :=
  leBytes 4 (s.pairHeader pair valid0 valid1) ++
    (List.range 8).flatMap fun i => if pairHas valid0 valid1 i then sectorEnc (s.pairWords pair i) else []

def compEn (p : Nat) : Field := ⟨0x00500010, p, p⟩

/-- A line and its partner fit one frame as they stand (R245, R248). -/
def State.fitsPair (s : State) (line : Nat) (f g : Frame) : Bool :=
  let v0 := if line % 2 = 0 then f.valid else g.valid
  let v1 := if line % 2 = 0 then g.valid else f.valid
  s.linePoison line == 0 && s.linePoison (Nat.xor line 1) == 0 && decide ((s.pairImage (line / 2) v0 v1).length ≤ 128)

/-- Compression is enabled for the memory of the partition that owns a line (R250). -/
def State.compOn (s : State) (line : Nat) : Bool := match s.ownerOf (line / 512) with
  | some p => s.fld (compEn p) == 1
  | none => false

/-- PAIR_COMPRESS (R246, R248): the frame of a line joins its partner's, once the request that allocated it has been served and its
bytes are there. A reserve way takes only lines of the reserve (R258). -/
def State.pack (s : State) (line : Nat) : State :=
  match s.frame line, s.frame (Nat.xor line 1) with
  | some f, some g =>
    if !f.packed && !g.packed && f.reserve == g.reserve && s.compOn line && (s.miss line).isNone &&
        (s.miss (Nat.xor line 1)).isNone && s.fitsPair line f g then
      (s.setFrame line (some { f with way := g.way, packed := true })).setFrame (Nat.xor line 1)
        (some { g with packed := true })
    else s
  | _, _ => s

/-- The partner of a line in a compressed frame stands there alone. -/
def State.unpair (s : State) (line : Nat) : State :=
  match s.frame (Nat.xor line 1) with
  | some g => if g.packed then s.setFrame (Nat.xor line 1) (some { g with packed := false }) else s
  | none => s

/-- A pair that no longer fits, or that meets poison, is split into two frames: the partner keeps the way, and the line takes
another, an ordinary one (R247, R248). With every other way in use the line leaves the cache (log 79). -/
def State.split (s : State) (line : Nat) : State :=
  match s.frame line with
  | none => s
  | some f =>
    if !f.packed then s
    else
      let s := s.unpair line
      match s.pickWay line f.tag (fun w => w == f.way || s.wayOff line w) with
      | some (w, vs) => (vs.foldl State.evict s).setFrame line (some { f with way := w, packed := false, reserve := false })
      | none => s.evict line

/-- R247: after a write to a line of a compressed frame the pair is encoded again. -/
def State.repack (s : State) (line : Nat) : State :=
  match s.frame line, s.frame (Nat.xor line 1) with
  | some f, some g => if !f.packed || s.fitsPair line f g then s else s.split line
  | _, _ => s

/-- A sector becomes poisoned; a compressed frame is split first (R248). -/
def State.poisonSector (s : State) (sector : Nat) : State := (s.split (sector / 4)).setPoison sector true

def State.poisonLine (s : State) (line : Nat) : State :=
  (List.range 4).foldl (fun s i => s.poisonSector (4 * line + i)) s

/-- Sectors are read from the data array (R223, Table 6.6, Table 14.9): a corrected error is counted, and an uncorrectable one poisons
its sector. -/
def State.meet (s : State) (line mask part : Nat) : State :=
  if s.upsets.isEmpty then s
  else
    let hit := s.upsets.filter fun u => u.1 / 4 == line && bitOf mask (u.1 % 4)
    (hit.foldl (fun s u => if u.2 then s.rasCount 0x09 else (s.poisonSector u.1).ras 0x0A 2 part (s.sliceOf line)) s).forget line mask

/-- Errors arise in sectors that a line's frame holds. -/
def State.upset (s : State) (line mask : Nat) (errs : List ArrayErr) : State :=
  let here := errs.filter fun e => decide (e.sector < 4) && bitOf (Nat.land (s.validAt line) mask) e.sector
  { s with upsets := s.upsets ++ here.map fun e => (4 * line + e.sector, e.correctable) }

/-- A frame for a line, allocated where it has none (R226). Where every way that could take it is in use, the access is served
without a frame (log 79). -/
def State.allocate (s : State) (line tag p valid dirty : Nat) : State :=
  match s.frame line with
  | some f => (s.setFrame line (some { f with valid := Nat.lor f.valid valid, dirty := Nat.lor f.dirty dirty })).touch
      line f.way
  | none =>
    match s.pickWay line tag (s.wayOff line) with
    | none => s
    | some (w, vs) =>
      let s := vs.foldl State.evict s
      (s.setFrame line (some { way := w, valid := valid, dirty := dirty, tag := tag, part := p })).touch line w

/-- A line's frame is read. -/
def State.touchLine (s : State) (line : Nat) : State := match s.frame line with
  | some f => s.touch line f.way
  | none => s

/-- Bytes of a line were written at its home: its frame holds the sectors dirty, or, where none could be had, they go on to memory. -/
def State.dirtied (s : State) (w : Who) (line mask : Nat) : State :=
  match s.frame line with
  | some f => s.setFrame line (some { f with valid := Nat.lor f.valid mask, dirty := Nat.lor f.dirty mask })
  | none => (s.chanBytes w line (32 * sectorCount mask)).overwritten line mask

/-- What follows a write of a line at its home: its forwarder is recorded no more, its watchers are told, and a pair is encoded again
(R225, R247, R302, R304). -/
def State.wrote (s : State) (w : Who) (line mask : Nat) : State := ((s.dirtied w line mask).lineWritten line).repack line

/-- The same for data that the host gives back: the record of the forwarder stays as it is (Table 6.5). -/
def State.wroteBack (s : State) (w : Who) (line mask : Nat) : State := ((s.dirtied w line mask).notifyLine line).repack line

/-! ### Errors in the memory tiers (R309, R350, R351, Table 6.6) -/

/-- Errors that a read of sectors of a line finds in memory: an uncorrectable one poisons its sector, and each enters the
classifier. -/
def State.tierErrors (s : State) (line : Nat) (errs : List MemErr) : State :=
  errs.foldl (fun s e =>
    let s := if e.correctable then s.rasCount 0x0B else s.poisonSector (4 * line + e.sector)
    s.classify (s.frameOf line) (line % 512 * 4 + e.sector) e.correctable false e.bit) s

/-- The sectors of a line that a fill brings: those whose key is gone are poisoned (R561), and the errors that stand there are met. -/
def State.fillErrors (s : State) (line need : Nat) (errs : List MemErr) : State :=
  let s := if s.keyless (line / 512) then
      ((List.range 4).filter fun i => bitOf need i).foldl (fun s i => s.poisonSector (4 * line + i)) s else s
  let met := errs.filter fun e => decide (e.sector < 4) && bitOf need e.sector
  let here := s.tierErrs.filter fun e => e.1 == line && bitOf need e.2.sector
  (s.overwritten line need).tierErrors line (here.map (·.2) ++ met)

/-- Errors that arise in sectors of a line that no read meets now stand until the next fill of theirs (log 12). -/
def State.errsArise (s : State) (line need : Nat) (errs : List MemErr) : State :=
  { s with tierErrs := s.tierErrs ++ ((errs.filter fun e => decide (e.sector < 4) && !bitOf need e.sector).map fun e => (line, e)) }

/-! ### Answers -/

/-- A response to a request. -/
def State.respond (s : State) (r : Req) (kind : RspKind) (f : Rsp → Rsp := id) : State :=
  let (id, s) := s.freshId
  { s with rsps := s.rsps ++ [f { id := id, kind := kind, req := r }] }

/-- Bytes that the host reads or writes at a home through the host link: for the page's partition, through no queue. -/
def State.hostBytes (s : State) (line n : Nat) (write : Bool) : State :=
  let w : Who := { part := (s.ownerOf (line / 512)).getD 255, tag := s.privTag 0 (line / 512) }
  ((s.bump (telCase w.tag (if write then 8 else 0)) n).charge w (42 * n)).lane w false n

/-- A host read that is refused with a poisoned completion (R316). -/
def State.hostRefuse (s : State) (line : Nat) (excl : Bool) : State :=
  { s with sent := .hostData line excl (memBytes s.mem (line * 128) 128) 15 :: s.sent }

/-! ### The host's copies (Table 6.5, R299, R313 to R316) -/

/-- A snoop goes out for a line, which it holds until the host answers (R302); its timer starts (R313). -/
def State.snoop (s : State) (line : Nat) (inv : Bool) (waiters : List Req) (tag : Nat := 15) : State :=
  { s.setMiss line (some { why := if inv then .snoopInv else .snoopData, waiters := waiters, own := !waiters.isEmpty, tag := tag
                           since := s.now }) with
      sent := .snoop line inv :: s.sent }

/-- R315: a line that the host holds EM and does not give back is poisoned, and the host agent is silent; one that it holds S goes on
with no poison. Either way the record is I. -/
def State.loseHost (s : State) (line : Nat) : State :=
  if s.hostOf line == some .em then
    { (s.poisonLine line).setHost line none with silent := true }.ras 0x11 2 0xFF 0 (BitVec.ofNat 64 line)
  else s.setHost line none

/-! ### Room for a request (R235, R305 to R308, R392) -/

/-- The registers that a register stands for: where a host read waits, one is kept for the line that it may have to recall (R299,
R301). -/
def Miss.weight (m : Miss) : Nat := match m.why with
  | .recall _ => 1
  | _ => if m.waiters.any fun r => r.src == .host then 2 else 1

/-- The waiter entries that a register's waiters take: what an adder folded is one request, and the request that took the register
needs none. -/
def Miss.entries (m : Miss) : Nat := (m.waiters.filter (·.into.isNone)).length - (if m.own then 1 else 0)

/-- The registers and waiter entries of a slice that are in use, as its registers stand. -/
def State.slotMisses (s : State) (line : Nat) : List Miss := (s.misses.filter fun e => s.sameSlice e.1 line).filterMap (·.2)

/-- Whether a slice has `n` registers more for requests of a tag beside those held for requests `held` (R308, R392). -/
def State.missFits (s : State) (line tag n : Nat) (held : List Req) : Bool :=
  let here := s.slotMisses line
  let used (t : Nat) : Nat := (here.filter (·.tag == t)).foldl (fun k m => k + m.weight) 0 + (held.filter fun r => !r.entry && r.tag == t).length
  let total := 256 - (s.missOff.filter fun x => x.1 == s.sliceOf line).length
  decide (used tag + n ≤ 2 * s.qres tag) ||
    decide ((List.range 16).foldl (fun k t => k + (if t = tag then used t + n else max (used t) (2 * s.qres t))) 0 ≤ total)

/-- Whether a slice has a waiter entry more for requests of a tag beside those held (R392). -/
def State.waiterFits (s : State) (line tag : Nat) (held : List Req) : Bool :=
  let here := s.slotMisses line
  let used (t : Nat) : Nat := (here.map fun m => ((m.waiters.filter fun r => r.tag == t && r.into.isNone).length -
    (if m.own && m.tag == t then 1 else 0))).foldl (· + ·) 0 + (held.filter fun r => r.entry && r.tag == t).length
  decide (used tag < 8 * s.qres tag) ||
    decide ((List.range 16).foldl (fun n t => n + (if t = tag then used t else max (used t) (8 * s.qres t))) 0 < 1024)

/-- Tickets in the order of their age. -/
def ticketInsert (r : Req) : List Req → List Req
  | [] => [r]
  | q :: qs => if r.ticket < q.ticket then r :: q :: qs else q :: ticketInsert r qs

def byTicket (rs : List Req) : List Req := rs.foldl (fun a r => ticketInsert r a) []

/-- What a slice holds for tickets: what its GRANTs hold, and for the tickets that wait, oldest first, what is free and may serve them
(R305, R392, R393). A ticket waits for a waiter entry where its line has a register, else for a register. -/
def State.heldFor (s : State) (line : Nat) : List Req :=
  let here := s.reqs.filter fun r => (r.st == .granted || r.st == .ticket) && s.sameSlice r.line line
  (byTicket (here.filter (·.st == .ticket))).foldl (fun held r =>
    let r := { r with entry := (s.miss r.line).isSome }
    if (if r.entry then s.waiterFits r.line r.tag held else s.missFits r.line r.tag 1 held && s.wayRoom r.line r.tag) then held ++ [r]
    else held) (here.filter (·.st == .granted))

/-- Whether a slice has `n` registers for requests of a tag; what is held for tickets is not free (R305, R308). -/
def State.missRoom (s : State) (line tag : Nat) (n : Nat := 1) : Bool :=
  if 2 * s.misses.length + s.reqs.length + s.missOff.length + n < 48 then true
  else s.missFits line tag n (s.heldFor line)

def State.waiterRoom (s : State) (line tag : Nat) : Bool :=
  if s.misses.foldl (fun n e => n + (Miss.waits e.2).length) 0 + s.reqs.length < 200 then true
  else s.waiterFits line tag (s.heldFor line)

end Sys2Proof.Machine
end

