-- ==== Sys2Proof/Machine/Access.lean ====
section
/-! DEFINITION. The accesses of the engines, the Parser, the fabric port controllers, the Herbarium controller, the tiles' own units and
BAR4. Each acts at the homes of its lines (R222): it waits while a line's register is in use or the host has a copy in the way, and then
fetches, allocates and updates frames as a request of a tile does (spec/05 R222 to R226, R233, R247; spec/06 R302 to R316; log 12). -/

namespace Sys2Proof.Machine

/-- Host bytes that are known to come back in a poisoned completion (Table 6.7; log 12). -/
def State.hostPoisoned (s : State) (a n : Nat) : Bool := s.hostBad.any fun w => decide (8 * w < a + n) && decide (a < 8 * w + 8)

/-- Host words that a write covers whole are known bad no more. -/
def State.hostCured (s : State) (a n : Nat) : State :=
  { s with hostBad := s.hostBad.filter fun w => !(decide (a ≤ 8 * w) && decide (8 * w + 8 ≤ a + n)) }

/-- A host completion came back poisoned: the words of its bytes are known bad from then on (log 12). -/
def State.hostSpoilt (s : State) (a n : Nat) : State :=
  { s with hostBad := ((List.range ((a + n + 7) / 8 - a / 8)).map (a / 8 + ·)).foldl (fun b w => if b.contains w then b else w :: b) s.hostBad }

/-- The bytes at a place, and whether some sector read is poisoned; a released page reads as poisoned (R344). -/
def State.fetch (s : State) (l : Loc) (n : Nat) : List Byte × Bool :=
  if l.host then (memBytes s.host l.addr n, s.hostPoisoned l.addr n)
  else (memBytes s.mem l.addr n, s.rangeBad l.addr n || s.releasedIn l.addr n)

/-- The sectors of a line that a byte range meets, or with `whole` those that it covers. -/
def rangeMask (whole : Bool) (a n line : Nat) : Nat :=
  sectors fun i =>
    let b := 128 * line + 32 * i
    if whole then decide (a ≤ b) && decide (b + 32 ≤ a + n) else decide (b < a + n) && decide (a < b + 32)

/-- Sectors of a line fetched for an access, which allocates a frame or joins one, whose pair is then encoded again (R224, R226, R247);
errors that stand in memory are met (R309, R350). The fill returns within the access (log 12). -/
def State.fillNow (s : State) (w : Who) (line need : Nat) : State :=
  if need = 0 then s
  else (((s.chanBytes w line (32 * sectorCount need)).fillErrors line need []).allocate line w.tag w.part need 0).repack line

/-- Where an access allocated a line's frame, its pair is tried for compression once the access is done (R246). -/
def State.packNew (s : State) (new : Bool) (line : Nat) : State := if new then s.pack line else s

/-- Sectors of a line read at their home. -/
def State.homeRead (s : State) (w : Who) (line mask : Nat) : State :=
  if mask = 0 || (s.page (line / 512)).released then s
  else (((s.fillNow w line (s.lacks line mask)).meet line mask w.part).touchLine line).packNew (s.frame line).isNone line

def State.homeReads (s : State) (w : Who) (ranges : List (Nat × Nat)) : State :=
  ranges.foldl (fun s r => (rangeLines r.1 r.2).foldl (fun s k => s.homeRead w k (rangeMask false r.1 r.2 k)) s) s

/-- What precedes a write of sectors of a line at their home: those written in part are fetched, and the frame is there (R225, R226). -/
def State.homeOpen (s : State) (w : Who) (line touched full : Nat) : State :=
  let part := sectors fun i => bitOf touched i && !bitOf full i
  let s := ((s.fillNow w line (s.lacks line part)).forget line full).meet line part w.part
  s.allocate line w.tag w.part full full

/-- A write: the bytes; the poison of its sectors, set where the data is poisoned and cleared where a whole sector is written (R309,
R312, R561); the homes of its lines, with their forwarders and watches; the log. -/
def State.store (s : State) (w : Who) (l : Loc) (bs : List Byte) (bad : Bool := false) : State :=
  if bs.isEmpty || (!l.host && s.releasedIn l.addr bs.length) then s
  else if l.host then
    let n := bs.length
    let s := { s.hostCured l.addr n with host := memPut s.host l.addr bs }
    (List.range ((l.addr + bs.length - 1) / 4096 - l.addr / 4096 + 1)).foldl
      (fun s i => s.dlog w.part true ((l.addr / 4096 + i) * 4096)) s
  else
    let n := bs.length
    let s := (List.range ((l.addr + n - 1) / 65536 - l.addr / 65536 + 1)).foldl
      (fun s i => s.dlog w.part false ((l.addr / 65536 + i) * 65536)) s
    let ks := rangeLines l.addr n
    let new := ks.filter fun k => (s.frame k).isNone
    let s := ks.foldl (fun s k => s.homeOpen w k (rangeMask false l.addr n k) (rangeMask true l.addr n k)) s
    let s := { s with mem := memPut s.mem l.addr bs }
    let s := (rangeSectors l.addr n).foldl (fun s x =>
      if bad || (s.keyless (x.1 / 2048) && (s.frame (x.1 / 4)).isNone) then s.poisonSector x.1
      else if x.2 then s.setPoison x.1 false else s) s
    ks.foldl (fun s k => (s.wrote w k (rangeMask false l.addr n k)).packNew (new.contains k) k) s

/-- A little-endian number written (R16). -/
def State.storeLe (s : State) (w : Who) (l : Loc) (n v : Nat) : State := s.store w l (leBytes n v)

/-! ### What an access waits for (Table 6.5, R233, R302, R313 to R316) -/

/-- The lines of device byte ranges that the host holds so that an access needs a snoop; a read that meets poison needs none. -/
def State.heldLines (s : State) (ranges : List (Nat × Nat)) (write : Bool) : List Nat :=
  (s.hosts.filter fun h => (h.2 == some .em || (write && h.2 == some .s)) &&
    (ranges.any fun r => rangeMask false r.1 r.2 h.1 != 0) &&
    (write || !(ranges.any fun r => Nat.land (s.linePoison h.1) (rangeMask false r.1 r.2 h.1) != 0))).map (·.1)

/-- Something could keep a fill from a register, a way or the memory. -/
def State.tight (s : State) : Bool :=
  !s.misses.isEmpty || !s.missOff.isEmpty || !s.repairs.isEmpty || s.keys.any (fun k => k.2.st == 2) ||
    s.reqs.any fun r => r.st == .ticket || r.st == .granted

/-- An access must wait: a line of it has its register in use, or a fill that it needs finds no register, no way, or a column or a key
that is not ready (R233, R235, R353, R393, R560). It takes no register itself, for its fill returns within it (log 12). -/
def State.mustWait (s : State) (w : Who) (reads writes : List (Nat × Nat)) : Bool :=
  let all := reads ++ writes
  (s.misses.any fun e => e.2.isSome && all.any fun r => rangeMask false r.1 r.2 e.1 != 0) ||
    (s.tight && all.any fun r => (rangeLines r.1 r.2).any fun k =>
      let need := s.lacks k (rangeMask false r.1 r.2 k)
      need != 0 && (s.stuck k need || !s.missRoom k w.tag || !s.wayRoom k w.tag))

/-- The host's copies are made to give way to an access: the state, and whether the access can go on now. It waits while a register of
its lines is in use or a snoop is out; a snoop takes a register (R235). -/
def State.gate (s : State) (w : Who) (reads writes : List (Nat × Nat)) : State × Bool :=
  if s.mustWait w reads writes then (s, false)
  else
    let rd := s.heldLines reads false
    let wr := s.heldLines writes true
    if rd.isEmpty && wr.isEmpty then (s, true)
    else if s.silent then ((rd ++ wr).foldl State.loseHost s, true)
    else
      let ask (inv : Bool) (s : State) (k : Nat) : State :=
        if (s.miss k).isSome || !s.missRoom k w.tag then s else s.snoop k inv [] w.tag
      (rd.foldl (ask false) (wr.foldl (ask true) s), false)

end Sys2Proof.Machine
end

