-- ==== Sys2Proof/Machine/Walk.lean ====
section
/-! DEFINITION. The translation walk (spec/11 R512 to R519, R671): the declared table format, a walk of the
tables of a context, what it caches, and how it fails. -/

namespace Sys2Proof.Machine

/-- A declared bit of a table entry: its position, if declared (R512). -/
def htBit (w : Nat) (lo : Nat) : Option Nat := if bitOf w (lo + 6) then some (bitsOf w (lo + 5) lo) else none

/-- The Host Table Format Descriptor of a function (Table 11.5). -/
structure Htfd where
  valid : Option Nat
  write : Option Nat
  user : Option Nat
  accessed : Option Nat
  dirty : Option Nat
  nx : Option Nat
  ps : Option Nat
  atom : Option Nat
  levels : Nat
  adSet : Bool
  leaf2m : Bool
  leaf1g : Bool
  addrHi : Nat
  devBase : Nat
  devGib : Nat
  deriving DecidableEq, Repr

def State.htfd (s : State) (fn : Nat) : Htfd :=
  let w0 := (s.word (Machine.htfd fn 0)).toNat
  let w1 := (s.word (Machine.htfd fn 1)).toNat
  { valid := htBit w0 0, write := htBit w0 7, user := htBit w0 14, accessed := htBit w0 21, dirty := htBit w0 28
    nx := htBit w0 35, ps := htBit w0 42, atom := htBit w0 49, levels := bitsOf w0 58 56, adSet := bitOf w0 59
    leaf2m := bitOf w0 60, leaf1g := bitOf w0 61, addrHi := bitsOf w1 5 0
    devBase := (s.word (Machine.htfd fn 2)).toNat, devGib := (s.word (Machine.htfd fn 3)).toNat % 2 ^ 16 }

/-- Whether a host address lies in the device aperture (R516). -/
def Htfd.inAperture (h : Htfd) (a : Nat) : Bool := decide (h.devBase ≤ a) && decide (a < h.devBase + h.devGib * 2 ^ 30)

/-- A declared bit of an entry; an undeclared bit reads as `d`. -/
def entBit (e : Nat) (b : Option Nat) (d : Bool) : Bool :=
  match b with
  | some i => bitOf e i
  | none => d

def Htfd.declared (h : Htfd) : List Nat :=
  [h.valid, h.write, h.user, h.accessed, h.dirty, h.nx, h.ps, h.atom].filterMap id

/-- Any bit from addr_hi + 1 to 51 that holds no declared bit is set (R513). -/
def Htfd.strayBits (h : Htfd) (e : Nat) : Bool :=
  (List.range 52).any fun i => decide (h.addrHi < i) && bitOf e i && !h.declared.contains i

/-- The address field of an entry. -/
def Htfd.addr (h : Htfd) (e : Nat) : Nat := bitsOf e h.addrHi 12 * 4096

/-- What a walk answers. -/
inductive WalkRes where
  | ok (x : XEntry)
  /-- a page request is needed; with write access -/
  | page (write : Bool)
  /-- rights failure, malformed entry, offset beyond the grant -/
  | rights
  | poison
  /-- an access of the walker to a table in device memory waits at its home; the walk is made again -/
  | wait
  deriving DecidableEq, Repr

/-- The walker's requests carry the tag of the work that it serves, and are made for the partition of the context (R387, R530). -/
def State.walker (s : State) (w : Who) (ctx : Nat) : Who := { w with part := (s.ctx ctx).part }

/-- The bytes that the walker moves at a home, counted and charged as those of an agent in the Rhizome (R605; log 12). -/
def State.meterWalk (s : State) (w : Who) (n : Nat) (write : Bool) : State :=
  (((s.bump (telCase w.tag (if write then 8 else 0)) n).charge w (2 * n)).lane w false n)

/-- A table entry read at an address of the host's space: inside the aperture from device memory, at the home of its line (R222, R513);
beyond the grant it is a rights failure. One that is poisoned is not used, and is counted (R671; log 12). -/
def State.readEntry (s : State) (w : Who) (ctx : Nat) (h : Htfd) (a : Nat) : State × (Nat ⊕ WalkRes) :=
  if h.inAperture a then
    match grantByte (s.part (s.ctx ctx).part).grant (a - h.devBase) with
    | none => (s, .inr .rights)
    | some d => match s.gate w [(d, 8)] [] with
      | (s, false) => (s, .inr .wait)
      | (s, true) =>
        let k := d / 128
        let s := if s.releasedIn d 8 then s.rasCount 0x17
          else (s.meterWalk w 8 false).homeRead w k (rangeMask false d 8 k)
        if (s.fetch ⟨false, d⟩ 8).2 then (s.rasCount 0x0A, .inr .poison) else (s, .inl (memLe s.mem d 8))
  else if s.hostPoisoned a 8 then (s.rasCount 0x0A, .inr .poison)
  else (s, .inl (memLe s.host a 8))

/-- Entries read in order, as far as they can be. -/
def State.readEntries (s : State) (w : Who) (ctx : Nat) (h : Htfd) : List Nat → State × (List Nat ⊕ WalkRes)
  | [] => (s, .inl [])
  | a :: as => match s.readEntry w ctx h a with
    | (s, .inr r) => (s, .inr r)
    | (s, .inl e) => match s.readEntries w ctx h as with
      | (s, .inl es) => (s, .inl (e :: es))
      | x => x

/-- Entries of one line written back by the walker (R515): an atomic at the home in device memory, an AtomicOp in host memory. Whether it
could act. -/
def State.writeEntries (s : State) (w : Who) (ctx : Nat) (h : Htfd) (es : List (Nat × Nat)) : State × Bool :=
  let dev (a : Nat) : Option Loc :=
    if h.inAperture a then (grantByte (s.part (s.ctx ctx).part).grant (a - h.devBase)).map (⟨false, ·⟩) else some ⟨true, a⟩
  let ls : List (Loc × Nat) := es.filterMap fun e => (dev e.1).map (·, e.2)
  match s.gate w [] (ls.flatMap fun l => l.1.dev 8) with
  | (s, false) => (s, false)
  | (s, true) => (ls.foldl (fun s l =>
      (if l.1.host then s.charge w 320 else s.meterWalk w 8 true).storeLe w l.1 8 l.2) s, true)

/-- Rights gathered along the walk: read (user), write, execute. -/
structure Rights where
  rd : Bool := true
  wr : Bool := true
  ex : Bool := true
  deriving DecidableEq, Repr

def Htfd.rightsOf (h : Htfd) (e : Nat) (r : Rights) : Rights :=
  { rd := r.rd && entBit e h.user true, wr := r.wr && entBit e h.write false, ex := r.ex && !entBit e h.nx false }

/-- A leaf found: its table entry and where that stands, its level, and the rights on the way to it. -/
structure Leaf where
  level : Nat
  ent : Nat
  at_ : Nat
  rights : Rights

/-- The way down the tables from a level (R513): a leaf, or how the walk fails. -/
def State.descend (w : Who) (ctx : Nat) (h : Htfd) (va : Nat) : Nat → State → Nat → Rights → State × (Leaf ⊕ WalkRes)
  | 0, s, _, _ => (s, .inr .rights)
  | l + 1, s, base, r =>
    let a := base + 8 * (va / 2 ^ (12 + 9 * l) % 512)
    match s.readEntry w ctx h a with
    | (s, .inr x) => (s, .inr x)
    | (s, .inl e) =>
      if !entBit e h.valid false then (s, .inr (.page false))
      else if h.strayBits e then (s, .inr .rights)
      else
        let r := h.rightsOf e r
        let ps := entBit e h.ps false
        if l = 0 then (s, .inl ⟨1, e, a, r⟩)
        else if ps then
          if l = 1 && h.leaf2m || l = 2 && h.leaf1g then
            if h.addr e % 2 ^ (12 + 9 * l) != 0 then (s, .inr .rights) else (s, .inl ⟨l + 1, e, a, r⟩)
          else (s, .inr .rights)
        else State.descend w ctx h va l s (h.addr e) r

/-- The 16 leaves of an aligned 64 KiB block form a 64 KiB page with the leaf `ent` (R517). -/
def Htfd.isRun (h : Htfd) (ent : Nat) (vs : List Nat) : Bool :=
  let key (e : Nat) := (entBit e h.user true, entBit e h.write false, entBit e h.nx false, entBit e h.atom true)
  let f0 := h.addr (vs.headD 0)
  f0 % 65536 == 0 && (vs.zipIdx.all fun (e, i) => entBit e h.valid false && !h.strayBits e && h.addr e == f0 + 4096 * i && key e == key ent)

/-- The 16 leaves around a 4 KiB leaf, where they form a 64 KiB page (R517). At BL2 a run with a leaf that cannot be read is none. -/
def State.leafRun (s : State) (w : Who) (ctx : Nat) (h : Htfd) (bl1 : Bool) (lf : Leaf) : State × (Option (List Nat) ⊕ WalkRes) :=
  if lf.level != 1 then (s, .inl none)
  else match s.readEntries w ctx h ((List.range 16).map fun i => lf.at_ / 128 * 128 + 8 * i) with
    | (s, .inl vs) => (s, .inl (if h.isRun lf.ent vs then some vs else none))
    | (s, .inr .wait) => (s, .inr .wait)
    | (s, .inr r) => (s, if bl1 then .inr r else .inl none)

/-- The walker's update of an entry: accessed, and dirty for a write. -/
def Htfd.touched (h : Htfd) (needW : Bool) (e : Nat) : Nat :=
  let setBit (e : Nat) (b : Option Nat) (on : Bool) : Nat := match b with
    | some i => if on && !bitOf e i then e + 2 ^ i else e
    | none => e
  setBit (setBit e h.accessed true) h.dirty needW

/-- The translation that a leaf gives once its accessed and dirty bits stand as they should: `run` are the leaves of its 64 KiB page. -/
def Htfd.entryOf (h : Htfd) (ctx : Nat) (bl1 needW : Bool) (va : Nat) (lf : Leaf) (run : Option (List Nat)) : XEntry :=
  let all (b : Option Nat) : Bool := match run with
    | some es => es.all fun e => entBit e b true
    | none => false
  -- pages covered: a leaf, a 64 KiB run, or at BL1 the 64 KiB block of the address
  let whole := if lf.level = 1 then bl1 || (run.isSome && all h.accessed && (!needW || all h.dirty)) else true
  let pages := if lf.level = 1 then (if whole then 16 else 1) else if bl1 then 16 else 2 ^ (9 * (lf.level - 1))
  let vpn := va / 4096 / pages * pages
  let size := if lf.level = 1 then 1 else 2 ^ (9 * (lf.level - 1))
  -- the leaf's own first page, from which the covered block's address follows
  let out := h.addr lf.ent + vpn * 4096 - va / 4096 / size * size * 4096
  let dirtyOk := if lf.level = 1 && whole then all h.dirty else entBit lf.ent h.dirty true
  let wr := lf.rights.wr && dirtyOk
  let host := !h.inAperture (h.addr lf.ent)
  { ctx := ctx, vpn := vpn, pages := pages, host := host, off := if host then out else out - h.devBase
    rd := true, wr := wr, at_ := wr && entBit lf.ent h.atom true, ex := lf.rights.ex }

/-- A walk for one access at one address (R513 to R519): the state, with accessed and dirty bits set where
R515 has the walker set them, and the answer. The arrangement at BL1 and an offset beyond the grant are rights failures whatever
else is lacking (R516, R517, R519). Only the bits of an address that the tables index count: no rule asks an instruction fetch for a
canonical address (DESIGN CHOICE, log 14). -/
def State.walk (s : State) (who : Who) (ctx : Nat) (va : W64) (acc : Acc) : State × WalkRes :=
  let cx := s.ctx ctx
  let h := s.htfd cx.fn
  let w := s.walker who ctx
  let needW := acc == .write || acc == .atomic
  match State.descend w ctx h va.toNat h.levels s cx.ptRoot {} with
  | (s, .inr (.page _)) => (s, .page needW)
  | (s, .inr r) => (s, r)
  | (s, .inl lf) => match s.leafRun w ctx h cx.bl1 lf with
    | (s, .inr r) => (s, r)
    | (s, .inl run) =>
      let x0 := h.entryOf ctx cx.bl1 needW va.toNat lf run
      if lf.level = 1 && cx.bl1 && run.isNone then (s, .rights)
      else if !x0.host && (s.resolve x0 va).isNone then (s, .rights)
      else if needW && !(lf.rights.rd && lf.rights.wr) then (s, .page true)
      else if !lf.rights.rd || (acc == .exec && !lf.rights.ex) || (acc == .atomic && !entBit lf.ent h.atom true) then (s, .rights)
      else
        -- accessed and dirty (R515) of the leaves that the translation goes through: at BL1 all 16 of its block (R517, log 79)
        let leaves : List (Nat × Nat) := match run with
          | some es => if cx.bl1 then es.zipIdx.map fun x => (lf.at_ / 128 * 128 + 8 * x.2, x.1) else [(lf.at_, lf.ent)]
          | none => [(lf.at_, lf.ent)]
        let lacking := leaves.filter fun x => !entBit x.2 h.accessed true || (needW && !entBit x.2 h.dirty true)
        if lacking.isEmpty then (s, .ok x0)
        else if !(h.adSet && (h.inAperture lf.at_ || s.hostAtomics)) then (s, .page needW)
        else match s.writeEntries w ctx h (lacking.map fun x => (x.1, h.touched needW x.2)) with
          | (s, false) => (s, .wait)
          | (s, true) =>
            let own := lf.at_ / 8 % 16
            let run := run.map fun es => es.zipIdx.map fun x => if cx.bl1 || x.2 = own then h.touched needW x.1 else x.1
            (s, .ok (h.entryOf ctx cx.bl1 needW va.toNat { lf with ent := h.touched needW lf.ent } run))

/-- A translation cached (R518). -/
def State.cacheX (s : State) (x : XEntry) : State :=
  { s with xcache := x :: s.xcache.filter fun y => !(y.ctx == x.ctx && y.vpn == x.vpn && y.pages == x.pages) }

/-- The cached translations of a context over a range of 4 KiB pages dropped; `n = 0` drops them all
(Table 11.6, R517). -/
def State.dropX (s : State) (ctx vpn n : Nat) : State :=
  { s with xcache := s.xcache.filter fun x =>
    !(x.ctx == ctx && (n == 0 || (decide (x.vpn < vpn + n) && decide (vpn < x.vpn + x.pages)))) }

/-- Translation at once: the cached translation, else a walk, whose result is cached. -/
def State.translate (s : State) (w : Who) (ctx : Nat) (va : W64) (acc : Acc) : State × (Loc ⊕ WalkRes) :=
  match s.locate ctx va acc with
  | some l => (s, .inl l)
  | none =>
    match s.walk w ctx va acc with
    | (s, .ok x) =>
      let s := s.cacheX x
      match s.resolve x va with
      | some l => (s, .inl l)
      | none => (s, .inr .rights)
    | (s, r) => (s, .inr r)

/-! ### Page requests (R519) -/

/-- The page requests that the host's allocation has room for go out, oldest first. -/
def State.sendPages (s : State) : State :=
  let go := (s.pageReqs.filter (!·.sent)).take (s.priAlloc - (s.pageReqs.filter (·.sent)).length)
  if go.isEmpty then s
  else
    let msg (r : PageReq) : Sent :=
      .pageRequest r.ctx (if (s.ctx r.ctx).pasidEn then some (s.ctx r.ctx).pasid else none) r.page r.write r.exec
    { s with pageReqs := s.pageReqs.map fun r => if go.contains r then { r with sent := true } else r
             sent := (go.map msg).reverse ++ s.sent }

/-- A need joined to an open request, or made a new one: a write need also serves read needs. -/
def State.pageNeed (s : State) (ctx page : Nat) (write exec : Bool) (join : PageReq → PageReq) : State :=
  let serves (r : PageReq) : Bool := r.ctx == ctx && r.page == page && (r.write || !write)
  if s.pageReqs.any serves then
    { s with pageReqs := s.pageReqs.map fun r => if serves r then join r else r }
  else
    { s with pageReqs := s.pageReqs ++ [join { ctx := ctx, page := page, write := write, exec := exec }] }.sendPages

/-- Addresses translated in lane order (R670): the state after the walks, each address's answer, and whether
some walk was made. -/
def State.translateAll (s : State) (w : Who) (ctx : Nat) (acc : Acc) : List W64 → State × List (Loc ⊕ WalkRes) × Bool
  | [] => (s, [], false)
  | va :: vs =>
    let hit := (s.locate ctx va acc).isSome
    let (s, r) := s.translate w ctx va acc
    let (s, rs, miss) := translateAll s w ctx acc vs
    (s, r :: rs, miss || !hit)

end Sys2Proof.Machine
end

