-- ==== Sys2Proof/Machine/Issue.lean ====
section
/-! DEFINITION. The issue of an Atset instruction, and the faults and page faults of a clause (spec/02 R67 to
R73, R97, R98, R670). -/

namespace Sys2Proof.Machine

/-! ### Issue (R67, R69, R71, R73, R109, R190) -/

/-- An access still has to write one of the registers named. -/
def Access.owes (d : Access) (vr ur : List Nat) : Bool :=
  d.dst.any (fun x => vr.contains x.1) || (match d.udst with
    | some u => ur.contains u
    | none => false)

/-- Some outstanding load still has to write one of the registers named (R71). -/
def Clause.awaits (c : Clause) (vr ur : List Nat) : Bool := c.loads.any fun d => d.owes vr ur

/-- R190: a write of a register the matrix unit has not read, or a read of one ACCST has not written. -/
def Tile.matHazard (t : Tile) (e : Nat) (ru : RegUse) : Bool :=
  t.matq.any fun j => j.entry == e &&
    ((!j.read && ru.vw.any j.srcRegs.contains) || j.dst.any fun x => ru.vr.contains x.1)

/-- REG_RANGE: a register at or above v(8g), other than v255 (R53, R112). -/
def regRange (g : Nat) (rs : List Nat) : Bool := rs.any fun r => decide (8 * g ≤ r) && r != 255

/-- The cycle of its Frond in which a clause would issue: later than its tile's last issue, no bubble, and four cycles after its
promotion (R47, R69, R72). -/
def State.issueCycle (s : State) (a : At) : Nat :=
  let f := frondOf a.tile
  let t := s.tile a.tile
  s.openCycle f (max (s.cycle f) (max (t.lastIssue + 1) ((t.clause a.entry).promotedAt + 4)))

/-- What is outstanding for a clause: whether its next instruction stalls depends on nothing else (R71, R75, R190, R280). -/
def State.outstandingOf (s : State) (a : At) : List Nat :=
  let c := s.clause a
  [c.mxcnt, c.hostWr, (s.tile a.tile).matq.length] ++ c.loads.flatMap fun d => [d.id, d.due, d.dst.length]

/-- The next instruction of a clause has been found to stall: its slot is passed over until something of what is outstanding is over. -/
def State.noteTried (s : State) (a : At) : State :=
  let t := s.tile a.tile
  s.setTile a.tile { t with tried := tabSet triedNone t.tried a.entry (some (s.outstandingOf a)) }

/-- An ACTIVE clause can issue its next instruction in a cycle, as far as its sequencer knows: it has been promoted long enough, no
translation holds it up, its requests have left, and the instruction has not been found to stall (R67, R69, R73, R232; log 77). -/
def State.couldIssue (s : State) (a : At) (cycle : Nat) : Bool :=
  let c := s.clause a
  c.st == .active && c.xlat.isNone && decide (c.promotedAt + 4 ≤ cycle) &&
    tabGet triedNone (s.tile a.tile).tried a.entry != some (s.outstandingOf a) && !s.crowded a

/-- The slots that the sequencer examines before slot `i`, in order, from the one after the slot that issued last (R67). -/
def slotsBefore (last i : Nat) : List Nat := (List.range ((i + 15 - last) % 8)).map fun j => (last + 1 + j) % 8

/-- R67: the slot of a clause comes up in the rotation before any whose clause can issue in that cycle. A clause that has just
issued comes up last, so it issues again in the next cycle only if no other can. -/
def State.inTurn (s : State) (a : At) : Bool :=
  let t := s.tile a.tile
  match t.slotOf a.entry with
  | none => true
  | some i => (slotsBefore t.lastSlot i).all fun j => match t.slot j with
    | none => true
    | some e => !s.couldIssue ⟨a.tile, e⟩ (s.issueCycle a)

/-- Whether a clause can issue: it is ACTIVE and its turn has come, its tile is not stopped, no translation is outstanding, and no
request of it waits to be sent (R75, R232). -/
def State.canIssue (s : State) (a : At) : Bool :=
  let t := s.tile a.tile
  let c := t.clause a.entry
  c.st == .active && !t.stopped && !t.switching && c.xlat.isNone && !s.rotating &&
    ((s.tileKernel a.tile).st == .running || (s.tileKernel a.tile).st == .switching) && s.inTurn a && !s.crowded a

/-- What the issue of an instruction asks: a legal encoding, and registers that exist and wait for nothing. -/
structure IssueReq where
  legal : Bool
  regs : RegUse := {}
  /-- the operation reads or writes a register only if some lane acts -/
  lanes : Bool := true
  /-- a register out of range faults (R53); not so for PREF (R166) -/
  range : Bool := true
  /-- R133: SRD and SWR of a status word wait for matrix instructions, whose flags merge when they finish -/
  statusOrder : Bool := false
  deriving DecidableEq, Repr

/-! ### Page faults of a clause (R97, R98, R508, R519, R670) -/

/-- The padded size of a tile record (R104). -/
def tileBytes (n g sp : Nat) : Nat := (4096 + 32768 + sp * 131072 + n * 1024 + n * g * 1024 + 4095) / 4096 * 4096

/-- The size of a kernel's save record as its tiles stand. -/
def State.recordBytes (s : State) (k : Kernel) : Nat :=
  k.tiles.foldl (fun n t => n + tileBytes (s.tile t).resident.length k.granules k.spmSplit) 4096

/-- The lowest free save slot of a context (R508). -/
def Ctx.freeSlot (c : Ctx) : Option Nat :=
  (List.range c.saveSlots).find? fun i => !(c.slots.any (·.1 == i))

def telHeldPart (p : Nat) : Nat := liveKey (0x00C03000 + 64 * p + 0x10)
def telHeldCtx (c : Nat) : Nat := liveKey (0x00C08000 + 4 * c)

/-- A switch-out of a kernel begins: it takes a save slot; with none free, or a record that would not fit, the
kernel is held in place (R508). -/
def State.switchOut (s : State) (k cause : Nat) : State :=
  let kn := s.kernel k
  let cx := s.ctx kn.ctx
  match cx.freeSlot with
  | some i =>
    if s.recordBytes kn ≤ cx.slotPages * 65536 then
      (s.setKernel k { kn with st := .switching, swCause := cause, slot := i, held := false }).setCtx kn.ctx
        { cx with slots := cx.slots ++ [(i, k)] }
    else
      ((s.setKernel k { kn with held := true }).setCtx kn.ctx { cx with held := cx.held + 1 }).bump
        (telHeldPart kn.part)
  | none =>
    ((s.setKernel k { kn with held := true }).setCtx kn.ctx { cx with held := cx.held + 1 }).bump
      (telHeldPart kn.part)

/-- A memory instruction or a fetch raises a page fault: one request for each distinct need, and the kernel is
switched out with cause 1 (R519, R670 step 3). The instruction has not issued (R98). -/
def State.pageFault (s : State) (a : At) (acc : Acc) (vas : List W64) : State :=
  match (s.tile a.tile).kernel with
  | none => s
  | some k =>
    let kn := s.kernel k
    let write := acc == .write || acc == .atomic
    let pages := (vas.map fun va => va.toNat / 4096).eraseDups
    let s := pages.foldl (fun s pg => s.pageNeed kn.ctx pg write (acc == .exec) fun r =>
      if r.kernels.contains (k, acc) then r else { r with kernels := r.kernels ++ [(k, acc)] }) s
    if kn.st == .running && !kn.held then
      (s.setKernel k { kn with faultVa := vas.headD 0, faultTile := a.tile }).switchOut k 1
    else s.noteTried a

/-- The outcome of translating the addresses of one instruction (R670 steps 2 and 3): a fault, a page fault,
or the places. `deny` says of which places the access has no right (R294). A walk that waits is made again with the whole. -/
inductive Places where
  | wait
  | fault (cause : Nat) (va : W64)
  | page (vas : List W64)
  | ok (ls : List Loc)
  deriving DecidableEq, Repr

def placesOf (rightsCause : Nat) (deny : Loc → Bool) (vas : List W64) (rs : List (Loc ⊕ WalkRes)) : Places :=
  let xs := vas.zip rs
  let hard : W64 × (Loc ⊕ WalkRes) → Option Nat := fun x => match x.2 with
    | .inr .rights => some rightsCause
    | .inr .poison => some 7
    | .inl l => if deny l then some rightsCause else none
    | _ => none
  if rs.contains (.inr .wait) then .wait
  else match xs.find? fun x => (hard x).isSome with
  | some x => .fault ((hard x).getD rightsCause) x.1
  | none =>
    let pg := (xs.filter fun x => match x.2 with
      | .inr _ => true
      | .inl _ => false).map (·.1)
    if pg.isEmpty then .ok (rs.filterMap fun r => match r with
      | .inl l => some l
      | .inr _ => none)
    else .page pg

/-- The clock moved on to the cycle in which a clause issues (log 53). -/
def State.issueTime (s : State) (a : At) : State := s.reachCycle (frondOf a.tile) (s.issueCycle a)

/-- The state in which an instruction of a clause acts: at its cycle, which its tile notes (R67). The clause is stalled no more. -/
def State.issued (s : State) (a : At) : State :=
  let t := s.tile a.tile
  let s := s.issueTime a
  s.setTile a.tile
    { t.setStall a.entry none with
      tried := tabSet triedNone t.tried a.entry none, lastSlot := (t.slotOf a.entry).getD t.lastSlot, lastIssue := s.cycle (frondOf a.tile) }

/-- R71: the next instruction of a clause needs outstanding loads. The stall counts from the cycle in which that instruction could
otherwise have issued first, and goes on while one of the loads is outstanding. -/
def State.noteStall (s : State) (a : At) (q : IssueReq) : State :=
  let t := s.tile a.tile
  let ids := ((t.clause a.entry).loads.filter fun d => d.owes q.regs.vr q.regs.ur).map (·.id)
  let since := match t.stall a.entry with
    | some x => if x.loads.any ids.contains then x.since else s.issueCycle a
    | none => s.issueCycle a
  (s.setTile a.tile (t.setStall a.entry (some { since := since, loads := ids }))).noteTried a

/-- What an instruction does once its fetch is allowed: it stalls on a hazard, which is noted where it is a load's; an illegal
encoding and a register out of range fault; else `k` gives the effect. -/
def issueFetched (a : At) (e : Enc) (q : IssueReq) (s : State) (k : State → Clause → State) : State :=
  let t := s.tile a.tile
  let c := t.clause a.entry
  if c.awaits q.regs.vr q.regs.ur then s.noteStall a q
  else if t.matHazard a.entry q.regs || (q.statusOrder && c.mxcnt != 0) then s.noteTried a
  else if !q.legal then s.clauseFault a 1 0
  else if q.range && regRange (s.tileKernel a.tile).granules (q.regs.vr ++ q.regs.vw) &&
      (!q.lanes || c.acting e != 0) then s.clauseFault a 6 0
  else k (s.issued a) c

/-- The kernel that a tile's accesses serve, with its queue's tag (R387). -/
def State.whoTile (s : State) (tile : Nat) : Who :=
  s.whoKernel (((s.tile tile).kernel).getD 0) (s.tileKernel tile).part (s.tileKernel tile).tag

/-- How the fetch of an instruction ends. -/
inductive Fetch where
  | ok
  | fault (cause : Nat)
  | page
  /-- its home, or a table's, is not free yet -/
  | wait
  deriving DecidableEq, Repr

/-- The fetch of a clause's next instruction (R49, Table 2.8 cause 0x02; R519, R671): the execute right; then the instruction cache, or
the home of its sector, which the cache takes up (R222). The cache holds 2,048 sectors, of which the oldest gives way (DESIGN CHOICE,
log 12). An INVOKE's code comes from the store (R543). -/
def State.fetchCode (s : State) (a : At) : State × Fetch :=
  let pc := (s.clause a).pc
  let w := s.whoTile a.tile
  if (s.tileKernel a.tile).invoke.isSome then (s, .ok)
  else match s.translate w (s.tileKernel a.tile).ctx pc .exec with
  | (s, .inr (.page _)) => (s, .page)
  | (s, .inr .poison) => (s, .fault 7)
  | (s, .inr .wait) => (s, .wait)
  | (s, .inr _) => (s, .fault 2)
  | (s, .inl loc) =>
    let k := loc.addr / 32
    if loc.host then (s, if s.hostPoisoned loc.addr 8 then .fault 7 else .ok)
    else if (s.tile a.tile).icache.contains k then (s, .ok)
    else if s.releasedIn loc.addr 8 then (s.rasCount 0x17, .fault 7)
    else match s.gate w [(32 * k, 32)] [] with
      | (s, false) => (s, .wait)
      | (s, true) =>
        let s := (s.homeBytes w a.tile (k / 4) 32 false).homeRead w (k / 4) (2 ^ (k % 4))
        if s.sectorBad k then (s, .fault 7)
        else (s.setTile a.tile { s.tile a.tile with icache := (k :: (s.tile a.tile).icache).take 2048 }, .ok)

/-- The word has another row's opcode: it is not this row's instruction. -/
def Enc.foreign (e : Enc) : Bool := match e.op with
  | some op => opListed op
  | none => false

/-- The issue of one instruction by a clause: nothing happens while it cannot issue. A reserved opcode is illegal, and uses no register
that it would wait for (R109). -/
def issue (a : At) (e : Enc) (q : IssueReq) (s : State) (k : State → Clause → State) : State :=
  let pc := (s.clause a).pc
  if !s.canIssue a || Enc.foreign e then s
  else match s.fetchCode a with
  | (s, .ok) => if e.op.isSome then s.clauseFault a 1 0 else issueFetched a e q s k
  | (s, .page) => s.pageFault a .exec [pc]
  | (s, .fault cause) => s.clauseFault a cause pc
  | (s, .wait) => s.noteTried a

/-- An instruction that turns out not to issue now leaves its tile's sequencer as it stood in `s0` (R98), and its slot is passed over. -/
def State.unissued (s s0 : State) (a : At) : State :=
  let t := s0.tile a.tile
  (s.setTile a.tile { s.tile a.tile with stalls := t.stalls, lastSlot := t.lastSlot, lastIssue := t.lastIssue }).noteTried a

/-- The clause at its next instruction. -/
def Clause.step (c : Clause) : Clause := { c with pc := c.pc + 8 }

/-- A later write of a register that a queued ACCST is to write leaves the later value (R164). -/
def Tile.cancelMat (t : Tile) (entry : Nat) (vw : List Nat) (m : W32) : Tile :=
  if t.matq.isEmpty then t
  else { t with matq := t.matq.map fun j => if j.entry = entry then
    { j with dst := vw.foldl (fun d r => cancelDst r m d) j.dst } else j }

/-- An instruction whose whole effect is on its clause. -/
def issueClause (a : At) (e : Enc) (q : IssueReq) (s : State) (f : State → Clause → Clause) : State :=
  issue a e q s fun s c =>
    s.setTile a.tile (((s.tile a.tile).setClause a.entry (f s c).step).cancelMat a.entry q.regs.vw (c.acting e))

/-- An instruction of classes 0x0 to 0x8 with a register destination (R113, R122): its form and what it
computes. `extra` are the operation's own encoding checks. -/
def issueAlu (fm : Form) (f : AluIn → AluOut) (extra : AluF → Bool) (a : At) (e : Enc) (s : State) : Res :=
  unit (atOk a) (issueClause a e
    { legal := fm.ok e && extra (aluFields e), regs := fm.regs e, lanes := !fm.uniform (aluFields e) } s
    fun _ c => c.alu fm f e)

end Sys2Proof.Machine
end

