-- ==== Sys2Proof/Machine/TileOps.lean ====
section
/-! DEFINITION. Operations of the tile's scheduler: entering WAITING and READY, the block barrier, exits and
block retirement (spec/02 R60, R65, R66, R68, R70, R83, R85). -/

namespace Sys2Proof.Machine

/-- Clauses in the pending pool: resident and in no active slot. -/
def Tile.pooled (t : Tile) : Nat := (t.resident.filter fun e => (t.slotOf e).isNone).length

/-- A clause leaves its active slot. -/
def Tile.leaveSlot (t : Tile) (e : Nat) : Tile :=
  match t.slotOf e with
  | some i => t.setSlot i none
  | none => t

/-- An ACTIVE clause enters WAITING: it leaves its slot if the pool has a free entry (R70). -/
def Tile.toWaiting (t : Tile) (e : Nat) (c : Clause) : Tile :=
  let t' := t.setClause e { c with st := .waiting }
  if t.pooled < 64 then t'.leaveSlot e else t'

/-- A clause enters READY in a tile cycle, or ACTIVE where it still holds an active slot (Table 2.6, R68). `sub` ranks it among
the clauses of its block that enter in that cycle. -/
def Tile.toReadyAs (t : Tile) (cycle e : Nat) (c : Clause) (sub : Nat) : Tile :=
  let t := { t with quiet := none }
  if (t.slotOf e).isSome then t.setClause e { c with st := .active }
  else
    { t.setClause e { c with
        st := .ready, readyRank := t.readyNext, readyAt := { cycle := cycle, blk := (t.block c.blk).index, sub := sub } } with
      readyNext := t.readyNext + 1 }

/-- A clause enters READY by itself: sr.clause ranks it within its block (R68). -/
def Tile.toReady (t : Tile) (cycle e : Nat) (c : Clause) : Tile := t.toReadyAs cycle e c c.idx

/-- A wait ends: with pe = 1, predicate pd takes the outcome in every live lane (R172). -/
def Clause.endWait (c : Clause) (met : Bool) : Clause :=
  let c' := if c.wait.pe then c.putP c.wait.pd c.live (if met then ~~~0 else 0) else c
  { c' with wait := {} }

/-- Insertion into a list of (rank, entry) ordered by rank; equal ranks keep their order. -/
def rankInsert (x : Nat × Nat) : List (Nat × Nat) → List (Nat × Nat)
  | [] => [x]
  | y :: ys => if x.1 < y.1 then x :: y :: ys else y :: rankInsert x ys

def rankSort (xs : List (Nat × Nat)) : List (Nat × Nat) := xs.foldl (fun a x => rankInsert x a) []

/-- Insertion of an entry, by the clause that holds it, into a list of entries in READY order (R68). -/
def Tile.readyInsert (t : Tile) (e : Nat) : List Nat → List Nat
  | [] => [e]
  | f :: fs =>
    let c := t.clause e
    let d := t.clause f
    if c.readyAt.before d.readyAt || (!d.readyAt.before c.readyAt && decide (c.readyRank < d.readyRank)) then e :: f :: fs
    else f :: t.readyInsert e fs

/-- The READY clauses, the one to be promoted first at the head (R68). -/
def Tile.readyOrder (t : Tile) : List Nat :=
  (t.clauses.filter fun x => x.2.st == .ready).foldl (fun es x => t.readyInsert x.1 es) []

/-- The clauses that wait at the barrier of a block for a generation, in order of arrival. -/
def Tile.atBarrier (t : Tile) (b : Nat) (gen : W32) : List Nat :=
  (rankSort ((t.clauses.filter fun x => x.2.st == .waiting && x.2.wait.kind == 1 && x.2.blk == b &&
    x.2.wait.gen == gen).map fun x => (x.2.wait.rank, x.1))).map (·.2)

/-- BARRIER_RELEASE (R83, R85): when arrivals plus exited clauses make up the block, the generation is
released and its clauses become READY in the order in which they arrived (R68). -/
def Tile.barrierCheck (t : Tile) (cycle b blkClauses : Nat) : Tile :=
  let blk := t.block b
  if blk.used && blk.arrivals + blk.exited == blkClauses && blk.arrivals != 0 then
    let es := t.atBarrier b blk.gen
    let t := t.setBlock b { blk with gen := blk.gen + 1, arrivals := 0 }
    es.zipIdx.foldl (fun t e => t.toReadyAs cycle e.1 ((t.clause e.1).endWait true) e.2) t
  else if blk.used && blk.exited == blkClauses && blk.arrivals == 0 then
    t.setBlock b { blk with gen := blk.gen + 1 }
  else t

/-- A tile leaves its kernel's set when it holds no clause, its matrix unit has finished what they issued (R190), and no block
is left to place (R534). -/
def State.tileLeave (s : State) (tile : Nat) : State :=
  let t := s.tile tile
  match t.kernel with
  | none => s
  | some k =>
    let kn := s.kernel k
    if t.resident.isEmpty && t.matq.isEmpty && kn.nextBlock == kn.blkCount && kn.tiles.contains tile then
      ((s.occupy tile).setKernel k { kn with tiles := kn.tiles.filter (· != tile) }).setTile tile
        { t with
          kernel := none, lastPart := some kn.part, stopped := false, quiet := none, switching := false, saved := false
          storesOut := 0 }
    else s

/-- The acknowledgements still due for the stores of a clause (R66). -/
def Clause.acksDue (c : Clause) : Nat := (c.loads.filter (·.store)).foldl (fun n d => n + d.due) 0

/-- A clause reaches EMPTY: its entry and registers are free at once, whether or not its block goes on (Table 2.5; DESIGN CHOICE,
log 76: R60 speaks of the block's retirement); its block retires with its last clause (BLOCK_RETIRE, R60). Its stores not yet
acknowledged go on (R66), and so do its matrix instructions (R190). -/
def State.clauseEmpty (s : State) (a : At) : State :=
  let t := s.tile a.tile
  let c := t.clause a.entry
  let t := (t.leaveSlot a.entry).setClause a.entry {}
  let last := !(t.resident.any fun e => (t.clause e).blk == c.blk)
  let t := if last then t.setBlock c.blk {} else t
  let s := s.setTile a.tile t
  match t.kernel with
  | none => s
  | some k =>
    let kn := s.kernel k
    ((s.setTile a.tile { t with storesOut := t.storesOut + c.acksDue }).setKernel k { kn with
      storesOut := kn.storesOut + c.acksDue, retired := if last then kn.retired + 1 else kn.retired }).tileLeave a.tile

/-- ACTIVE to EXITED: the clause leaves its slot and is counted at its barrier; with no load outstanding it
goes on to EMPTY (R66, R83). -/
def State.clauseExit (s : State) (a : At) (c : Clause) : State :=
  let t := s.tile a.tile
  let blk := t.block c.blk
  let n := (s.tileKernel a.tile).blkClauses
  let t := (t.setClause a.entry { c with st := .exited }).leaveSlot a.entry
  let t := t.setBlock c.blk { blk with exited := blk.exited + 1 }
  let s := s.setTile a.tile (t.barrierCheck (s.cycle (frondOf a.tile)) c.blk n)
  if c.ldcnt = 0 then s.clauseEmpty a else s

/-- Loads that issued and have not returned: what ldcnt counts (R75). -/
def satAdd (n k : Nat) : Nat := min 63 (n + k)

/-- R71, R74: a clause that waits on its counters, or on a load, is READY again when they have come down. -/
def Tile.recheck (t : Tile) (cycle e : Nat) : Tile :=
  let c := t.clause e
  if c.st != .waiting then t
  else if c.wait.kind == 2 then
    if c.ldcnt ≤ bitsOf c.wait.thr 5 0 && c.stcnt ≤ bitsOf c.wait.thr 11 6 && c.mxcnt ≤ bitsOf c.wait.thr 17 12 then
      t.toReady cycle e (c.endWait true)
    else t
  else if c.wait.kind == 7 && c.loads.all (fun d => d.store || d.id != c.wait.load) then
    t.toReady cycle e { c with wait := {} }
  else t

end Sys2Proof.Machine
end

