-- ==== Sys2Proof/Machine/AtsetCtl.lean ====
section
/-! DEFINITION. The meanings of the Atset instructions of classes 0xB and 0xC but WAIT: branches, the
reconvergence stack, barrier, fence, exit (spec/03 R123 to R130, R173, R174). -/

namespace Sys2Proof.Machine

def bUa (e : Enc) : Nat := Enc.f e 47 42
def bUl (e : Enc) : Nat := Enc.f e 41 36
def bKind (e : Enc) : Nat := Enc.f e 35 32
def bOff (e : Enc) : Nat := Enc.f e 31 0

/-- PC + off * 8, off signed (R125, R126; log 24). -/
def bTarget (e : Enc) (pc : W64) : W64 := pc + (BitVec.ofNat 32 (bOff e)).signExtend 64 * 8

def bOk (e : Enc) (ua ul off : Bool) (kinds : Nat) : Bool :=
  headerOk e && !e.imm && decide (bKind e < kinds) && (ua || bUa e == 0) && (ul || bUl e == 0) && (off || bOff e == 0)

/-- A reconvergence stack entry (Table 3.5), if its pc can be held: 8-byte units from the kernel's entry. -/
def stackEntry (entry : W64) (mask : W32) (path : Bool) (pc : W64) : Option W64 :=
  let d := (pc - entry).toNat
  if d < 2 ^ 34 then some (BitVec.ofNat 64 (mask.toNat * 2 ^ 32 + (if path then 2 ^ 31 else 0) + d / 8)) else none

/-- A push, unless it would be the 33rd entry or its pc cannot be held (R124, R128). -/
def Clause.push (c : Clause) (x : Option W64) : Option Clause :=
  match x with
  | some w => if c.stack.length < 32 then some { c with stack := w :: c.stack } else none
  | none => none

/-- JOIN (R127): pops the top entry; with an empty stack it changes nothing and the clause goes on. -/
def Clause.joined (c : Clause) (entry : W64) : Clause :=
  match c.stack with
  | [] => c.step
  | w :: rest =>
    let pc := entry + BitVec.ofNat 64 (w.toNat % 2 ^ 31 * 8)
    { c with stack := rest, active := BitVec.ofNat 32 (w.toNat / 2 ^ 32)
             pc := if w.getLsbD 31 then pc else pc + 8 }

/-- BR (R126). -/
def execBr (a : At) (e : Enc) (s : State) : Res :=
  unit (atOk a) (issue a e { legal := bOk e false false true 3 } s fun s' c =>
    let t := c.acting e
    let f := c.active &&& ~~~t
    let tgt := bTarget e c.pc
    let k := s.tileKernel a.tile
    let go (c : Clause) : State := s'.setClause a { c with pc := tgt }
    let fall : State := s'.setClause a c.step
    match bKind e with
    | 0 =>
      if t == 0 then fall
      else if f == 0 then go c
      else match c.push (stackEntry k.entry f true (c.pc + 8)) with
        | some c' => go { c' with active := t }
        | none => s'.clauseFault a 1 0
    | 1 => if t == 0 then fall else go c
    | _ => if f == 0 then go c else fall)

/-- BRX (R130). -/
def execBrx (a : At) (e : Enc) (s : State) : Res :=
  unit (atOk a) (issue a e
    { legal := bOk e true false false 1 && !e.p, regs := { ur := [bUa e] }, lanes := false } s fun s' c =>
    let tgt := c.getU (bUa e)
    if tgt.toNat % 8 != 0 then s'.clauseFault a 3 tgt else s'.setClause a { c with pc := tgt })

/-- CALL (R130): the link, then the branch; predicated, only if the guard is true in some active lane. -/
def execCall (a : At) (e : Enc) (s : State) : Res :=
  let ind := bKind e == 1
  unit (atOk a) (issue a e
    { legal := bOk e ind true (!ind) 2, regs := { ur := if ind then [bUa e] else [], uw := [bUl e] } } s fun s' c =>
    let tgt := if ind then c.getU (bUa e) else bTarget e c.pc
    if e.p && c.acting e == 0 then s'.setClause a c.step
    else if tgt.toNat % 8 != 0 then s'.clauseFault a 3 tgt
    else s'.setClause a { (c.putU (bUl e) (c.pc + 8)) with pc := tgt })

/-- SPLIT (R125): pushes the reconvergence token. -/
def execSplit (a : At) (e : Enc) (s : State) : Res :=
  unit (atOk a) (issue a e { legal := bOk e false false true 1 && !e.p } s fun s' c =>
    match c.push (stackEntry (s.tileKernel a.tile).entry c.active false (bTarget e c.pc)) with
    | some c' => s'.setClause a c'.step
    | none => s'.clauseFault a 1 0)

/-- JOIN (R127). -/
def execJoin (a : At) (e : Enc) (s : State) : Res :=
  unit (atOk a) (issue a e { legal := bOk e false false false 1 && !e.p } s fun s' c =>
    s'.setClause a (c.joined (s.tileKernel a.tile).entry))

/-- NOP (R174). -/
def execNop (a : At) (e : Enc) (s : State) : Res :=
  unit (atOk a) (issueClause a e { legal := headerOk e && !e.imm && e.body == 0 } s fun _ c => c)

/-- BAR (R81 to R87, R285): the arrival waits until every earlier access of the clause is performed. -/
def execBar (a : At) (e : Enc) (s : State) : Res :=
  unit (atOk a) (issue a e { legal := headerOk e && !e.imm && e.body == 0 && !e.p, lanes := false } s fun s' c =>
    if c.ldcnt != 0 || c.stcnt != 0 then s.noteTried a
    else
      let t := s'.tile a.tile
      let b := t.block c.blk
      let c := c.step
      let n := (s.tileKernel a.tile).blkClauses
      let t := t.setBlock c.blk { b with arrivals := b.arrivals + 1 }
      if b.arrivals + 1 + b.exited == n then
        -- the last arrival finds its condition met and stays ACTIVE
        s'.setTile a.tile ((t.setClause a.entry c).barrierCheck (s'.cycle (frondOf a.tile)) c.blk n)
      else
        s'.setTile a.tile (t.toWaiting a.entry
          { c with wait := { kind := 1, gen := b.gen, rank := b.arrivals, since := s'.cycle (frondOf a.tile) } }))

/-- FENCE (R173, R280 to R284): later memory accesses wait for the earlier ones it orders. -/
def execFence (a : At) (e : Enc) (s : State) : Res :=
  let order := Enc.f e 17 16
  let scope := Enc.f e 15 13
  let ok := headerOk e && !e.imm && !e.p && order != 0 && decide (scope ≤ 4) && Enc.f e 47 18 == 0 && Enc.f e 12 0 == 0
  unit (atOk a) (issueClause a e { legal := ok, lanes := false } s fun _ c =>
    let rel := decide (2 ≤ order)
    { c with fenceLd := true, fenceSt := c.fenceSt || rel, fenceHost := c.fenceHost || (rel && decide (3 ≤ scope)) })

/-- EXIT (R129). -/
def execExit (a : At) (e : Enc) (s : State) : Res :=
  unit (atOk a) (issue a e { legal := headerOk e && !e.imm && e.body == 0 } s fun s' c =>
    let m := c.acting e
    let keep : W64 := BitVec.ofNat 64 ((~~~m).toNat * 2 ^ 32 + (2 ^ 32 - 1))
    let c := { c with live := c.live &&& ~~~m, active := c.active &&& ~~~m, stack := c.stack.map (· &&& keep) }
    if c.live == 0 then s'.clauseExit a c
    else if c.active == 0 then s'.setClause a (c.joined (s.tileKernel a.tile).entry)
    else s'.setClause a c.step)

end Sys2Proof.Machine
end

