-- ==== Sys2Proof/Machine/AtsetFp.lean ====
section
/-! DEFINITION. The meanings of the Atset instructions of classes 0x6 to 0x8: floating point, special
functions, softmax and masks, lane exchange and vote (spec/03 R148, R149, R153 to R158; spec/04 R216 to
R218). -/

namespace Sys2Proof.Machine

/-- FADD (R153 to R155). -/
def execFadd (a : At) (e : Enc) (s : State) : Res :=
  issueAlu { tys := [8, 9], imm := true, rm := true, d := .vec, b := .reg } aluFadd (fun x => x.rm != 5) a e s

/-- FSUB (R153 to R155). -/
def execFsub (a : At) (e : Enc) (s : State) : Res :=
  issueAlu { tys := [8, 9], imm := true, rm := true, d := .vec, b := .reg } aluFsub (fun x => x.rm != 5) a e s

/-- FMUL (R153 to R155). -/
def execFmul (a : At) (e : Enc) (s : State) : Res :=
  issueAlu { tys := [8, 9], imm := true, rm := true, d := .vec, b := .reg } aluFmul (fun x => x.rm != 5) a e s

/-- FFMA: a * b + c, rounded once (R153 to R155). -/
def execFfma (a : At) (e : Enc) (s : State) : Res :=
  issueAlu { tys := [8, 9], rm := true, d := .vec, b := .reg, c := .reg } aluFfma (fun x => x.rm != 5) a e s

/-- FMIN (R156). -/
def execFmin (a : At) (e : Enc) (s : State) : Res :=
  issueAlu { tys := [8, 9], imm := true, d := .vec, b := .reg } aluFmin (fun _ => true) a e s

/-- FMAX (R156). -/
def execFmax (a : At) (e : Enc) (s : State) : Res :=
  issueAlu { tys := [8, 9], imm := true, d := .vec, b := .reg } aluFmax (fun _ => true) a e s

/-- FABS (R154). -/
def execFabs (a : At) (e : Enc) (s : State) : Res :=
  issueAlu { tys := [8, 9], d := .vec } aluFabs (fun _ => true) a e s

/-- FNEG (R154). -/
def execFneg (a : At) (e : Enc) (s : State) : Res :=
  issueAlu { tys := [8, 9], d := .vec } aluFneg (fun _ => true) a e s

/-- FDIV (R153). -/
def execFdiv (a : At) (e : Enc) (s : State) : Res :=
  issueAlu { tys := [8, 9], rm := true, d := .vec, b := .reg } aluFdiv (fun x => x.rm != 5) a e s

/-- FSQRT (R153). -/
def execFsqrt (a : At) (e : Enc) (s : State) : Res :=
  issueAlu { tys := [8, 9], rm := true, d := .vec } aluFsqrt (fun x => x.rm != 5) a e s

/-- FCLASS: a 10-bit mask, in one register whatever the type (log 21) (R157). -/
def execFclass (a : At) (e : Enc) (s : State) : Res :=
  issueAlu { tys := [8, 9], dw := some 32, d := .vec } aluFclass (fun _ => true) a e s

/-- EXP2 (R158). -/
def execExp2 (a : At) (e : Enc) (s : State) : Res :=
  issueAlu { tys := [8], d := .vec } aluExp2 (fun _ => true) a e s

/-- LOG2 (R158). -/
def execLog2 (a : At) (e : Enc) (s : State) : Res :=
  issueAlu { tys := [8], d := .vec } aluLog2 (fun _ => true) a e s

/-- RCP (R158). -/
def execRcp (a : At) (e : Enc) (s : State) : Res :=
  issueAlu { tys := [8], d := .vec } aluRcp (fun _ => true) a e s

/-- RSQ (R158). -/
def execRsq (a : At) (e : Enc) (s : State) : Res :=
  issueAlu { tys := [8], d := .vec } aluRsq (fun _ => true) a e s

/-- TANH (R158). -/
def execTanh (a : At) (e : Enc) (s : State) : Res :=
  issueAlu { tys := [8], d := .vec } aluTanh (fun _ => true) a e s

/-- SMXSTEP (R216, R217): the state (m, l) in v[d], v[d + 1]; the weight and the rescale factor go to
v[d + 2], v[d + 3]. -/
def execSmxstep (a : At) (e : Enc) (s : State) : Res :=
  let x := aluFields e
  let merge := x.aux == 1
  let d := Opd.of x.d
  let src := Opd.of x.a
  let ok := ({ tys := [8], d := .own, a := .own, b := .no, c := .no, aux := 1 } : Form).ok e && d.isV && d.aligned 4 &&
    (if merge then src.isV && src.aligned 2 else src != .bad)
  let ru : RegUse := { vr := d.vregs 2 ++ src.vregs (if merge then 2 else 1), vw := d.vregs 4, ur := src.uregs }
  unit (atOk a) (issueClause a e { legal := ok, regs := ru } s fun _ c =>
    let out (l : Nat) := smxStep (c.mode.getLsbD 3) (c.opd x.d 32 l) (c.getV (x.d + 1) l).toNat (c.opd x.a 32 l)
      (c.getV (x.a + 1) l).toNat merge
    let m := c.acting e
    let w (c' : Clause) (i : Nat) (f : Nat × Nat × Nat × Nat → Nat) :=
      c'.putV (x.d + i) m fun l => BitVec.ofNat 32 (f (out l).1)
    let c' := w (w (w (w c 0 (·.1)) 1 (·.2.1)) 2 (·.2.2.1)) 3 (·.2.2.2)
    c'.putStatus m fun l => ({ fp := (out l).2 } : FlagEff).apply (c.getStatus l))

/-- MASKGEN (R218): an illegal mode word in an acting lane is ILLEGAL_ENC. Its a may be a uniform register too (R114; DESIGN CHOICE,
log 77: R218 writes v[a]). -/
def execMaskgen (a : At) (e : Enc) (s : State) : Res :=
  let x := aluFields e
  let fm : Form := { d := .vec, b := .reg, c := .reg }
  unit (atOk a) (issue a e { legal := fm.ok e, regs := fm.regs e } s fun s' c =>
    let m := c.acting e
    if (maskLanes m).any fun l => bitsOf (c.opd x.c 32 l) 7 2 != 0 then s'.clauseFault a 1 0
    else s'.setTile a.tile (((s'.tile a.tile).setClause a.entry (c.writeReg x.d 32 m fun l =>
      maskGen (c.opd x.a 32 l) (c.opd x.b 32 l) (c.opd x.c 32 l)).step).cancelMat a.entry (fm.regs e).vw m))

/-- The lane a SHFL reads in lane `l` (R148). -/
def shflSource (aux l b : Nat) : Nat :=
  let s := match aux with
    | 0 => b
    | 1 => if b ≤ l then l - b else 32
    | 2 => l + b
    | _ => Nat.xor l b
  if s < 32 then s else l

/-- SHFL (R148): a source lane that is inactive provides its register as it stands. -/
def execShfl (a : At) (e : Enc) (s : State) : Res :=
  let x := aluFields e
  let fm : Form := { d := .vec, b := .reg, aux := 3 }
  unit (atOk a) (issueClause a e { legal := fm.ok e, regs := fm.regs e } s fun _ c =>
    c.writeReg x.d 32 (c.acting e) fun l => c.opd x.a 32 (shflSource x.aux l (c.opd x.b 32 l)))

/-- VOTE (R149): ANY and ALL to a predicate, BALLOT to a uniform register. -/
def execVote (a : At) (e : Enc) (s : State) : Res :=
  let x := aluFields e
  let ballot := x.aux == 2
  let ok := ({ d := .own, a := .pred, aux := 2 } : Form).ok e &&
    (if ballot then (Opd.of x.d).isU && !e.p else decide (x.d < 8))
  unit (atOk a) (issueClause a e
    { legal := ok, regs := { uw := if ballot then (Opd.of x.d).uregs else [] } } s fun _ c =>
    let p := c.getP x.a
    if ballot then c.putU (x.d - 256) ((p &&& c.active).zeroExtend 64)
    else
      let m := c.acting e
      let r := if x.aux = 0 then p &&& m != 0 else p &&& m == m
      c.putP x.d m (if r then ~~~0 else 0))

end Sys2Proof.Machine
end

