-- ==== Sys2Proof/Machine/AtsetInt.lean ====
section
/-! DEFINITION. The meanings of the Atset instructions of classes 0x0 to 0x3: integer arithmetic, logic, bit
operations and shifts (spec/03 R137 to R145, Table 3.13). -/

namespace Sys2Proof.Machine

/-- IADD: d = a + b (R137, R138). -/
def execIadd (a : At) (e : Enc) (s : State) : Res :=
  issueAlu { tys := [0, 1, 2, 3], imm := true, sat := true, b := .reg } aluIadd (fun _ => true) a e s

/-- ISUB: d = a - b (R137, R138). -/
def execIsub (a : At) (e : Enc) (s : State) : Res :=
  issueAlu { tys := [0, 1, 2, 3], imm := true, sat := true, b := .reg } aluIsub (fun _ => true) a e s

/-- INEG: d = -a (R137, R141). -/
def execIneg (a : At) (e : Enc) (s : State) : Res :=
  issueAlu { tys := [1, 3], sat := true } aluIneg (fun _ => true) a e s

/-- IABS: d = |a| (R137, R141). -/
def execIabs (a : At) (e : Enc) (s : State) : Res :=
  issueAlu { tys := [1, 3], sat := true } aluIabs (fun _ => true) a e s

/-- IMIN (R137). -/
def execImin (a : At) (e : Enc) (s : State) : Res :=
  issueAlu { tys := [0, 1, 2, 3], imm := true, b := .reg } aluImin (fun _ => true) a e s

/-- IMAX (R137). -/
def execImax (a : At) (e : Enc) (s : State) : Res :=
  issueAlu { tys := [0, 1, 2, 3], imm := true, b := .reg } aluImax (fun _ => true) a e s

/-- IADDC: d = a + b + C (R138). -/
def execIaddc (a : At) (e : Enc) (s : State) : Res :=
  issueAlu { tys := [0, 1, 2, 3], sat := true, b := .reg } aluIaddc (fun _ => true) a e s

/-- ISUBB: d = a - b - C (R138). -/
def execIsubb (a : At) (e : Enc) (s : State) : Res :=
  issueAlu { tys := [0, 1, 2, 3], sat := true, b := .reg } aluIsubb (fun _ => true) a e s

/-- IMUL: the low half of the product (R139). -/
def execImul (a : At) (e : Enc) (s : State) : Res :=
  issueAlu { tys := [0, 1, 2, 3], imm := true, sat := true, b := .reg } aluImul (fun _ => true) a e s

/-- IMULH: the high half of the product (R139). -/
def execImulh (a : At) (e : Enc) (s : State) : Res :=
  issueAlu { tys := [0, 1, 2, 3], b := .reg } aluImulh (fun _ => true) a e s

/-- IMAD: a * b + c (R139). -/
def execImad (a : At) (e : Enc) (s : State) : Res :=
  issueAlu { tys := [0, 1, 2, 3], b := .reg, c := .reg } aluImad (fun _ => true) a e s

/-- IDIV: the quotient, toward zero (R140, R141). -/
def execIdiv (a : At) (e : Enc) (s : State) : Res :=
  issueAlu { tys := [0, 1, 2, 3], imm := true, b := .reg } aluIdiv (fun _ => true) a e s

/-- IREM: the remainder (R140, R141). -/
def execIrem (a : At) (e : Enc) (s : State) : Res :=
  issueAlu { tys := [0, 1, 2, 3], imm := true, b := .reg } aluIrem (fun _ => true) a e s

/-- IMULW: the 64-bit product of 32-bit operands (R139). -/
def execImulw (a : At) (e : Enc) (s : State) : Res :=
  issueAlu { tys := [0, 1], dw := some 64, b := .reg } aluImulw (fun _ => true) a e s

/-- AND: a AND b (R143). -/
def execAnd (a : At) (e : Enc) (s : State) : Res :=
  issueAlu { tys := [0, 2], imm := true, b := .reg } aluAnd (fun _ => true) a e s

/-- OR: a OR b (R143). -/
def execOr (a : At) (e : Enc) (s : State) : Res :=
  issueAlu { tys := [0, 2], imm := true, b := .reg } aluOr (fun _ => true) a e s

/-- XOR: a XOR b (R143). -/
def execXor (a : At) (e : Enc) (s : State) : Res :=
  issueAlu { tys := [0, 2], imm := true, b := .reg } aluXor (fun _ => true) a e s

/-- ANDN: a AND NOT b (R143). -/
def execAndn (a : At) (e : Enc) (s : State) : Res :=
  issueAlu { tys := [0, 2], imm := true, b := .reg } aluAndn (fun _ => true) a e s

/-- NOT (R143). -/
def execNot (a : At) (e : Enc) (s : State) : Res :=
  issueAlu { tys := [0, 2] } aluNot (fun _ => true) a e s

/-- POPC (R143). -/
def execPopc (a : At) (e : Enc) (s : State) : Res :=
  issueAlu { tys := [0, 2] } aluPopc (fun _ => true) a e s

/-- CLZ (R143). -/
def execClz (a : At) (e : Enc) (s : State) : Res :=
  issueAlu { tys := [0, 2] } aluClz (fun _ => true) a e s

/-- CTZ (R143). -/
def execCtz (a : At) (e : Enc) (s : State) : Res :=
  issueAlu { tys := [0, 2] } aluCtz (fun _ => true) a e s

/-- BREV (R143). -/
def execBrev (a : At) (e : Enc) (s : State) : Res :=
  issueAlu { tys := [0, 2] } aluBrev (fun _ => true) a e s

/-- BFE: field extract (R144). -/
def execBfe (a : At) (e : Enc) (s : State) : Res :=
  issueAlu { tys := [0, 1, 2, 3], b := .reg, c := .reg } aluBfe (fun _ => true) a e s

/-- BFI: field insert (R144). -/
def execBfi (a : At) (e : Enc) (s : State) : Res :=
  issueAlu { tys := [0, 2], b := .reg, c := .reg } aluBfi (fun _ => true) a e s

/-- PRMT: byte permute (R145). -/
def execPrmt (a : At) (e : Enc) (s : State) : Res :=
  issueAlu { b := .reg, c := .reg } aluPrmt (fun _ => true) a e s

/-- SHL (R141, R142). -/
def execShl (a : At) (e : Enc) (s : State) : Res :=
  issueAlu { tys := [0, 2], imm := true, b := .reg } aluShl (fun _ => true) a e s

/-- SHR (R141, R142). -/
def execShr (a : At) (e : Enc) (s : State) : Res :=
  issueAlu { tys := [0, 2], imm := true, b := .reg } aluShr (fun _ => true) a e s

/-- SAR (R141, R142). -/
def execSar (a : At) (e : Enc) (s : State) : Res :=
  issueAlu { tys := [1, 3], imm := true, b := .reg } aluSar (fun _ => true) a e s

end Sys2Proof.Machine
end

