-- ==== Sys2Proof/Machine/AtsetMat.lean ====
section
/-! DEFINITION. The matrix unit: MMA, MMAS, ACCLD, ACCST, ACCZ and MATRIX_FINISH (spec/04 R186 to R207). An
instruction enters the unit's queue when it issues and takes its whole effect when it finishes. -/

namespace Sys2Proof.Machine

/-! ### Formats (Tables 4.5, 4.6) -/

/-- The row of Table 4.6 that a pair of formats stands in; none where the pair is illegal (R187). -/
def mmaRow (fa fb : Nat) : Option Nat :=
  if fa == fb && decide (fa < 2) then some 1
  else if (fa == 2 || fa == 3) && (fb == 2 || fb == 3) then some 2
  else if (fa == 4 || fa == 5) && (fb == 4 || fb == 5) then some 3
  else if ((fa == 6 || fa == 7) && (fb == 6 || fb == 7)) || (fa == 8 && fb == 8) then some 4
  else if decide (9 ≤ fa) && decide (fa ≤ 11) && decide (9 ≤ fb) && decide (fb ≤ 11) then some 5
  else none

def mmaK (row : Nat) : Nat := if row = 1 then 16 else if row = 5 then 64 else 32

/-- Bits of an element of a matrix format. -/
def matBits (f : Nat) : Nat :=
  match f with
  | 0 | 1 => 16
  | 9 | 10 => 6
  | 11 => 4
  | _ => 8

/-- Registers of a fragment. -/
def matRegs (f : Nat) : Nat := if f = 9 ∨ f = 10 then 24 else 16

/-- The value of an element (Tables 4.1, 4.5; R180). -/
def matElem (f x : Nat) : FVal :=
  match f with
  | 0 => fmtBf16.decode x
  | 1 => fmtF16.decode x
  | 2 | 6 => fmtE4m3.decode x
  | 3 | 7 => fmtE5m2.decode x
  | 8 => let n := intVal 8 true x; .fin (decide (n < 0)) n.natAbs (-6)
  | 9 => fmtE2m3.decode x
  | 10 => fmtE3m2.decode x
  | _ => fmtE2m1.decode x

/-- Bits `[b + n - 1 : b]` of the bit string that the registers from `base` on hold (R195, R196). -/
def fragBits (src : Tab W32) (base b n : Nat) : Nat :=
  let k := base * 32 + b / 32
  ((tabGet wDef src k).toNat + 2 ^ 32 * (tabGet wDef src (k + 1)).toNat) / 2 ^ (b % 32) % 2 ^ n

/-- One row of an A fragment, or one column of a B fragment, as patterns (R195). -/
def fragLine (src : Tab W32) (base f k i : Nat) : List Nat :=
  let n := matBits f
  (List.range k).map fun e => fragBits src base (i * k * n + e * n) n

/-- A scale byte (R179, R194). -/
def scaleByte (src : Tab W32) (reg o : Nat) : Nat := fragBits src reg (8 * o) 8

/-- A line's elements with their block scales applied; a scale of 0xFF makes its block NaN. -/
def scaledLine (f : Nat) (scales : List Nat) (xs : List Nat) : List FVal :=
  xs.zipIdx.map fun (x, i) =>
    let sc := scales.getD (i / 32) 127
    if sc = 255 then .nan false
    else match matElem f x with
      | .fin s m e => .fin s m (e + sc - 127)
      | v => v

/-! ### MMA (R191 to R194) -/

/-- The exact sum of products and a bank value: a NaN or infinity found, or the finite total so far. -/
structure MAcc where
  nan : Bool := false
  iv : Bool := false
  inf : Option Bool := none
  sum : Int := 0
  e : Int := 0
  deriving DecidableEq, Repr

def MAcc.addInf (m : MAcc) (s : Bool) : MAcc :=
  match m.inf with
  | none => { m with inf := some s }
  | some t => if s == t then m else { m with nan := true, iv := true }

def MAcc.addFin (m : MAcc) (x : Int) (e : Int) : MAcc :=
  if x = 0 then m
  else
    let q := min m.e e
    { m with sum := m.sum * (2 ^ (m.e - q).toNat : Nat) + x * (2 ^ (e - q).toNat : Nat), e := q }

def MAcc.prod (m : MAcc) (a b : FVal) : MAcc :=
  match a, b with
  | .nan _, _ | _, .nan _ => { m with nan := true }
  | .inf s, .inf t => m.addInf (s != t)
  | .inf s, .fin t n _ => if n = 0 then { m with nan := true, iv := true } else m.addInf (s != t)
  | .fin s n _, .inf t => if n = 0 then { m with nan := true, iv := true } else m.addInf (s != t)
  | .fin s n e, .fin t k g => m.addFin (toInt (s != t) (n * k)) (e + g)

def MAcc.bank (m : MAcc) (v : FVal) : MAcc :=
  match v with
  | .nan _ => { m with nan := true }
  | .inf s => m.addInf s
  | .fin s n e => m.addFin (toInt s n) e

/-- The total rounded once with RNE; an exact zero gives +0 (log 25). -/
def MAcc.round (f : Fmt) (m : MAcc) : Nat × FFlags :=
  if m.nan then (f.nanPat, { iv := m.iv })
  else match m.inf with
    | some s => (f.infOf s, {})
    | none => if m.sum = 0 then (0, {}) else
      f.roundPack .rne false false (signMag m.sum).1 (signMag m.sum).2 m.e

def bankKey (bank row col : Nat) : Nat := bank * 4096 + row * 64 + col

def dot (as bs : List FVal) : MAcc := (as.zip bs).foldl (fun m p => m.prod p.1 p.2) {}

/-- An MMA on the banks: the new words, and the flags for sr.ustatus. An integer element wraps when the exact total of its K
products and the bank's element does (R193; DESIGN CHOICE, log 77). -/
def mmaRun (j : MatJob) (acc : Tab W32) : Tab W32 × FlagEff × Bool :=
  let w := j.body.toNat
  let a := bitsOf w 47 39
  let b := bitsOf w 38 30
  let sc := bitsOf w 29 21
  let fa := bitsOf w 20 17
  let fb := bitsOf w 16 13
  let bank := bitsOf w 12 12
  let z := bitOf w 11
  let row := (mmaRow fa fb).getD 1
  let k := mmaK row
  let idx := List.range 64
  let upd (f : Nat → Nat → Nat → Nat × FFlags × Bool) : Tab W32 × FlagEff × Bool :=
    idx.foldl (fun st i => idx.foldl (fun (t, fl, wrap) c =>
      let key := bankKey bank i c
      let (x, g, wr) := f i c (tabGet wDef acc key).toNat
      (tabSet wDef t key (BitVec.ofNat 32 x), { fl with fp := fl.fp.or g }, wrap || wr)) st) (acc, {}, false)
  if row = 3 then
    let val (f x : Nat) : Int := intVal 8 (f == 4) x
    let as := idx.map fun i => (fragLine j.src a fa k i).map (val fa)
    let bs := idx.map fun i => (fragLine j.src b fb k i).map (val fb)
    upd fun i c old =>
      let s : Int := ((as.getD i []).zip (bs.getD c [])).foldl (fun s p => s + p.1 * p.2)
        (if z then 0 else intVal 32 true old)
      let (r, out) := intResult 32 true false s
      (r, {}, out)
  else
    let nb := k / 32
    let scales (reg i : Nat) : List Nat :=
      if 4 ≤ row then (List.range nb).map fun q => scaleByte j.src reg (i * nb + q) else []
    let as := idx.map fun i => scaledLine fa (scales sc i) (fragLine j.src a fa k i)
    let bs := idx.map fun i => scaledLine fb (scales (sc + 1) i) (fragLine j.src b fb k i)
    let sn := row == 1 && (as.any (·.any FVal.isSnan) || bs.any (·.any FVal.isSnan))
    let (t, fl, wr) := upd fun i c old =>
      let ra := as.getD i []
      let cb := bs.getD c []
      let m := dot ra cb
      let m := if z then m else m.bank (fmtF32.decode old)
      let nan := ra.any FVal.isNan || cb.any FVal.isNan
      let (r, g) := MAcc.round fmtF32 { m with nan := m.nan || nan }
      (r, g, false)
    (t, { fl with fp := { fl.fp with iv := fl.fp.iv || sn } }, wr)

/-! ### MMAS (R201 to R207) -/

/-- The largest unbiased exponent of a line of FP64 values, a subnormal counting as -1022; none for zeros. -/
def lineExp (xs : List FVal) : Option Int :=
  xs.foldl (fun o v => match v with
    | .fin _ m e =>
      if m = 0 then o
      else
        let x := max (e + Nat.log2 m) (-1022)
        some (match o with
          | none => x
          | some y => max x y)
    | _ => o) none

/-- The signed slices d_1 … d_n of a value under α = 2^(E + 1) (R202). -/
def slices (n : Nat) (ex : Int) (v : FVal) : List Int :=
  match v with
  | .fin s m e =>
    let sh : Int := e + (7 * n : Nat) - ex - 1
    let y := if 0 ≤ sh then m * 2 ^ sh.toNat else m / 2 ^ (-sh).toNat
    (List.range n).map fun p => toInt s (y / 128 ^ (n - 1 - p) % 128)
  | _ => []

/-- The pairs (p, q), from 1, of Table 4.9. -/
def sefPairs (n : Nat) : List (Nat × Nat) :=
  let all := (List.range n).flatMap fun p => (List.range n).map fun q => (p + 1, q + 1)
  if n = 8 then (all.filter fun x => decide (x.1 + x.2 ≤ 9)) ++ [(4, 6), (5, 5), (6, 4)]
  else all.filter fun x => decide (x.1 + x.2 ≤ 7)

/-- T_ij of R203 as an integer and the exponent of its unit. -/
def sefSum (n : Nat) (ea eb : Int) (as bs : List (List Int)) : Int × Int :=
  let s : Int := (sefPairs n).foldl (fun (t : Int) pq =>
    let d : Int := (as.zip bs).foldl (fun (s : Int) x => s + x.1.getD (pq.1 - 1) 0 * x.2.getD (pq.2 - 1) 0) 0
    t + d * (2 ^ (7 * (10 - pq.1 - pq.2)) : Nat)) 0
  (s, ea + eb + 2 - 70)

def mmasRun (j : MatJob) (acc : Tab W32) : Tab W32 × FlagEff × Bool :=
  let w := j.body.toNat
  let a := bitsOf w 47 39
  let b := bitsOf w 38 30
  let n := bitsOf w 29 26
  let z := bitOf w 25
  let idx := List.range 64
  -- element e = 16 i + k stands in pair e div 32, lane e mod 32
  let elem (base i k : Nat) : FVal :=
    let e := 16 * i + k
    let r := base + 2 * (e / 32)
    fmtF64.decode ((tabGet wDef j.src (r * 32 + e % 32)).toNat +
      2 ^ 32 * (tabGet wDef j.src ((r + 1) * 32 + e % 32)).toNat)
  let line (base i : Nat) := (List.range 16).map fun k => elem base i k
  let prep (base : Nat) := idx.map fun i =>
    let vs := line base i
    let bad := vs.any fun v => match v with
      | .fin .. => false
      | _ => true
    let ex := lineExp vs
    (bad, ex, match ex with
      | some x => vs.map (slices n x)
      | none => [])
  let as := prep a
  let bs := prep b
  idx.foldl (fun st i => idx.foldl (fun (t, fl, wr) c =>
    let (abad, aex, asl) := as.getD i (false, none, [])
    let (bbad, bex, bsl) := bs.getD c (false, none, [])
    let old := fmtF64.decode ((tabGet wDef acc (bankKey 0 i c)).toNat + 2 ^ 32 * (tabGet wDef acc (bankKey 1 i c)).toNat)
    let m : MAcc := match aex, bex with
      | some x, some y =>
        let (s, q) := sefSum n x y asl bsl
        ({} : MAcc).addFin s q
      | _, _ => {}
    let m := if z then m else m.bank old
    let nan := abad || bbad || (!z && old.isNan)
    let (r, g) := MAcc.round fmtF64 { m with nan := nan, iv := nan }
    (tabSet wDef (tabSet wDef t (bankKey 0 i c) (BitVec.ofNat 32 r)) (bankKey 1 i c) (BitVec.ofNat 32 (r / 2 ^ 32)),
      { fl with fp := fl.fp.or g }, wr)) st) (acc, {}, false)

/-! ### Accumulator moves (R198 to R200, Table 4.8) -/

/-- Register offset and lane of a bank element for t = 0 (row 16q + r div 2, column 32 (r mod 2) + l). -/
def acc0Key (bank q r l : Nat) : Nat := bankKey bank (16 * q + r / 2) (32 * (r % 2) + l)

/-- The bank word that register offset `r`, lane `l` holds: t = 0 and t = 1. -/
def accKey (t bank q r l : Nat) : Nat :=
  if t = 0 then acc0Key bank q r l else bankKey (r % 2) (16 * q + r / 2 / 2) (32 * (r / 2 % 2) + l)

def accRegs (t : Nat) : Nat := if t = 0 then 32 else if t = 1 then 64 else 16

def accldRun (j : MatJob) (acc : Tab W32) : Tab W32 :=
  let w := j.body.toNat
  let v := bitsOf w 47 39
  let t := bitsOf w 35 32
  (List.range (accRegs t)).foldl (fun acc r => lanes.foldl (fun acc l =>
    tabSet wDef acc (accKey t (bitsOf w 36 36) (bitsOf w 38 37) r l) (tabGet wDef j.src ((v + r) * 32 + l))) acc) acc

/-- What ACCST writes to register offset `r`, lane `l`, with the conversion flags (R181, R200). -/
def accstVal (j : MatJob) (acc : Tab W32) (r l : Nat) : W32 × FFlags :=
  let w := j.body.toNat
  let t := bitsOf w 35 32
  let bank := bitsOf w 36 36
  let q := bitsOf w 38 37
  if t < 2 then (tabGet wDef acc (accKey t bank q r l), {})
  else
    let row := 16 * q + r
    let one (col : Nat) : Nat × FFlags :=
      let bits := srBits j.key.toNat j.blk j.idx (64 * row + col) j.ctr.toNat
      let f := if t = 2 then fmtBf16 else fmtF16
      f.convert (rmOf (bitsOf w 31 29) j.mode bits) false false
        (fmtF32.operand (j.mode.getLsbD 3) (tabGet wDef acc (bankKey bank row col)).toNat)
    let lo := one (2 * l)
    let hi := one (2 * l + 1)
    (BitVec.ofNat 32 (lo.1 + 2 ^ 16 * hi.1), lo.2.or hi.2)

/-- The flags of ACCST's conversions: of every element it moves, whether or not a later write has taken its register (R132, R200). -/
def accstFlags (j : MatJob) (acc : Tab W32) : FFlags :=
  (List.range (accRegs (bitsOf j.body.toNat 35 32))).foldl (fun fp r =>
    lanes.foldl (fun fp l => fp.or (accstVal j acc r l).2) fp) {}

def acczRun (j : MatJob) (acc : Tab W32) : Tab W32 :=
  let banks := bitsOf j.body.toNat 47 46
  acc.filter fun x => !bitOf banks (x.1 / 4096)

/-! ### Issue (R188 to R190) -/

/-- The registers of a group; one that would need v255 or lie beyond counts as out of range (R189). -/
def matGroup (base n : Nat) : List Nat := (List.range n).map fun i => if base + i < 255 then base + i else 1000 + i

def matBaseOk (f : Nat) : Bool := decide (f < 256) && f % 8 == 0

/-- A matrix instruction enters the queue. The one in execution still counts among the 4 entries until MATRIX_FINISH (R190;
DESIGN CHOICE, log 77). -/
def issueMat (op : Nat) (legal : Bool) (src dst : List Nat) (ur : List Nat) (sr : Bool) (key : Nat)
    (a : At) (e : Enc) (s : State) : Res :=
  let t := s.tile a.tile
  let c := t.clause a.entry
  unit (atOk a) (
    let regs : RegUse := { vr := src, vw := dst, ur := ur }
    if e.op.isNone && (decide (4 ≤ t.matq.length) || c.mxcnt == 63) then
      -- the queue is full, or the counter would pass 63: the clause stalls, and for R71 only where it waits on a load too
      if !s.canIssue a then s
      else if c.awaits regs.vr regs.ur then s.noteStall a { legal := legal, regs := regs, lanes := false }
      else s.noteTried a
    else issue a e { legal := legal && headerOk e && !e.p && !e.imm, regs := regs
                     lanes := false } s fun s c =>
      let t := s.tile a.tile
      let job : MatJob := {
        entry := a.entry, uid := c.uid, op := op, body := e.body, ctr := c.ctr
        key := if sr then c.getU (key - 256) else 0, mode := c.mode, blk := (t.block c.blk).index, idx := c.idx
        read := t.matq.isEmpty, srcRegs := src
        src := src.foldl (fun m r => lanes.foldl (fun m l => tabSet wDef m (r * 32 + l) (c.getV r l)) m) []
        dst := dst.map fun r => (r, ~~~0) }
      -- a load still out that names a register ACCST writes no longer writes it (R164)
      let c := dst.foldl (fun c r => c.cancel r (~~~0)) c
      let c := { c.step with mxcnt := c.mxcnt + 1, ctr := if sr then c.ctr + 1 else c.ctr }
      let t := t.cancelMat a.entry dst (~~~0)
      s.setTile a.tile { t.setClause a.entry c with matq := t.matq ++ [job] })

/-- MMA (R186, R187). -/
def execMma (a : At) (e : Enc) (s : State) : Res :=
  let fa := Enc.f e 20 17
  let fb := Enc.f e 16 13
  let row := mmaRow fa fb
  let mx := row == some 4 || row == some 5
  let sb := Enc.f e 29 21
  let ok := row.isSome && matBaseOk (Enc.f e 47 39) && matBaseOk (Enc.f e 38 30) && Enc.f e 10 0 == 0 &&
    (if mx then decide (sb < 256) && sb % 2 == 0 else sb == 0)
  issueMat 0xD0 ok (matGroup (Enc.f e 47 39) (matRegs fa) ++ matGroup (Enc.f e 38 30) (matRegs fb) ++
    (if mx then matGroup sb 2 else [])) [] [] false 0 a e s

/-- MMAS (R186, R201). -/
def execMmas (a : At) (e : Enc) (s : State) : Res :=
  let n := Enc.f e 29 26
  let ok := (n == 6 || n == 8) && matBaseOk (Enc.f e 47 39) && matBaseOk (Enc.f e 38 30) && Enc.f e 24 0 == 0
  issueMat 0xD1 ok (matGroup (Enc.f e 47 39) 64 ++ matGroup (Enc.f e 38 30) 64) [] [] false 0 a e s

/-- ACCLD (R199, R200). -/
def execAccld (a : At) (e : Enc) (s : State) : Res :=
  let t := Enc.f e 35 32
  let ok := decide (t < 2) && (t == 0 || Enc.f e 36 36 == 0) && matBaseOk (Enc.f e 47 39) && Enc.f e 31 0 == 0
  issueMat 0xD2 ok (matGroup (Enc.f e 47 39) (accRegs t)) [] [] false 0 a e s

/-- ACCST (R199, R200): with rm = 5 it reads the rounding counter, which rises (R184). -/
def execAccst (a : At) (e : Enc) (s : State) : Res :=
  let t := Enc.f e 35 32
  let rm := Enc.f e 31 29
  let key := Enc.f e 28 20
  let sr := rm == 5
  let ok := decide (t < 4) && (t != 1 || Enc.f e 36 36 == 0) && matBaseOk (Enc.f e 47 39) && Enc.f e 19 0 == 0 &&
    (if t < 2 then rm == 0 else rm != 6) && (if sr then (Opd.of key).isU else key == 0)
  issueMat 0xD3 ok [] (matGroup (Enc.f e 47 39) (accRegs t)) (if sr then (Opd.of key).uregs else []) sr key a e s

/-- ACCZ (R198). -/
def execAccz (a : At) (e : Enc) (s : State) : Res :=
  issueMat 0xD4 (Enc.f e 47 46 != 0 && Enc.f e 45 0 == 0) [] [] [] false 0 a e s

/-! ### MATRIX_FINISH (R75, R190 to R192) -/

/-- The head of the queue takes its effect on the banks; ACCST writes the registers no later write has taken;
the clause's flags and its mxcnt follow; the unit reads the next instruction's registers. -/
def Tile.matFinish (t : Tile) (cycle : Nat) : Tile :=
  match t.matq with
  | [] => t
  | j :: rest =>
    let (acc, fl, wrap) :=
      if j.op = 0xD0 then mmaRun j t.acc
      else if j.op = 0xD1 then mmasRun j t.acc
      else if j.op = 0xD2 then (accldRun j t.acc, {}, false)
      else if j.op = 0xD4 then (acczRun j t.acc, {}, false)
      else (t.acc, {}, false)
    let rest := match rest with
      | [] => []
      | k :: ks => { k with read := true } :: ks
    let t := { t with acc := acc, matq := rest }
    let c := t.clause j.entry
    if c.uid != j.uid || c.st == .empty then t
    else
      let base := bitsOf j.body.toNat 47 39
      let c := j.dst.foldl (fun c d => c.putV d.1 d.2 fun l => (accstVal j t.acc (d.1 - base) l).1) c
      let fp := if j.op = 0xD3 then fl.fp.or (accstFlags j t.acc) else fl.fp
      let st := ({ fp := fp } : FlagEff).apply c.ustatus
      let c := { c with ustatus := setIf wrap 8 st, mxcnt := c.mxcnt - 1 }
      (t.setClause j.entry c).recheck cycle j.entry

/-- MATRIX_FINISH: a tile whose clauses have all gone leaves its kernel with its last matrix instruction. -/
def execMatrixFinish (tile : Nat) (s : State) : Res :=
  unit (tileOk tile) ((s.setTile tile ((s.tile tile).matFinish (s.cycle (frondOf tile)))).tileLeave tile)

/-- The instructions that the unit still holds take their effect, in order: at most four (R48, R190). -/
def Tile.matDrain (t : Tile) (cycle : Nat) : Tile :=
  (List.range 4).foldl (fun t _ => t.matFinish cycle) t

end Sys2Proof.Machine
end

