-- ==== Sys2Proof/Machine/AtsetMem.lean ====
section
/-! DEFINITION. The meanings of the Atset memory instructions and of WAIT: loads, stores, prefetch, atomics,
add-to-line through reduction windows, and waits (spec/03 R159 to R172; spec/02 R74 to R79; spec/05 R239 to
R241, R253, R254; spec/06 R270 to R295). A global access issues once every acting lane is translated (R73,
R670); it then sends one request for each line its lanes name (R277). -/

namespace Sys2Proof.Machine

/-- The fields of Format M (Table 3.3). -/
structure MemF where
  d : Nat
  ub : Nat
  vi : Nat
  scale : Nat
  size : Nat
  space : Nat
  order : Nat
  scope : Nat
  ro : Bool
  sx : Bool
  imm : Nat
  deriving DecidableEq, Repr

def memFields (e : Enc) : MemF :=
  { d := Enc.f e 47 39, ub := Enc.f e 38 33, vi := Enc.f e 32 25, scale := Enc.f e 24 23, size := Enc.f e 22 20
    space := Enc.f e 19 18, order := Enc.f e 17 16, scope := Enc.f e 15 13, ro := bitOf e.body.toNat 12
    sx := bitOf e.body.toNat 11, imm := Enc.f e 10 0 }

/-- The effective address of a lane (R159). -/
def effAddr (c : Clause) (x : MemF) (l : Nat) : W64 :=
  let v := c.getV x.vi l
  let idx : W64 := if x.vi = 255 then 0 else if x.sx then v.signExtend 64 else v.zeroExtend 64
  c.getU x.ub + (idx <<< x.scale) + (BitVec.ofNat 11 x.imm).signExtend 64

def sizeBytes (size : Nat) : Nat := 2 ^ size

/-- Registers a lane's value of a size takes (Table 3.12a). -/
def sizeRegs (size : Nat) : Nat := if size = 3 then 2 else if size = 4 then 4 else 1

/-- R160, R162: what every Format M encoding must keep. -/
def memOk (e : Enc) (x : MemF) : Bool :=
  headerOk e && !e.imm && decide (x.space < 2) && decide (x.size < 5) && decide (x.scope < 4) &&
    (x.order != 0 || x.scope == 0) && (x.space == 0 || (x.order == 0 && x.scope == 0 && !x.ro))

def loadOk (e : Enc) (x : MemF) : Bool := memOk e x && decide (x.order < 2)
def storeOk (e : Enc) (x : MemF) : Bool := memOk e x && (x.order == 0 || x.order == 2) && !x.ro

/-- What a memory instruction does to memory. -/
inductive MemOp where
  | load (sext : Bool)
  | store
  | atomic (op : Nat)
  deriving DecidableEq, Repr

/-- A lane of a memory instruction: its address, operand and, for CAS, the value to store. -/
structure LaneAcc where
  lane : Nat
  ea : W64
  val : Nat := 0
  new : Nat := 0
  deriving DecidableEq, Repr

/-! ### Registers of an access -/

/-- `n` vector registers of a lane from `r` on, as one number. -/
def vNum (c : Clause) (r n l : Nat) : Nat :=
  (List.range n).foldl (fun s i => s + 2 ^ (32 * i) * (c.getV (r + i) l).toNat) 0

/-- The data a store takes from d in a lane (R161). -/
def storeVal (c : Clause) (x : MemF) (l : Nat) : Nat :=
  match Opd.of x.d with
  | .v n => vNum c n (sizeRegs x.size) l % 2 ^ (8 * sizeBytes x.size)
  | .u n =>
    ((c.getU n).toNat + (if x.size = 4 then 2 ^ 64 * (c.getU (n + 1)).toNat else 0)) % 2 ^ (8 * sizeBytes x.size)
  | .bad => 0

/-- The value of a loaded number of `n` bytes as the registers receive it (R161). -/
def loadExt (n : Nat) (sext : Bool) (x : Nat) : Nat :=
  if sext && bitOf x (8 * n - 1) then x + (2 ^ 32 - 2 ^ (8 * n)) else x

/-! ### Atomics (R167, R168, R170) -/

/-- The new value an atomic stores over `old` (Table 3.13). `w` is the width in bits. ATOM.FADD acts at the home and flushes nothing,
whatever the clause's ftz32 and ftz64 (R170; DESIGN CHOICE, log 77). -/
def atomNew (op w old val new : Nat) : Nat :=
  let sg (x : Nat) := intVal w true x
  match op with
  | 0xA0 => (old + val) % 2 ^ w
  | 0xA1 => min old val
  | 0xA2 => if sg val < sg old then val else old
  | 0xA3 => max old val
  | 0xA4 => if sg old < sg val then val else old
  | 0xA5 => Nat.land old val
  | 0xA6 => Nat.lor old val
  | 0xA7 => Nat.xor old val
  | 0xA8 => val
  | 0xA9 => if old = val then new else old
  | 0xAA => if w = 64 then (fmtF64.add .rne false old val).1 else (fmtF32.add .rne false old val).1
  | _ => old

/-- Atomic lanes one after another on a memory, with the old value each saw (R168). `base` is where offset 0
of the lanes stands. -/
def atomRun (op bytes base : Nat) (m : Mem) : List LaneOp → Mem × List (Nat × Nat)
  | [] => (m, [])
  | o :: os =>
    let old := memLe m (base + o.off) bytes
    let (m', rest) := atomRun op bytes base (memPutLe m (base + o.off) bytes (atomNew op (8 * bytes) old o.val o.new)) os
    (m', (o.lane, old) :: rest)

/-! ### Checks before translation (R670 step 1) -/

/-- The window of the kernel an address lies in: its first byte, length, format word (R253). -/
def winOf (k : Kernel) (ea : W64) : Option (Nat × Nat × W32) :=
  k.win.find? fun w => decide (w.1 ≤ ea.toNat) && decide (ea.toNat < w.1 + w.2.1)

def inRegion (k : Kernel) (ea : W64) : Bool := k.ro.any fun r => decide (r.1 ≤ ea.toNat) && decide (ea.toNat < r.1 + r.2)

def redEtype (f : W32) : Nat := bitsOf f.toNat 7 4

/-- Bytes of an addend of an etype (Table 4.10). -/
def etypeBytes (t : Nat) : Nat := match t with
  | 1 | 2 => 2
  | 3 | 5 | 7 => 8
  | _ => 4

def etypeFloat (t : Nat) : Bool := decide (t < 4)

/-- The width in bytes of an accumulator of a format word (R252). -/
def accWidth (f : W32) : Nat :=
  if f.getLsbD 0 && etypeFloat (redEtype f) then (if f.getLsbD 8 then 16 else 8) else etypeBytes (redEtype f)

/-- R253: a tile atomic in a window that is an add-to-line operation. -/
def isRed (f : W32) (op size : Nat) (nr : Bool) : Bool :=
  nr && op == (if etypeFloat (redEtype f) then 0xAA else 0xA0) && etypeBytes (redEtype f) == 2 ^ size

/-- The fault of one lane found without translation, in the order of R670: alignment, scratchpad range,
canonical range, and the rules of reduction windows (R253). -/
def laneFault (k : Kernel) (blk : Block) (w : Nat) (x : MemF) (op : MemOp) (ea : W64) : Option Nat :=
  let n := sizeBytes x.size
  if x.space = 1 then
    let off := ea.toNat % 2 ^ 32
    if off % n != 0 then some 3 else if blk.spmSize * 4096 < off + n then some 4 else none
  else
    match op, winOf k ea with
    | .atomic o, some (_, _, f) =>
      if !isRed f o x.size x.ro then some 5
      else if ea.toNat % accWidth f != 0 then some 3
      else if !canonical w ea then some 5 else none
    | _, _ =>
      if ea.toNat % n != 0 then some 3 else if !canonical w ea then some 5 else none

/-- The address that a fault records: of a scratchpad access, its offset. -/
def faultAddr (x : MemF) (ea : W64) : W64 := if x.space = 1 then BitVec.ofNat 64 (ea.toNat % 2 ^ 32) else ea

/-! ### Order (R280 to R282) -/

/-- Whether a later memory access of the clause may issue: fences and acquires are complete. -/
def Clause.mayAccess (c : Clause) : Bool :=
  !(c.fenceLd && c.ldcnt != 0) && !(c.fenceSt && c.stcnt != 0) && !(c.fenceHost && c.hostWr != 0) &&
    !(c.loads.any fun d => d.acquire)

/-- Whether the accesses before a release at a scope are performed (R280, R272). -/
def Clause.mayRelease (c : Clause) (scope : Nat) : Bool :=
  c.ldcnt == 0 && c.stcnt == 0 && (decide (scope < 3) || c.hostWr == 0)

/-! ### Requests -/

/-- Lanes with their places, grouped by 128-byte line in the order in which the lines are first named. -/
def groupLines : List (LaneAcc × Nat) → List (Nat × List (LaneAcc × Nat))
  | [] => []
  | x :: xs =>
    let l := x.2 / 128
    let rest := groupLines xs
    if rest.any (·.1 == l) then
      (l, x :: (rest.find? (·.1 == l)).elim [] (·.2)) :: rest.filter (·.1 != l)
    else (l, [x]) :: rest

/-- How one lane's access is served: from a read-only region, or as an add-to-line operation of a window's format (R239, R253). -/
structure LaneWay where
  ro : Bool := false
  win : Option W32 := none
  deriving DecidableEq, Repr

/-- R239, R253: judged for each lane by its own address. -/
def laneWay (k : Kernel) (x : MemF) (op : MemOp) (ea : W64) : LaneWay :=
  match op with
  | .load _ => { ro := x.order == 0 && (x.ro || inRegion k ea) }
  | .store => {}
  | .atomic _ => { win := (winOf k ea).map (·.2.2) }

/-- The lanes of one line, in one list for each way in which they are served, in the order in which the ways are first met. -/
def splitWays (way : LaneAcc → LaneWay) : List (LaneAcc × Nat) → List (LaneWay × List (LaneAcc × Nat))
  | [] => []
  | y :: ys =>
    let w := way y.1
    let rest := splitWays way ys
    (w, y :: (rest.find? (·.1 == w)).elim [] (·.2)) :: rest.filter (·.1 != w)

def laneOps (base : Nat) (xs : List (LaneAcc × Nat)) : List LaneOp :=
  xs.map fun x => { lane := x.1.lane, off := x.2 - base, val := x.1.val, new := x.1.new }

/-- The sectors of a line that byte ranges touch. -/
def sectorMask (bytes : Nat) (ops : List LaneOp) : Nat :=
  (List.range 4).foldl (fun m i => if ops.any fun o => decide (o.off / 32 ≤ i) && decide (i ≤ (o.off + bytes - 1) / 32)
    then m + 2 ^ i else m) 0

/-- A line's number read from a list of its bytes. -/
def dataLe (data : List Byte) (off n : Nat) : Nat := leNat ((data.drop off).take n)

/-- Lines an L1 serves: valid in every sector of the mask (R240). -/
def Tile.l1Hit (t : Tile) (line mask : Nat) : Option L1Line :=
  match tabGet l1None t.l1 line with
  | some x => if Nat.land x.valid mask = mask then some x else none
  | none => none

/-- The parts of a global access: what the L1 serves at once, the requests to homes, the host's share. -/
structure Parts where
  tile : Tile
  vals : List (Nat × Nat) := []
  reqs : List Req := []
  hosts : List HostReq := []
  fresh : Nat

/-! ### The access itself -/

/-- The destination of a returning access (vector registers and mask, or a uniform register). -/
structure MemDst where
  vregs : List Nat := []
  mask : W32 := 0
  ureg : Option Nat := none

/-- An atomic that the host's memory can perform (R294). -/
def hostAtomOk (s : State) (op : Nat) : Bool := s.hostAtomics && (op == 0xA0 || op == 0xA8 || op == 0xA9)

/-- The home requests and host requests of a global access whose lanes stand at `places`: for each line one request, or one for
each way in which lanes reach it where aliases differ (R239, R253). -/
def buildParts (s : State) (a : At) (x : MemF) (op : MemOp) (acc : Nat) (src : Src)
    (places : List (LaneAcc × Loc)) : Parts :=
  let k := s.tileKernel a.tile
  let n := sizeBytes x.size
  let dev := (groupLines ((places.filter fun p => !p.2.host).map fun p => (p.1, p.2.addr))).flatMap fun g =>
    (splitWays (fun y => laneWay k x op y.ea) g.2).map fun w => (g.1, w)
  let hst := groupLines ((places.filter fun p => p.2.host).map fun p => (p.1, p.2.addr))
  let bl1 := (s.ctx k.ctx).bl1
  let kid := ((s.tile a.tile).kernel).getD 0
  let start : Parts := { tile := s.tile a.tile, fresh := s.fresh }
  let addDev (p : Parts) (g : Nat × LaneWay × List (LaneAcc × Nat)) : Parts :=
    let ops := laneOps (g.1 * 128) g.2.2
    let mask := sectorMask n ops
    let way := g.2.1
    match (if way.ro then p.tile.l1Hit g.1 mask else none) with
    | some line =>
      let t := { p.tile with
        l1 := tabSet l1None p.tile.l1 g.1 (some { line with use := p.tile.l1Use })
        l1Use := p.tile.l1Use + 1 }
      { p with tile := t, vals := p.vals ++ ops.map fun o => (o.lane, dataLe line.data o.off n) }
    | none =>
      let kind := match op, way.win with
        | .load _, _ => if way.ro then ReqKind.rdRo else .rd
        | .store, _ => .wr
        | .atomic _, some _ => .red
        | .atomic _, none => .atom
      let r : Req := {
        id := p.fresh, kind := kind, src := src, line := g.1, kernel := kid, part := k.part, tag := k.tag, bl1 := bl1
        mask := mask, acc := acc, bytes := n, nr := x.ro, ops := ops
        op := match op with
          | .atomic o => o
          | _ => 0
        fmt := way.win.getD 0 }
      { p with reqs := p.reqs ++ [r], fresh := p.fresh + 1 }
  let addHost (p : Parts) (g : Nat × List (LaneAcc × Nat)) : Parts :=
    let r : HostReq := {
      id := p.fresh, src := src, kernel := kid, part := k.part, acc := acc, bytes := n, nr := x.ro, ops := laneOps 0 g.2
      uid := (s.clause a).uid
      cxl := s.hostCache && (s.tdi k.part).st != 2 && (match op with
        | .atomic _ => false
        | _ => true)
      kind := match op with
        | .load _ => .rd
        | .store => .wr
        | .atomic _ => .atom
      op := match op with
        | .atomic o => o
        | _ => 0 }
    { p with hosts := p.hosts ++ [r], fresh := p.fresh + 1 }
  hst.foldl addHost (dev.foldl addDev start)

/-- A scratchpad access: performed in the tile's SRAM (R169, R271), ascending lanes (R163, R168). -/
def spmRun (m : Mem) (base n : Nat) (op : MemOp) (ls : List LaneAcc) : Mem × List (Nat × Nat) :=
  let ops := ls.map fun y => ({ lane := y.lane, off := y.ea.toNat % 2 ^ 32, val := y.val, new := y.new } : LaneOp)
  match op with
  | .load _ => (m, ops.map fun o => (o.lane, memLe m (base + o.off) n))
  | .store => (ops.foldl (fun m o => memPutLe m (base + o.off) n o.val) m, [])
  | .atomic op => atomRun op n base m ops

/-- A memory instruction of a clause: `ls` are its acting lanes, `dst` what it will write. -/
def memAccess (a : At) (x : MemF) (op : MemOp) (dst : MemDst) (ls : List LaneAcc) (s0 s : State) (c : Clause) : State :=
  let k := s.tileKernel a.tile
  let t := s.tile a.tile
  let blk := t.block c.blk
  let n := sizeBytes x.size
  let w := s.vaBits k.ctx
  let isLoad := match op with
    | .load _ => true
    | _ => false
  let returns := match op with
    | .load _ => true
    | .store => false
    | .atomic _ => !x.ro
  let acc : Acc := match op with
    | .load _ => .read
    | .store => .write
    | .atomic _ => .atomic
  match ls.find? fun y => (laneFault k blk w x op y.ea).isSome with
  | some y => s.clauseFault a ((laneFault k blk w x op y.ea).getD 5) (faultAddr x y.ea)
  | none =>
    if !c.mayAccess || (decide (2 ≤ x.order) && !c.mayRelease x.scope) then s0.noteTried a
    else if (if returns then c.ldcnt == 63 else c.stcnt == 63) then s0.noteTried a
    else
      let c := { c.step with fenceLd := false, fenceSt := false, fenceHost := false }
      -- later writes and earlier loads of the same registers (R164): this access takes them over
      let c := dst.vregs.foldl (fun c r => c.cancel r dst.mask) c
      let t := t.cancelMat a.entry dst.vregs dst.mask
      let ad : Access := {
        id := s.fresh, store := !returns, dst := dst.vregs.map (fun r => (r, dst.mask)), dreg := dst.vregs.headD 255
        udst := dst.ureg, bytes := n, acquire := returns && x.order % 2 == 1, va := ls.head?.elim 0 (·.ea)
        sext := op == .load true, l1 := isLoad && x.order == 0 }
      if ls.isEmpty then s.setTile a.tile (t.setClause a.entry c)
      else if x.space = 1 then
        let (m, vals) := spmRun t.spm (blk.spmBase * 4096) n op ls
        let t := { t with spm := m }
        if returns then
          let ad := { ad with vals := vals, due := 1, loc := true }
          ({ s with fresh := s.fresh + 1 }).setTile a.tile
            (t.setClause a.entry { c with loads := c.loads ++ [ad], ldcnt := c.ldcnt + 1 })
        else s.setTile a.tile (t.setClause a.entry c)
      else
        let (s, rs, miss) := s.translateAll (s.whoTile a.tile) k.ctx acc (ls.map (·.ea))
        let t := (s.tile a.tile).cancelMat a.entry dst.vregs dst.mask
        -- an atomic on host memory that the host does not take is a failure of rights like any other (R294, R670 step 2)
        let deny (l : Loc) : Bool := match op with
          | .atomic o => l.host && !hostAtomOk s o
          | _ => false
        match placesOf 5 deny (ls.map (·.ea)) rs with
        | .fault cause va => s.clauseFault a cause va
        | .wait => s.unissued s0 a
        | .page vas => (s.unissued s0 a).pageFault a acc vas
        | .ok locs =>
          let places := ls.zip locs
          -- a walk stalls the clause until it is done (R73)
          let c := if miss then { c with xlat := some { acc := acc, addrs := ls.map (·.ea) } } else c
          let p := buildParts { s with fresh := s.fresh + 1 } a x op s.fresh (.clause a) places
          let local_ := !p.vals.isEmpty
          let ad := { ad with vals := p.vals, due := p.reqs.length + p.hosts.length + b2n local_, loc := local_ }
          let c := if returns then { c with ldcnt := c.ldcnt + 1 } else { c with stcnt := c.stcnt + 1 }
          let t := { t with l1 := p.tile.l1, l1Use := p.tile.l1Use }
          ({ s with fresh := p.fresh, reqs := s.reqs ++ p.reqs, hostReqs := s.hostReqs ++ p.hosts }).setTile a.tile
            (t.setClause a.entry { c with loads := c.loads ++ [ad] })

/-- The registers of a memory instruction. -/
def memRegs (x : MemF) (vr vw : List Nat) : RegUse :=
  { vr := (if x.vi = 255 then [] else [x.vi]) ++ vr, vw := vw, ur := [x.ub] ++ (Opd.of x.d).uregs }

/-- LD and LDS (R161). -/
def loadMeaning (sext : Bool) (a : At) (e : Enc) (s : State) : Res :=
  let x := memFields e
  let d := Opd.of x.d
  let n := sizeRegs x.size
  let ok := loadOk e x && d.isV && d.aligned n && (!sext || decide (x.size < 2))
  unit (atOk a) (issue a e { legal := ok, regs := memRegs x [] (d.vregs n) } s fun s' c =>
    let m := c.acting e
    memAccess a x (.load sext) { vregs := (d.vregs n).filter (· != 255), mask := m }
      ((maskLanes m).map fun l => { lane := l, ea := effAddr c x l }) s s' c)

/-- LD: load with zero extension (R161). -/
def execLd (a : At) (e : Enc) (s : State) : Res := loadMeaning false a e s

/-- LDS: load with sign extension (R161). -/
def execLds (a : At) (e : Enc) (s : State) : Res := loadMeaning true a e s

/-- ST (R161, R163). -/
def execSt (a : At) (e : Enc) (s : State) : Res :=
  let x := memFields e
  let d := Opd.of x.d
  let n := sizeRegs x.size
  let ok := storeOk e x && (match d with
    | .v _ => d.aligned n
    | .u r => x.size != 4 || r % 2 == 0
    | .bad => false)
  -- 16 bytes from a uniform register are u[d] and u[d + 1] (R161)
  let ru := memRegs x (d.vregs n) []
  let ru := if x.size = 4 then { ru with ur := ru.ur ++ d.uregs.map (· + 1) } else ru
  unit (atOk a) (issue a e { legal := ok, regs := ru } s fun s' c =>
    memAccess a x .store {} ((maskLanes (c.acting e)).map fun l =>
      { lane := l, ea := effAddr c x l, val := storeVal c x l }) s s' c)

/-- R165: the encoding of a uniform access. STU with P = 1 is illegal as LDU with P = 1 is (R113, R123; DESIGN CHOICE, log 77). -/
def uniAccessOk (e : Enc) (x : MemF) : Bool :=
  !e.p && x.vi == 255 && (x.size == 2 || x.size == 3) && (Opd.of x.d).isU

/-- LDU: uniform load (R165). -/
def execLdu (a : At) (e : Enc) (s : State) : Res :=
  let x := memFields e
  unit (atOk a) (issue a e
    { legal := loadOk e x && uniAccessOk e x, lanes := false
      regs := { ur := [x.ub], uw := (Opd.of x.d).uregs } } s fun s' c =>
    memAccess a x (.load false) { ureg := some (x.d - 256) } [{ lane := 0, ea := effAddr c x 0 }] s s'
      { c with loads := c.loads.map fun d => if d.udst = some (x.d - 256) then { d with udst := none } else d })

/-- STU: uniform store (R165). -/
def execStu (a : At) (e : Enc) (s : State) : Res :=
  let x := memFields e
  unit (atOk a) (issue a e
    { legal := storeOk e x && uniAccessOk e x, lanes := false, regs := { ur := [x.ub] ++ (Opd.of x.d).uregs } }
    s fun s' c =>
    memAccess a x .store {} [{ lane := 0, ea := effAddr c x 0, val := storeVal c x 0 }] s s' c)

/-- An atomic of a function code (R167 to R170, R253). -/
def atomMeaning (op : Nat) (a : At) (e : Enc) (s : State) : Res :=
  let x := memFields e
  let d := Opd.of x.d
  let n := sizeRegs x.size
  let cas := op == 0xA9
  let k := if cas then 2 * n else n
  let ok := memOk e { x with ro := false } && (x.size == 2 || x.size == 3) &&
    d.isV && d.aligned k && !(x.ro && (cas || op == 0xA8)) && !(x.ro && x.order % 2 == 1)
  unit (atOk a) (issue a e
    { legal := ok, regs := memRegs x (d.vregs k) (if x.ro then [] else d.vregs n) } s fun s' c =>
    let m := c.acting e
    memAccess a x (.atomic op)
      (if x.ro then {} else { vregs := (d.vregs n).filter (· != 255), mask := m })
      ((maskLanes m).map fun l =>
        { lane := l, ea := effAddr c x l, val := vNum c x.d n l, new := if cas then vNum c (x.d + n) n l else 0 })
      s s' c)

/-- ATOM.ADD: integer add (R167). -/
def execAtomAdd (a : At) (e : Enc) (s : State) : Res := atomMeaning 0xA0 a e s
/-- ATOM.MINU: unsigned minimum (R167). -/
def execAtomMinu (a : At) (e : Enc) (s : State) : Res := atomMeaning 0xA1 a e s
/-- ATOM.MINS: signed minimum (R167). -/
def execAtomMins (a : At) (e : Enc) (s : State) : Res := atomMeaning 0xA2 a e s
/-- ATOM.MAXU: unsigned maximum (R167). -/
def execAtomMaxu (a : At) (e : Enc) (s : State) : Res := atomMeaning 0xA3 a e s
/-- ATOM.MAXS: signed maximum (R167). -/
def execAtomMaxs (a : At) (e : Enc) (s : State) : Res := atomMeaning 0xA4 a e s
/-- ATOM.AND (R167). -/
def execAtomAnd (a : At) (e : Enc) (s : State) : Res := atomMeaning 0xA5 a e s
/-- ATOM.OR (R167). -/
def execAtomOr (a : At) (e : Enc) (s : State) : Res := atomMeaning 0xA6 a e s
/-- ATOM.XOR (R167). -/
def execAtomXor (a : At) (e : Enc) (s : State) : Res := atomMeaning 0xA7 a e s
/-- ATOM.EXCH: exchange (R167). -/
def execAtomExch (a : At) (e : Enc) (s : State) : Res := atomMeaning 0xA8 a e s
/-- ATOM.CAS: compare and swap (R167). -/
def execAtomCas (a : At) (e : Enc) (s : State) : Res := atomMeaning 0xA9 a e s
/-- ATOM.FADD: floating-point add, RNE (R170). -/
def execAtomFadd (a : At) (e : Enc) (s : State) : Res := atomMeaning 0xAA a e s

/-! ### WAIT (R74 to R79, R171, R172) -/

/-- R171: the encoding of WAIT: a legal kind, and unused fields 0. -/
def waitOk (e : Enc) : Bool :=
  let kind := Enc.f e 43 40
  let ua := Enc.f e 38 33
  let uo := Enc.f e 32 27
  let ul := Enc.f e 26 21
  let thr := Enc.f e 17 0
  let mem := kind == 3 || kind == 4 || kind == 5
  headerOk e && !e.imm && !e.p && Enc.f e 39 39 == 0 && Enc.f e 20 18 == 0 && (bitOf e.body.toNat 47 || Enc.f e 46 44 == 0) &&
    (kind == 0 || kind == 2 || kind == 6 || mem) && (mem || (ua == 0 && uo == 0)) && (mem || kind == 6 || ul == 0) &&
    (kind == 2 || thr == 0)

/-- Whether a word meets a MEM_* condition (Table 2.7). -/
def memCond (kind : Nat) (word opnd : W32) : Bool :=
  match kind with
  | 3 => word == opnd
  | 4 => word != opnd
  | _ => decide (opnd.toNat ≤ word.toNat)

/-- WAIT. -/
def execWait (a : At) (e : Enc) (s : State) : Res :=
  let kind := Enc.f e 43 40
  let pe := bitOf e.body.toNat 47
  let pd := Enc.f e 46 44
  let thr := Enc.f e 17 0
  let mem := kind == 3 || kind == 4 || kind == 5
  let ur := (if mem then [Enc.f e 38 33, Enc.f e 32 27] else []) ++ (if mem || kind == 6 then [Enc.f e 26 21] else [])
  unit (atOk a) (issue a e { legal := waitOk e, regs := { ur := ur }, lanes := false } s fun s' c =>
    let t := s'.tile a.tile
    let k := s.tileKernel a.tile
    let w : Wait := { kind := kind, pe := pe, pd := pd, since := s'.cycle (frondOf a.tile), thr := thr }
    let lim := (c.getU (Enc.f e 26 21)).toNat % 2 ^ 32
    if kind = 0 then s'.setClause a ({ c.step with wait := w }.endWait true)
    else if kind = 2 then
      if c.ldcnt ≤ bitsOf thr 5 0 && c.stcnt ≤ bitsOf thr 11 6 && c.mxcnt ≤ bitsOf thr 17 12 then
        s'.setClause a ({ c.step with wait := w }.endWait true)
      else s'.setTile a.tile (t.toWaiting a.entry { c.step with wait := w })
    else if kind = 6 then
      if lim = 0 then s'.clauseFault a 1 0
      else s'.setTile a.tile (t.toWaiting a.entry { c.step with wait := { w with limit := lim } })
    else
      let va := c.getU (Enc.f e 38 33)
      if va.toNat % 4 != 0 then s'.clauseFault a 3 va
      else if !canonical (s.vaBits k.ctx) va then s'.clauseFault a 5 va
      else if !c.mayAccess then s.noteTried a
      else match s'.translate (s'.whoTile a.tile) k.ctx va .read with
      | (s', .inr (.page _)) => (s'.unissued s a).pageFault a .read [va]
      | (s', .inr .wait) => s'.unissued s a
      | (s', .inr .poison) => s'.clauseFault a 7 va
      | (s', .inr _) => s'.clauseFault a 5 va
      | (s', .inl loc) =>
        let c := if (s.locate k.ctx va .read).isSome then c else { c with xlat := some { acc := .read, addrs := [va] } }
        let w := { w with va := va, opnd := (c.getU (Enc.f e 32 27)).truncate 32, limit := lim, host := loc.host
                          pa := loc.addr, watching := !loc.host, reading := true, rdId := s'.fresh + 1 }
        let c := { c.step with wait := w, fenceLd := false, fenceSt := false, fenceHost := false }
        let s' := s'.setTile a.tile ((s'.tile a.tile).toWaiting a.entry c)
        if loc.host then s'
        else
          let r : Req := {
            id := s'.fresh, kind := .watch, src := .watchRead a, line := loc.addr / 128
            kernel := (t.kernel).getD 0, part := k.part, tag := k.tag, bl1 := (s.ctx k.ctx).bl1 }
          let ops : List LaneOp := [{ lane := 0, off := loc.addr % 128 }]
          { s' with fresh := s'.fresh + 2, reqs := s'.reqs ++ [r, { r with
              id := s'.fresh + 1, kind := .rd, mask := sectorMask 4 ops, ops := ops }] })

end Sys2Proof.Machine
end

