-- ==== Sys2Proof/Machine/AtsetMove.lean ====
section
/-! DEFINITION. The meanings of the Atset instructions of classes 0x4 and 0x5: compares, selects, predicates,
conversions, moves and special registers (spec/03 R121, R146, R147, R149 to R152; spec/04 R181 to R185). -/

namespace Sys2Proof.Machine

/-- SETP (R146): predicate d in each acting lane. -/
def execSetp (a : At) (e : Enc) (s : State) : Res :=
  let x := aluFields e
  let fm : Form := { tys := [0, 1, 2, 3, 8, 9], d := .pred, b := .reg, aux := 12 }
  let w := tyBits x.ty
  unit (atOk a) (issueClause a e
    { legal := fm.ok e && (decide (x.aux < 6) || decide (8 ≤ x.ty)), regs := fm.regs e } s fun _ c =>
    let m := c.acting e
    let out (l : Nat) := aluSetp (aluIn c x (c.opd x.a w l) (c.opd x.b w l) 0 (c.getStatus l) 0)
    (c.putP x.d m (maskOf fun l => (out l).1 == 1)).putStatus m fun l => (out l).2.apply (c.getStatus l))

/-- SEL (R147): a where predicate c is true, b where it is false. -/
def execSel (a : At) (e : Enc) (s : State) : Res :=
  let x := aluFields e
  let fm : Form := { tys := [0, 2], d := .vec, b := .reg, c := .pred }
  let w := tyBits x.ty
  unit (atOk a) (issueClause a e { legal := fm.ok e, regs := fm.regs e } s fun _ c =>
    c.writeReg x.d w (c.acting e) fun l =>
      if (c.getP x.c).getLsbD l then c.opd x.a w l else c.opd x.b w l)

/-- A combination of two predicates into a third, in the acting lanes (R147). -/
def issuePred2 (f : W32 → W32 → W32) (a : At) (e : Enc) (s : State) : Res :=
  let x := aluFields e
  unit (atOk a) (issueClause a e
    { legal := ({ d := .pred, a := .pred, b := .pred } : Form).ok e } s fun _ c =>
    c.putP x.d (c.acting e) (f (c.getP x.a) (c.getP x.b)))

/-- PAND (R147). -/
def execPand (a : At) (e : Enc) (s : State) : Res := issuePred2 (· &&& ·) a e s

/-- POR (R147). -/
def execPor (a : At) (e : Enc) (s : State) : Res := issuePred2 (· ||| ·) a e s

/-- PXOR (R147). -/
def execPxor (a : At) (e : Enc) (s : State) : Res := issuePred2 (· ^^^ ·) a e s

/-- PNOT (R147): the complement of a. -/
def execPnot (a : At) (e : Enc) (s : State) : Res :=
  let x := aluFields e
  unit (atOk a) (issueClause a e { legal := ({ d := .pred, a := .pred } : Form).ok e } s fun _ c =>
    c.putP x.d (c.acting e) (~~~(c.getP x.a)))

/-- P2U (R147): the bits of predicate a over all 32 lanes, as they are held, to u[d]. -/
def execP2u (a : At) (e : Enc) (s : State) : Res :=
  let x := aluFields e
  let fm : Form := { d := .uni, a := .pred }
  unit (atOk a) (issueClause a e { legal := fm.ok e && !e.p, regs := fm.regs e, lanes := false } s fun _ c =>
    c.putU (x.d - 256) ((c.getP x.a).zeroExtend 64))

/-- U2P (R147): bit l of u[a] to predicate d in each acting lane l. -/
def execU2p (a : At) (e : Enc) (s : State) : Res :=
  let x := aluFields e
  let fm : Form := { d := .pred, a := .uni }
  unit (atOk a) (issueClause a e { legal := fm.ok e, regs := fm.regs e } s fun _ c =>
    c.putP x.d (c.acting e) ((c.getU (x.a - 256)).truncate 32))

/-- MOV (R152). -/
def execMov (a : At) (e : Enc) (s : State) : Res :=
  issueAlu { tys := [0, 2] } (fun i => plain i.a) (fun _ => true) a e s

/-- R121: the layout of MOVI and MOVIH. -/
def moviOk (e : Enc) : Bool := headerOk e && e.imm && Enc.f e 38 32 == 0 && Opd.of (Enc.f e 47 39) != .bad

/-- MOVI (R121): imm32 to the low 32 bits of d; a uniform d has its high 32 bits zeroed. -/
def execMovi (a : At) (e : Enc) (s : State) : Res :=
  let d := Enc.f e 47 39
  let uni := (Opd.of d).isU
  let x : Nat := Enc.f e 31 0
  unit (atOk a) (issueClause a e
    { legal := moviOk e && !(uni && e.p), lanes := !uni
      regs := { vw := (Opd.of d).vregs 1, uw := (Opd.of d).uregs } } s fun _ c =>
    if uni then c.putU (d - 256) (BitVec.ofNat 64 x) else c.writeReg d 32 (c.acting e) fun _ => x)

/-- MOVIH (R121): imm32 to the high 32 bits of a uniform d, the low 32 bits kept. -/
def execMovih (a : At) (e : Enc) (s : State) : Res :=
  let d := Enc.f e 47 39
  unit (atOk a) (issueClause a e
    { legal := moviOk e && (Opd.of d).isU && !e.p, lanes := false
      regs := { ur := (Opd.of d).uregs, uw := (Opd.of d).uregs } } s fun _ c =>
    c.putU (d - 256) (BitVec.ofNat 64 ((c.getU (d - 256)).toNat % 2 ^ 32 + Enc.f e 31 0 * 2 ^ 32)))

/-- The form of CVT: the source type stands in aux (R150). -/
def cvtForm (x : AluF) : Form :=
  { tys := List.range 14, c := .own, sat := true, rm := true, aux := 13, dw := some (tyBits x.ty),
    aw := some (tyBits x.aux) }

/-- R136, R185: rm = SR only to a narrower floating-point type, with a uniform key; else c is 0. -/
def cvtKeyOk (x : AluF) : Bool :=
  if x.rm = 5 then cvtNarrows x.aux x.ty && (Opd.of x.c).isU else x.c == 0

/-- CVT (R150, R151, R181 to R185). With rm = 5 the rounding counter rises, whether or not a lane acts. -/
def execCvt (a : At) (e : Enc) (s : State) : Res :=
  let x := aluFields e
  let fm := cvtForm x
  let sr := x.rm == 5
  let uni := fm.uniform x
  let ru := fm.regs e
  unit (atOk a) (issueClause a e
    { legal := fm.ok e && cvtKeyOk x, lanes := !uni
      regs := { ru with ur := ru.ur ++ (if sr then (Opd.of x.c).uregs else []) } } s fun s c =>
    let blk := ((s.tile a.tile).block c.blk).index
    let key := if sr then (c.getU (x.c - 256)).toNat else 0
    let r (i : Nat) : Nat := if sr then srBits key blk c.idx i c.ctr.toNat else 0
    let c' := if uni then c.aluUni fm aluCvt e (r 0) else c.aluVec fm aluCvt e r
    { c' with ctr := if sr then c.ctr + 1 else c.ctr })

/-! ### Special registers (R152, Table 3.11) -/

def sregOk (n : Nat) : Bool := decide (n ≤ 0x0C) || n == 0x10 || n == 0x11 || n == 0x12
def sregWide (n : Nat) : Bool := n == 0x0B || n == 0x0C
def sregLane (n : Nat) : Bool := n == 0x05 || n == 0x10


/-- A uniform special register. -/
def State.sreg (s : State) (a : At) (c : Clause) (n : Nat) : Nat :=
  let k := s.tileKernel a.tile
  match n with
  | 0x00 => a.tile
  | 0x01 => ((s.tile a.tile).block c.blk).index
  | 0x02 => k.blkCount
  | 0x03 => c.idx
  | 0x04 => k.blkClauses
  | 0x06 => k.part
  | 0x07 => k.ctx
  | 0x08 => s.fld (cohEpoch k.part)
  | 0x09 => c.active.toNat
  | 0x0A => c.live.toNat
  | 0x0B => s.cycle (frondOf a.tile)
  | 0x0C => s.timeNs
  | 0x11 => c.ustatus.toNat
  | 0x12 => c.mode.toNat
  | _ => 0

/-- SRD (R133, R152). -/
def execSrd (a : At) (e : Enc) (s : State) : Res :=
  let x := aluFields e
  let n := x.b
  let uni := (Opd.of x.d).isU
  let w := if sregWide n then 64 else 32
  let fm : Form := { a := .no, b := .own, dw := some w }
  unit (atOk a) (issueClause a e
    { legal := fm.ok e && sregOk n && !(uni && sregLane n), regs := { (fm.regs e) with ur := [] },
      lanes := !uni, statusOrder := n == 0x10 || n == 0x11 } s fun s c =>
    if uni then c.putU (x.d - 256) (BitVec.ofNat 64 (s.sreg a c n))
    else c.writeReg x.d w (c.acting e) fun l =>
      if n = 0x05 then l else if n = 0x10 then (c.getStatus l).toNat else s.sreg a c n)

/-- What SWR stores in sr.mode: reserved bits ignored, frm 5 to 7 as 0 (R135). -/
def modeStored (x : W32) : W32 :=
  let x := x &&& 0x1F
  if 5 ≤ bitsOf x.toNat 2 0 then x &&& 0x18 else x

/-- SWR (R133, R135, R152). -/
def execSwr (a : At) (e : Enc) (s : State) : Res :=
  let x := aluFields e
  let n := x.b
  let fm : Form := { d := .no, b := .own }
  let ok := fm.ok e && (n == 0x10 || n == 0x11 || n == 0x12) &&
    (n == 0x10 || ((Opd.of x.a).isU && !e.p))
  unit (atOk a) (issueClause a e
    { legal := ok, regs := { (fm.regs e) with vw := [], uw := [] }, lanes := n == 0x10
      statusOrder := n != 0x12 } s fun _ c =>
    let v : W32 := BitVec.ofNat 32 (c.opd x.a 32 0)
    if n = 0x10 then c.putStatus (c.acting e) fun l => BitVec.ofNat 32 (c.opd x.a 32 l) &&& statusMask
    else if n = 0x11 then { c with ustatus := v &&& statusMask }
    else { c with mode := modeStored v })

/-- V2U (R149): v[a] of lane b to u[d]; a lane number of 32 or more gives 0. -/
def execV2u (a : At) (e : Enc) (s : State) : Res :=
  let x := aluFields e
  let fm : Form := { d := .uni, a := .vec, b := .uni }
  unit (atOk a) (issueClause a e { legal := fm.ok e && !e.p, regs := fm.regs e, lanes := false } s fun _ c =>
    let l := c.opd x.b 32 0
    c.putU (x.d - 256) (if l < 32 then (c.getV x.a l).zeroExtend 64 else 0))

end Sys2Proof.Machine
end

