-- ==== Sys2Proof/Machine/AtsetPref.lean ====
section
/-! DEFINITION. PREF (spec/03 R166): lanes that would fault or need a page request are dropped. -/

namespace Sys2Proof.Machine

/-- One lane of PREF: its line, if the lane is translated without fault; device memory only, as the L1 and
the home slices hold no host line (R222, R272; log 26). -/
def prefLane (w : Who) (x : MemF) (k : Kernel) (s : State) (ea : W64) : State × Option Nat :=
  if x.space = 1 || laneFault k {} (s.vaBits k.ctx) x (.load false) ea != none then (s, none)
  else match s.translate w k.ctx ea .read with
  | (s, .inl l) => (s, if l.host || s.sectorBad (l.addr / 32) then none else some (l.addr / 128))
  | (s, .inr _) => (s, none)

/-- PREF: the line of each acting lane is brought toward the tile. It raises no fault: an index register out of range, whose lanes
would fault, drops every lane (R166). -/
def execPref (a : At) (e : Enc) (s : State) : Res :=
  let x := memFields e
  unit (atOk a) (issue a e
    { legal := loadOk e x && x.d == 0, regs := { memRegs x [] [] with ur := [x.ub] }, range := false } s fun s' c =>
    if !c.mayAccess then s.noteTried a
    else
      let s := s'
      let k := s.tileKernel a.tile
      let m := if x.vi != 255 && regRange k.granules [x.vi] then 0 else c.acting e
      let (s, ls) := (maskLanes m).foldl (fun (s, ls) l =>
        let r := prefLane (s.whoTile a.tile) x k s (effAddr c x l)
        (r.1, match r.2 with
          | some line => if ls.contains line then ls else ls ++ [line]
          | none => ls)) (s, ([] : List Nat))
      let l1 := x.order == 0 && x.ro
      let s := ls.foldl (fun s line =>
        let r : Req := {
          id := s.fresh, kind := if l1 then .rdRo else .rd, src := .prefetch a l1, line := line
          kernel := ((s.tile a.tile).kernel).getD 0, part := k.part, tag := k.tag, bl1 := (s.ctx k.ctx).bl1, mask := 15 }
        { s with fresh := s.fresh + 1, reqs := s.reqs ++ [r] }) s
      s.setClause a c.step)

end Sys2Proof.Machine
end

