-- ==== Sys2Proof/Machine/Reduce.lean ====
section
/-! DEFINITION. The arithmetic of reductions (spec/04 R209 to R215; spec/05 R251, R252): format words, exact and
ordered additions, and the conversion of an exact accumulator. -/

namespace Sys2Proof.Machine

def fmtExact (f : W32) : Bool := f.getLsbD 0

/-- L of a format word, signed (Table 4.10). -/
def fmtLsb (f : W32) : Int := intVal 12 true (bitsOf f.toNat 31 20)

/-- A reserved field of a format word is nonzero (Table 4.10). -/
def fmtRsv (f : W32) : Bool := bitsOf f.toNat 3 2 != 0 || bitsOf f.toNat 19 9 != 0

/-- xw and lsb of a format word are 0. -/
def fmtPlain (f : W32) : Bool := bitsOf f.toNat 8 8 == 0 && bitsOf f.toNat 31 20 == 0

/-- A format word without reserved values, and with L in its range; with an integer etype xw and lsb are 0 (R209). -/
def fmtLegal (f : W32) : Bool :=
  decide (bitsOf f.toNat 1 0 < 2) && decide (redEtype f < 8) && !fmtRsv f &&
    decide (-1074 ≤ fmtLsb f) && decide (fmtLsb f ≤ 1023) &&
    (etypeFloat (redEtype f) || fmtPlain f)

/-- R251: a format word that a reduction window, or a MOVE REDUCE, may carry in a context; in ordered mode too xw and lsb are 0. -/
def fmtWindow (f : W32) (bl1 : Bool) : Bool :=
  fmtLegal f && (fmtExact f || fmtPlain f) && [0, 3, 4, 5, 6, 7].contains (redEtype f) && !(bl1 && fmtExact f)

def etypeFmt (t : Nat) : Fmt := match t with
  | 1 => fmtBf16
  | 2 => fmtF16
  | 3 => fmtF64
  | _ => fmtF32

/-- N(x) of R211 for a `w`-bit accumulator; none where the addend becomes XNAN. -/
def exactAddend (f : W32) (w x : Nat) : Option Int :=
  match (etypeFmt (redEtype f)).decode x with
  | .fin neg m e =>
    let (n, _) := roundTo .rne neg m e (fmtLsb f) false
    if 2 ^ (w - 17) ≤ n then none else some (toInt neg n)
  | _ => none

/-- XNAN of a `w`-bit accumulator (R210). -/
def xnan (w : Nat) : Nat := 2 ^ (w - 1)

/-- One addend into an accumulator of a format word: the new pattern (R209, R211, R214). -/
def redAdd (f : W32) (old x : Nat) : Nat :=
  let w := 8 * accWidth f
  if !etypeFloat (redEtype f) then (old + x) % 2 ^ w
  else if fmtExact f then
    if old = xnan w then old
    else match exactAddend f w x with
      | none => xnan w
      | some n => ((old : Int) + n).emod (2 ^ w : Nat) |>.toNat
  else ((etypeFmt (redEtype f)).add .rne false old x).1

/-- An addend that turns an accumulator into XNAN (R256). -/
def redTurns (f : W32) (old x : Nat) : Bool :=
  let w := 8 * accWidth f
  fmtExact f && etypeFloat (redEtype f) && old != xnan w && redAdd f old x == xnan w

/-- The addends of one request applied in order on a memory (R254); with the count of R256. -/
def redRun (f : W32) (base : Nat) : List LaneOp → Mem × Nat → Mem × Nat
  | [], r => r
  | o :: os, (m, k) =>
    let n := accWidth f
    let old := memLe m (base + o.off) n
    redRun f base os (memPutLe m (base + o.off) n (redAdd f old o.val), if redTurns f old o.val then k + 1 else k)

/-- What an adder sums for one accumulator: two addends as converted integers, modulo 2^w; none marks XNAN (R376). -/
def redJoin (w : Nat) : Option Int → Option Int → Option Int
  | some a, some b => some ((a + b).emod (2 ^ w : Nat))
  | _, _ => none

/-- An addend as an adder carries it: converted in exact mode, else the integer it is (R376). -/
def redTerm (f : W32) (x : Nat) : Option Int :=
  if etypeFloat (redEtype f) then exactAddend f (8 * accWidth f) x else some x

/-- The addends that an adder has folded, summed for each accumulator, in the order in which the accumulators are first named (R376). -/
def redFold (f : W32) (ops : List LaneOp) : List (Nat × Option Int) :=
  ops.foldl (fun sums o =>
    if sums.any (·.1 == o.off) then sums.map fun x => if x.1 = o.off then (x.1, redJoin (8 * accWidth f) x.2 (redTerm f o.val)) else x
    else sums ++ [(o.off, redTerm f o.val)]) []

/-- The home adds folded sums as integers; with the count of R256. -/
def redSums (f : W32) (base : Nat) : List (Nat × Option Int) → Mem × Nat → Mem × Nat
  | [], r => r
  | (off, x) :: xs, (m, k) =>
    let n := accWidth f
    let w := 8 * n
    let old := memLe m (base + off) n
    let exact := fmtExact f && etypeFloat (redEtype f)
    let new := if exact && old = xnan w then old
      else match x with
        | none => xnan w
        | some i => ((old : Int) + i).emod (2 ^ w : Nat) |>.toNat
    redSums f base xs (memPutLe m (base + off) n new, if exact && old != xnan w && new == xnan w then k + 1 else k)

/-- An exact accumulator converted to its etype with one rounding (R213), and whether it overflowed. -/
def exactOut (f : W32) (acc : Nat) : Nat × Bool :=
  let w := 8 * accWidth f
  let g := etypeFmt (redEtype f)
  if acc = xnan w then (g.nanPat, false)
  else
    let i := intVal w true acc
    let r := g.roundPack .rne false false (decide (i < 0)) i.natAbs (fmtLsb f)
    (r.1, r.2.ov)

end Sys2Proof.Machine
end

