-- ==== Sys2Proof/Machine/Home.lean ====
section
/-! DEFINITION. The home slices' service of requests (spec/05 R225 to R235, R251 to R256; spec/06 R296 to R308; spec/08 R374 to R378):
the transitions of Table 6.5, the registers and waiters, and the requests of tiles and of the host. -/

namespace Sys2Proof.Machine

/-! ### Answers -/

/-- DATA for a request: the line, with the poison bits of the sectors asked for. -/
def State.sendData (s : State) (r : Req) : State :=
  let s := s.meet r.line r.mask r.part
  let s := s.homeBytes (s.whoReq r) r.src.tile r.line (32 * sectorCount r.mask) false
  s.respond r .data fun x => { x with data := memBytes s.mem (r.line * 128) 128, poison := Nat.land (s.linePoison r.line) r.mask }

/-- A line supplied to the host, which is recorded to hold it (Table 6.5). -/
def State.hostServe (s : State) (line : Nat) (excl : Bool) : State :=
  let s := s.meet line 15 0xFF
  let s := s.hostBytes line 128 false
  let s := s.setHost line (some (if excl then .em else .s))
  { s with sent := .hostData line excl (memBytes s.mem (line * 128) 128) (s.linePoison line) :: s.sent }

/-- The bytes of a line that lane operations cover. -/
def covers (bytes : Nat) (ops : List LaneOp) (b : Nat) : Bool :=
  ops.any fun o => decide (o.off ≤ b) && decide (b < o.off + bytes)

/-- The sectors that a store writes whole. -/
def fullMask (bytes : Nat) (ops : List LaneOp) : Nat :=
  (List.range 4).foldl (fun m i =>
    if (List.range 32).all fun b => covers bytes ops (32 * i + b) then m + 2 ^ i else m) 0

/-- The sectors that a request touches. -/
def Req.touched (r : Req) : Nat := match r.kind with
  | .red => sectorMask (accWidth r.fmt) r.ops
  | _ => sectorMask r.bytes r.ops

/-- What follows a write of a line at its home for a request. -/
def State.written (s : State) (r : Req) (mask : Nat) : State :=
  (s.homeBytes (s.whoReq r) r.src.tile r.line (32 * sectorCount mask) true).wrote (s.whoReq r) r.line mask

/-- A store applied (Table 6.7, R163, R277): the lanes in ascending order; a sector written whole loses its
poison, and a partly written one keeps it. -/
def State.applyWr (s : State) (r : Req) : State :=
  let base := r.line * 128
  let full := fullMask r.bytes r.ops
  let s := ((s.dlog r.part false base).forget r.line full).meet r.line r.touched r.part
  let s := { s with mem := r.ops.foldl (fun m (o : LaneOp) => memPutLe m (base + o.off) r.bytes o.val) s.mem }
  let s := (List.range 4).foldl (fun s i => if bitOf full i then s.setPoison (4 * r.line + i) false else s) s
  (s.written r r.touched).respond r .ack

/-- An atomic applied (R168, R293, Table 6.7). -/
def State.applyAtom (s : State) (r : Req) : State :=
  let base := r.line * 128
  let s := s.meet r.line r.touched r.part
  if Nat.land (s.linePoison r.line) r.touched != 0 then
    s.respond r (if r.nr then .ack else .atomRsp) fun x => { x with bad := true }
  else
    let s := s.dlog r.part false base
    let (m, olds) := atomRun r.op r.bytes base s.mem r.ops
    let s := ({ s with mem := m }).written r r.touched
    if r.nr then s.respond r .ack else s.respond r .atomRsp fun x => { x with olds := olds }

/-- The sectors that a request needs valid (R224, R225). -/
def Req.want (r : Req) : Nat := match r.kind with
  | .rd | .rdRo | .hostS | .hostX => r.mask
  | .wr => sectors fun i => bitOf r.touched i && !bitOf (fullMask r.bytes r.ops) i
  | _ => r.touched

/-- The sectors a request still needs from memory. -/
def State.needs (s : State) (r : Req) : Nat := s.lacks r.line r.want

/-- A request could take a miss register: it is no read of what is present, and no write of whole sectors (R306). -/
def State.mayTake (s : State) (r : Req) : Bool := match r.kind with
  | .rd => s.needs r != 0 || (s.miss r.line).isSome || s.hostOf r.line == some .em
  | .rdRo => s.needs r != 0 || (s.miss r.line).isSome || s.hostOf r.line == some .em || (match s.frame r.line with
    | some f => f.fwd.isSome
    | none => false)
  | .wr => r.touched != fullMask r.bytes r.ops
  | .watch | .unwatch => false
  | _ => true

/-- R306: a port that holds a ticket for a slice sends it no other request that could take a register. -/
def State.heldBack (s : State) (r : Req) : Bool :=
  (s.reqs.any fun q => q.st == .ticket && q.id != r.id && q.src.tile == r.src.tile && s.sameSlice q.line r.line) && s.mayTake r

/-! ### The request queue of a slice (R392, R398) -/

/-- The requests that have reached the slice of a line, in order, and that find no entry of its request queue that their tags may take:
each waits in the leaf buffer for its tag. -/
def State.queueHeld (s : State) (line : Nat) : List Req :=
  let n := s.reqs.length
  if s.reqs.all fun r => decide (n ≤ s.qmost r.tag) && decide (n + (List.range 16).foldl (fun k t => k + s.qres t) 0 ≤ 128) then []
  else
    let here := s.reqs.filter fun r => r.st == .sent && s.sameSlice r.line line && !s.unsent r && !s.heldBack r
    (here.foldl (fun (x : List Nat × List Req) r =>
      let used (t : Nat) : Nat := x.1.count t
      let fits := decide (used r.tag < s.qmost r.tag) && (decide (used r.tag < s.qres r.tag) ||
        decide ((List.range 16).foldl (fun k t => k + (if t = r.tag then used t + 1 else max (used t) (s.qres t))) 0 ≤ 128))
      if fits then (r.tag :: x.1, x.2) else (x.1, x.2 ++ [r])) ([], [])).2

/-- ADDER_FOLD (R374): the later requests that an adder folds into one, with R374's conditions; every eligible
request that waits is taken to stand in the same buffer (log 27). -/
def State.foldable (s : State) (r : Req) : List Req :=
  let en := s.fld ⟨0x00500508, 0, 0⟩ == 1
  let most := s.fld ⟨0x00500508, 6, 4⟩ + 1
  if !en || !(fmtExact r.fmt || !etypeFloat (redEtype r.fmt)) then []
  else
    let step (acc : List Req × List Nat) (q : Req) : List Req × List Nat :=
      let (got, stop) := acc
      if q.line != r.line then acc
      else if q.kind == .red && q.fmt == r.fmt && q.part == r.part && q.tag == r.tag && q.st == .sent && !s.unsent q &&
          !s.heldBack q && decide (got.length + 1 < most) && !stop.contains q.src.tile then (got ++ [{ q with into := some r.id }], stop)
      else (got, q.src.tile :: stop)
    ((s.reqs.filter (·.id != r.id)).foldl step ([], [])).1

/-- The addends of a request and of those folded into it, on the line: alone it adds them one after the other; what an adder folded
it adds once to each accumulator (R254, R376). -/
def redGroup (r : Req) (folded : List Req) (base : Nat) (m : Mem) : Mem × Nat :=
  if folded.isEmpty then redRun r.fmt base r.ops (m, 0)
  else redSums r.fmt base (redFold r.fmt ((r :: folded).flatMap (·.ops))) (m, 0)

/-- An add-to-line request applied with those folded into it: one ACK to each, with the request's poison flag
(R255, R256, R377, Table 6.7). -/
def State.applyRed (s : State) (r : Req) (folded : List Req) : State :=
  let base := r.line * 128
  let all := r :: folded
  let touched := all.foldl (fun m q => Nat.lor m q.touched) 0
  let ackAll (bad : Bool) (s : State) := all.foldl (fun s q => s.respond q .ack fun x => { x with bad := bad }) s
  let s := (s.bump (telCase r.tag 0x30) folded.length).meet r.line touched r.part
  if Nat.land (s.linePoison r.line) touched != 0 then ackAll true s
  else
    let s := s.dlog r.part false base
    let (m, k) := redGroup r folded base s.mem
    ackAll false ((({ s with mem := m }).written r touched).bump (telPcnt r.part 0) k)

/-- A request served at its home; the line's record follows Table 6.5. -/
def State.serve (s : State) (r : Req) (folded : List Req := []) : State :=
  let s := s.touchLine r.line
  match r.kind with
  | .rd => s.sendData r
  | .rdRo =>
    let s := s.sendData r
    if Nat.land (s.linePoison r.line) r.mask != 0 then s else s.setFwd r.line (some r.src.tile)
  | .wr => s.applyWr r
  | .atom => s.applyAtom r
  | .red => s.applyRed r folded
  | .hostS => s.hostServe r.line false
  | .hostX => s.hostServe r.line true
  | .watch | .unwatch => s

/-! ### The filter and forwards (R299, R301) -/

/-- HOST_FILTER_RECALL (R299): the line of the slice that was used least recently, where all 4,096 entries are
taken. -/
def State.recallLine (s : State) (line : Nat) : Option Nat :=
  if s.hosts.length < 4096 || (s.hostOf line).isSome then none
  else
    let k := s.sliceOf line
    let here := s.hosts.filter fun h => s.sliceOf h.1 == k
    if here.length < 4096 then none
    else ((here.filter fun h => (s.miss h.1).isNone).foldl (fun (b : Option (Nat × Nat)) h =>
      let u := tabGet (fun _ => 0) s.hostUse h.1
      match b with
      | some y => if u < y.2 then some (h.1, u) else some y
      | none => some (h.1, u)) none).map (·.1)

/-- Forwards sent to a tile that have not been answered: those that registers wait on, and those that have timed out since. -/
def State.fwdOut (s : State) (tile : Nat) : Nat :=
  let waits (e : Nat × Option Miss) : Bool := match e.2 with
    | some m => m.why == .fwd tile
    | none => false
  let late (x : Rsp) : Bool := (x.kind == .fwd || x.kind == .fwdAck || x.kind == .fwdMiss) && x.tile == tile &&
    !(s.misses.any fun e => waits e && (Miss.waits e.2).head?.elim false (·.id == x.req.id))
  (s.misses.filter waits).length + (s.rsps.filter late).length

/-- FWD goes to the tile recorded, or waits while 8 are out to it: its queue has 8 entries, so all homes together send no more (R301;
log 79). -/
def State.forward (s : State) (r : Req) (u : Nat) (waiters : List Req) : State :=
  if s.fwdOut u < 8 then
    (s.setMiss r.line (some { why := .fwd u, waiters := waiters, tag := r.tag, since := s.now })).respond r .fwd fun x => { x with tile := u }
  else s.setMiss r.line (some { why := .fwdHold u, waiters := waiters, tag := r.tag, since := s.now })

/-- A request for a released page: a read comes back poisoned, and the rest is not applied and is acknowledged with poison; each is
counted (R344). -/
def State.outside (s : State) (r : Req) : State :=
  let s := s.rasCount 0x17
  match r.kind with
  | .rd | .rdRo => s.respond r .data fun x => { x with data := memBytes s.mem (r.line * 128) 128, poison := r.mask }
  | .atom => if r.nr then s.respond r .ack fun x => { x with bad := true } else s.respond r .atomRsp fun x => { x with bad := true }
  | .hostS => s.hostRefuse r.line false
  | .hostX => s.hostRefuse r.line true
  | .watch | .unwatch => s
  | _ => s.respond r .ack fun x => { x with bad := true }

/-- A request goes on where no register holds its line: it is served, or waits on a snoop, a forward or a fill
(Table 6.5). -/
def State.start (s : State) (r : Req) (folded : List Req := []) : State :=
  if (s.page (r.line / 512)).released then (r :: folded).foldl State.outside s
  else
  let bad := Nat.land (s.linePoison r.line) r.mask != 0
  let all := r :: folded
  let fillOr (s : State) : State :=
    let need := s.needs r
    if need = 0 then
      match r.kind with
      | .wr =>
        let new := (s.frame r.line).isNone
        let s := (s.allocate r.line r.tag r.part (fullMask r.bytes r.ops) (fullMask r.bytes r.ops)).serve r
        if new then s.pack r.line else s
      | _ => s.serve r folded
    else s.setMiss r.line (some { why := .fill, need := need, waiters := all, tag := r.tag })
  let gone (inv : Bool) (s : State) : State :=
    if s.silent then fillOr (s.loseHost r.line) else s.snoop r.line inv all r.tag
  match r.kind, s.hostOf r.line with
  | .hostS, _ | .hostX, _ =>
    if s.silent then s.hostRefuse r.line (r.kind == .hostX)
    else match s.recallLine r.line with
      | some v => (s.snoop v true []).setMiss r.line (some { why := .recall v, waiters := all, tag := r.tag })
      | none => fillOr s
  -- a poisoned sector is served as it is, read from memory where the frame lacks it, and never forwarded
  | .rd, h => if bad then fillOr s else if h == some .em then gone false s else fillOr s
  | .rdRo, h =>
    if bad then fillOr s
    else if h == some .em then gone false s
    else match s.frame r.line with
      | some { fwd := some u, .. } => s.forward r u all
      | _ => fillOr s
  | _, some _ => gone true s
  | _, none => fillOr s

/-- Waiters in the groups that an adder folded: each request with those folded into it, which follow it (R377). -/
def groupFolds (rs : List Req) : List (Req × List Req) :=
  rs.foldl (fun gs r => match r.into, gs.getLast? with
    | some _, some g => gs.dropLast ++ [(g.1, g.2 ++ [r])]
    | _, _ => gs ++ [(r, [])]) []

/-- Groups served in order where no register holds their line; where one of them takes the register anew, the rest wait on it. -/
def State.serveGroups (s : State) : List (Req × List Req) → State
  | [] => s
  | g :: gs =>
    match s.miss g.1.line with
    | some m => (s.setMiss g.1.line (some { m with
        need := (if m.why == .fill then Nat.lor m.need (s.needs g.1) else m.need)
        waiters := m.waiters ++ (g.1 :: g.2) })).serveGroups gs
    | none => (s.start g.1 g.2).serveGroups gs

/-- The waiters of a register that is free again, in order (R234). -/
def State.serveAll (s : State) (rs : List Req) : State := s.serveGroups (groupFolds rs)

/-- The oldest forward that waits for room in a tile's queue goes out (R301). -/
def State.nextFwd (s : State) (tile : Nat) : State :=
  let wait := s.misses.filterMap fun e => match e.2 with
    | some m => if m.why == .fwdHold tile then some (m.since, e.1) else none
    | none => none
  match (rankSort wait).head? with
  | none => s
  | some x => match s.miss x.2 with
    | some m => match m.waiters with
      | r :: _ => s.forward r tile m.waiters
      | [] => s.setMiss x.2 none
    | none => s

/-- A line's register is free: its waiters are served in order (R234, R302). -/
def State.release (s : State) (line : Nat) (waiters : List Req) : State := (s.setMiss line none).serveAll waiters

/-- The registers that wait until another line has left the host filter go on (R299). -/
def State.recalled (s : State) (victim : Nat) : State :=
  (s.misses.filter fun e => match e.2 with
    | some m => m.why == .recall victim
    | none => false).foldl (fun s e => s.release e.1 (Miss.waits e.2)) s

/-! ### Requests that arrive -/

/-- The two ends of a message, of a tile or a Parser by its port and of a slice by a line of it; and its virtual channel: 0 responses,
1 snoops, 2 Hypha (Table 6.4). -/
def Rsp.ends (x : Rsp) : Nat × Nat × Bool :=
  match x.kind with
  | .fwd => (1, x.tile, false)
  | .dataF => (0, 30000 + 1536 * x.tile + x.req.src.tile, false)
  | .fwdAck | .fwdMiss => (0, x.tile, true)
  | .notify => (2, x.req.src.tile, false)
  | _ => (0, x.req.src.tile, false)

/-- Two messages travel on one channel between the same two ports (R365, R386). -/
def State.sameWay (s : State) (x y : Rsp) : Bool := x.ends == y.ends && (x.kind == .dataF || s.sameSlice x.req.line y.req.line)

/-- Nothing on its channel and between its ports is ahead of a message (R365). A GRANT is taken as it arrives, so that nothing waits
behind it (R301). -/
def State.isFirst (s : State) (x : Rsp) : Bool := !((s.rsps.takeWhile (·.id != x.id)).any fun y => y.kind != .grant && s.sameWay x y)

/-- The GRANT of a request has reached its requester, which sends the request again (R305). -/
def State.grantIn (s : State) (r : Req) : Bool := match s.rsps.find? fun x => x.kind == .grant && x.req.id == r.id with
  | some x => s.isFirst x
  | none => true

/-- A request of a kind that has reached its home and has an entry of its queue. It has been sent (R232, R306; a granted one once its
GRANT has come); the requests of its port that were sent to that slice before it have arrived (R365), and so have its port's older ones
for the line (R275). -/
def State.arriving (s : State) (id : Nat) (kind : ReqKind) : Option Req :=
  match s.reqs.find? (·.id == id) with
  | none => none
  | some r =>
    let before := s.reqs.takeWhile (·.id != id)
    let ahead (q : Req) : Bool := (q.st == .sent || q.st == .granted) && q.src.tile == r.src.tile && s.sameSlice q.line r.line && !s.heldBack q
    if r.kind == kind && (r.st == .sent || r.st == .granted) &&
        !(s.reqs.any fun q => decide (q.id < r.id) && q.line == r.line && q.src.tile == r.src.tile) &&
        !(before.any ahead) && !s.unsent r && !s.heldBack r && (r.st != .granted || s.grantIn r) &&
        !((s.queueHeld r.line).any (·.id == r.id)) then some r else none

def State.dropReq (s : State) (id : Nat) : State := { s with reqs := s.reqs.filter (·.id != id) }

def State.setReq (s : State) (r : Req) : State := { s with reqs := s.reqs.map fun q => if q.id = r.id then r else q }

/-- A request sent again: behind what its port has sent since. -/
def State.resend (s : State) (r : Req) : State := { s with reqs := s.reqs.filter (·.id != r.id) ++ [r] }

/-- A request that finds no room: a ticket at BL2, one for each port at a slice; a NACK at BL1 (R305, R307). -/
def State.refuse (s : State) (r : Req) : State :=
  if r.bl1 then ((s.setReq { r with st := .backoff }).respond r .nack).bump (telPcnt r.part 8)
  else if s.reqs.any fun q => q.st == .ticket && q.src.tile == r.src.tile && s.sameSlice q.line r.line then s
  else (s.setReq { r with st := .ticket, ticket := s.fresh }).respond r .retry

/-- A request that its home accepts leaves its queue, in which those of the leaf buffers that now find entries are counted as held
(R398); with it goes the GRANT that its requester has acted on (R305). -/
def State.acceptReq (s : State) (r : Req) : State :=
  let held := s.queueHeld r.line
  let s := s.dropReq r.id
  let s := if held.isEmpty then s
    else (held.filter fun q => !((s.queueHeld r.line).any (·.id == q.id))).foldl (fun s q => s.bump (telCase q.tag 0x38)) s
  if r.st == .granted then { s with rsps := s.rsps.filter fun x => !(x.kind == .grant && x.req.id == r.id) } else s

/-- A request acts at its home: it is served, waits on its line's register, takes one, or is turned away. -/
def State.takeReq (s : State) (r : Req) : State :=
  if s.rot == .rekey then s
  else if (s.page (r.line / 512)).released then (s.acceptReq r).outside r
  else
    let folded := if r.kind == .red then s.foldable r else []
    let gone := folded.foldl (fun s q => s.dropReq q.id) (s.acceptReq r)
    match s.miss r.line with
    | some m =>
      if r.st == .granted || s.waiterRoom r.line r.tag then
        gone.setMiss r.line (some { m with
          need := (if m.why == .fill then Nat.lor m.need (s.needs r) else m.need), waiters := m.waiters ++ (r :: folded) })
      else s.refuse r
    | none =>
      let s' := gone.start r folded
      if r.st == .granted || (((s'.miss r.line).isNone || s.missRoom r.line r.tag) && s.wayRoom r.line r.tag) then s' else s.refuse r

/-- The errors that have arisen in the frame that a request finds at its home. -/
def State.readErrs (s : State) (r : Req) (errs : List ArrayErr) : State :=
  if errs.isEmpty then s else s.upset r.line 15 errs

/-- A request at its home. -/
def homeReq (kind : ReqKind) (id : Nat) (errs : List ArrayErr) (s : State) : Res :=
  match s.arriving id kind with
  | some r => .next ((s.readErrs r errs).takeReq r)
  | none => .next s

/-- RD (Table 6.5, R223). -/
def execRd (req : Nat) (errs : List ArrayErr) (s : State) : Res := homeReq .rd req errs s
/-- RD_RO (Table 6.5, R243). -/
def execRdRo (req : Nat) (errs : List ArrayErr) (s : State) : Res := homeReq .rdRo req errs s
/-- WR (Table 6.5, R225, R304). -/
def execWr (req : Nat) (s : State) : Res := homeReq .wr req [] s
/-- ATOM (R293). -/
def execAtom (req : Nat) (errs : List ArrayErr) (s : State) : Res := homeReq .atom req errs s
/-- RED (R255). -/
def execRed (req : Nat) (errs : List ArrayErr) (s : State) : Res := homeReq .red req errs s

/-- WATCH (R77): the watcher stands with the line's home. -/
def execWatch (req : Nat) (s : State) : Res :=
  match s.arriving req .watch with
  | none => .next s
  | some r =>
    let s := s.dropReq r.id
    .next (if s.watches.contains (r.line, r.src) then s else { s with watches := s.watches ++ [(r.line, r.src)] })

/-- UNWATCH (R300). -/
def execUnwatch (req : Nat) (s : State) : Res :=
  match s.arriving req .unwatch with
  | none => .next s
  | some r => .next { s.dropReq r.id with watches := s.watches.filter (· != (r.line, r.src)) }

end Sys2Proof.Machine
end

