-- ==== Sys2Proof/Machine/Coh.lean ====
section
/-! DEFINITION. The coherence messages and the responses of Table 6.4: the host's reads and write-backs, snoop
answers, forwards, and the delivery of answers to the tiles (spec/06 R297 to R317; spec/05 R240, R243;
spec/02 R66, R71, R75; spec/03 R164, R167). -/

namespace Sys2Proof.Machine

/-! ### Answers delivered to a clause -/

/-- Lanes of a register written by a load that returns: no later write is undone (R164). -/
def Clause.rawV (c : Clause) (r : Nat) (m : W32) (f : Nat → W32) : Clause :=
  if r = 255 then c else { c with v := (maskLanes m).foldl (fun t l => tabSet wDef t (r * 32 + l) (f l)) c.v }

/-- The registers of a load or returning atomic that has returned (R161, R165, R167). -/
def Clause.land (c : Clause) (d : Access) : Clause :=
  let val (l : Nat) : Nat := loadExt d.bytes d.sext ((d.vals.find? fun x => x.1 == l).elim 0 (·.2))
  let c := d.dst.foldl (fun c x => c.rawV x.1 x.2 fun l => BitVec.ofNat 32 (val l / 2 ^ (32 * (x.1 - d.dreg)))) c
  match d.udst with
  | some r => { c with u := tabSet uDef c.u r (BitVec.ofNat 64 (val 0)) }
  | none => c

/-- After an access of a clause is over: its waits are looked at again, and an EXITED clause without loads
leaves its entry (R66, R71, R74). -/
def State.settle (s : State) (a : At) : State :=
  let c := s.clause a
  if c.st == .exited then (if c.ldcnt = 0 then s.clauseEmpty a else s)
  else s.setTile a.tile ((s.tile a.tile).recheck (s.cycle (frondOf a.tile)) a.entry)

/-- One answer to an access of a clause: values by lane, and whether it carried poison (Table 6.7). -/
def State.deliver (s : State) (a : At) (kernel acc : Nat) (vals : List (Nat × Nat)) (bad : Bool) : State :=
  let c := s.clause a
  match c.loads.find? (·.id == acc) with
  | none =>
    -- the store of a clause that has left its entry (R66)
    let k := s.kernel kernel
    let t := s.tile a.tile
    let s := if t.kernel == some kernel then s.setTile a.tile { t with storesOut := t.storesOut - 1 } else s
    s.setKernel kernel { k with storesOut := k.storesOut - 1 }
  | some d =>
    let d := { d with vals := d.vals ++ vals, due := d.due - 1, bad := d.bad || bad }
    if d.due != 0 then
      s.setClause a { c with loads := c.loads.map fun x => if x.id = acc then d else x }
    else
      let c := { c with loads := c.loads.filter (·.id != acc) }
      let c := if d.store then { c with stcnt := c.stcnt - 1 } else { c with ldcnt := c.ldcnt - 1 }
      let c := if d.store || d.bad then c else c.land d
      let s := (s.setClause a c).settle a
      if d.bad && c.st != .exited then s.clauseFault a 7 d.va else s

/-! ### The L1 (R236 to R243) -/

def herbStore : Field := fieldAt 0x00300018 2 0

/-- Lines an L1 holds: 1 MiB less the scratchpad, and in the Herbarium partition less the store (R62, R539). -/
def State.l1Lines (s : State) (k : Kernel) : Nat :=
  (8 - k.spmSplit - (if (s.part k.part).herb then s.fld herbStore else 0)) * 1024

/-- Sectors of a line kept in a tile's L1, the least recently used line giving way (R240). -/
def Tile.l1Fill (t : Tile) (lines line mask : Nat) (data : List Byte) (fwd : Bool) : Tile :=
  let old := (tabGet l1None t.l1 line).getD {}
  let bytes := (List.range 128).map fun i =>
    if bitOf mask (i / 32) then data.getD i 0 else old.data.getD i 0
  let t := { t with
    l1 := tabSet l1None t.l1 line (some { valid := Nat.lor old.valid mask, data := bytes, fwd := fwd, use := t.l1Use })
    l1Use := t.l1Use + 1 }
  if t.l1.length ≤ lines then t
  else
    let least := t.l1.foldl (fun (b : Option (Nat × Nat)) e => match e.2, b with
      | some x, none => some (e.1, x.use)
      | some x, some y => if x.use < y.2 then some (e.1, x.use) else some y
      | none, b => b) none
    match least with
    | some x => { t with l1 := tabSet l1None t.l1 x.1 none }
    | none => t

/-- Read data reaches its requester, which discards what it has had from a forwarder (R314). What is kept is held in F where the home's record names this tile, else in S (R296). -/
def State.dataIn (s : State) (x : Rsp) : State :=
  let r := x.req
  if r.had then s
  else
  let tile := r.src.tile
  let keep := r.kind == .rdRo && x.poison == 0 && (s.tile tile).kernel == some r.kernel && decide (tile < 1536)
  let fwd := match s.frame r.line with
    | some f => f.fwd == some tile
    | none => false
  let s := if keep then
      s.setTile tile ((s.tile tile).l1Fill (s.l1Lines (s.kernel r.kernel)) r.line r.mask x.data fwd)
    else s
  match r.src with
  | .clause a => s.deliver a r.kernel r.acc (r.ops.map fun o => (o.lane, dataLe x.data o.off r.bytes)) (x.poison != 0)
  | _ => s

/-- A response of a kind, by its number, that is the first of its channel and ports to arrive (R365). -/
def State.rsp? (s : State) (id : Nat) (kind : RspKind) : Option Rsp :=
  (s.rsps.find? fun x => x.id == id && x.kind == kind).filter s.isFirst

def State.dropRsp (s : State) (id : Nat) : State := { s with rsps := s.rsps.filter (·.id != id) }

/-- A response taken from the network; nothing happens where there is none. -/
def takeRsp (kind : RspKind) (id : Nat) (s : State) (f : Rsp → State → State) : Res :=
  match s.rsp? id kind with
  | some x => .next (f x (s.dropRsp id))
  | none => .next s

/-- The read of a watched word that a clause still awaits. -/
def State.awaited (s : State) (a : At) (x : Rsp) : Bool :=
  let c := s.clause a
  c.st == .waiting && c.wait.reading && !c.wait.host && c.wait.rdId == x.req.id

/-- DATA: read data returns. The data of a watched word's read stays for WATCH_REREAD_RETURN while its clause awaits it. -/
def execDataRsp (msg : Nat) (s : State) : Res :=
  match s.rsp? msg .data with
  | none => .next s
  | some x => match x.req.src with
    | .watchRead a => .next (if s.awaited a x then s else s.dropRsp msg)
    | _ => .next ((s.dropRsp msg).dataIn x)

/-- A reliability count of late answers (R317). -/
def State.lateAnswer (s : State) : State := s.rasCount 0x12

/-- The register of a line waits on the forward of a request to a tile. -/
def State.fwdMissOf (s : State) (r : Req) (u : Nat) : Option Miss :=
  match s.miss r.line with
  | some m => if m.why == .fwd u && m.waiters.head?.elim false (·.id == r.id) then some m else none
  | none => none

/-- DATA_F: data from a forwarder's L1 (R243); after the forward's time it is discarded and counted (R317). -/
def execDataF (msg : Nat) (s : State) : Res :=
  takeRsp .dataF msg s fun x s =>
    if s.timedOut.contains x.req.id then { s with timedOut := s.timedOut.filter (· != x.req.id) }.lateAnswer
    else
      let s := match s.fwdMissOf x.req x.tile with
        | some m => s.setMiss x.req.line (some { m with given := true })
        | none => s
      s.dataIn x

/-- ACK: a store, non-returning atomic or reduction has been applied, or refused for poison. -/
def execAck (msg : Nat) (s : State) : Res :=
  takeRsp .ack msg s fun x s => match x.req.src with
    | .clause a => s.deliver a x.req.kernel x.req.acc [] x.bad
    | _ => s

/-- ATOM_RSP: the old values of an atomic. -/
def execAtomRsp (msg : Nat) (s : State) : Res :=
  takeRsp .atomRsp msg s fun x s => match x.req.src with
    | .clause a => s.deliver a x.req.kernel x.req.acc x.olds x.bad
    | _ => s

/-! ### Requests turned away (R305 to R308) -/

/-- RETRY reaches the requester, which holds the ticket. -/
def execRetry (msg : Nat) (s : State) : Res := takeRsp .retry msg s fun _ s => s

/-- What a ticket waits for is free, beside what GRANTs hold: a waiter entry where its line has a register, else a register (R305, R392,
R393). -/
def State.canGrant (s : State) (r : Req) : Bool :=
  let held := s.reqs.filter fun q => q.st == .granted && s.sameSlice q.line r.line
  match s.miss r.line with
  | some _ => s.waiterFits r.line r.tag held
  | none => s.missFits r.line r.tag 1 held && s.wayRoom r.line r.tag

/-- The slice's oldest ticket of those that what is free can serve: a tag's own registers and entries serve its tickets alone (R305,
R392). -/
def State.oldestTicket (s : State) (slice : Nat) : Option Req :=
  (s.reqs.filter fun r => r.st == .ticket && s.sliceOf r.line == slice && s.canGrant r).foldl (fun (b : Option Req) r => match b with
    | some q => if r.ticket < q.ticket then some r else some q
    | none => some r) none

/-- GRANT: the slice holds a register or a waiter entry for its oldest ticket, whose requester sends the request again (R305). -/
def execGrant (slice : Nat) (s : State) : Res :=
  unit (decide (slice < 512)) (match s.oldestTicket slice with
    | some r => (s.resend { r with st := .granted, entry := (s.miss r.line).isSome }).respond r .grant
    | none => s)

/-- GRANT_HOLD_EXPIRE: 1,024 SCLK cycles without the request; the requester starts again (R305). -/
def execGrantHoldExpire (req : Nat) (s : State) : Res :=
  match s.reqs.find? fun r => r.id == req && r.st == .granted with
  | some r => .next ({ s with rsps := s.rsps.filter fun x => !(x.kind == RspKind.grant && x.req.id == req) }.resend
      { r with st := .sent, entry := false })
  | none => .next s

/-- NACK reaches the requester, which backs off. -/
def execNack (msg : Nat) (s : State) : Res :=
  takeRsp .nack msg s fun x s => match s.reqs.find? (·.id == x.req.id) with
    | some r => s.setReq { r with nacks := r.nacks + 1 }
    | none => s

/-- NACK_BACKOFF_EXPIRE: the back-off drawn when the NACK came ends, and the request is sent again (R307). -/
def execNackBackoffExpire (req : Nat) (s : State) : Res :=
  match s.reqs.find? fun r => r.id == req && r.st == .backoff && !(s.rsps.any fun x => x.kind == .nack && x.req.id == req) with
  | some r => .next (s.resend { r with st := .sent })
  | none => .next s

/-! ### Forwards (R301, R303, R304, R314) -/

/-- FWD: the forwarder serves the read from its L1 when it holds every sector, else misses. -/
def execFwd (msg : Nat) (s : State) : Res :=
  takeRsp .fwd msg s fun x s =>
    let t := s.tile x.tile
    match t.l1Hit x.req.line x.req.mask with
    | some l =>
      let s := s.setTile x.tile { t with l1 := tabSet l1None t.l1 x.req.line (some { l with fwd := false }) }
      (s.respond x.req .dataF fun y => { y with data := l.data, tile := x.tile }).respond x.req .fwdAck fun y =>
        { y with tile := x.tile }
    | none => s.respond x.req .fwdMiss fun y => { y with tile := x.tile }

/-- A forward is over: its line's register is free, and the oldest forward that waits for room at the tile goes out. -/
def State.fwdEnd (s : State) (line tile : Nat) (waiters : List Req) : State := (s.release line waiters).nextFwd tile

/-- The requester of a forwarded read has the line, and is its forwarder now. -/
def State.fwdServed (s : State) (r : Req) (u : Nat) (m : Miss) : State :=
  (s.setFwd r.line (some r.src.tile)).fwdEnd r.line u (m.waiters.drop 1)

/-- The home serves a forwarded read itself. -/
def State.serveFwd (s : State) (r : Req) (u : Nat) (m : Miss) : State := (s.setFwd r.line none).fwdEnd r.line u m.waiters

/-- A late FWD_ACK or FWD_MISS is discarded and counted (R317). After a FWD_MISS no DATA_F comes. The tile's queue has room again. -/
def State.lateFwd (s : State) (r : Req) (tile : Nat) (miss : Bool) : State :=
  ({ s with timedOut := if miss then s.timedOut.filter (· != r.id) else s.timedOut }.lateAnswer).nextFwd tile

/-- FWD_ACK: the line was served; the requester is its forwarder now. -/
def execFwdAck (msg : Nat) (s : State) : Res :=
  takeRsp .fwdAck msg s fun x s => match s.fwdMissOf x.req x.tile with
    | some m => s.fwdServed x.req x.tile m
    | none => s.lateFwd x.req x.tile false

/-- FWD_MISS: the forwarder does not hold the line. -/
def execFwdMiss (msg : Nat) (s : State) : Res :=
  takeRsp .fwdMiss msg s fun x s => match s.fwdMissOf x.req x.tile with
    | some m => s.serveFwd x.req x.tile m
    | none => s.lateFwd x.req x.tile true

def cohFired : Field := fieldAt 0x00500300 31 16

/-- A coherence timeout counted, saturating (Table 6.8). -/
def State.cohTimeout (s : State) : State := s.setFld cohFired (min 65535 (s.fld cohFired + 1))

/-- The time until which the home waits for an answer to what a register sent (R313, Table 6.8). -/
def State.cohDue (s : State) (m : Miss) : Nat := m.since + s.fld (fieldAt 0x00500300 5 0) * 1000000

/-- FWD_TIMEOUT (R313, R314, R317): the home serves the read itself, and records the requester as forwarder. Nothing is poisoned; what
the forwarder answers from now on is discarded. A requester that has had its DATA_F discards the home's DATA (DESIGN CHOICE, log 79). -/
def execFwdTimeout (req : Nat) (s : State) : Res :=
  match s.misses.find? fun e => match e.2 with
      | some { why := .fwd _, waiters := r :: _, .. } => r.id == req
      | _ => false with
  | some (_, some m) => match m.why, m.waiters with
    | .fwd u, r :: _ =>
      let s := (s.reach (s.cohDue m)).cohTimeout
      .next (if m.given then s.serveFwd r u { m with waiters := { r with had := true } :: m.waiters.drop 1 }
        else { s with timedOut := s.timedOut ++ [r.id] }.serveFwd r u m)
    | _, _ => .next s
  | _ => .next s

/-! ### The host (Table 6.5, R299, R312, R315 to R317) -/

def lineExists (s : State) (line : Nat) : Bool := decide (line * 128 < s.pageCount * 65536)

/-- A host read as a request at its home: it needs every sector, and carries the tag of the host link (R387). -/
def hostReq (id line : Nat) (excl : Bool) (tag : Nat) : Req :=
  { id := id, kind := if excl then .hostX else .hostS, src := .host, line := line, part := 255, tag := tag, mask := 15 }

/-- The host has 16 reads outstanding at the slice of a line (R232). -/
def State.hostFull (s : State) (line : Nat) : Bool :=
  decide (16 ≤ ((s.misses.filter fun e => (Miss.waits e.2).any (·.src == .host) && s.sameSlice e.1 line).flatMap fun e =>
    (Miss.waits e.2).filter (·.src == .host)).length)

/-- A host read that its home takes: it waits on its line's register, takes one, or is served. With no room, and with 16 outstanding at
its slice, it stays on the host link, whose credits hold it back (R232, R235, R393; log 79). -/
def State.hostTake (s : State) (r : Req) : State :=
  if s.hostFull r.line then s
  else match s.miss r.line with
  | some m =>
    if s.waiterRoom r.line r.tag then s.setMiss r.line (some { m with
      need := (if m.why == .fill then Nat.lor m.need (s.needs r) else m.need), waiters := m.waiters ++ [r] })
    else s
  | none =>
    let t := s.start r
    if ((t.miss r.line).isNone || s.missRoom r.line r.tag 2) && s.wayRoom r.line r.tag then t else s

/-- A host read of a line. A released page reads as poisoned, and is counted (R344). -/
def hostRead (excl : Bool) (line : Nat) (s : State) : Res :=
  unit (lineExists s line) (
    if s.rotating then s
    else if s.silent || (s.lockedPage (line / 512)).isSome then s.hostRefuse line excl
    else if (s.page (line / 512)).released then (s.hostRefuse line excl).rasCount 0x17
    else match s.freshId with
      | (id, s) => s.hostTake (hostReq id line excl (s.privTag 0 (line / 512))))

/-- HOST_READ_SHARED. -/
def execHostReadShared (line : Nat) (s : State) : Res := hostRead false line s
/-- HOST_READ_EXCLUSIVE. -/
def execHostReadExclusive (line : Nat) (s : State) : Res := hostRead true line s

/-- Line data from the host written at the home, in a frame of the line (R226): the poison of its sectors is as the host marks it
(R312, Table 6.6). To a released page it is not applied, and is counted (R344). -/
def State.hostLine (s : State) (line : Nat) (d : LineData) : State :=
  if (s.page (line / 512)).released then s.rasCount 0x17
  else
    let w : Who := { part := (s.ownerOf (line / 512)).getD 255, tag := s.privTag 0 (line / 512) }
    let new := (s.frame line).isNone
    let s := ((s.hostBytes line 128 true).forget line 15).allocate line w.tag 0xFF 15 15
    let s := { s with mem := memPut s.mem (line * 128) (d.bytes.take 128) }
    let gone := s.keyless (line / 512) && (s.frame line).isNone
    let bad (i : Nat) : Bool := d.poison.getLsbD i || gone
    let s := (List.range 4).foldl (fun s i => if bad i then s.poisonSector (4 * line + i) else s.setPoison (4 * line + i) false) s
    (s.wroteBack w line 15).packNew new line

/-- HOST_WRITE_BACK: of a line recorded EM; any other is late, discarded and counted (R317). -/
def execHostWriteBack (line : Nat) (keepS : Bool) (data : LineData) (s : State) : Res :=
  unit (lineExists s line && data.bytes.length == 128) (
    if s.hostOf line == some .em then (s.hostLine line data).setHost line (if keepS then some .s else none)
    else s.lateAnswer)

/-- A Parser whose test of a watched word waited for the host tests it now. -/
def State.notifyParsers (s : State) (line : Nat) : State :=
  (s.watches.filter fun w => w.1 == line && (match w.2 with
    | .parser _ _ => true
    | _ => false)).foldl State.notifyWatch s

/-- A snoop's answer: the data if the line was modified, the host's new state, then the waiters. -/
def snoopAnswer (line : Nat) (data : Option LineData) (st : Option HostSt) (s : State) : Res :=
  unit (lineExists s line && data.elim true (fun d => d.bytes.length == 128)) (
    match s.miss line with
    | some m =>
      if m.why == .snoopData || m.why == .snoopInv then
        let s := match data with
          | some d => s.hostLine line d
          | none => s
        (((s.setHost line st).release line m.waiters).recalled line).notifyParsers line
      else s.lateAnswer
    | none => s.lateAnswer)

/-- BIRSPS: the host keeps S. -/
def execBirsps (line : Nat) (data : Option LineData) (s : State) : Res := snoopAnswer line data (some .s) s
/-- BIRSPI: the host keeps I. -/
def execBirspi (line : Nat) (data : Option LineData) (s : State) : Res := snoopAnswer line data none s

/-- BISNP_TIMEOUT (R315): a line recorded EM is poisoned and the host agent silent; one recorded S goes on. -/
def execBisnpTimeout (line : Nat) (s : State) : Res :=
  unit (lineExists s line) (
    match s.miss line with
    | some m =>
      if m.why == .snoopData || m.why == .snoopInv then
        ((((s.reach (s.cohDue m)).cohTimeout.loseHost line).release line m.waiters).recalled line).notifyParsers line
      else s
    | none => s)

/-- H2D_SNOOP: answered at once with RspIHitI, for the host-link agent holds no host line (R272, R370). -/
def execH2dSnoop (line : Nat) (s : State) : Res := .next { s with sent := .rspIHitI line :: s.sent }

end Sys2Proof.Machine
end

