-- ==== Sys2Proof/Machine/Fill.lean ====
section
/-! DEFINITION. Fills, hot slices and the case-tag table (spec/05 R224 to R235, R244 to R248, R260 to R262;
spec/06 R309; spec/07 R349 to R352; spec/08 R387 to R396). -/

namespace Sys2Proof.Machine

/-! ### FILL_RETURN -/

/-- The tag and partition under which a fill allocates: the tag of the miss that caused it (R387), and the partition of the first
request that waits. -/
def fillTag (m : Miss) : Nat × Nat := (m.tag, m.waiters.head?.elim 0xFF (·.part))

/-- FILL_RETURN: the frame is allocated, the waiters are served in order (R234), and the pair is then tried for
compression (R246). -/
def execFillReturn (line : Nat) (errs : List MemErr) (array : List ArrayErr) (s : State) : Res :=
  unit (lineExists s line) (
    match s.miss line with
    | some m =>
      let key := s.memSlot (line / 512)
      -- a fill begun after its slot began to retire stalls until the new key is there (R560)
      let stalls := match key with
        | some n => (s.keySlot n).st == 2 && !(s.keySlot n).users.contains line
        | none => false
      if m.why != .fill || stalls || s.repairing line m.need then s
      -- its page has been released since (R344)
      else if (s.page (line / 512)).released then s.release line m.waiters
      else
        let s := match key with
          | some n => s.setKey n { s.keySlot n with users := (s.keySlot n).users.filter (· != line) }
          | none => s
        let (tag, part) := fillTag m
        let n := ((List.range 4).filter fun i => bitOf m.need i).length
        let who := match m.waiters with
          | r :: _ => { s.whoReq r with tag := tag }
          | [] => { part := (s.ownerOf (line / 512)).getD 255, tag := tag }
        let new := (s.frame line).isNone
        let s := ((s.chanBytes who line (32 * n)).fillErrors line m.need errs).errsArise line m.need errs
        -- sectors the frame held before are read from the data array (R223)
        let old := 15 - m.need % 16
        let s := (s.upset line old array).meet line old part
        let s := s.allocate line tag part m.need 0
        let s := s.repack line
        (s.release line m.waiters).packNew new line
    | none => s)

/-! ### Hot slices (R260 to R262) -/

def hotThresh : Field := fieldAt 0x00500200 7 0
def hotEvEn : Field := fieldAt 0x00500200 16 16
def hotHead : Field := fieldAt 0x00500208 15 0

/-- A record of the hot-slice log (Table 5.10). -/
def State.hotRecord (s : State) (slice : Nat) (w : HotWindow) (entering : Bool) : State :=
  let h := s.fld hotHead
  let a := 0x00501000 + 16 * (h % 64)
  let s := s.setWord a (BitVec.ofNat 64 (slice % 2 ^ 16 + 2 ^ 16 * (w.topTag % 16) + 2 ^ 24 * (w.topPart % 256) +
    2 ^ 32 * (s.epoch % 2 ^ 32)))
  let s := s.setWord (a + 8) (BitVec.ofNat 64 (w.accepted % 2 ^ 32 + 2 ^ 32 * (w.average % 256) + 2 ^ 40 * b2n entering))
  s.setFld hotHead (h + 1)

/-- HOT_WINDOW_END: a window of a slice's request queue ends with an average occupancy. -/
def execHotWindowEnd (slice : Nat) (w : HotWindow) (s : State) : Res :=
  unit (decide (slice < 512)) (
    let th := s.fld hotThresh
    let was := s.hot.contains slice
    let ev := s.fld hotEvEn == 1
    let now := if was then decide (th - 32 ≤ w.average) else decide (th ≤ w.average)
    let s := if now then s.bump (liveKey (0x00C04000 + 4 * slice)) else s
    if now && !was then
      let s := { s with hot := slice :: s.hot }
      if ev && !s.hotSeen.contains slice then
        ({ s.hotRecord slice w true with hotSeen := slice :: s.hotSeen }).ras 0x10 0 0xFF slice
      else s
    else if was && !now then
      let s := { s with hot := s.hot.filter (· != slice) }
      if ev then s.hotRecord slice w false else s
    else s)

/-! ### UC_REG_APPLY (R388, R395, R396) -/

def ucCase (c hi lo : Nat) : Field := ⟨0x00500400 + 16 * c, hi, lo⟩
def ucPriv (m k half hi lo : Nat) : Field := ⟨0x00500800 + 256 * m + 16 * k + 8 * half, hi, lo⟩
def ucPrivDef (m : Nat) : Field := ⟨0x00500600 + 8 * m, 3, 0⟩
def ucApply : Field := fieldAt 0x00500500 0 0
def ucApplyDone : Field := fieldAt 0x00500500 1 1
def ucApplyStatus : Field := fieldAt 0x00500500 7 4

/-- The staged words that an apply copies. -/
def ucStaged : List Nat :=
  (List.range 16).map (fun c => 0x00500400 + 16 * c) ++ (List.range 8).map (fun m => 0x00500600 + 8 * m) ++
    (List.range 256).map fun i => 0x00500800 + 8 * i

/-- What an apply of the staged values answers: 0, or the first failing check of R396. -/
def State.applyStatus (s : State) : Nat :=
  let tags := List.range 16
  let sum (f : Nat → Nat) (cs : List Nat) : Nat := cs.foldl (fun n c => n + f c) 0
  let floors := sum (fun c => s.fld (ucCase c 7 0)) (List.range 15) + s.fld (ucCase 15 15 8) + 1
  let q (c : Nat) := s.fld (ucCase c 29 24)
  let l (c : Nat) := s.fld (ucCase c 39 32)
  let badPriv := (List.range 8).any fun m => s.fld (ucPrivDef m) == 15 || (List.range 16).any fun k =>
    s.fld (ucPriv m k 0 40 40) == 1 &&
      (s.fld (ucPriv m k 0 39 36) == 15 || decide (s.fld (ucPriv m k 1 35 0) < s.fld (ucPriv m k 0 35 0)))
  if 256 < floors then 1
  else if decide (96 < sum q tags) || tags.any fun c => decide (l c < q c) || l c == 0 || decide (128 < l c) then 2
  else if badPriv then 3
  else 0

/-- The end of an apply: applied or refused, with its status. -/
def State.regApply (s : State) : State :=
  let st := s.applyStatus
  let s := if st = 0 then ucStaged.foldl (fun s k => s.setWord (appliedKey k) (s.word k)) s else s
  ((s.setFld ucApply 0).setFld ucApplyDone 1).setFld ucApplyStatus st

/-- UC_REG_APPLY: the staged values are checked as a whole and applied at every point. -/
def execUcRegApply (s : State) : Res := .next (s.sup State.regApply)

end Sys2Proof.Machine
end

