-- ==== Sys2Proof/Machine/Complete.lean ====
section
/-! DEFINITION. How commands end: final statuses, completion records, events, head write-backs, and the loss of a
context (spec/10 R463, R464, R493 to R505, R672; spec/11 R508 to R511). A status is made final first; the records
and events that follow are then written as far as room, translations and the host allow. -/

namespace Sys2Proof.Machine

/-! ### Descriptors and queues -/

def rawLe (b : List Byte) (off n : Nat) : Nat := leNat ((b.drop off).take n)

def Cmd.le (c : Cmd) (off n : Nat) : Nat := rawLe c.raw off n
def descSeq (raw : List Byte) : W32 := BitVec.ofNat 32 (rawLe raw 4 4)
def descCookie (raw : List Byte) : W64 := BitVec.ofNat 64 (rawLe raw 8 8)
/-- Flag `i` of a command descriptor: 0 notify, 1 dep, 2 quiet (Table 10.10). -/
def descFlag (raw : List Byte) (i : Nat) : Bool := bitOf (rawLe raw 1 1) (4 + i)
def descOp (raw : List Byte) : Nat := rawLe raw 0 1

def queueNone : Nat → Queue := fun _ => {}
def State.queue (s : State) (n : Nat) : Queue := tabGet queueNone s.queues n
/-- A queue whose command an access serves, with its case tag (R387). -/
def State.whoQ (s : State) (n : Nat) : Who := { queue := some n, part := n / 256, tag := (s.queue n).tag }
/-- The fabric port controllers, the collective engines and the ring engine carry tag 15 (R387). -/
def State.whoEng (s : State) (n : Nat) : Who := { s.whoQ n with tag := 15 }
def State.setQueue (s : State) (n : Nat) (q : Queue) : State := { s with queues := tabSet queueNone s.queues n q }

/-! ### Places of byte ranges (R475, R516, R519) -/

/-- How an engine's or the Parser's access fails. -/
inductive XFail where
  | page (va : W64)
  | rights (va : W64)
  | poison (va : W64)
  /-- a table's home is not free yet -/
  | wait
  deriving DecidableEq, Repr

/-- The places of `n` bytes from a virtual address, page by page; `fuel` bounds the pages. -/
def State.placePages (s : State) (who : Who) (ctx : Nat) (acc : Acc) : Nat → Nat → Nat → State × (List (Loc × Nat) ⊕ XFail)
  | 0, _, _ => (s, .inl [])
  | fuel + 1, va, n =>
    if n = 0 then (s, .inl [])
    else
      let w : W64 := BitVec.ofNat 64 va
      let k := min n (4096 - va % 4096)
      if 2 ^ 64 ≤ va || !canonical (s.vaBits ctx) w then (s, .inr (.rights w))
      else match s.translate who ctx w acc with
        | (s, .inr (.page _)) => (s, .inr (.page w))
        | (s, .inr .poison) => (s, .inr (.poison w))
        | (s, .inr .wait) => (s, .inr .wait)
        | (s, .inr _) => (s, .inr (.rights w))
        | (s, .inl loc) =>
          match placePages s who ctx acc fuel (va + k) (n - k) with
          | (s, .inl ls) => (s, .inl ((loc, k) :: ls))
          | (s, .inr f) => (s, .inr f)

def State.places (s : State) (who : Who) (ctx : Nat) (acc : Acc) (va : W64) (n : Nat) : State × (List (Loc × Nat) ⊕ XFail) :=
  s.placePages who ctx acc (n / 4096 + 2) va.toNat n

/-- The bytes at a list of places, and whether some sector is poisoned. -/
def State.fetchAll (s : State) (ls : List (Loc × Nat)) : List Byte × Bool :=
  ls.foldl (fun r l => let x := s.fetch l.1 l.2; (r.1 ++ x.1, r.2 || x.2)) ([], false)

/-- Bytes written over a list of places. -/
def State.storeAll (s : State) (w : Who) : List (Loc × Nat) → List Byte → Bool → State
  | [], _, _ => s
  | (l, n) :: ls, bs, bad => (s.store w l (bs.take n) bad).storeAll w ls (bs.drop n) bad

def devRanges (ls : List (Loc × Nat)) : List (Nat × Nat) := ls.flatMap fun l => l.1.dev l.2

/-- The bytes of an access by an engine, the Parser or a port, counted and charged (R605): at the home and over the Rhizome
lane, or on the host link. -/
def State.meter (s : State) (w : Who) (reads writes : List (Loc × Nat)) : State :=
  let sum (host : Bool) (ls : List (Loc × Nat)) : Nat := ls.foldl (fun n l => if l.1.host == host then n + l.2 else n) 0
  let r := sum false reads
  let x := sum false writes
  let s := (s.bump (telCase w.tag 0) r).bump (telCase w.tag 8) x
  (s.charge w (2 * (r + x) + 40 * (sum true reads + sum true writes))).lane w false (r + x)

/-- Accesses to a released page are counted (R344). -/
def State.countReleased (s : State) (reads writes : List (Loc × Nat)) : State :=
  s.rasCount 0x17 (((devRanges reads ++ devRanges writes).filter fun r => s.releasedIn r.1 r.2).length)

/-- What an access waits for first; whether it may go on (Table 6.5). What it reads is then read at its home. -/
def State.gateAll (s : State) (w : Who) (reads writes : List (Loc × Nat)) : State × Bool :=
  match s.gate w (devRanges reads) (devRanges writes) with
  | (s, false) => (s, false)
  | (s, true) => (((s.meter w reads writes).countReleased reads writes).homeReads w (devRanges reads), true)

/-- The same for a tile's own reads and writes of byte ranges. -/
def State.meterTile (s : State) (w : Who) (tile : Nat) (write : Bool) (ls : List (Loc × Nat)) : State :=
  ls.foldl (fun s l =>
    if l.1.host then s.charge w (40 * l.2)
    else (rangeLines l.1.addr l.2).foldl (fun s k =>
      s.homeBytes w tile k (min (l.1.addr + l.2) (128 * k + 128) - max l.1.addr (128 * k)) write) s) s

def State.gateTile (s : State) (w : Who) (tile : Nat) (reads writes : List (Loc × Nat)) : State × Bool :=
  match s.gate w (devRanges reads) (devRanges writes) with
  | (s, false) => (s, false)
  | (s, true) =>
    ((((s.meterTile w tile false reads).meterTile w tile true writes).countReleased reads writes).homeReads w (devRanges reads), true)

/-! ### Final statuses (R503) -/

/-- The segment bitmap of a command (R493). -/
def Cmd.bitmap (c : Cmd) : W64 :=
  BitVec.ofNat 64 (c.segs.zipIdx.foldl (fun n x => if x.1 == .done then n + 2 ^ x.2 else n) 0)

/-- The abort state after a command's status became final (R503, R504). -/
def Abort.note (a : Abort) (seq : W32) (status : Nat) (marked : Bool) : Abort :=
  if a.result != 1 then a
  else if a.all then (if marked && status == 2 then { a with count := a.count + 1 } else a)
  else if marked && a.seq == seq then { a with result := if status = 2 then 2 else 3, status := if status = 2 then 0 else status, upTo := none }
  else a

/-- A record and event to follow a final status. -/
def State.addRec (s : State) (qn : Nat) (r : Rec) : State :=
  let q := s.queue qn
  if r.write || r.event then s.setQueue qn { q with records := q.records ++ [r] } else s

/-- A job's status is final: its context counts it (R511). -/
def State.jobDone (s : State) (c : Nat) : State :=
  let x := s.ctx c
  s.setCtx c { x with completed := x.completed + 1 }

def State.jobLaunched (s : State) (c : Nat) : State :=
  let x := s.ctx c
  s.setCtx c { x with launched := x.launched + 1 }

/-- The record of a descriptor that ends with a status. -/
def State.recOf (s : State) (q : Queue) (raw : List Byte) (engine status : Nat) (bitmap : W64) (event : Bool) : Rec :=
  { seq := descSeq raw, cookie := descCookie raw, status := status, engine := engine
    bitmap := if (s.ctx q.ctx).bl1 then 0 else bitmap, time := s.timeNs
    write := !(descFlag raw 2 && status == 0)
    event := event || descFlag raw 0 || (q.errEvent && status != 0) }

/-- A command in flight ends with a status (R503). -/
def State.finish (s : State) (qn id status : Nat) : State :=
  let q := s.queue qn
  match q.cmd? id with
  | none => s
  | some c =>
    let r := s.recOf q c.raw c.engine status c.bitmap false
    let s := s.setQueue qn { q with cmds := q.cmds.filter (·.id != id), abort := q.abort.note (descSeq c.raw) status true }
    (s.addRec qn r).jobDone q.ctx

/-! ### Event log (R498, Tables 10.19, 10.20) -/

def evlog (p : Nat) : Nat := 0x00201000 + 32 * p
def evlogCtx (p : Nat) : Field := ⟨evlog p + 8, 11, 0⟩
def evlogLog2 (p : Nat) : Field := ⟨evlog p + 8, 20, 16⟩
def evlogHead (p : Nat) : Field := ⟨evlog p + 16, 31, 0⟩
def evlogTail (p : Nat) : Field := ⟨evlog p + 16, 63, 32⟩
def evlogOver (p : Nat) : Field := ⟨evlog p + 24, 31, 0⟩

/-- The bytes of an event less its phase bit (Table 10.19). -/
def eventBytes (r : Rec) (ctx qn : Nat) : List Byte :=
  leBytes 8 r.cookie.toNat ++ leBytes 4 r.seq.toNat ++ leBytes 2 ctx ++ leBytes 1 r.status ++ leBytes 1 0 ++
    leBytes 2 qn ++ leBytes 1 r.engine ++ leBytes 5 0 ++ leBytes 8 r.time

def State.evlogLost (s : State) (p : Nat) : State := s.setFld (evlogOver p) (min (2 ^ 32 - 1) (s.fld (evlogOver p) + 1))

/-- EVENT_APPEND: what becomes of one event: it is over, or it waits (none). -/
def State.tryEvent (s : State) (e : EvtWait) : State × Option EvtWait :=
  let p := e.part
  let base := s.word (evlog p)
  let up (s : State) : State := s.raiseVec e.fn e.vector
  let size := 2 ^ s.fld (evlogLog2 p)
  let tail := s.fld (evlogTail p)
  if base == 0 then (up s, none)
  else if size ≤ (2 ^ 32 + tail - s.fld (evlogHead p)) % 2 ^ 32 then (up (s.evlogLost p), none)
  else
    let c := s.fld (evlogCtx p)
    let va := base + BitVec.ofNat 64 (32 * (tail % size))
    if (s.ctx c).st == .free || (s.ctx c).part != p then (up (s.evlogLost p), none)
    else
      let w : Who := { queue := some e.queue, part := p, tag := e.tag }
      match s.places w c .write va 32 with
      | (s, .inr .wait) => (s, some e)
      | (s, .inl ls) =>
        match s.gateAll w [] ls with
        | (s, false) => (s, some e)
        | (s, true) =>
          let phase := 1 - tail / size % 2
          let bs := e.bytes.take 15 ++ leBytes 1 phase ++ e.bytes.drop 16
          (up ((s.storeAll w ls bs false).setFld (evlogTail p) (tail + 1)), none)
      | (s, .inr (.page w)) =>
        let open_ := s.pageReqs.any fun r => r.ctx == c && r.page == w.toNat / 4096 && r.write
        if e.asked && !open_ then (up (s.evlogLost p), none)
        else (s.pageNeed c (w.toNat / 4096) true false id, some { e with asked := true })
      | (s, .inr _) => (up (s.evlogLost p), none)

/-- An event appended, behind those of its partition that wait. -/
def State.addEvent (s : State) (e : EvtWait) : State :=
  if s.rotating || s.events.any (·.part == e.part) then { s with events := s.events ++ [e] }
  else match s.tryEvent e with
    | (s, none) => s
    | (s, some e) => { s with events := s.events ++ [e] }

/-- The events that wait are tried again, in order. -/
def State.flushEvents (s : State) : State :=
  let es := s.events
  es.foldl (fun s e => s.addEvent e) { s with events := [] }

/-! ### Kernels that end (R89, R501, R505, R508) -/

/-- A tile whose clauses all go to EMPTY (R89): it is free, and its scratchpad and banks stay (R56). Matrix instructions still queued are
dropped, for R89 completes memory instructions only (DESIGN CHOICE, log 77). -/
def Tile.emptied (t : Tile) (part : Nat) : Tile :=
  { t with
    kernel := none, lastPart := some part, clauses := [], blocks := [], slots := [], matq := [], stopped := false
    quiet := none, switching := false, saved := false, stalls := [], tried := [], icache := [], storesOut := 0 }

/-- The sources of a kernel's watches: clauses of its tiles. -/
def Src.inTiles (ts : List Nat) : Src → Bool
  | .clause c | .watchRead c => ts.contains c.tile
  | .args c _ => ts.contains c.tile
  | _ => false

/-- Tiles held for a resuming kernel are held no more: it does not stand at the head (R535). -/
def State.unhold (s : State) (k : Nat) : State :=
  if (s.kernel k).st == .out then
    { s with tiles := tabMap tileNone (fun _ t => if t.kernel == some k then { t with kernel := none } else t) s.tiles }
  else s

/-- The placement list changed; a resuming kernel's wait counts from the moment it reaches the head (R536), and only there are tiles
held for it (R535). -/
def State.setPlacing (s : State) (p : Nat) (ks : List Nat) : State :=
  let pt := s.part p
  let s := s.setPart p { pt with placing := ks }
  let s := match pt.placing.head? with
    | some k => if ks.head? != some k then s.unhold k else s
    | none => s
  match ks.head? with
  | some k =>
    let kn := s.kernel k
    if pt.placing.head? != some k && kn.st == .out then s.setKernel k { kn with waitSince := s.now } else s
  | none => s

/-- The kernel and all it holds are gone: its tiles are free, its slot is freed, it stands in no list. -/
def State.endKernel (s : State) (k : Nat) : State :=
  let kn := s.kernel k
  let ts := (s.tiles.filter fun x => x.2.kernel == some k).map (·.1)
  let s := ts.foldl (fun s t => (s.occupy t).setTile t ((s.tile t).emptied kn.part)) s
  let s := { s with
    watches := s.watches.filter fun w => !w.2.inTiles ts
    rsps := s.rsps.filter fun r => !(r.kind == RspKind.notify && r.req.src.inTiles ts)
    reqs := s.reqs.filter fun r => !(r.kind == ReqKind.watch && r.src.inTiles ts) }
  let cx := s.ctx kn.ctx
  let s := s.setCtx kn.ctx { cx with slots := cx.slots.filter (·.2 != k) }
  let pt := s.part kn.part
  let pre := match pt.preempt with
    | some (w, v) => if w = k then none else some (w, v)
    | none => none
  let s := (s.setPart kn.part { pt with preempt := pre }).setPlacing kn.part (pt.placing.filter (· != k))
  { s with
    kernels := tabSet kernelNone s.kernels k (kernelNone k)
    pageReqs := s.pageReqs.map fun r => { r with kernels := r.kernels.filter (·.1 != k) } }

/-- Messages of this module that have not left it: they wait for a port, at one, or for a key. -/
def State.unsent? (s : State) : List FabMsg :=
  (s.outbox.map (·.2.1) ++ s.ports.flatMap (fun q => q.2.queue) ++ s.stalled.map (·.2)).filter (·.hop == 0)

/-- Messages of this module that have not left it are dropped. -/
def State.dropUnsent (s : State) (is : FabMsg → Bool) : State :=
  let mine (m : FabMsg) : Bool := m.hop == 0 && is m
  { s with
    outbox := s.outbox.filter fun o => !mine o.2.1
    stalled := s.stalled.filter fun o => !mine { o.2 with spart := o.1 }
    ports := tabMap (fun _ => {}) (fun _ q => { q with queue := q.queue.filter fun m => !mine m }) s.ports }

/-- A transfer ends: nothing more is sent or taken for it, and its messages that have not left are dropped. Those of a PUT that have
left are still to be acknowledged before a later PUT_FLAG of its queue leaves (R428). -/
def State.endXfer (s : State) (x : Nat) : State :=
  let mine (m : FabMsg) : Bool := m.tag == BitVec.ofNat 32 x && [1, 2, 3, 6, 7].contains m.type
  let left : List (Nat × FabMsg) := match tabGet (fun _ => none) s.xfers x with
    | some t => if t.kind == .put then
        (t.msgs.filter fun y => y.since.isSome && !y.answered && !s.unsent?.contains y.msg).map fun y => (t.queue, y.msg)
      else []
    | none => []
  { s.dropUnsent mine with xfers := tabSet (fun _ => none) s.xfers x none, putsOut := s.putsOut ++ left }

/-- What a command holds is given up: its kernel stops under R89 with no fault recorded, its transfer is squashed,
its watch is cancelled (R501, R505). -/
def State.squash (s : State) (qn : Nat) (c : Cmd) : State :=
  match c.work with
  | .kernel k => s.endKernel k
  | .xfer x => s.endXfer x
  | .wait _ pa => { s with
      watches := s.watches.filter (· != (pa / 128, .parser qn c.id))
      rsps := s.rsps.filter fun r => !(r.kind == RspKind.notify && r.req.src == .parser qn c.id)
      reqs := s.reqs.filter fun r => r.src != .parser qn c.id }
  | _ => s

/-- Sectors that were poisoned and that no agent is known to have written whole stay so (R312). -/
def State.keepBad (s : State) (was : Tab Bool) (ls : List (Loc × Nat)) : State :=
  ls.foldl (fun s l => if l.1.host then s
    else (rangeSectors l.1.addr l.2).foldl (fun s x => if tabGet (fun _ => false) was x.1 then s.poisonSector x.1 else s) s) s

/-- The part of a place that lies in lines that no register and no host copy holds: nothing can have been written elsewhere, for a write
begins with the host's copy recalled (Table 6.5). -/
def State.freeLines (s : State) (l : Loc × Nat) : List (Loc × Nat) :=
  if l.1.host then [l]
  else ((rangeLines l.1.addr l.2).filter fun k => (s.miss k).isNone && (s.hostOf k).isNone).map fun k =>
    let lo := max l.1.addr (128 * k)
    (⟨false, lo⟩, min (l.1.addr + l.2) (128 * k + 128) - lo)

/-- The destination of a command less that of its completed segments (R493, R501, R505): that of its other segments; of a KV ring the
buffer of the step that comes next, and of the one after it once some of it has come; the word of a SIGNAL or TIMESTAMP. -/
def State.lostRanges (s : State) (c : Cmd) : List (Nat × Nat) :=
  let segs := if c.total = 0 then [] else (c.segs.zipIdx.filter fun x => x.1 != .done).map fun x =>
    (c.dst.toNat + x.2 * c.segSz, min c.segSz (c.total - x.2 * c.segSz))
  let word := match c.work with
    | .once _ => if descOp c.raw = 0x03 || descOp c.raw = 0x10 then [(c.le 0x10 8, 8)] else []
    | _ => []
  let ring := match c.work with
    | .xfer x => (match tabGet (fun _ => none) s.xfers x with
      | some t =>
        let k := t.stepDone + 1
        let buf (i : Nat) : Nat × Nat := (t.coll.out.toNat + i % 2 * t.len, t.len)
        if t.kind != .ring || t.coll.n < k then [] else buf k :: (if t.got.any (·.1 == k + 1) then [buf (k + 1)] else [])
      | none => [])
    | _ => []
  segs ++ word ++ ring

/-- A range cut at the borders of 4 KiB pages. -/
def pageCuts (r : Nat × Nat) : List (Nat × Nat) :=
  if r.2 = 0 then [] else (List.range ((r.1 % 4096 + r.2 + 4095) / 4096)).map fun i =>
    let lo := max r.1 ((r.1 / 4096 + i) * 4096)
    (lo, min (r.1 + r.2) ((r.1 / 4096 + i + 1) * 4096) - lo)

/-- Destination bytes that are undefined: free values in the pages that are mapped for it (R493; log 3). -/
def State.undefine (s : State) (qn : Nat) (rs : List (Nat × Nat)) : State :=
  (rs.flatMap pageCuts).foldl (fun s r =>
    match s.places (s.whoQ qn) (s.queue qn).ctx .write (BitVec.ofNat 64 r.1) r.2 with
    | (s, .inl ls) => match s.draw with
      | (v, s) =>
        let ls := if s.misses.isEmpty && s.hosts.isEmpty then ls else ls.flatMap s.freeLines
        (s.storeAll (s.whoQ qn) ls (leBytes r.2 v) false).keepBad s.poison ls
    | (s, .inr _) => s) s

/-- A command ends before its engine has: by timeout, loss or abort. -/
def State.cut (s : State) (qn : Nat) (c : Cmd) (status : Nat) : State :=
  ((s.squash qn c).undefine qn (s.lostRanges c)).finish qn c.id status

/-! ### Timers (R499, R503) -/

/-- When a command's timer passes. -/
def Cmd.due (c : Cmd) (q : Queue) : Nat := c.since + c.notCounted + q.tmoUs * 1000000

/-- A command's timer runs: its kernel is not switched out for preemption. -/
def State.timing (s : State) (c : Cmd) : Bool := match c.work with
  | .kernel k => !((s.kernel k).st == .out && (s.kernel k).swCause == 2)
  | _ => true

/-- A time lies in the HCLK cycle in progress, or before it. -/
def State.byNow (s : State) (ps : Nat) : Bool := decide (ps * 3 / 2000 ≤ s.hclk)

/-- The timer of a command passes in this cycle, in which TIMEOUT ranks before ABORTED and CTX_LOST (R503; log 14). -/
def State.expired (s : State) (qn : Nat) (c : Cmd) : Bool := s.timing c && s.byNow (c.due (s.queue qn))

/-! ### The Herbarium's models that go (R541, R545) -/

def modelNone : Nat → Model := fun _ => { weightAt := [], clauses := 0 }
def State.model (s : State) (h : Nat) : Model := tabGet modelNone s.models h
def State.setModel (s : State) (h : Nat) (m : Model) : State := { s with models := tabSet modelNone s.models h m }
/-- A registered model has at least one clause per block. -/
def Model.registered (m : Model) : Bool := m.clauses != 0

def byteLines (r : Nat × Nat) : List Nat := rangeLines r.1 r.2

/-- A model leaves residency: its reserve lines are dropped, its entry and store space freed (R542). -/
def State.unload (s : State) (h : Nat) : State :=
  let m := s.model h
  let s := s.setModel h { m with resident := false, filling := false }
  let ls := m.weightAt.flatMap byteLines
  let s := ls.foldl (fun s l => match s.frame l with
    | some f => if f.reserve then (s.unpair l).evict l else s
    | none => s) s
  { s with tiles := tabMap tileNone (fun _ t => { t with store := t.store.filter (· != h) }) s.tiles }

/-- A model is no longer registered. -/
def State.unregister (s : State) (h : Nat) : State :=
  let m := s.model h
  let s := s.unload h
  m.pins.foldl (fun s p => s.setPin p 0) { s with models := tabSet modelNone s.models h (modelNone h) }

/-- INVOKEs of a model in flight: commands that wait for it, and kernels that run it. -/
def State.inUse (s : State) (h : Nat) : Bool :=
  (s.kernels.any fun x => match x.2.invoke with
    | some i => i.handle == h
    | none => false) ||
  (s.queues.any fun x => x.2.cmds.any fun c => c.work == .model h)

/-! ### Context loss (R501, R510) -/

/-- CONTEXT_LOSS: the first cause is the context's fault state; every command of the context ends with CTX_LOST,
every queue is LOST, its kernels, translations and page requests are gone. -/
def State.loseCtx (s : State) (c cause status qn : Nat) (seq : W32) (va : W64) : State :=
  let cx := s.ctx c
  if cx.st != .live then s.rasCount 0x15
  else
    let s := s.setCtx c { cx with st := .lost, cause := cause, status := status, queue := qn, seq := seq.toNat, faultVa := va }
    let mine := (s.queues.filter fun x => x.2.st != .empty && x.2.ctx == c).map (·.1)
    let s := mine.foldl (fun s n =>
      let q := s.queue n
      -- the requests of its records are abandoned with the others, and made anew (R510, R672)
      let s := s.setQueue n { q.readOver with
        st := .lost, calls := [], skip := 0, fetchBad := [], wbAsked := false, records := q.records.map fun r => { r with asked := false } }
      q.cmds.foldl (fun s k => s.cut n k (if s.expired n k then 3 else 8)) s) s
    let ks := (s.kernels.filter fun x => x.2.ctx == c).map (·.1)
    let s := ks.foldl State.endKernel s
    let s := { s with
      xcache := s.xcache.filter (·.ctx != c)
      pageReqs := s.pageReqs.filter (·.ctx != c)
      events := s.events.map fun (e : EvtWait) => if s.fld (evlogCtx e.part) = c then { e with asked := false } else e }
    let hs := (s.models.filter fun x => x.2.registered && x.2.ctx == c).map (·.1)
    let s := (hs.foldl State.unregister s).sendPages
    let cx := s.ctx c
    s.setCtx c { cx with slots := [] }

/-! ### Records (R496, R497, R672) -/

/-- The bytes of a completion record (Table 10.16). -/
def recBytes (r : Rec) (ctx phase : Nat) : List Byte :=
  leBytes 4 r.seq.toNat ++ leBytes 1 r.status ++ leBytes 1 (r.engine + 128 * phase) ++ leBytes 2 ctx ++
    leBytes 8 r.bitmap.toNat ++ leBytes 8 r.time ++ leBytes 8 r.cookie.toNat

/-- The completion tail advances; the phase flips each time it crosses a multiple of the record count. -/
def Queue.tailOn (q : Queue) : Queue :=
  let t := q.cqTail + 1
  { q with cqTail := t, phase := if t.toNat % 2 ^ q.cqLog2 = 0 then !q.phase else q.phase, records := q.records.drop 1 }

/-- The event that follows the record at the front of a queue. -/
def State.recEvent (s : State) (qn : Nat) (r : Rec) : State :=
  let q := s.queue qn
  if r.event then s.addEvent { part := q.part, bytes := eventBytes r q.ctx qn, fn := q.fn, vector := q.vector, queue := qn, tag := q.tag }
  else s

/-- COMPLETION_RECORD_WRITE: the record at the front of a queue is written, if it can be; whether it is gone. -/
def State.writeRec (s : State) (qn : Nat) (r : Rec) : State × Bool :=
  let q := s.queue qn
  if !r.write then ((s.setQueue qn { q with records := q.records.drop 1 }).recEvent qn r, true)
  else if 2 ^ q.cqLog2 ≤ (q.cqTail - q.cqHead).toNat then (s, false)
  else
    let va := q.cqBase + BitVec.ofNat 64 (32 * (q.cqTail.toNat % 2 ^ q.cqLog2))
    let dropped (s : State) (w : W64) : State × Bool :=
      let s := s.setQueue qn (s.queue qn).tailOn
      ((s.loseCtx q.ctx 0x11 6 qn r.seq w).recEvent qn r, true)
    match s.places (s.whoQ qn) q.ctx .write va 32 with
    | (s, .inr .wait) => (s, false)
    | (s, .inl ls) =>
      match s.gateAll (s.whoQ qn) [] ls with
      | (s, false) => (s, false)
      | (s, true) =>
        let s := s.storeAll (s.whoQ qn) ls (recBytes r q.ctx (b2n q.phase)) false
        ((s.setQueue qn (s.queue qn).tailOn).recEvent qn r, true)
    | (s, .inr (.page w)) =>
      let open_ := s.pageReqs.any fun x => x.ctx == q.ctx && x.page == w.toNat / 4096 && x.write
      if r.asked && !open_ then dropped s w
      else
        let s := s.pageNeed q.ctx (w.toNat / 4096) true false id
        (s.setQueue qn { s.queue qn with records := { r with asked := true } :: q.records.drop 1 }, false)
    | (s, .inr (.rights w)) | (s, .inr (.poison w)) => dropped s w

/-- The records of a queue are written in order, as far as they can be. -/
def State.flushRecs (s : State) (qn : Nat) : Nat → State
  | 0 => s
  | fuel + 1 => match (s.queue qn).records with
    | [] => s
    | r :: _ => match s.writeRec qn r with
      | (s, true) => s.flushRecs qn fuel
      | (s, false) => s

/-- HEAD_WRITEBACK (R463, R672): the head count written to head_wb. -/
def State.writeHead (s : State) (qn : Nat) : State :=
  let q := s.queue qn
  if q.headWb == 0 || q.st == .empty then s
  else if s.rotating then s.setQueue qn { q with wbWaits := true }
  else match s.places (s.whoQ qn) q.ctx .write q.headWb 8 with
    | (s, .inr .wait) => s.setQueue qn { s.queue qn with wbWaits := true }
    | (s, .inl ls) =>
      match s.gateAll (s.whoQ qn) [] ls with
      | (s, false) => s.setQueue qn { s.queue qn with wbWaits := true }
      | (s, true) =>
        (s.storeAll (s.whoQ qn) ls (leBytes 8 q.sqHead.toNat) false).setQueue qn { q with wbWaits := false, wbAsked := false }
    | (s, .inr (.page w)) =>
      let open_ := s.pageReqs.any fun x => x.ctx == q.ctx && x.page == w.toNat / 4096 && x.write
      let gone := s.setQueue qn { s.queue qn with wbWaits := false, wbAsked := false }
      if q.wbAsked && !open_ then gone.loseCtx q.ctx 0x11 6 qn 0 w
      else (s.pageNeed q.ctx (w.toNat / 4096) true false id).setQueue qn { q with wbWaits := true, wbAsked := true }
    | (s, .inr (.rights w)) | (s, .inr (.poison w)) =>
      (s.setQueue qn { s.queue qn with wbWaits := false, wbAsked := false }).loseCtx q.ctx 0x11 6 qn 0 w

/-- One round over every queue: records, and head write-backs that wait. -/
def State.flushRound (s : State) : State :=
  (s.queues.map (·.1)).foldl (fun s n =>
    let s := s.flushRecs n ((s.queue n).records.length + 64)
    if (s.queue n).wbWaits then s.writeHead n else s) s

def State.flushRounds (s : State) : Nat → State
  | 0 => s
  | n + 1 => s.flushRound.flushRounds n

/-- Everything that waits to be written is tried. A record that cannot be written may lose its context, whose other
records follow: one round for each queue, and one more, reaches them all. -/
def State.flush (s : State) : State :=
  -- after a fatal error no record or event is written (R620); a rotation holds them up (Table 5.11)
  if !s.ready || s.rotating || s.queues.all (fun x => x.2.records.isEmpty && !x.2.wbWaits) && s.events.isEmpty then s
  else (s.flushEvents).flushRounds (s.queues.length + 1)

end Sys2Proof.Machine
end

