-- ==== Sys2Proof/Machine/Save.lean ====
section
/-! DEFINITION. The save record of a kernel: its layout (spec/02 Tables 2.10 to 2.13), its structural check (R103),
and what a tile takes from it (R101, R102, R104 to R107). -/

namespace Sys2Proof.Machine

/-! ### The save area (R507, R508): partition bytes, never translated -/

/-- Pieces of a range of a partition's bytes, at most 4 KiB each. -/
def State.partPieces (s : State) (p off n : Nat) : List (Loc × Nat) :=
  (List.range ((n + 4095) / 4096)).filterMap fun i =>
    (grantByte (s.part p).grant (off + 4096 * i)).map fun a => (⟨false, a⟩, min 4096 (n - 4096 * i))

/-- The partition byte at which a save slot starts. -/
def Ctx.slotAt (c : Ctx) (slot : Nat) : Nat := (c.savePpn + slot * c.slotPages) * 65536

/-! ### Writing (R104, R107) -/

/-- The entries of a tile that are saved, in entry order: every clause but the exited ones. -/
def Tile.savedEntries (t : Tile) : List Nat :=
  (t.clauses.filter fun x => x.2.st != .empty && x.2.st != .exited).map (·.1)

/-- The block table entries in use, in entry order; a record numbers them from 0. -/
def Tile.usedBlocks (t : Tile) : List Nat := (t.blocks.filter (·.2.used)).map (·.1)

def zeros (n : Nat) : List Byte := List.replicate n 0

/-- The clauses saved with state READY, oldest first: active slots in order, then READY in order of entry, then
those that still wait for their arguments by block and clause (R107). -/
def Tile.ageOrder (t : Tile) : List Nat :=
  let act := (List.range 8).filterMap fun i => match t.slot i with
    | some e => if (t.clause e).st == .active then some e else none
    | none => none
  let adm := (rankSort ((t.clauses.filter fun x => x.2.st == .admitted).map fun x =>
    ((t.block x.2.blk).index * 32 + x.2.idx, x.1))).map (·.2)
  act ++ t.readyOrder ++ adm

/-- A clause record (Table 2.13). -/
def clauseRecord (t : Tile) (entry : W64) (cycle e : Nat) : List Byte :=
  let c := t.clause e
  let waiting := c.st == .waiting
  let w := c.wait
  let adm := c.st == .admitted
  let rank := if waiting then (if w.kind = 1 then w.rank else 0) else (t.ageOrder.idxOf? e).getD 0
  let left := if w.limit = 0 then 0 else max 1 (w.limit - (cycle - w.since))
  let timed := waiting && w.kind != 1
  let le := leBytes
  le 8 (if adm then entry.toNat else c.pc.toNat) ++ le 1 (b2n waiting) ++
    le 1 ((t.usedBlocks.idxOf? c.blk).getD 0) ++ le 1 c.idx ++ le 1 rank ++ le 4 c.active.toNat ++ le 4 c.live.toNat ++
    le 1 c.stack.length ++ le 1 (b2n adm) ++ le 2 0 ++ le 1 (if waiting then w.kind else 0) ++
    le 1 (if timed then w.pd + 8 * b2n w.pe else 0) ++ le 2 0 ++ le 4 (if timed then w.opnd.toNat else 0) ++
    le 8 (if timed then w.va.toNat else 0) ++ le 4 (if timed then left else 0) ++
    le 4 (if waiting && w.kind == 1 then w.gen.toNat else 0) ++ zeros 16 ++
    ((List.range 8).flatMap fun i => le 4 (c.getP i).toNat) ++
    (le 4 c.mode.toNat ++ le 4 c.ustatus.toNat ++ le 4 c.ctr.toNat ++ zeros 20) ++
    (lanes.flatMap fun l => le 4 (c.getStatus l).toNat) ++
    ((List.range 32).flatMap fun i => le 8 (c.stack.reverse.getD i 0).toNat) ++
    ((List.range 64).flatMap fun i => le 8 (if adm && i < 16 then 0 else (c.getU i).toNat))

def blockRecord (b : Block) : List Byte :=
  leBytes 4 b.index ++ leBytes 4 b.gen.toNat ++ leBytes 1 b.arrivals ++ leBytes 1 b.exited ++ leBytes 1 b.spmBase ++
    leBytes 1 b.spmSize ++ zeros 20

/-- The vector registers of a clause (R106). -/
def vectorRecord (c : Clause) (g : Nat) : List Byte :=
  (List.range (8 * g)).flatMap fun r => lanes.flatMap fun l => leBytes 4 (c.getV r l).toNat

/-- A tile record (Table 2.11), padded to 4 KiB. -/
def tileRecord (t : Tile) (number : Nat) (k : Kernel) (cycle : Nat) : List Byte :=
  let es := t.savedEntries
  let bs := t.usedBlocks
  let body :=
    leBytes 1 2 ++ leBytes 1 0 ++ leBytes 2 number ++ leBytes 1 es.length ++ leBytes 1 bs.length ++
      leBytes 1 (k.granules - 1) ++ leBytes 1 k.spmSplit ++ zeros 248 ++
      (bs.flatMap fun b => blockRecord (t.block b)) ++ zeros (32 * (72 - bs.length)) ++ zeros 1536 ++
      ((tabRange wDef t.acc 0 8192).flatMap fun w => leBytes 4 w.toNat) ++ memBytes t.spm 0 (k.spmSplit * 131072) ++
      (es.flatMap fun e => clauseRecord t k.entry cycle e) ++
      (es.flatMap fun e => vectorRecord (t.clause e) k.granules)
  body ++ zeros (tileBytes es.length k.granules k.spmSplit - body.length)

/-- The kernel header (Table 2.10). -/
def kernelHeader (k : Kernel) : List Byte :=
  let pf := k.swCause == 1
  leBytes 1 2 ++ leBytes 1 k.swCause ++ leBytes 2 k.savedTiles.length ++ leBytes 4 k.seq ++ leBytes 4 k.nextBlock ++
    leBytes 4 k.retired ++ leBytes 8 (if pf then k.faultVa.toNat else 0) ++ leBytes 2 (if pf then k.faultTile else 0) ++
    leBytes 1 (k.blkClauses - 1 + 32 * k.spmSplit) ++ leBytes 1 (k.granules - 1) ++ leBytes 1 k.blkSpm ++ zeros 3 ++
    leBytes 8 (k.savedTiles.foldl (fun n x => n + x.2) 4096) ++ zeros 4056

/-! ### The structural check (R103) -/

def allZero (b : List Byte) (off n : Nat) : Bool := ((b.drop off).take n).all (· == 0)

def headerCheck (k : Kernel) (h : List Byte) : Bool :=
  rawLe h 0 1 == 2 && rawLe h 1 1 == k.swCause && rawLe h 2 2 == k.savedTiles.length && decide (rawLe h 8 4 ≤ k.blkCount) &&
    decide (rawLe h 12 4 ≤ rawLe h 8 4) && rawLe h 26 1 == k.blkClauses - 1 + 32 * k.spmSplit &&
    rawLe h 27 1 == k.granules - 1 && rawLe h 28 1 == k.blkSpm && allZero h 0x1D 3 && allZero h 0x28 4056

def blockCheck (k : Kernel) (b : List Byte) : Bool :=
  decide (rawLe b 8 1 ≤ k.blkClauses) && decide (rawLe b 9 1 ≤ k.blkClauses) && rawLe b 11 1 == k.blkSpm &&
    decide (rawLe b 10 1 + rawLe b 11 1 ≤ k.spmSplit * 32) && allZero b 12 20

def clauseCheck (k : Kernel) (blocks : Nat) (c : List Byte) : Bool :=
  let st := rawLe c 8 1
  let kind := rawLe c 0x18 1
  (st == 0 && kind == 0 || st == 1 && [1, 3, 4, 5, 6].contains kind) && decide (rawLe c 9 1 < blocks) &&
    decide (rawLe c 10 1 < k.blkClauses) && decide (rawLe c 0x14 1 ≤ 32) && decide (rawLe c 0x15 1 < 2) &&
    allZero c 0x16 2 && decide (rawLe c 0x19 1 < 16) && allZero c 0x1A 2 && allZero c 0x30 16 &&
    decide (rawLe c 0x60 4 < 32) && BitVec.ofNat 32 (rawLe c 0x64 4) &&& ~~~statusMask == 0 && allZero c 0x6C 20

/-- A tile record of a saved tile. Its g - 1 byte is held to the kernel's, though R103 names reg_granules only (DESIGN CHOICE, log 77). -/
def tileCheck (k : Kernel) (number : Nat) (r : List Byte) : Bool :=
  let n := rawLe r 4 1
  let b := rawLe r 5 1
  rawLe r 0 1 == 2 && rawLe r 1 1 == 0 && rawLe r 2 2 == number && rawLe r 6 1 == k.granules - 1 &&
    rawLe r 7 1 == k.spmSplit && allZero r 8 248 && decide (n ≤ 72) && decide (n * k.granules ≤ 256) && decide (b ≤ 72) &&
    decide (b ≤ n) && ((List.range b).all fun i => blockCheck k ((r.drop (0x100 + 32 * i)).take 32)) &&
    (List.range n).all fun i => clauseCheck k b ((r.drop (0x9000 + k.spmSplit * 131072 + 1024 * i)).take 1024)

/-! ### Reading back (R101, R106) -/

def tabOf {α : Type} [DecidableEq α] (d : Nat → α) (vs : List α) : Tab α := tabPut d [] 0 vs

def blockOf (b : List Byte) : Block :=
  { used := true, index := rawLe b 0 4, gen := BitVec.ofNat 32 (rawLe b 4 4), arrivals := rawLe b 8 1, exited := rawLe b 9 1
    spmBase := rawLe b 10 1, spmSize := rawLe b 11 1 }

/-- A clause as its record and its vector area give it. -/
def clauseOf (uid cycle g : Nat) (c v : List Byte) : Clause :=
  let w32 (o : Nat) : W32 := BitVec.ofNat 32 (rawLe c o 4)
  let depth := rawLe c 0x14 1
  let args := rawLe c 0x15 1 == 1
  let waiting := rawLe c 8 1 == 1
  let w : Wait := {
    kind := rawLe c 0x18 1, opnd := w32 0x1C, va := BitVec.ofNat 64 (rawLe c 0x20 8), limit := rawLe c 0x28 4
    since := cycle, pe := bitOf (rawLe c 0x19 1) 3, pd := rawLe c 0x19 1 % 8, gen := w32 0x2C, rank := rawLe c 11 1 }
  { st := if waiting then .waiting else if args then .admitted else .ready
    uid := uid, blk := rawLe c 9 1, idx := rawLe c 10 1, pc := BitVec.ofNat 64 (rawLe c 0 8), active := w32 0xC, live := w32 0x10
    stack := (((List.range depth).map fun i => BitVec.ofNat 64 (rawLe c (0x100 + 8 * i) 8)) : List W64).reverse
    u := tabOf uDef ((List.range 64).map fun i => BitVec.ofNat 64 (rawLe c (0x200 + 8 * i) 8))
    p := tabOf wDef ((List.range 8).map fun i => w32 (0x40 + 4 * i))
    v := tabOf wDef ((List.range (256 * g)).map fun i =>
      if 255 * 32 ≤ i then 0 else BitVec.ofNat 32 (rawLe v (4 * i) 4))
    status := tabOf wDef (lanes.map fun l => w32 (0x80 + 4 * l))
    ustatus := w32 0x64, mode := w32 0x60, ctr := w32 0x68
    wait := if waiting then w else {}
    argsLeft := if args then List.range 16 else [] }

/-- A tile with what its record holds; its L1 and instruction cache are invalid (R102). The rotation of R67 starts afresh at slot 0,
for the record holds no pointer (DESIGN CHOICE, log 17). -/
def Tile.restore (t : Tile) (kid uid : Nat) (k : Kernel) (cycle : Nat) (r : List Byte) : Tile :=
  let n := rawLe r 4 1
  let b := rawLe r 5 1
  let cAt := 0x9000 + k.spmSplit * 131072
  let vAt := cAt + 1024 * n
  let cs := (List.range n).map fun i =>
    clauseOf (uid + i) cycle k.granules ((r.drop (cAt + 1024 * i)).take 1024) ((r.drop (vAt + 1024 * k.granules * i)).take (1024 * k.granules))
  -- READY clauses in order of age rank, equal ranks in record order; those that read arguments stay behind
  let rank (i : Nat) : Nat := rawLe r (cAt + 1024 * i + 11) 1
  let order := (rankSort (((List.range n).filter fun i => (cs.getD i {}).st == .ready).map fun i => (rank i, i))).map (·.2)
  let cs := cs.zipIdx.map fun x => match order.idxOf? x.2 with
    | some j => { x.1 with readyRank := j, readyAt := { sub := j } }
    | none => x.1
  { t with
    kernel := some kid
    clauses := tabOf clauseNone cs
    blocks := tabOf blockNone ((List.range b).map fun i => blockOf ((r.drop (0x100 + 32 * i)).take 32))
    slots := [], lastSlot := 7, readyNext := order.length
    acc := tabOf wDef ((List.range 8192).map fun i => BitVec.ofNat 32 (rawLe r (0x1000 + 4 * i) 4))
    spm := memPut t.spm 0 ((r.drop 0x9000).take (k.spmSplit * 131072))
    l1 := [], matq := [], stopped := false, quiet := none, switching := false, saved := false
    stalls := [], tried := [], icache := [], storesOut := 0 }

end Sys2Proof.Machine
end

