-- ==== Sys2Proof/Machine/TileEvt.lean ====
section
/-! DEFINITION. The events of tiles and kernels: placement, first state, promotion, waits, quiescence, stops,
switch-out and resumption (spec/02; spec/11 R533 to R538). -/

namespace Sys2Proof.Machine

/-! ### The placement list and TILE_ASSIGN (R534, R535, R538) -/

/-- The partition that holds a tile group. -/
def State.groupOwner (s : State) (g : Nat) : Option Nat :=
  (s.parts.find? fun x => x.2.st != .free && bitOf x.2.groups g).map (·.1)

/-- A kernel that can take a tile: blocks are left, and its tile set is below its limit. -/
def Kernel.wantsTile (k : Kernel) : Bool :=
  k.st == .running && k.fault.isNone && decide (k.nextBlock < k.blkCount) && (k.tilesMax == 0 || decide (k.tiles.length < k.tilesMax))

/-- The kernel that a free tile goes to. -/
def State.chooseKernel (s : State) (p tile : Nat) : Option Nat :=
  let pt := s.part p
  let head := pt.placing.head?.bind fun k =>
    let kn := s.kernel k
    if kn.st == .out && kn.eligible && kn.savedTiles.any (·.1 == tile) then some k else none
  match head with
  | some k => some k
  | none =>
    let ks := pt.placing.filter fun k => (s.kernel k).wantsTile
    -- INVOKE kernels stand ahead of every LAUNCH kernel (R538)
    let inv := ks.filter fun k => (s.kernel k).invoke.isSome
    let ks := if inv.isEmpty then ks else inv
    let cs := (ks.map fun k => (s.kernel k).ctx).eraseDups
    let next := cs.foldl (fun (b : Option Nat) c =>
      let key (c : Nat) := (c + 4096 - (pt.rrCtx + 1) % 4096) % 4096
      match b with
      | none => some c
      | some d => if key c < key d then some c else some d) none
    next.bind fun c => ks.find? fun k => (s.kernel k).ctx == c

/-- KERNEL_START_INVALIDATE and R56: the tile as a kernel finds it. -/
def Tile.given (t : Tile) (k part : Nat) : Tile :=
  let t := if t.lastPart == some part then t else { t with spm := [], acc := [], store := [] }
  { t with kernel := some k, lastPart := some part, l1 := [], quiet := none, clauses := [], blocks := [], slots := [], stalls := [], tried := [], icache := [], storesOut := 0 }

/-- A number entered in a rising list. -/
def insertNat (n : Nat) : List Nat → List Nat
  | [] => [n]
  | m :: ms => if n < m then n :: m :: ms else if n = m then m :: ms else m :: insertNat n ms

/-- A free tile of a partition that some kernel of its placement list can be given. -/
def State.canGive (s : State) (p tile : Nat) : Bool :=
  bitOf (s.part p).groups (tile / 32) && (s.tile tile).kernel.isNone && !s.quarantined.any (·.1 == tile) && (s.chooseKernel p tile).isSome

/-- Free tiles are given in ascending tile number (R534). -/
def State.tileTurn (s : State) (p tile : Nat) : Bool := (List.range tile).all fun u => !s.canGive p u

/-- TILE_ASSIGN: a free tile is given to a kernel, or held for the resuming kernel at the head. -/
def execTileAssign (tile : Nat) (s : State) : Res :=
  unit (tileOk tile) (
    let t := s.tile tile
    match s.groupOwner (tile / 32) with
    | none => s
    | some p =>
      let pt := s.part p
      if t.kernel.isSome || pt.st != .ready || s.quarantined.any (·.1 == tile) || !s.tileTurn p tile then s
      else match s.chooseKernel p tile with
        | none => s
        | some k =>
          let kn := s.kernel k
          let s := s.occupy tile
          if kn.st == .out then s.setTile tile { t with kernel := some k }
          else
            let s := s.setTile tile (t.given k p)
            let s := s.setKernel k { kn with tiles := insertNat tile kn.tiles
                                             ranSince := if kn.tiles.isEmpty then s.now else kn.ranSince }
            let pre := match pt.preempt with
              | some (w, v) => if w = k then none else some (w, v)
              | none => none
            s.setPart p { pt with rrCtx := kn.ctx, preempt := pre })

/-! ### BLOCK_PLACE and the first state of a clause (R54 to R61, R543, R669) -/

/-- Scratchpad regions of equal size from offset 0: the lowest free one, in 4 KiB units (DESIGN CHOICE, log 76: R61 does not say
which region a block gets). -/
def Tile.freeSpm (t : Tile) (size : Nat) : Nat :=
  if size = 0 then 0
  else (((List.range 72).find? fun i => !(t.blocks.any fun x => x.2.used && x.2.spmBase == i * size)).getD 0) * size

/-- R58. -/
def Tile.fits (t : Tile) (k : Kernel) : Bool :=
  let n := t.resident.length
  let b := (t.blocks.filter (·.2.used)).length
  decide (n + k.blkClauses ≤ 72) && decide ((n + k.blkClauses) * k.granules ≤ 256) &&
    decide ((b + 1) * k.blkSpm ≤ k.spmSplit * 32) && !t.stopped && !t.switching && decide (b < 72)

/-- The uniform registers an INVOKE starts with (R543). -/
def Invoke.regs (i : Invoke) : List W64 :=
  [i.input, i.output, BitVec.ofNat 64 i.count, i.param, i.weights, BitVec.ofNat 64 i.handle]

/-- A block placed: its clauses are ADMITTED in their first state (Table 2.3), and become READY with their arguments (R669); those
of an INVOKE read none, and become READY at once (R543, Table 2.6). The clauses take the lowest free entries in sr.clause order, and
the block the lowest free entry of the block table (DESIGN CHOICE, log 76: R57 does not say which). -/
def Tile.placeBlock (t : Tile) (k : Kernel) (cycle uid : Nat) (image : List Byte) : Tile :=
  let es := ((List.range 72).filter fun e => (t.clause e).st == .empty).take k.blkClauses
  let b := ((List.range 72).find? fun b => !(t.block b).used).getD 0
  let base := t.freeSpm k.blkSpm
  let t := t.setBlock b { used := true, index := k.nextBlock, spmBase := base, spmSize := k.blkSpm }
  let t := { t with spm := memPut t.spm (base * 4096) image, quiet := none }
  let t := es.zipIdx.foldl (fun t x => t.setClause x.1
    { st := .admitted, uid := uid + x.2, blk := b, idx := x.2, pc := k.entry, active := ~~~0, live := ~~~0
      argsLeft := List.range 16 }) t
  match k.invoke with
  | some i => es.foldl (fun t e => t.toReady cycle e { t.clause e with argsLeft := [], u := tabOf uDef i.regs }) t
  | none => t

/-- BLOCK_PLACE: the next block goes to the lowest-numbered tile of the set on which it fits (R59). -/
def execBlockPlace (kernel : Nat) (s : State) : Res :=
  let k := s.kernel kernel
  if k.st != .running || k.held || k.fault.isSome || k.blkCount ≤ k.nextBlock then .next s
  else match k.tiles.find? fun t => (s.tile t).fits k with
    | none => .next s
    | some t =>
      let image := match k.invoke with
        | some i => (s.model i.handle).imageData
        | none => []
      let s := s.setTile t ((s.tile t).placeBlock k (s.cycle (frondOf t)) s.fresh image)
      let k' := { k with nextBlock := k.nextBlock + 1 }
      let s := ({ s with fresh := s.fresh + k.blkClauses }).setKernel kernel k'
      -- with the last block placed, a tile that holds no clause leaves the set (R534)
      .next (if k'.nextBlock = k.blkCount then
        k.tiles.foldl State.tileLeave (s.setPlacing k.part ((s.part k.part).placing.filter (· != kernel))) else s)

/-- `n` bytes from a virtual address are translated already: each page's translation is cached. -/
def State.located (s : State) (ctx : Nat) (va : W64) (n : Nat) (acc : Acc) : Bool :=
  (List.range ((va.toNat % 4096 + n + 4095) / 4096)).all fun i =>
    (s.locate ctx (BitVec.ofNat 64 ((va.toNat / 4096 + i) * 4096)) acc).isSome

/-- ARGUMENT_READ_RETURN: the 16 words of the argument block, with the outcomes of R669. In the drain of a switch-out a read
completes only if it has been translated (R107). -/
def execArgumentReadReturn (a : At) (s : State) : Res :=
  unit (atOk a) (
    let t := s.tile a.tile
    let c := t.clause a.entry
    let k := s.tileKernel a.tile
    if c.st != .admitted || t.stopped || t.saved || s.rotating || (t.switching && !s.located k.ctx k.args 128 .read) then s
    else match s.places (s.whoTile a.tile) k.ctx .read k.args 128 with
      | (s, .inr .wait) => s
      | (s, .inr (.page w)) => s.pageFault a .read [w]
      | (s, .inr (.rights w)) => s.clauseFault a 5 w
      | (s, .inr (.poison w)) => s.clauseFault a 7 w
      | (s, .inl ls) =>
        match s.gateTile (s.whoTile a.tile) a.tile ls [] with
        | (s, false) => s
        | (s, true) =>
          let (bs, bad) := s.fetchAll ls
          if bad then s.clauseFault a 7 k.args
          else
            let t := s.tile a.tile
            let c := (List.range 16).foldl (fun (c : Clause) i =>
              c.putU i (BitVec.ofNat 64 (rawLe bs (8 * i) 8))) { t.clause a.entry with argsLeft := [] }
            s.setTile a.tile (t.toReady (s.cycle (frondOf a.tile)) a.entry c))

/-! ### Issue slots (R68, R69, R71) -/

/-- The READY clause to be promoted next (R68). -/
def Tile.nextReady (t : Tile) : Option Nat := t.readyOrder.head?

/-- PROMOTE: an open slot takes the oldest READY clause; a WAITING clause in it goes to the pool. -/
def execPromote (tile slot : Nat) (s : State) : Res :=
  unit (tileOk tile && decide (slot < 8)) (
    let t := s.tile tile
    let open_ := match t.slot slot with
      | none => true
      | some e => (t.clause e).st == .waiting
    match t.nextReady with
    | some e =>
      if open_ && !t.stopped && !t.switching then
        let c := t.clause e
        s.setTile tile ((t.setSlot slot (some e)).setClause e { c with st := .active, promotedAt := s.cycle (frondOf tile) })
      else s
    | none => s)

/-- LOADDEP_DEMOTE: a clause whose next instruction has been stalled on a load for 64 cycles makes way for a READY clause. -/
def execLoaddepDemote (a : At) (load : Nat) (s : State) : Res :=
  unit (atOk a) (
    let t := s.tile a.tile
    let c := t.clause a.entry
    match t.stall a.entry with
    | none => s
    | some x =>
      if c.st == .active && t.nextReady.isSome && !t.stopped && !t.switching && x.loads.contains load &&
          c.loads.any fun d => d.id == load && !d.store then
        let s := s.reachCycle (frondOf a.tile) (x.since + 64)
        s.setTile a.tile ((t.setStall a.entry none).toWaiting a.entry { c with wait := { kind := 7, load := load } })
      else s)

/-! ### Waits (R74 to R79, R172) -/

/-- A MEM_* wait is over: what was asked for it is given up, and its watch at the home is cancelled (R300). -/
def State.dropWatch (s : State) (a : At) (w : Wait) : State :=
  let s := { s with
    reqs := s.reqs.filter fun r => !(r.src == .watchRead a && r.kind == ReqKind.rd)
    rsps := s.rsps.filter fun r => r.req.src != .watchRead a }
  if !w.watching then s
  else
    let k := s.tileKernel a.tile
    { s with
      fresh := s.fresh + 1
      reqs := s.reqs ++ [{ id := s.fresh, kind := .unwatch, src := .watchRead a, line := w.pa / 128, part := k.part, tag := k.tag }] }

/-- A wait ends by its condition or its limit. -/
def State.endWaitAt (s : State) (a : At) (met : Bool) : State :=
  let w := (s.clause a).wait
  let s := s.dropWatch a w
  let t := s.tile a.tile
  s.setTile a.tile (t.toReady (s.cycle (frondOf a.tile)) a.entry ((t.clause a.entry).endWait met))

/-- The answer to the read or reread of a watched word that a clause waits for. -/
def State.rereadRsp (s : State) (a : At) : Option Rsp :=
  let w := (s.clause a).wait
  if w.reading && !w.host then
    (s.rsps.find? fun x => x.kind == RspKind.data && x.req.src == .watchRead a && x.req.id == w.rdId).bind fun x => s.rsp? x.id .data
  else none

/-- The answer stands at the tile, and the word in it meets the condition. -/
def State.rereadMet (s : State) (a : At) : Bool :=
  let w := (s.clause a).wait
  match s.rereadRsp a with
  | some x => x.poison == 0 && memCond w.kind (BitVec.ofNat 32 (dataLe x.data (w.pa % 128) 4)) w.opnd
  | none => false

/-- WAIT_LIMIT_EXPIRE: the limit of a MEM_* wait has passed (R79). An answer that has been sent by the limit's own cycle, and that
meets the condition, arrives in it and counts as met (R172; log 78). -/
def execWaitLimitExpire (a : At) (s : State) : Res :=
  unit (atOk a) (
    let c := s.clause a
    let w := c.wait
    if c.st == .waiting && (w.kind == 3 || w.kind == 4 || w.kind == 5) && w.limit != 0 && !s.rotating then
      let due := s.cycle (frondOf a.tile) ≤ w.since + w.limit
      (s.reachCycle (frondOf a.tile) (w.since + w.limit)).endWaitAt a (due && s.rereadMet a)
    else s)

/-- SLEEP_END. -/
def execSleepEnd (a : At) (s : State) : Res :=
  unit (atOk a) (
    let c := s.clause a
    if c.st == .waiting && c.wait.kind == 6 && !s.rotating then
      (s.reachCycle (frondOf a.tile) (c.wait.since + c.wait.limit)).endWaitAt a true
    else s)

/-- The reread that a notification calls for. -/
def State.reread (s : State) (a : At) : State :=
  let c := s.clause a
  let k := s.tileKernel a.tile
  let ops : List LaneOp := [{ lane := 0, off := c.wait.pa % 128 }]
  let r : Req := {
    id := s.fresh, kind := .rd, src := .watchRead a, line := c.wait.pa / 128, kernel := ((s.tile a.tile).kernel).getD 0
    part := k.part, tag := k.tag, bl1 := (s.ctx k.ctx).bl1, mask := sectorMask 4 ops, ops := ops }
  ({ s with fresh := s.fresh + 1, reqs := s.reqs ++ [r] }).setClause a
    { c with wait := { c.wait with reading := true, notified := false, rdId := s.fresh } }

/-- The watched word has been read: the wait ends, or goes on with the next reread that is due (R76, R77), which waits for the end of a
rotation (R265). -/
def State.watchSaw (s : State) (a : At) (word : W32) : State :=
  let c := s.clause a
  if memCond c.wait.kind word c.wait.opnd then s.endWaitAt a true
  else if c.wait.notified && !s.rotating then s.reread a
  else s.setClause a { c with wait := { c.wait with reading := false } }

/-- WATCH_REREAD_RETURN: a read of a watched word of device memory returns. -/
def execWatchRereadReturn (a : At) (s : State) : Res :=
  unit (atOk a) (
    let c := s.clause a
    match s.rereadRsp a with
    | some x =>
      if c.st == .waiting then
        let s := s.dropRsp x.id
        if x.poison != 0 then (s.dropWatch a c.wait).clauseFault a 7 c.wait.va
        else s.watchSaw a (BitVec.ofNat 32 (dataLe x.data (c.wait.pa % 128) 4))
      else s
    | none => s)

/-- A store of a clause to its watched word of host memory has not been performed yet (R275). -/
def State.hostStoreOut (s : State) (a : At) : Bool :=
  let c := s.clause a
  s.hostReqs.any fun q => q.src == .clause a && q.uid == c.uid && q.kind != .rd && !q.zlr && q.ops.any fun x =>
    decide (x.off < c.wait.pa + 4) && decide (c.wait.pa < x.off + q.bytes)

/-- HOST_WATCH_POLL: the host-link agent reads a watched word of host memory, after the clause's own earlier stores to it (R275). -/
def execHostWatchPoll (a : At) (s : State) : Res :=
  unit (atOk a) (
    let c := s.clause a
    if c.st == .waiting && c.wait.host && !s.rotating && !s.hostStoreOut a then s.watchSaw a (BitVec.ofNat 32 (memLe s.host c.wait.pa 4))
    else s)

/-! ### Quiescence and DEADLOCK (R91 to R96) -/

/-- R91. -/
def State.quiescent (s : State) (tile : Nat) : Bool :=
  let t := s.tile tile
  t.matq.isEmpty && t.storesOut == 0 && t.kernel.isSome && !t.resident.isEmpty && t.resident.all fun e =>
    let c := t.clause e
    let w := c.wait
    c.st == .waiting && (w.kind == 1 || ((w.kind == 3 || w.kind == 4 || w.kind == 5) && !w.host && w.limit == 0)) &&
      c.loads.isEmpty && c.xlat.isNone && !w.reading && !w.notified

/-- QSC: a tile reports that it enters or leaves quiescence. -/
def execQsc (tile : Nat) (s : State) : Res :=
  unit (tileOk tile) (
    let t := s.tile tile
    let q := if s.quiescent tile then (if t.quiet.isSome then t.quiet else some (s.cycle (frondOf tile))) else none
    s.setTile tile { t with quiet := q })

def rasDlk (p : Nat) : Nat := 0x00A00A00 + 8 * p

/-- The LAUNCH status of a clause fault cause (Table 2.8). -/
def causeStatus (cause : Nat) : Nat := if cause = 7 then 7 else if cause = 8 then 10 else 6

/-- The kernel has been stopped on every tile: its clauses are EMPTY, its command ends, its context is lost (R89,
R90, R96). -/
def State.stopKernel (s : State) (kernel : Nat) : State :=
  let k := s.kernel kernel
  match k.fault with
  | none => s
  | some (cause, _, va) =>
    let st := causeStatus cause
    let s := (s.endKernel kernel).finish k.queue k.cmd st
    (s.loseCtx k.ctx cause st k.queue (BitVec.ofNat 32 k.seq) va).flush

/-- DEADLOCK_DECLARE: every tile that holds a clause of the kernel has been quiescent for 65,536 cycles. A kernel that has faulted
already is stopped for that (R90). -/
def execDeadlockDeclare (kernel : Nat) (s : State) : Res :=
  let k := s.kernel kernel
  let ts := k.tiles.filter fun t => !(s.tile t).resident.isEmpty
  if k.st != .running || k.held || k.fault.isSome || k.storesOut != 0 || ts.isEmpty || s.rotating ||
      !(ts.all fun t => s.quiescent t && (s.tile t).quiet.isSome) then .next s
  else
    let s := ts.foldl (fun s t => s.reachCycle (frondOf t) (((s.tile t).quiet).getD 0 + 65536)) s
    let s := (s.bump (rasDlk k.part)).ras 0x16 0 k.part (ts.headD 0)
    .next ((s.setKernel kernel { k with fault := some (8, ts.headD 0, 0) }).stopKernel kernel)

/-- A memory instruction of a kernel has issued and is not complete. -/
def State.accessOut (s : State) (kernel : Nat) : Bool :=
  (s.kernel kernel).storesOut != 0 || (s.hostReqs.any (·.kernel == kernel)) ||
    s.tiles.any fun x => x.2.kernel == some kernel && x.2.clauses.any fun c => !c.2.loads.isEmpty

/-- STOP: the Rhizome's stop reaches the tiles of a kernel that has faulted, which issue nothing more. Its clauses are EMPTY once the
memory instructions already issued are complete (R89). -/
def execStop (kernel : Nat) (s : State) : Res :=
  if (s.kernel kernel).fault.isNone then .next s
  else if s.accessOut kernel then
    .next { s with tiles := tabMap tileNone (fun _ t => if t.kernel == some kernel then { t with stopped := true } else t) s.tiles }
  else .next (s.stopKernel kernel)

/-! ### Switch-out (R97 to R107, R508) -/

/-- SWITCH_OUT_REQUEST: the sequencer stops issuing (Table 2.9, step 1). -/
def execSwitchOutRequest (tile : Nat) (s : State) : Res :=
  unit (tileOk tile) (
    let t := s.tile tile
    if (s.tileKernel tile).st == .switching && !t.stopped then s.setTile tile { t with switching := true, quiet := none } else s)

/-- Nothing that a tile has issued is outstanding, for clauses that have left their entries neither (R99). -/
def Tile.drained (t : Tile) : Bool :=
  t.matq.isEmpty && t.storesOut == 0 && t.clauses.all fun x =>
    x.2.st == .empty || (x.2.loads.isEmpty && x.2.ldcnt == 0 && x.2.stcnt == 0 && x.2.mxcnt == 0 && x.2.hostWr == 0)

/-- The tiles of a kernel, saved or not, with the size of each one's record, in ascending tile number. -/
def State.recordSizes (s : State) (k : Kernel) : List (Nat × Nat) :=
  let here := k.tiles.map fun t => (t, tileBytes (s.tile t).savedEntries.length k.granules k.spmSplit)
  (rankSort ((k.savedTiles ++ here).map fun x => (x.1, x.2)))

/-- Where the record of a tile starts in the save record. -/
def recordAt (tile : Nat) (xs : List (Nat × Nat)) : Nat :=
  (xs.filter fun x => decide (x.1 < tile)).foldl (fun n x => n + x.2) 4096

/-- A host request of a kernel sent from a tile is not complete. -/
def State.hostOut (s : State) (kernel tile : Nat) : Bool :=
  s.hostReqs.any fun r => r.kernel == kernel && r.src.inTiles [tile]

/-- SWITCH_OUT_DRAIN_END: watches are cancelled and the tile record is written (steps 3 and 4). Where it stands in the save record
follows from the records of the tiles before it, which have drained too (R104). A kernel that has faulted in the drain is not saved: it
is stopped (R89). -/
def execSwitchOutDrainEnd (tile : Nat) (s : State) : Res :=
  unit (tileOk tile) (
    let t := s.tile tile
    match t.kernel with
    | none => s
    | some kid =>
      let k := s.kernel kid
      if !t.switching || t.saved || k.st != .switching || k.fault.isSome || !t.drained || s.hostOut kid tile || s.rotating ||
          !(k.tiles.all fun u => (s.tile u).switching && (decide (tile < u) || (s.tile u).drained)) then s
      else
        let cx := s.ctx k.ctx
        let ps := s.partPieces k.part (cx.slotAt k.slot + recordAt tile (s.recordSizes k))
          (tileBytes t.savedEntries.length k.granules k.spmSplit)
        match s.gateTile (s.whoKernel kid k.part k.tag) tile [] ps with
        | (s, false) => s
        | (s, true) =>
          let ws := t.savedEntries.filter fun e => (t.clause e).wait.watching
          let s := ws.foldl (fun s e => s.dropWatch ⟨tile, e⟩ (t.clause e).wait) s
          let s := s.storeAll (s.whoKernel kid k.part k.tag) ps (tileRecord t tile k (s.cycle (frondOf tile))) false
          s.setTile tile { s.tile tile with saved := true })

/-- TILE_SAVED: the record's last write has been acknowledged; the tile's clauses are SAVED and it is free (step 5). -/
def execTileSaved (tile : Nat) (s : State) : Res :=
  unit (tileOk tile) (
    let t := s.tile tile
    match t.kernel with
    | none => s
    | some kid =>
      let k := s.kernel kid
      if !t.saved || k.fault.isSome then s
      else
        let size := tileBytes t.savedEntries.length k.granules k.spmSplit
        ((s.occupy tile).setKernel kid { k with
          tiles := k.tiles.filter (· != tile), savedTiles := (rankSort (k.savedTiles ++ [(tile, size)])) }).setTile tile
          (t.emptied k.part))

/-- A kernel joins the placement list to resume: behind those that already wait there to resume, but for those that became
eligible in the same HCLK cycle and were switched out later (R535). INVOKE kernels stand ahead of every LAUNCH kernel (R538). -/
def State.eligible (s : State) (kid : Nat) : State :=
  let k := s.kernel kid
  let pt := s.part k.part
  let list := pt.placing.filter (· != kid)
  let invokes := list.filter fun j => (s.kernel j).invoke.isSome
  let others := list.filter fun j => (s.kernel j).invoke.isNone
  let enter (js : List Nat) : List Nat :=
    let ahead := js.takeWhile fun j =>
      let kn := s.kernel j
      kn.st == .out && !(kn.eligibleAt * 3 / 2000 == s.hclk && decide (k.outSince < kn.outSince))
    ahead ++ kid :: js.drop ahead.length
  (s.setKernel kid { k with eligible := true, eligibleAt := s.now, waitSince := s.now }).setPlacing k.part
    (if k.invoke.isSome then enter invokes ++ others else invokes ++ enter others)

/-- A switched-out kernel whose saved tile set holds a tile that failed with no spare cannot resume: its context is lost
(R624). -/
def State.loseOut (s : State) : State :=
  let ks := s.kernels.filter fun x => x.2.st == .out && x.2.savedTiles.any fun t => s.noSpare.contains t.1
  ks.foldl (fun s x => (s.loseCtx x.2.ctx 0x16 8 x.2.queue (BitVec.ofNat 32 x.2.seq) 0).flush) s

/-- KERNEL_SWITCHED_OUT: every tile has reported (step 6). -/
def execKernelSwitchedOut (kernel : Nat) (s : State) : Res :=
  let k := s.kernel kernel
  if k.st != .switching || !k.tiles.isEmpty || k.fault.isSome || s.rotating then .next s
  else
    let cx := s.ctx k.ctx
    let ps := s.partPieces k.part (cx.slotAt k.slot) 4096
    match s.gateAll (s.whoKernel kernel k.part k.tag) [] ps with
    | (s, false) => .next s
    | (s, true) =>
      let s := s.storeAll (s.whoKernel kernel k.part k.tag) ps (kernelHeader k) false
      let k := { k with outSince := s.now }
      let s := s.setKernel kernel { k with st := .out, eligible := false }
      let pt := s.part k.part
      if k.swCause = 2 then
        .next ((s.setKernel kernel { k with st := .out, eligible := true, eligibleAt := s.now, waitSince := s.now }).setPlacing k.part
          (pt.placing.filter (· != kernel) ++ [kernel])).loseOut
      else
        let s := s.setPlacing k.part (pt.placing.filter (· != kernel))
        .next (if s.pageReqs.any fun r => r.kernels.any (·.1 == kernel) then s else s.eligible kernel).loseOut

/-! ### Resumption (R101 to R103, Table 6.7) -/

/-- A clause waits on a word of memory (Table 2.7). -/
def Clause.memWait (c : Clause) : Bool := c.st == .waiting && (c.wait.kind == 3 || c.wait.kind == 4 || c.wait.kind == 5)

/-- The watch of a resumed clause is registered afresh and its word read. Where the walk for its address waits for a home, the clause
stalls on it, until TRANSLATION_WALK_DONE (R73). -/
def State.rewatchOne (s : State) (a : At) : State :=
  let c := { s.clause a with xlat := none }
  let k := s.tileKernel a.tile
  if !c.memWait then s
  else match s.translate (s.whoTile a.tile) k.ctx c.wait.va .read with
    | (s, .inr (.page _)) => (s.setClause a c).pageFault a .read [c.wait.va]
    | (s, .inr .poison) => s.clauseFault a 7 c.wait.va
    | (s, .inr .wait) => s.setClause a { c with xlat := some { acc := .read, addrs := [c.wait.va] } }
    | (s, .inr _) => s.clauseFault a 5 c.wait.va
    | (s, .inl loc) =>
      let s := s.setClause a { c with wait := { c.wait with host := loc.host, pa := loc.addr, watching := !loc.host, reading := true } }
      if loc.host then s
      else
        let r : Req := { id := s.fresh, kind := .watch, src := .watchRead a, line := loc.addr / 128, kernel := ((s.tile a.tile).kernel).getD 0
                         part := k.part, tag := k.tag }
        ({ s with fresh := s.fresh + 1, reqs := s.reqs ++ [r] }).reread a

/-- The watches of a resumed tile. -/
def State.rewatch (s : State) (tile : Nat) : State := ((s.tile tile).resident).foldl (fun s e => s.rewatchOne ⟨tile, e⟩) s

/-- A save record that will not restore: the context is lost (cause RESTORE). -/
def State.noRestore (s : State) (kernel : Nat) : State :=
  let k := s.kernel kernel
  let s := (s.endKernel kernel).finish k.queue k.cmd 7
  (s.loseCtx k.ctx 0x14 7 k.queue (BitVec.ofNat 32 k.seq) 0).flush

/-- Time that does not count for a command's timer (R499). -/
def State.notCount (s : State) (qn id ps : Nat) : State :=
  let q := s.queue qn
  match q.cmd? id with
  | some c => s.setQueue qn (q.setCmd { c with notCounted := c.notCounted + ps })
  | none => s

/-- KERNEL_RESUME: every saved tile is held for the kernel; the record is checked and read back. A tile's record is read where it was
saved, whatever n another now has, and past the saved size as zeros; a barrier whose altered arrivals are all there waits for the next BAR
or EXIT (DESIGN CHOICE, log 77). -/
def execKernelResume (kernel : Nat) (s : State) : Res :=
  let k := s.kernel kernel
  let pt := s.part k.part
  let ts := k.savedTiles.map (·.1)
  if k.st != .out || !k.eligible || pt.placing.head? != some kernel || s.rotating ||
      !(ts.all fun t => (s.tile t).kernel == some kernel) then .next s
  else
    let cx := s.ctx k.ctx
    let base := cx.slotAt k.slot
    let total := k.savedTiles.foldl (fun n x => n + x.2) 4096
    match s.gateAll (s.whoKernel kernel k.part k.tag) (s.partPieces k.part base total) [] with
    | (s, false) => .next s
    | (s, true) =>
      let (bs, bad) := s.fetchAll (s.partPieces k.part base total)
      let head := bs.take 4096
      let recs := k.savedTiles.map fun x => (x.1, bs.drop (recordAt x.1 k.savedTiles))
      if bad || !headerCheck k head || !(recs.all fun x => tileCheck k x.1 x.2) then .next (s.noRestore kernel)
      else
        let s := recs.foldl (fun s x =>
          let t := (s.tile x.1).restore kernel s.fresh k (s.cycle (frondOf x.1)) x.2
          ({ s with fresh := s.fresh + 72 }).setTile x.1 t) s
        let nb := rawLe head 8 4
        let s := s.setKernel kernel { k with
          st := .running, tiles := ts, savedTiles := [], eligible := false, nextBlock := nb, retired := rawLe head 12 4
          ranSince := s.now, resumedOnce := true, held := false }
        let s := s.setCtx k.ctx { cx with slots := cx.slots.filter (·.2 != kernel) }
        let s := if k.swCause = 2 then s.notCount k.queue k.cmd (s.now - k.outSince) else s
        let pre := match pt.preempt with
          | some (w, v) => if w = kernel then none else some (w, v)
          | none => none
        let s := s.setPart k.part { pt with preempt := pre }
        let s := if nb < k.blkCount then s else s.setPlacing k.part (pt.placing.filter (· != kernel))
        .next (ts.foldl State.rewatch s)

/-! ### Preemption (R536, R538) -/

/-- The kernels of a partition that wait for tiles, the longest wait first: one that has not been switched out while its tile set is
empty, and a resuming one at the head while a saved tile is not held for it. -/
def State.waiters (s : State) (p : Nat) : List Nat :=
  let ks := (s.part p).placing
  let waits (k : Nat) : Bool :=
    let kn := s.kernel k
    if kn.st == .out then ks.head? == some k && !(kn.savedTiles.all fun t => (s.tile t.1).kernel == some k)
    else kn.st == .running && kn.fault.isNone && !kn.resumedOnce && kn.tiles.isEmpty
  (rankSort ((ks.filter waits).map fun k => ((s.kernel k).waitSince, k))).map (·.2)

/-- When a kernel will have waited for longer than the quantum. -/
def State.quantumEnd (s : State) (p k : Nat) : Nat := (s.kernel k).waitSince + (s.part p).quantumUs * 1000000 + 1

/-- A preemption of a partition is pending, for a kernel has waited for longer than the quantum, or in progress (R537). -/
def State.preempting (s : State) (p : Nat) : Bool :=
  (s.part p).preempt.isSome || ((s.part p).quantumUs != 0 && (s.waiters p).any fun k => s.quantumEnd p k ≤ s.now)

/-- A kernel that R508 lets be switched out. -/
def State.canSwitch (s : State) (k : Kernel) : Bool :=
  (s.ctx k.ctx).freeSlot.isSome && decide (s.recordBytes k ≤ (s.ctx k.ctx).slotPages * 65536)

/-- The victim: of another context, running longest, at least a quantum. -/
def State.victim (s : State) (p w : Nat) : Option Nat :=
  let pt := s.part p
  let ks := s.kernels.filter fun x =>
    x.2.st == .running && x.2.part == p && x.2.ctx != (s.kernel w).ctx && x.2.invoke.isNone && !x.2.tiles.isEmpty &&
      decide (pt.quantumUs * 1000000 ≤ s.now - x.2.ranSince) && x.2.fault.isNone && !x.2.held && s.canSwitch x.2
  (ks.foldl (fun (b : Option (Nat × Kernel)) x => match b with
    | none => some x
    | some y => if x.2.ranSince < y.2.ranSince then some x else some y) none).map (·.1)

/-- PREEMPT_QUANTUM_EXPIRE: a kernel has waited for longer than the quantum. Where no kernel can be its victim, the preemption stays
pending, and that of the next kernel to wait so long is tried. -/
def execPreemptQuantumExpire (p : Nat) (s : State) : Res :=
  unit (decide (p < 48)) (
    let pt := s.part p
    let ws := s.waiters p
    if pt.quantumUs = 0 || pt.preempt.isSome || pt.st != .ready then s
    else match ws.findSome? fun w => ((s.reach (s.quantumEnd p w)).victim p w).map (w, ·) with
      | none => match ws.head? with
        | none => s
        | some w => s.reach (s.quantumEnd p w)
      | some (w, v) =>
        let s := s.reach (s.quantumEnd p w)
        (s.setPart p { s.part p with preempt := some (w, v) }).switchOut v 2)

/-! ### Accesses served without a home (R71, R75, R272, R311) -/

/-- LOCAL_LOAD_RETURN: the part of a load that the tile served, from its L1 or its scratchpad, returns. `bad`: the
SRAM read met an uncorrectable error (R311). -/
def execLocalLoadReturn (a : At) (load : Nat) (bad : Bool) (s : State) : Res :=
  unit (atOk a) (
    let c := s.clause a
    match c.loads.find? fun d => d.id == load && d.loc with
    | some _ =>
      let s := s.setClause a { c with loads := c.loads.map fun d => if d.id = load then { d with loc := false } else d }
      s.deliver a (((s.tile a.tile).kernel).getD 0) load [] bad
    | none => s)

/-- TRANSLATION_WALK_DONE: the walk that stalled a clause is over (R73). That of a resumed clause's watch is made again. -/
def execTranslationWalkDone (a : At) (s : State) : Res :=
  unit (atOk a) (
    let c := s.clause a
    if c.memWait && c.xlat.isSome && !c.wait.reading && !c.wait.watching then s.rewatchOne a
    else s.setClause a { c with xlat := none })

/-- A host write is complete at module scope: the zero-length read has returned, for the clause that sent the write if it is
still there (R272). -/
def State.hostWritten (s : State) (r : HostReq) : State := match r.src with
  | .clause a =>
    let c := s.clause a
    if c.st != .empty && c.uid == r.uid then s.setClause a { c with hostWr := c.hostWr - 1 } else s
  | _ => s

/-- The effect of a host request at host memory, and its answer. -/
def State.hostDone (s : State) (r : HostReq) (poisoned : Bool) : State :=
  let s := if r.zlr then s else s.charge (s.whoKernel r.kernel r.part 15) (40 * r.bytes * r.ops.length)
  let drop (s : State) : State := { s with hostReqs := s.hostReqs.filter (·.id != r.id) }
  let put (s : State) : State :=
    r.ops.foldl (fun (s : State) o => (s.dlog r.part true o.off).hostCured o.off r.bytes) s
  let s := if poisoned && r.kind != .wr then r.ops.foldl (fun (s : State) o => s.hostSpoilt o.off r.bytes) s else s
  match r.src, r.kind with
  | .clause a, .rd =>
    (drop s).deliver a r.kernel r.acc (r.ops.map fun o => (o.lane, memLe s.host o.off r.bytes)) poisoned
  | .clause a, .wr =>
    if r.zlr then (drop s).hostWritten r
    else
      -- accepted: performed at block and partition scope; the zero-length read follows
      let s := put s
      let m := r.ops.foldl (fun m (o : LaneOp) => memPutLe m o.off r.bytes o.val) s.host
      let hs := s.hostReqs.map fun (q : HostReq) => if q.id = r.id then { q with zlr := true } else q
      let s := { s with host := m, hostReqs := hs }
      let c := s.clause a
      let s := if c.loads.any (·.id == r.acc) then s.setClause a { c with hostWr := c.hostWr + 1 } else s
      s.deliver a r.kernel r.acc [] false
  | .clause a, _ =>
    if poisoned then (drop s).deliver a r.kernel r.acc [] true
    else
      let s := put s
      let (m, olds) := atomRun r.op r.bytes 0 s.host r.ops
      (drop { s with host := m }).deliver a r.kernel r.acc (if r.nr then [] else olds) false
  | _, _ => drop s

/-- An earlier request of the same clause to an address of this one is not performed yet (R275). -/
def HostReq.before (q r : HostReq) : Bool :=
  q.src == r.src && q.uid == r.uid && !q.zlr && q.ops.any fun x => r.ops.any fun y =>
    decide (x.off < y.off + r.bytes) && decide (y.off < x.off + q.bytes)

/-- HOST_LINK_COMPLETION: the host link answers a request of a clause; those of one clause to one address in program order (R275). -/
def execHostLinkCompletion (req : Nat) (poisoned : Bool) (s : State) : Res :=
  match s.hostReqs.find? (·.id == req) with
  | some r =>
    if !r.zlr && (s.hostReqs.takeWhile (·.id != req)).any (·.before r) then .next s else .next (s.hostDone r poisoned)
  | none => .next s

end Sys2Proof.Machine
end

