-- ==== Sys2Proof/Machine/Tier.lean ====
section
/-! DEFINITION. The Tier Manager: commands, moves, planning, temperature, scrub and map-out (spec/07). -/

namespace Sys2Proof.Machine

/-! ### TIER_CMD (Tables 7.10, 7.11, R339 to R344, R359) -/

def tierFirst : Field := ⟨0x00400020, 31, 0⟩
def tierCount : Field := ⟨0x00400020, 63, 32⟩
def tierOp : Field := fieldAt 0x00400028 2 0
def tierStatus : Field := fieldAt 0x00400028 11 8
def tierGo : Field := fieldAt 0x00400028 31 31
def tierEn : Field := fieldAt 0x00400000 0 0
def tierFreeze : Field := fieldAt 0x00400000 19 12
def polPromote : Field := ⟨0x00400008, 15, 0⟩
def polMargin : Field := ⟨0x00400008, 31, 16⟩
def polBudget : Field := ⟨0x00400008, 47, 32⟩
def polUsed : Field := ⟨0x00400008, 63, 48⟩
def telTier (off : Nat) : Nat := liveKey (0x00C000C0 + off)

/-- A frame is to be left by its page: it is being retired, or its channel drains (R354, R356). -/
def State.mustLeave (s : State) (f : FrameNo) : Bool := s.retiring.contains f || (s.chan f.fast f.ch).st == 1

/-- The move that retirement or drain needs for a page. -/
def State.rehouse (s : State) (page : Nat) (f : FrameNo) : State :=
  s.wantMove { page := page, why := .retire, whole := (s.chan f.fast f.ch).dead }

/-- A frame that a page leaves: retired if it was being retired, free otherwise (R336, R354). The other page of a swap stands or comes
there, and leaves it in turn if it must. -/
def State.vacate (s : State) (f : FrameNo) : State :=
  match s.pageAt f with
  | some q => if s.mustLeave f then s.rehouse q f else s
  | none => if s.comesTo f then s else if s.retiring.contains f then s.markRetired f else s.freeFrame f

/-- What a page needs where it stands: to leave its frame, or to return to its pinned tier (R339, R354, R356). -/
def State.needMove (s : State) (page : Nat) : State :=
  let p := s.page page
  let s := { s with todo := s.todo.filter (·.page != page) }
  if p.released then s
  else if s.mustLeave p.at_ then s.rehouse page p.at_
  else if (p.pin == 1 && !p.at_.fast) || (p.pin == 2 && p.at_.fast) then s.wantMove { page := page, why := .pin }
  else s

/-- A page released: its frame is free, and its cached lines are gone (R344). -/
def State.releasePage (s : State) (page : Nat) : State :=
  let p := s.page page
  if p.released then s
  else if s.moving page then s.setPage page { p with late := some 3 }
  else
    let s := { s with
      frames := s.frames.filter fun x => x.1 / 512 != page
      upsets := s.upsets.filter fun u => u.1 / 2048 != page
      under := s.under.filter fun k => k / 2048 != page
      todo := s.todo.filter (·.page != page)
      plan := s.plan.filter fun m => m.page != page && m.pair != some page }
    (s.setPage page { p with released := true, pin := 0, heat := 0, count := 0 }).vacate p.at_

/-- What an op of TIER_CMD does, with its status (Table 7.11). A release of a page of a save area is refused (R507; log 81). -/
def State.tierDo (s : State) (op : Nat) : State × Nat :=
  let first := s.fld tierFirst
  let count := s.fld tierCount
  let pages := (List.range count).map (first + ·)
  if op < 4 then
    if count = 0 || s.pageCount < first + count || (op == 3 && pages.any fun p => (s.lockedPage p).isSome || s.saved p) then (s, 2)
    else if op = 1 && s.pinRefused pages then (s, 3)
    else (pages.foldl (fun s p => if op = 3 then s.releasePage p else s.setPin p op) s, 0)
  else if op < 6 then
    let fast := op == 4
    if tierCh fast ≤ first then (s, 2)
    else if (s.chan fast first).st != 0 then (s, 4)
    else (s.drain fast first false, 0)
  else (s, 2)

/-- The end of an op of TIER_CMD. -/
def State.tierEnd (s : State) (status : Nat) : State := (s.setFld tierStatus status).setFld tierGo 0

/-- A write of TIER_CMD with go = 1; it starts nothing while go reads 1. The op goes on while a page that it names moves (R342, R359). -/
def State.tierCmd (s : State) (op : Nat) : State :=
  let busy := s.fld tierGo == 1
  let s := s.setFld tierOp op
  if busy then s
  else match s.tierDo op with
    | (s, st) =>
      let left := if st = 0 && decide (op < 4) then
          (s.moves.map (·.page)).filter fun p => decide (s.fld tierFirst ≤ p) && decide (p < s.fld tierFirst + s.fld tierCount)
        else []
      if left.isEmpty then s.tierEnd st else { s with tierWaits := left }.setFld tierGo 1

/-- TIER_MANAGE. -/
def execTierManage (s : State) : Res := .next (s.sup (State.tierCmd · 0))
/-- TIER_PIN_FAST. -/
def execTierPinFast (s : State) : Res := .next (s.sup (State.tierCmd · 1))
/-- TIER_PIN_CAP. -/
def execTierPinCap (s : State) : Res := .next (s.sup (State.tierCmd · 2))
/-- TIER_RELEASE. -/
def execTierRelease (s : State) : Res := .next (s.sup (State.tierCmd · 3))
/-- TIER_MAPOUT_FAST. -/
def execTierMapoutFast (s : State) : Res := .next (s.sup (State.tierCmd · 4))
/-- TIER_MAPOUT_CAP. -/
def execTierMapoutCap (s : State) : Res := .next (s.sup (State.tierCmd · 5))

/-! ### Moves (R328, R335 to R338, R342) -/

/-- The frame that a needed move goes to: in its pinned or own tier if that has a free frame, else, for retirement
and drain, in the other (R339). -/
def State.target (s : State) (m : Move) : Option FrameNo :=
  let p := s.page m.page
  match m.why with
  | .pin => s.findFree (p.pin == 1) m.page
  | .retire =>
    let own := if p.pin = 0 then p.at_.fast else p.pin == 1
    (s.findFree own m.page).orElse fun _ => s.findFree (!own) m.page
  | .policy => none

/-- A needed move that can start now. -/
def State.canStart (s : State) (m : Move) : Bool :=
  let p := s.page m.page
  !s.moving m.page && !(!p.at_.fast && s.rebuilding.contains p.at_.ch) && (m.why != .retire || s.freeCount != 0) &&
    (s.target m).isSome

/-- PAGE_MOVE_START: of a needed move, ahead of the planned ones; or of the next planned move, a swap with both its
pages (R331, R335, R339). -/
def execPageMoveStart (page : Nat) (s : State) : Res :=
  unit (decide (page < s.pageCount)) (
    if s.rot != .idle && s.rot != .waiting || 64 ≤ s.moves.length then s
    else match s.todo.find? fun m => m.page == page && s.canStart m with
    | some m =>
      if 1024 ≤ s.otherStarts then s
      else match s.target m with
        | some f =>
          ({ s.takeFrame f with
            moves := s.moves ++ [{ m with dest := f }], todo := s.todo.filter (·.page != page)
            otherStarts := s.otherStarts + 1 }).bump (telTier 8)
        | none => s
    | none =>
      match s.plan with
      | [] => s
      | m :: rest =>
        let n := if m.pair.isSome then 2 else 1
        -- a planned move is given up until the next plan where a page has moved, or its frame is to be retired, since (R334, R354)
        let ok (n : Nat) : Bool := !(s.page n).released && (s.page n).pin == 0 && (s.page n).freeze == 0
        let good (f : FrameNo) : Bool := s.isGood f && !s.retiring.contains f
        let stands := ok m.page && match m.pair with
          | some v => (s.page v).at_ == m.dest && ok v && good m.dest && good (s.page m.page).at_ &&
            (rest.head?.any fun r => r.dest == (s.page m.page).at_)
          | none => s.freed.contains m.dest && s.isGood m.dest
        if s.fld tierEn = 0 then s
        else if !stands && m.page == page then { s with plan := rest.drop (n - 1) }
        else if m.page != page || (s.otherStarts < 1024 && s.todo.any s.canStart) || s.fld polBudget < s.policyStarts + n ||
            64 < s.moves.length + n || s.moving page || s.moving (m.pair.getD page) then s
        else
          let started := m :: (if n = 2 then rest.take 1 else [])
          let s := { s with plan := rest.drop (n - 1), moves := s.moves ++ started, policyStarts := s.policyStarts + n }
          (if n = 1 then s.takeFrame m.dest else s).bump (telTier 0) n)

/-- A sector is poisoned in memory: where its home holds it valid, the home's copy stands (R337). -/
def State.poisonMem (s : State) (sector : Nat) : State :=
  if bitOf (s.validAt (sector / 4)) (sector % 4) then
    (if s.under.contains sector then s else { s with under := sector :: s.under })
  else s.poisonSector sector

/-- A column of a subarray with rows of a frame is being rewritten: accesses wait (R353). -/
def State.rewriting (s : State) (f : FrameNo) : Bool :=
  f.fast && s.repairs.any fun r => r.1 == f.ch && r.2 % 2 ^ 10 == 2 * f.slot / 1024

/-- PAGE_MOVE_DONE: the map entry switches in one step, poison carried (R336, R337); the page's freeze count is set
(R334); its old frame is free or retired (R354); a late pin or release takes effect, and with the last of them an op of TIER_CMD ends
(R342, R359). -/
def execPageMoveDone (page : Nat) (badSectors : List Nat) (s : State) : Res :=
  unit (decide (page < s.pageCount)) (
    match s.moves.find? (·.page == page) with
    | none => s
    | some m =>
      let p := s.page page
      if s.rewriting p.at_ || s.rewriting m.dest then s
      else
      let bad := if m.whole then List.range 2048 else badSectors.filter fun i => decide (i < 2048)
      let s := bad.foldl (fun s i => s.poisonMem (2048 * page + i)) s
      let tag := s.privTag 1 page
      let key (f : FrameNo) : Nat := telCase tag (if f.fast then 0x20 else 0x28)
      let s := (s.bump (key p.at_) 65536).bump (key m.dest) 65536
      let s := { s with moves := s.moves.filter (·.page != page) }
      let s := s.setPage page { p with at_ := m.dest, freeze := s.fld tierFreeze, late := none }
      let s := s.vacate p.at_
      let s := match p.late with
        | some 3 => s.releasePage page
        | some x => s.setPin page x
        | none => s
      let s := s.needMove page
      let left := s.tierWaits.filter (· != page)
      if s.tierWaits.contains page && left.isEmpty then { s with tierWaits := [] }.tierEnd 0 else { s with tierWaits := left })

/-- MAP_REBUILD_DONE: the channel's share of its map copy stands in free frames of the copy's half; where the half has not as many, the
other copy alone keeps the map, and the event is raised (R322). -/
def execMapRebuildDone (channel : Nat) (s : State) : Res :=
  unit (decide (channel < 32)) (
    if !s.rebuilding.contains channel then s
    else
      let n := s.mapShare channel
      let s := { s with mapFrames := s.mapFrames.filter fun f => f.ch != channel }
      let s := (s.takeHalf channel n).getD (s.raiseVec 0 (s.fld rasRelVec))
      { s with rebuilding := s.rebuilding.filter (· != channel) })

/-! ### Accounts of quotas (R343) -/

/-- Fast-tier pages among a page range: by the layout, and as far as pages have moved since. -/
def State.fastIn (s : State) (first n : Nat) : Nat :=
  let g := if s.bad.clean then 12582912 else s.bad.goodFast
  let base := min (first + n) g - min first g
  let here := s.pages.filter fun x => decide (first ≤ x.1) && decide (x.1 < first + n)
  let gained := (here.filter fun x => x.2.at_.fast && !x.2.released && g ≤ x.1).length
  let lost := (here.filter fun x => (!x.2.at_.fast || x.2.released) && x.1 < g).length
  base + gained - lost

/-- TIER_QUOTA[p].used: the fast-tier pages that a partition owns. -/
def State.quotaUsed (s : State) (p : Nat) : Nat := (s.part p).grant.foldl (fun n g => n + s.fastIn g.1 g.2) 0

/-! ### HEAT_UPDATE and MOVE_PLAN (R330 to R333) -/

def State.heatUpdate (s : State) : State :=
  { s with pages := tabMap (basePage s.bad) (fun _ p =>
      { p with heat := min 65535 (p.heat / 2 + p.count), count := 0, freeze := p.freeze - 1 }) s.pages }

/-- R331, less TIER_CFG.en. -/
def State.movable (s : State) (n : Nat) : Bool :=
  let p := s.page n
  p.pin == 0 && p.freeze == 0 && !p.released && !s.moving n

/-- Pages by descending heat, then ascending number. -/
def hotInsert (s : State) (n : Nat) : List Nat → List Nat
  | [] => [n]
  | m :: ms =>
    let h := (s.page n).heat
    let k := (s.page m).heat
    if k < h || (h == k && decide (n < m)) then n :: m :: ms else m :: hotInsert s n ms

/-- The candidates of an epoch, in planning order. -/
def State.candidates (s : State) : List Nat :=
  let lim := s.fld polPromote
  let all := if lim = 0 then List.range s.pageCount else s.pages.map (·.1)
  (all.filter fun n => s.movable n && !(s.page n).at_.fast && decide (lim ≤ (s.page n).heat)).foldl
    (fun l n => hotInsert s n l) []

/-- A planning in progress: the moves so far, the pages they take, and the state with the frames taken. -/
structure Plan where
  s : State
  moves : List Move := []
  left : Nat := 0
  stopped : Bool := false

/-- Fast-tier pages of a partition, with the planned moves. -/
def Plan.used (q : Plan) (p : Nat) : Nat :=
  let delta (into : Bool) := (q.moves.filter fun m => q.s.ownerOf m.page == some p && m.dest.fast == into).length
  q.s.quotaUsed p + delta true - delta false

/-- The coldest victim of a class of owners: of the pages with an account, and of the rest the first (heat 0). -/
def Plan.coldest (q : Plan) (cls : Option Nat → Bool) : Option Nat :=
  let ok (n : Nat) : Bool := q.s.movable n && (q.s.page n).at_.fast && !(q.moves.any (·.page == n)) && cls (q.s.ownerOf n)
  let listed := (q.s.pages.map (·.1)).filter ok
  let other := tabFind (fun n => ok n && !(q.s.pages.any (·.1 == n))) 0 q.s.pageCount
  (listed ++ other.toList).foldl (fun (b : Option Nat) n => match b with
    | none => some n
    | some m =>
      let h := (q.s.page n).heat
      let k := (q.s.page m).heat
      if h < k || (h == k && decide (n < m)) then some n else some m) none

/-- The victim of a candidate (R333). -/
def Plan.victim (q : Plan) (n : Nat) : Option Nat :=
  let s := q.s
  let own := s.ownerOf n
  let full := match own with
    | some p => decide (s.fld (quotaOf p) ≤ q.used p)
    | none => false
  let fit (v : Option Nat) : Option Nat := v.filter fun m => decide ((s.page m).heat + s.fld polMargin ≤ (s.page n).heat)
  let none_ := fit (q.coldest (·.isNone))
  let mine := fit (q.coldest fun o => o.isSome && o == own)
  if full then none_.orElse fun _ => mine
  else (none_.orElse fun _ => fit (q.coldest fun o => match o with
    | some p => decide (s.fld (quotaOf p) < q.used p)
    | none => false)).orElse fun _ => mine

/-- One candidate (R332). The free frame that a candidate takes is found as one for a pin is (R328; DESIGN CHOICE, log 81: no rule names
it). -/
def Plan.step (q : Plan) (n : Nat) : Plan :=
  if q.stopped then { q with left := q.left + 1 }
  else
    let s := q.s
    let room (k : Nat) : Bool := decide (q.moves.length + k ≤ s.fld polBudget)
    let stop : Plan := { q with stopped := true, left := q.left + 1 }
    let below := match s.ownerOf n with
      | some p => decide (q.used p < s.fld (quotaOf p))
      | none => true
    match (if below then s.findFree true n else none) with
    | some f => if room 1 then { q with s := s.takeFrame f, moves := q.moves ++ [{ page := n, dest := f }] } else stop
    | none => match q.victim n with
      | some v =>
        if room 2 then { q with moves := q.moves ++
          [{ page := n, dest := (s.page v).at_, pair := some v }, { page := v, dest := (s.page n).at_, pair := some n }] }
        else stop
      | none => q

/-- MOVE_PLAN: the epoch's moves, with the counts of pages passed over (Table 15.8). -/
def State.movePlan (s : State) : State :=
  if s.fld tierEn = 0 then { s with plan := [] }
  else
    let lim := s.fld polPromote
    let frozen := (s.pages.filter fun x =>
      !x.2.at_.fast && x.2.pin == 0 && !x.2.released && x.2.freeze != 0 && decide (lim ≤ x.2.heat)).length
    let q := s.candidates.foldl Plan.step { s := s }
    (({ s with plan := q.moves }).bump (telTier 0x10) frozen).bump (telTier 0x18) q.left

/-! ### Temperature (R345 to R347) -/

def tempNone : Nat → StackTemp := fun _ => {}

/-- Table 7.3. -/
def refrOf (t : Int) : Nat := if t ≤ 85 then 0 else if t ≤ 95 then 1 else if t < 100 then 2 else 3
/-- The rate that samples no hotter than `t` leave in force on a fall: 3 degrees below each threshold left. -/
def refrFall (t : Int) : Nat := if t ≤ 82 then 0 else if t ≤ 92 then 1 else if t < 97 then 2 else 3

/-- A valid reading taken into account: a rise at once, a fall after ten samples. -/
def StackTemp.take (x : StackTemp) (t : Int) : StackTemp :=
  let last := (t :: x.last).take 10
  let up := refrOf t
  let down := if last.length < 10 then x.refr else refrFall (last.foldl max t)
  { x with last := last, refr := if x.refr < up then up else min x.refr (max up down) }

/-- A reading of a stack: an invalid one counts as 99 degrees and stays in force until three valid ones (R346). -/
def StackTemp.sample (x : StackTemp) (t : Int) : StackTemp × Bool :=
  if t < -40 ∨ 150 < t then ({ x.take 99 with invalid := true, valid := 0 }, !x.invalid)
  else if x.invalid then
    if x.valid < 2 then ({ x.take 99 with valid := x.valid + 1 }, false)
    else ({ x with invalid := false, valid := 0 }.take t, false)
  else (x.take t, false)

/-- The reliability event of a sensor (Table 14.9). -/
def State.sensorEvent (s : State) (unit : Nat) : State := s.ras 0x13 0 0xFF unit

/-- The refresh rate of the channels of a stack or device: that of its temperature (R345, R347). -/
def State.setRefr (s : State) (fast : Bool) (u r : Nat) : State :=
  (List.range (tierCh fast / 16)).foldl (fun s i =>
    let c := s.chan fast (16 * i + u)
    if c.refr = r then s else s.setChan fast (16 * i + u) { c with refr := r }) s

/-- A stack's temperature taken into account, with what it sets. -/
def State.takeTemp (s : State) (stack : Nat) (t : Int) : State :=
  match (tabGet tempNone s.stackTemps stack).sample t with
  | (x, ev) =>
    let s := { s with stackTemps := tabSet tempNone s.stackTemps stack x }.setRefr true stack x.refr
    if ev then s.sensorEvent stack else s

/-- A capacity device's temperature taken into account, with what it sets. -/
def State.setCapTemp (s : State) (device : Nat) (x : StackTemp) : State :=
  { s with capTemps := tabSet tempNone s.capTemps device x }.setRefr false device x.refr

/-- STACK_TEMP_SAMPLE. -/
def execStackTempSample (stack : Nat) (temp : Int) (s : State) : Res :=
  unit (decide (stack < 16)) (s.takeTemp stack temp)

/-- TEMP_READING_TIMEOUT: no reading for 1 ms counts as an invalid one, of a stack or of a capacity device. -/
def execTempReadingTimeout (fast : Bool) (u : Nat) (s : State) : Res :=
  unit (decide (u < 16)) (
    if fast then s.takeTemp u 200
    else
      let x := tabGet tempNone s.capTemps u
      let s := s.setCapTemp u { x with refr := 2, invalid := true, valid := 0 }
      if x.invalid then s else s.sensorEvent u)

/-- CAP_TEMP_REPORT: a capacity device refreshes at the rate it reports, throttled from 100 degrees on (R347). -/
def execCapTempReport (device : Nat) (refr : BitVec 2) (temp : Int) (s : State) : Res :=
  unit (decide (device < 16)) (
    let x := tabGet tempNone s.capTemps device
    let set (y : StackTemp) : State := s.setCapTemp device y
    let told := if 100 ≤ temp then 3 else min 2 refr.toNat
    if temp < -40 ∨ 150 < temp then
      let s := set { x with refr := 2, invalid := true, valid := 0 }
      if x.invalid then s else s.sensorEvent device
    else if x.invalid && x.valid < 2 then set { x with refr := 2, valid := x.valid + 1 }
    else set { x with refr := told, invalid := false, valid := 0 })

/-! ### Scrub (R348 to R353) and map-out (R355, R356) -/

def scrubEn : Field := fieldAt 0x00400030 16 16

def scrubHours (fast : Bool) : Field := if fast then fieldAt 0x00400030 7 0 else fieldAt 0x00400030 15 8

def State.scrub (s : State) (fast : Bool) : Scrub := if fast then s.scrubFast else s.scrubCap
def State.setScrub (s : State) (fast : Bool) (x : Scrub) : State :=
  if fast then { s with scrubFast := x } else { s with scrubCap := x }

/-- The frame that a pass reads next: the next good one (R348). -/
def State.scrubNext (s : State) (fast : Bool) : Option Nat :=
  let pos := (s.scrub fast).pos
  tabFind (fun n => s.isGood ⟨fast, n⟩) pos (tierCh fast * tierSlots fast - pos)

/-- When a pass reaches a frame: its reads are spread evenly over it. An hour is 3.6 * 10^15 ps. -/
def State.scrubTime (s : State) (fast : Bool) (frame : Nat) : Nat :=
  (s.scrub fast).start + s.fld (scrubHours fast) * 3600000000000000 * frame / (tierCh fast * tierSlots fast)

/-- The line that stands at a sector of a frame. -/
def State.lineIn (s : State) (f : FrameNo) (sector : Nat) : Option Nat :=
  match s.moves.find? fun m => m.dest == f && decide (sector / 4 < m.cursor) with
  | some m => some (m.page * 512 + sector / 4)
  | none => match s.pageAt f with
    | some p => if s.frameOf (p * 512 + sector / 4) == f then some (p * 512 + sector / 4) else none
    | none => none

/-- An uncorrectable error that the scrubber found in a sector of a line: the home, asked under master 5's tag, writes the sector back
where it holds it valid; else it is marked poisoned (R350, R387). With whether it was recovered. -/
def State.scrubQuery (s : State) (line i : Nat) : State × Bool :=
  let tag := s.privTag 5 (line / 512)
  match s.frame line with
  | some x =>
    if bitOf x.valid i then
      let s := { s with under := s.under.filter (· != 4 * line + i) }.meet line (2 ^ i) x.part
      let s := match s.frame line with
        | some x => s.setFrame line (some { x with dirty := x.dirty - (if bitOf x.dirty i then 2 ^ i else 0) })
        | none => s
      ((s.chanBytes { part := (s.ownerOf (line / 512)).getD 255, tag := tag } line 32).bump (telTier 0x20), true)
    else (s.poisonSector (4 * line + i), false)
  | none => (s.poisonSector (4 * line + i), false)

/-- One error that the scrubber found in a frame. -/
def State.scrubErr (s : State) (f : FrameNo) (e : MemErr) : State :=
  if 2048 ≤ e.sector then s
  else if e.correctable then (s.rasCount 0x0B).classify f e.sector true false e.bit
  else match s.lineIn f e.sector with
    | none => s.classify f e.sector false false e.bit
    | some line => match s.scrubQuery line (e.sector % 4) with
      | (s, ok) => s.classify f e.sector false ok e.bit

/-- SCRUB_READ: the next good frame of the pass is read; corrected errors are written back, uncorrectable ones recovered from the home
(SCRUB_HOME_QUERY) or marked poisoned, and each enters the classifier (R348, R350, R351). The Tier Manager pauses for a rotation (R265). -/
def execScrubRead (fast : Bool) (frame : Nat) (errs : List MemErr) (s : State) : Res :=
  unit (decide (frame < tierCh fast * tierSlots fast)) (
    let f : FrameNo := ⟨fast, frame⟩
    if s.fld scrubEn = 0 || s.scrubNext fast != some frame || s.rewriting f || s.rotating then s
    else
      let s := (s.reach (s.scrubTime fast frame)).setScrub fast { s.scrub fast with pos := frame + 1 }
      errs.foldl (fun s e => s.scrubErr f e) s)

/-- SCRUB_PASS_END: every good frame of the tier has been read, and the pass's hours are over (R348). The classifier of the tier is
cleared; its cells are remembered for the next pass (R351, Table 7.4). -/
def execScrubPassEnd (fast : Bool) (s : State) : Res :=
  if s.fld scrubEn = 0 || (s.scrubNext fast).isSome then .next s
  else
    let s := s.reach (s.scrubTime fast (tierCh fast * tierSlots fast))
    let mine := s.cells.filter (·.fast == fast)
    .next (({ s with
      cells := s.cells.filter (·.fast != fast)
      lastCells := s.lastCells.filter (·.1.fast != fast) ++ (mine.filter fun k => decide (k.rows.length < 4)).flatMap fun k =>
        k.rows.map fun r => (k, r)
      badRows := s.badRows.filter (·.1 != fast) } : State).setScrub fast { start := s.now })

/-- COLUMN_REPAIR_DONE: the rewrite of a channel's oldest column repair ends (R353). -/
def execColumnRepairDone (channel : Nat) (s : State) : Res :=
  unit (decide (channel < 512)) (match s.repairs.find? (·.1 == channel) with
    | some r => { s with repairs := s.repairs.erase r }
    | none => s)

/-- CHANNEL_NO_ANSWER: a channel that answers no access for 1 ms is mapped out (R355). -/
def execChannelNoAnswer (fast : Bool) (channel : Nat) (s : State) : Res :=
  unit (decide (channel < tierCh fast)) (
    let s := s.drain fast channel true
    { s with
      todo := s.todo.map fun m => if (s.page m.page).at_.fast == fast && (s.page m.page).at_.ch == channel then { m with whole := true } else m })

/-- CHANNEL_MAPPED_OUT: a draining channel holds no page any more, and none moves into it (R356). -/
def execChannelMappedOut (fast : Bool) (channel : Nat) (s : State) : Res :=
  unit (decide (channel < tierCh fast)) (
    let c := s.chan fast channel
    let empty := (List.range (tierSlots fast)).all fun i =>
      (s.pageAt ⟨fast, i * tierCh fast + channel⟩).isNone && !s.comesTo ⟨fast, i * tierCh fast + channel⟩
    if c.st == 1 && !s.rebuilding.contains channel && empty then
      (s.setChan fast channel { c with st := 2 }).ras 0x0E 2 0xFF channel
    else s)

end Sys2Proof.Machine
end

