-- ==== Sys2Proof/Machine/Parser.lean ====
section
/-! DEFINITION. Negotiation, queues, doorbells, and what the Parser does with the descriptor at the front of a queue
before its opcode acts (spec/10 R454 to R474, R483 to R487, R496 to R505; spec/15 R640, R641, R648). -/

namespace Sys2Proof.Machine

/-! ### Functions and their registers (R10, R640, R641, R648) -/

def fnKey (fn off : Nat) : Nat := off + fn * 2 ^ 32
def fnField (fn off hi lo : Nat) : Field := (fieldAt off hi lo).of fn

/-- The bytes of `n` staged 64-bit words. -/
def State.staged (s : State) (fn off n : Nat) : List Byte :=
  (List.range n).flatMap fun i => leBytes 8 (s.word (fnKey fn (off + 8 * i))).toNat

/-- A virtual function whose partition is assigned to it presents state (R648). -/
def State.vfLive (s : State) (fn : Nat) : Bool := fn == 0 || (s.part (fn - 1)).vf

/-- Whether a function's driver owns a partition's objects (R10, R641). -/
def State.owns (s : State) (fn p : Nat) : Bool := if fn = 0 then !(s.part p).vf else fn - 1 == p && (s.part p).vf

def fnOk (fn : Nat) : Bool := decide (fn < 49)

/-- The driver's command through a function: a function without state ignores it, and it is counted (R648). -/
def viaFn (fn : Nat) (s : State) (f : State → State) : Res :=
  unit (fnOk fn) (if !s.ready then s else if s.vfLive fn then f s else s.rejectInput)

/-! ### Negotiation (R454, R512, Tables 10.2 to 10.4, 11.5) -/

def negSel (fn hi lo : Nat) : Field := fnField fn 0x00010008 hi lo
def negCommit (fn : Nat) : Field := fnField fn 0x00010010 0 0
def negCommitted (fn : Nat) : Field := fnField fn 0x00010010 1 1
def negStatus (fn : Nat) : Field := fnField fn 0x00010010 7 4

/-- R512. -/
def Htfd.valid? (h : Htfd) : Bool :=
  let a := h.accessed.isSome
  let d := h.declared
  h.valid.isSome && h.write.isSome && h.ps.isSome && a == h.dirty.isSome && (!h.adSet || a) &&
    (h.levels == 4 || h.levels == 5) && decide (39 ≤ h.addrHi) && decide (h.addrHi ≤ 51) && d.eraseDups.length == d.length &&
    d.all (fun b => decide (b < 12) || decide (h.addrHi < b)) &&
    (h.devGib == 0 || (h.devBase % 2 ^ 30 == 0 && decide (h.devBase + h.devGib * 2 ^ 30 ≤ 2 ^ 64)))

/-- The status that a commit gives (Table 10.4). -/
def State.negCheck (s : State) (fn : Nat) : Nat :=
  let f (hi lo : Nat) := s.fld (negSel fn hi lo)
  let offered (mask v : Nat) : Bool := bitOf mask v && decide (v < 8)
  if !offered 0x04 (f 3 0) then 1
  else if f 15 8 = 0 || Nat.land (f 15 8) 0x06 != f 15 8 then 2
  else if !(offered 0x04 (f 19 16) && offered 0x04 (f 23 20) && offered 0x04 (f 27 24)) then 3
  else if !(s.htfd fn).valid? then 4 else 0

def State.committed (s : State) (fn : Nat) : Bool := s.fld (negCommitted fn) == 1

/-! ### QUE_CMD (R457 to R459, Tables 10.5 to 10.7) -/

def queCmd (fn hi lo : Nat) : Field := fnField fn 0x00200080 hi lo

/-- A command register's op, object and status, with go back at 0. -/
def State.cmdDone (s : State) (f : Nat → Nat → Field) (op st : Nat) : State :=
  ((s.setFld (f 2 0) op).setFld (f 27 24) st).setFld (f 31 31) 0

/-- The queue a function names: its number, if it lies in the function's range. -/
def queueOf (fn q : Nat) : Option Nat :=
  if fn = 0 then (if q < 12288 then some q else none) else (if q < 256 then some ((fn - 1) * 256 + q) else none)

/-- R18, and the fields of Table 10.5 other than the version. -/
def queDescOk (s : State) (p : Nat) (d : List Byte) : Bool :=
  let c := rawLe d 2 2
  let n (o : Nat) := rawLe d o 1
  decide (n 1 < 15) && decide (c < 4096) && (s.ctx c).st == .live && (s.ctx c).part == p && decide (rawLe d 4 2 < 2048) &&
    decide (6 ≤ n 6) && decide (n 6 ≤ 16) && decide (6 ≤ n 7) && decide (n 7 ≤ 16) && rawLe d 8 8 % 4096 == 0 &&
    rawLe d 16 8 % 4096 == 0 && rawLe d 24 8 % 8 == 0 && decide (n 0x24 < 2) && allZero d 0x25 91

/-- The queue that a descriptor describes. -/
def queOf (fn p : Nat) (d : List Byte) : Queue :=
  { st := .running, fn := fn, part := p, ctx := rawLe d 2 2, tag := rawLe d 1 1, vector := rawLe d 4 2, sqLog2 := rawLe d 6 1
    cqLog2 := rawLe d 7 1, sqBase := BitVec.ofNat 64 (rawLe d 8 8), cqBase := BitVec.ofNat 64 (rawLe d 16 8)
    headWb := BitVec.ofNat 64 (rawLe d 24 8), tmoUs := min 60000000 (max 1000 (rawLe d 32 4)), errEvent := rawLe d 36 1 == 1 }

/-- A QUE_CMD op: `f` gives its status and effect once the queue number, the owner and the negotiation hold. -/
def queOp (op : Nat) (fn : Nat) (queue : BitVec 14) (s : State) (f : Nat → Nat → State → State × Nat) : Res :=
  viaFn fn s fun s =>
    let s := s.setFld (queCmd fn 21 8) queue.toNat
    match queueOf fn queue.toNat with
    | none => s.cmdDone (queCmd fn) op 1
    | some q =>
      let p := q / 256
      if !s.owns fn p then s.cmdDone (queCmd fn) op 4
      else if !s.committed fn then s.cmdDone (queCmd fn) op 5
      else match f q p s with
        | (s, st) => s.cmdDone (queCmd fn) op st

/-- QUE_CREATE. -/
def execQueCreate (fn : Nat) (queue : BitVec 14) (s : State) : Res :=
  queOp 1 fn queue s fun q p s =>
    let d := s.staged fn 0x00200000 16
    if (s.part p).st != .ready || (s.queue q).st != .empty then (s, 3)
    else if rawLe d 0 1 != s.fld (negSel fn 19 16) then (s, 2)
    else if !queDescOk s p d then (s, 1)
    else (s.setQueue q (queOf fn p d), 0)

/-- QUE_START. -/
def execQueStart (fn : Nat) (queue : BitVec 14) (s : State) : Res :=
  queOp 2 fn queue s fun q _ s =>
    if (s.queue q).st == .stopped then (s.setQueue q { s.queue q with st := .running }, 0) else (s, 3)

/-- QUE_STOP. -/
def execQueStop (fn : Nat) (queue : BitVec 14) (s : State) : Res :=
  queOp 3 fn queue s fun q _ s =>
    if (s.queue q).st == .running then (s.setQueue q { s.queue q with st := .stopped }, 0) else (s, 3)

/-- QUE_DESTROY. -/
def execQueDestroy (fn : Nat) (queue : BitVec 14) (s : State) : Res :=
  queOp 4 fn queue s fun n _ s =>
    let q := s.queue n
    if q.st != .stopped && q.st != .lost then (s, 3)
    else if !q.cmds.isEmpty || !q.records.isEmpty then (s, 6)
    else (s.setQueue n {}, 0)

/-! ### The front of a queue (R463, R471, R484) -/

def isControl (op : Nat) : Bool := [0x06, 0x07, 0x08, 0x09, 0x0A].contains op

/-- An opcode, with its operation, that no row of the table carries. -/
def noRow (raw : List Byte) : Bool :=
  let op := descOp raw
  !((decide (1 ≤ op) && decide (op ≤ 0x11)) || op == 0x3F) || (op == 0x02 && decide (4 < rawLe raw 0x10 1)) ||
    (op == 0x0C && decide (1 < rawLe raw 0x2B 1)) || (op == 0x0E && decide (5 < rawLe raw 0x10 1))

/-- The version of a descriptor was agreed at attach (R19, R455). -/
def State.agreed (s : State) (q : Queue) (raw : List Byte) : Bool :=
  let v := rawLe raw 1 1 % 16
  decide (v < 8) && bitOf (s.fld (negSel q.fn 15 8)) v

/-- What a descriptor ends with that no row carries: its version counts first (R19, log 39). -/
def State.noRowStatus (s : State) (q : Queue) (raw : List Byte) : Nat := if s.agreed q raw then 0x0B else 0x0C

/-- The engine code of an opcode (Table 10.21). -/
def engineOf (raw : List Byte) : Nat :=
  match descOp raw with
  | 0x01 => 1
  | 0x02 => if rawLe raw 0x10 1 = 4 then 7 else 2
  | 0x0C | 0x0D => 3
  | 0x0E => if rawLe raw 0x10 1 = 5 then 5 else 4
  | 0x0F => 6
  | _ => 0

/-- The descriptor the Parser acts on next. -/
def Queue.front (q : Queue) : Option Desc := match q.calls with
  | c :: _ => if c.skip = 0 && c.out = 0 then c.ahead.head? else none
  | [] => if q.skip = 0 then q.ahead.head? else none

def Queue.pop (q : Queue) : Queue := match q.calls with
  | c :: cs => { q with calls := { c with
      ahead := c.ahead.drop 1, marks := (c.ahead.head?).elim c.marks fun d => c.marks.filter (· != d.idx) } :: cs }
  | [] => { q with ahead := q.ahead.drop 1 }

/-- A queue whose Parser can act: nothing blocks it, and no record of it waits (R464, R471, R474). -/
def State.canAct (s : State) (qn : Nat) : Bool :=
  let q := s.queue qn
  q.records.isEmpty && !(q.cmds.any (·.blocking)) && (s.part q.part).st == .ready && !s.rotating && s.ready

/-- The descriptor at the front ends with a status, without having been in flight; jobs are counted (R511). -/
def State.endFront (s : State) (qn : Nat) (d : Desc) (status : Nat) (event : Bool := false) : State :=
  let q := s.queue qn
  let ctl := isControl (descOp d.bytes)
  let r := s.recOf q d.bytes (engineOf d.bytes) status 0 event
  let q' := { q.pop.readOver with abort := q.abort.note (descSeq d.bytes) status d.marked }
  -- a control command that fails abandons calls and loops (R486)
  let q' := if ctl && descOp d.bytes != 0x06 then { q' with calls := [] } else q'
  let s := (s.setQueue qn q').addRec qn r
  if ctl then s else (s.jobLaunched q.ctx).jobDone q.ctx

/-- The end of a called buffer, or RETURN: with a loop still open it fails (R485), else it resumes after the CALL. -/
def State.endCall (s : State) (qn : Nat) : State :=
  let q := s.queue qn
  match q.calls with
  | [] => s
  | c :: cs => match c.loops with
    | [] => s.setQueue qn { q with calls := cs }
    | l :: _ =>
      let r : Rec := { seq := l.seq, cookie := l.cookie, status := 0x0B, engine := 0, bitmap := 0, time := s.timeNs, event := q.errEvent }
      (s.setQueue qn { q with calls := [] }).addRec qn r

/-- One thing the Parser does by itself at the front: skipped descriptors go, a buffer ends, a marked, lost or
unknown descriptor completes. None where nothing is to be done. -/
def State.tidyStep (s : State) (qn : Nat) : Option State :=
  let q := s.queue qn
  if q.st != .running && q.st != .lost then none
  else match q.calls with
  | c :: cs =>
    let set (c : Call) : State := s.setQueue qn { q with calls := c :: cs }
    match c.ahead with
    | d :: ds =>
      if 0 < c.skip then some (set { c with ahead := ds, skip := c.skip - 1 })
      else if 0 < c.out then
        let op := descOp d.bytes
        let n := if op = 7 then c.out + 1 else if op = 8 then c.out - 1 else c.out
        -- the ENDLOOP of a LOOP with a count of 0 closes it (R485)
        some (set { c with ahead := ds, out := n, loops := if n = 0 then c.loops.drop 1 else c.loops })
      else if !s.canAct qn then none
      else if d.marked then some (s.endFront qn d 2)
      else if noRow d.bytes then some (s.endFront qn d (s.noRowStatus q d.bytes))
      else none
    | [] =>
      if c.next < c.count then none
      else if !s.canAct qn then none
      else some (s.endCall qn)
  | [] => match q.ahead with
    | d :: ds =>
      if 0 < q.skip then some (s.setQueue qn { q with ahead := ds, skip := q.skip - 1 })
      else if !s.canAct qn then none
      else if d.marked && q.abort.all && isControl (descOp d.bytes) then some (s.setQueue qn { q with ahead := ds })
      else if d.marked then some (s.endFront qn d 2)
      else if q.st == .lost then some (s.endFront qn d 8)
      else if noRow d.bytes then some (s.endFront qn d (s.noRowStatus q d.bytes))
      else none
    | [] => none

/-- A descriptor that an abort by sequence number has marked is still to come: read ahead, in a buffer, or in the ring (R502). -/
def Queue.markLeft (q : Queue) : Bool :=
  q.ahead.any (·.marked) || (q.calls.any fun c => c.ahead.any (·.marked) || !c.marks.isEmpty) || (match q.abort.upTo with
    | some n => decide ((n - q.sqHead).toNat < 2 ^ 31)
    | none => false)

/-- An ABORT.all is over when every descriptor up to the tail of its write has completed (R504). An abort by sequence number whose
descriptor was discarded before it was reached matches no command any more (R505; DESIGN CHOICE, log 14). -/
def State.abortSettle (s : State) (qn : Nat) : State :=
  let q := s.queue qn
  if q.abort.result != 1 then s
  else match q.abort.all, q.abort.upTo with
  | true, some n =>
    if (q.sqHead - n).toNat < 2 ^ 31 && !(q.ahead.any (·.marked)) then
      s.setQueue qn { q with abort := { q.abort with result := 2, upTo := none } }
    else s
  | true, none => s
  | false, _ => if q.markLeft then s else s.setQueue qn { q with abort := { q.abort with result := 4, upTo := none } }

/-- The front made ready, with the records it brings written as far as they can be. -/
def State.tidy (s : State) (qn : Nat) : Nat → State
  | 0 => s
  | fuel + 1 => match s.tidyStep qn with
    | some s => (s.flush.abortSettle qn).tidy qn fuel
    | none => s

def tidyFuel (q : Queue) : Nat := 40 + (q.calls.foldl (fun n c => n + c.ahead.length + 1) 0) + q.ahead.length

def State.settleFront (s : State) (qn : Nat) : State := (s.tidy qn (tidyFuel (s.queue qn))).abortSettle qn

/-! ### DESCRIPTOR_FETCH (R463, R500) -/

/-- Whether a descriptor of a ring count is aborted by a pending ABORT. -/
def Abort.marks (a : Abort) (count : W32) : Bool := a.result == 1 && match a.upTo with
  | some n => if a.all then decide (2 ^ 31 ≤ (count - n).toNat) else n == count
  | none => false

/-- A descriptor that cannot be read: its record has its count as seq and a cookie of 0, and the context is lost. -/
def State.unreadable (s : State) (qn count cause status : Nat) (va : W64) : State :=
  let q := s.queue qn
  let lost := q.st == .lost
  let r : Rec := { seq := BitVec.ofNat 32 count, cookie := 0, status := if lost then 8 else status, engine := 0, bitmap := 0
                   time := s.timeNs, event := q.errEvent }
  let s := (s.setQueue qn { q with fetchBad := q.fetchBad.filter (· != va.toNat / 4096) }).addRec qn r
  if lost then s else s.loseCtx q.ctx cause status qn r.seq va

/-- Where the next descriptor stands: its address and its count or index; none where there is none to read. -/
def Queue.nextDesc (q : Queue) : Option (W64 × Nat × Bool) := match q.calls with
  | c :: _ =>
    if c.next < c.count && c.ahead.length < 16 then some (c.base + BitVec.ofNat 64 (64 * c.next), c.next, true) else none
  | [] =>
    if q.sqHead != q.sqTail && q.ahead.length < 16 then
      some (q.sqBase + BitVec.ofNat 64 (64 * (q.sqHead.toNat % 2 ^ q.sqLog2)), q.sqHead.toNat, false) else none

/-- The descriptor read: it stands behind those read before, and the head or the index advances. -/
def Queue.took (q : Queue) (bytes : List Byte) (n : Nat) : Queue := match q.calls with
  | c :: cs => { q with calls := { c with next := c.next + 1, ahead := c.ahead ++ [{ bytes := bytes, idx := n, marked := c.marks.contains n }] } :: cs }
  | [] => { q with
      sqHead := q.sqHead + 1
      ahead := q.ahead ++ [{ bytes := bytes, idx := n, marked := q.abort.marks (BitVec.ofNat 32 n) }] }

/-- Descriptors are read ahead; `fuel` bounds them. -/
def State.readAhead (s : State) (qn : Nat) : Nat → State
  | 0 => s
  | fuel + 1 =>
    let q := s.queue qn
    match q.nextDesc with
    | none => s
    | some (va, n, inCall) =>
      let none_ := match q.calls with
        | c :: _ => c.ahead.isEmpty
        | [] => q.ahead.isEmpty
      let skipIt (s : State) : State := if inCall then s else s.setQueue qn { s.queue qn with sqHead := q.sqHead + 1 }
      if q.fetchBad.contains (va.toNat / 4096) then (if none_ then skipIt (s.unreadable qn n 0x13 6 va) else s)
      else match s.places (s.whoQ qn) q.ctx .read va 64 with
      | (s, .inr .wait) => s
      | (s, .inl ls) =>
        match s.gateAll (s.whoQ qn) ls [] with
        | (s, false) => s
        | (s, true) =>
          let (bs, bad) := s.fetchAll ls
          if bad then (if none_ then skipIt (s.unreadable qn n 0x12 7 va) else s)
          else (s.setQueue qn (q.took bs n)).readAhead qn fuel
      | (s, .inr (.page w)) =>
        s.pageNeed q.ctx (w.toNat / 4096) false false fun r =>
          if r.fetches.contains qn then r else { r with fetches := r.fetches ++ [qn] }
      | (s, .inr (.rights w)) => if none_ then skipIt (s.unreadable qn n 0x11 6 w) else s
      | (s, .inr (.poison w)) => if none_ then skipIt (s.unreadable qn n 0x12 7 w) else s

/-- DESCRIPTOR_FETCH. -/
def execDescriptorFetch (qn : Nat) (s : State) : Res :=
  unit (decide (qn < 12288)) (
    let s := s.settleFront qn
    let q := s.queue qn
    if (q.st != .running && q.st != .lost) || (s.part q.part).st != .ready || s.rotating || !s.ready || q.cmds.any (·.blocking) ||
        (s.tdi q.part).st == 3 then s
    else
      let h := q.sqHead
      let s := s.readAhead qn 16
      let s := if (s.queue qn).sqHead != h then s.writeHead qn else s
      (s.flush.settleFront qn).flush)

/-! ### The common checks of a descriptor (R18, R19, R455, R467 to R469, R472, R473) -/

/-- What the checks of a descriptor find: a failing status, or none. -/
def State.descCheck (s : State) (q : Queue) (raw : List Byte) (ok : Bool) : Option Nat :=
  let v := rawLe raw 1 1 % 16
  let op := descOp raw
  let kind := rawLe raw 0x10 1
  if !s.agreed q raw then some 0x0C
  else if v == 1 && (op == 0x0F || op == 0x11 || (op == 0x02 && (kind == 3 || kind == 4)) || (op == 0x0E && kind == 5)) then some 0x0B
  else if descFlag raw 3 || rawLe raw 2 2 != 0 then some 0x0B
  else if isControl op && (descFlag raw 0 || descFlag raw 2) then some 0x0B
  else if op == 0x05 && descFlag raw 0 then some 0x0B
  else if !ok then some 0x0B
  else none

/-- The Parser has a command of a queue to serve: nothing blocks the queue, and what its descriptor needs has been read. -/
def State.servable (s : State) (qn : Nat) : Bool :=
  let q := s.queue qn
  match q.front with
  | none => false
  | some d =>
    q.st == .running && s.canAct qn && q.readPage.isNone && !(descFlag d.bytes 1 && !q.cmds.isEmpty) &&
      !(decide (64 ≤ q.cmds.length) && !isControl (descOp d.bytes)) &&
      !(descOp d.bytes == 0x11 && s.preempting q.part)

/-- How far a queue stands behind the one served last, going round in ascending order. -/
def roundPos (last qn : Nat) : Nat := (qn + 12288 - (last + 1) % 12288) % 12288

/-- A queue's turn: no other queue of its partition that can be served stands before it in the round (R471). -/
def State.queueTurn (s : State) (qn : Nat) : Bool :=
  let p := (s.queue qn).part
  let last := (s.part p).servedQ
  s.queues.all fun x => x.2.part != p || roundPos last qn ≤ roundPos last x.1 || !s.servable x.1

/-- The Parser has served a command of the queue: the round goes on from it. -/
def State.served (s : State) (qn : Nat) : State :=
  let p := (s.queue qn).part
  s.setPart p { s.part p with servedQ := qn }

/-- The Parser acts on the descriptor at the front of a queue, in the queue's turn, when it carries this opcode and meets `is`; `ok` are the
checks of its own operands. A descriptor with dep waits for every earlier command (R473); the 65th waits (R472). -/
def onFront (op : Nat) (is ok : List Byte → Bool) (qn : Nat) (s : State) (f : Desc → State → State) : Res :=
  unit (decide (qn < 12288)) (
    let s := s.settleFront qn
    let q := s.queue qn
    match q.front with
    | none => s
    | some d =>
      if q.st != .running || !s.canAct qn || descOp d.bytes != op || !is d.bytes then s
      else if descFlag d.bytes 1 && !q.cmds.isEmpty then s
      else if 64 ≤ q.cmds.length && !isControl op then s
      else if !s.queueTurn qn then s
      else
        let s := match s.descCheck q d.bytes (ok d.bytes) with
          | some st => s.endFront qn d st
          | none => f d s
        ((s.served qn).flush.settleFront qn).flush)

/-- The descriptor at the front is dispatched as a command in flight. -/
def State.dispatch (s : State) (qn : Nat) (d : Desc) (work : Work) (blocking : Bool) (f : Cmd → Cmd := id) : State :=
  let q := s.queue qn
  let c : Cmd := f { id := s.fresh, raw := d.bytes, engine := engineOf d.bytes, work := work, blocking := blocking
                     since := q.frontWait.elim s.now (·.2) }
  let s := { s with fresh := s.fresh + 1 }
  (s.setQueue qn { q.pop.readOver with cmds := q.cmds ++ [c] }).jobLaunched q.ctx

/-- A control read of the Parser for the descriptor at the front (R500): the bytes, or the state in which the
descriptor waits or has failed. While it waits for a page its timer runs (R499, R522). -/
def State.ctrlRead (s : State) (qn : Nat) (d : Desc) (va : W64) (n : Nat) : State ⊕ (State × List Byte) :=
  let q := s.queue qn
  let fail (s : State) (cause status : Nat) (w : W64) : State :=
    (s.endFront qn d status).loseCtx q.ctx cause status qn (descSeq d.bytes) w
  let refused := q.readBad.filter fun p => decide (va.toNat / 4096 ≤ p) && decide (p * 4096 < va.toNat + n)
  if refused.isSome then .inl (fail s 0x13 6 (BitVec.ofNat 64 (max va.toNat (refused.getD 0 * 4096))))
  else match s.places (s.whoQ qn) q.ctx .read va n with
  | (s, .inr .wait) => .inl s
  | (s, .inl ls) =>
    match s.gateAll (s.whoQ qn) ls [] with
    | (s, false) => .inl s
    | (s, true) =>
      let (bs, bad) := s.fetchAll ls
      if bad then .inl (fail s 0x12 7 va) else .inr (s, bs)
  | (s, .inr (.page w)) =>
    let page := w.toNat / 4096
    let s := s.pageNeed q.ctx page false false fun r => if r.reads.contains qn then r else { r with reads := r.reads ++ [qn] }
    .inl ({ s with fresh := s.fresh + 1 }.setQueue qn { q with
      readPage := some page, frontWait := q.frontWait.orElse fun _ => some (s.fresh, s.now) })
  | (s, .inr (.rights w)) => .inl (fail s 0x11 6 w)
  | (s, .inr (.poison w)) => .inl (fail s 0x12 7 w)

/-! ### Doorbells (R461, R464, R465, R502 to R505, Table 10.8) -/

/-- The queue behind a doorbell page. -/
def pageQueue (fn page : Nat) : Option Nat :=
  if fn = 0 then (if page < 12288 then some page else none) else (if page < 256 then some ((fn - 1) * 256 + page) else none)

/-- A doorbell write: ignored where there is no queue, and while the partition resets (Table 11.11). -/
def doorbell (fn page : Nat) (s : State) (f : Nat → Queue → State → State) : Res :=
  viaFn fn s fun s => match pageQueue fn page with
    | none => s
    | some qn =>
      let q := s.queue qn
      -- a locked TDI takes no doorbell before RUN (Table 12.5)
      if q.st == .empty || (s.part q.part).st != .ready || (s.tdi q.part).st == 1 then s else f qn q s

def Queue.dbBad (q : Queue) : Queue := { q with dbErr := min 65535 (q.dbErr + 1) }

/-- SQ_TAIL. -/
def execSqTail (fn page : Nat) (value : W32) (s : State) : Res :=
  doorbell fn page s fun qn q s =>
    if (value - q.sqHead).toNat ≤ 2 ^ q.sqLog2 ∧ (value - q.sqTail).toNat < 2 ^ 31 then s.setQueue qn { q with sqTail := value }
    else s.setQueue qn q.dbBad

/-- CQ_HEAD. -/
def execCqHead (fn page : Nat) (value : W32) (s : State) : Res :=
  doorbell fn page s fun qn q s =>
    if (q.cqTail - value).toNat ≤ 2 ^ q.cqLog2 ∧ (value - q.cqHead).toNat < 2 ^ 31 then
      (s.setQueue qn { q with cqHead := value }).flush
    else s.setQueue qn q.dbBad

/-- Marks the first descriptor read ahead that a test finds, called buffers first. -/
def Queue.markFirst (q : Queue) (p : Desc → Bool) : Option Queue :=
  let inCalls := q.calls.any fun c => c.ahead.any p
  let mark (ds : List Desc) : List Desc := match ds.findIdx? p with
    | some i => ds.zipIdx.map fun x => if x.2 = i then { x.1 with marked := true } else x.1
    | none => ds
  let markCall (c : Call) : Call := { c with ahead := mark c.ahead, marks := (c.ahead.find? p).elim c.marks fun d => d.idx :: c.marks }
  if inCalls then
    match q.calls.findIdx? fun c => c.ahead.any p with
    | some i => some { q with calls := q.calls.zipIdx.map fun x => if x.2 = i then markCall x.1 else x.1 }
    | none => none
  else if q.ahead.any p then some { q with ahead := mark q.ahead }
  else none

/-- The descriptors of a ring at counts `ks` searched in order for a sequence number: the count of the first that carries it, or none;
`.inr` where the search must wait for a home. A descriptor that cannot be read carries none. -/
def State.findInRing (s : State) (qn : Nat) (seq : W32) : List W32 → State × (Option W32 ⊕ Unit)
  | [] => (s, .inl none)
  | k :: ks =>
    let q := s.queue qn
    match s.places (s.whoQ qn) q.ctx .read (q.sqBase + BitVec.ofNat 64 (64 * (k.toNat % 2 ^ q.sqLog2))) 64 with
    | (s, .inr .wait) => (s, .inr ())
    | (s, .inr _) => s.findInRing qn seq ks
    | (s, .inl ls) => match s.gateAll (s.whoQ qn) ls [] with
      | (s, false) => (s, .inr ())
      | (s, true) =>
        let (bs, bad) := s.fetchAll ls
        if !bad && descSeq bs = seq then (s, .inl (some k)) else s.findInRing qn seq ks

/-- The ring counts between the head and the tail, in ring order. -/
def Queue.unread (q : Queue) : List W32 := (List.range (q.sqTail - q.sqHead).toNat).map fun i => q.sqHead + BitVec.ofNat 32 i

/-- The timer of a command, or of the descriptor at the front whose control read waits, has passed: it ends with TIMEOUT, and its
context is lost (R499). -/
def State.expire (s : State) (qn id : Nat) : State :=
  let q := s.queue qn
  match q.cmd? id, q.front with
  | some c, _ => (s.cut qn c 3).loseCtx q.ctx 0x10 3 qn (descSeq c.raw) 0
  | none, some d => (s.endFront qn d 3).loseCtx q.ctx 0x10 3 qn (descSeq d.bytes) 0
  | none, none => s

/-- An abort's attempt at the end of a command (R503). -/
def State.abortCmd (s : State) (qn : Nat) (c : Cmd) : State := if s.expired qn c then s.expire qn c.id else s.cut qn c 2

/-- ABORT: by sequence number (R502, R503). A command that has its status counts where its record is not yet written. The search of the
ring waits for the end of a rotation (Table 5.11). -/
def execAbort (fn page : Nat) (seq : W32) (s : State) : Res :=
  doorbell fn page s fun qn q s =>
    if q.abort.result = 1 then s
    else
      let a : Abort := { seq := seq }
      match q.cmds.find? fun c => descSeq c.raw == seq with
      | some c =>
        let s := (s.setQueue qn { q with abort := { a with result := 1 } }).abortCmd qn c
        (s.flush.settleFront qn).flush
      | none =>
        match q.markFirst fun d => descSeq d.bytes == seq with
        | some q => (((s.setQueue qn { q with abort := { a with result := 1 } }).settleFront qn).flush)
        | none =>
          if s.rotating && !q.unread.isEmpty then s
          else match s.findInRing qn seq q.unread with
            | (s, .inr _) => s
            | (s, .inl (some k)) => s.setQueue qn { q with abort := { a with result := 1, upTo := some k } }
            | (s, .inl none) => s.setQueue qn { q with abort := match q.records.find? (·.seq == seq) with
                | some r => { a with result := 3, status := r.status }
                | none => { a with result := 4 } }

/-- ABORT_ALL (R504). -/
def execAbortAll (fn page : Nat) (s : State) : Res :=
  doorbell fn page s fun qn q s =>
    if q.abort.result = 1 then s
    else
      let s := s.setQueue qn { q with
        abort := { result := 1, all := true, upTo := some q.sqTail }, calls := [], readPage := none, readBad := none, frontWait := none
        ahead := q.ahead.map fun d => { d with marked := true } }
      let s := q.cmds.foldl (fun s c => s.abortCmd qn c) s
      (s.flush.abortSettle qn).settleFront qn |>.flush

end Sys2Proof.Machine
end

