-- ==== Sys2Proof/Machine/Mover.lean ====
section
/-! DEFINITION. The mover's operations, SIGNAL and TIMESTAMP (spec/10 R475 to R479, R491 to R495; spec/09 R426; spec/07
R339 to R342; Tables 6.6, 6.7, 10.12). A MOVE is made segment by segment; a segment is made whole or not at all. -/

namespace Sys2Proof.Machine

/-- Bytes read, each with whether its sector was poisoned. -/
abbrev Marked := List (Byte × Bool)

/-- How an attempt at a segment, or at a command that acts once, ends. -/
inductive Try where
  | done (status : Nat)
  /-- translation or rights: nothing was written -/
  | fail (va : W64)
  /-- a page request is needed -/
  | page (va : W64) (write : Bool)
  /-- the host's copy must give way first -/
  | wait
  /-- pages whose moves must end first (R342) -/
  | moves (pages : List Nat)
  deriving DecidableEq, Repr

/-- The bytes at a list of places, with their poison (R310, R344). -/
def State.fetchMarks (s : State) (ls : List (Loc × Nat)) : Marked :=
  ls.flatMap fun l => (s.fetch l.1 l.2).1.zipIdx.map fun x =>
    let a := l.1.addr + x.2
    (x.1, !l.1.host && (s.sectorBad (a / 32) || (s.page (a / 65536)).released))

def State.tryPlaces (s : State) (who : Who) (ctx : Nat) (acc : Acc) (va n : Nat) : State × (List (Loc × Nat) ⊕ Try) :=
  match s.placePages who ctx acc (n / 4096 + 2) va n with
  | (s, .inr .wait) => (s, .inr .wait)
  | (s, .inl ls) => (s, .inl ls)
  | (s, .inr (.page w)) => (s, .inr (.page w (acc != .read)))
  | (s, .inr (.rights w)) | (s, .inr (.poison w)) => (s, .inr (.fail w))

def State.tryRead (s : State) (w : Who) (ctx va n : Nat) : State × (Marked ⊕ Try) :=
  match s.tryPlaces w ctx .read va n with
  | (s, .inr t) => (s, .inr t)
  | (s, .inl ls) => match s.gateAll w ls [] with
    | (s, false) => (s, .inr .wait)
    | (s, true) => (s, .inl (s.fetchMarks ls))

/-- Poison set in the sectors that poisoned bytes are written to (Table 6.6). -/
def State.markAll (s : State) : List (Loc × Nat) → Marked → State
  | [], _ => s
  | (l, n) :: ls, m =>
    State.markAll (if l.host then s else (m.take n).zipIdx.foldl (fun s x =>
      if x.1.2 then s.poisonSector ((l.addr + x.2) / 32) else s) s) ls (m.drop n)

/-- Marked bytes written at places. -/
def State.putMarked (s : State) (w : Who) (ls : List (Loc × Nat)) (m : Marked) : State :=
  (s.storeAll w ls (m.map (·.1)) false).markAll ls m

/-! ### MOVE (R477, R478, R492) -/

/-- The size of a segment of a transfer of `n` bytes (R426). -/
def segSize (n : Nat) : Nat := max 4096 (((n + 63) / 64 + 4095) / 4096 * 4096)
def segCount (n : Nat) : Nat := (n + segSize n - 1) / segSize n

def Cmd.moveOp (c : Cmd) : Nat := c.le 0x10 1
def Cmd.fmt (c : Cmd) : W32 := BitVec.ofNat 32 (c.le 0x14 4)
def Cmd.src (c : Cmd) : Nat := c.le 0x18 8

/-- GATHER: the parts of elements `is` that lie in destination bytes [a, b). -/
def State.gather (s : State) (w : Who) (ctx src tab es a b : Nat) : List Nat → State × (Marked ⊕ Try)
  | [] => (s, .inl [])
  | i :: is => match s.tryRead w ctx (tab + 4 * i) 4 with
    | (s, .inr t) => (s, .inr t)
    | (s, .inl ix) =>
      let lo := max a (i * es)
      let n := min b (i * es + es) - lo
      -- a poisoned index names no source: free bytes, poisoned (Table 6.6, log 3)
      let part : State × (Marked ⊕ Try) := if ix.any (·.2) then
          (match s.draw with
            | (v, s) => (s, .inl ((leBytes n v).map fun x => (x, true))))
        else s.tryRead w ctx (src + leNat (ix.map (·.1)) * es + (lo - i * es)) n
      match part with
      | (s, .inr t) => (s, .inr t)
      | (s, .inl d) => match State.gather s w ctx src tab es a b is with
        | (s, .inl r) => (s, .inl (d ++ r))
        | x => x

/-- The bytes that a COPY, FILL or GATHER writes to destination bytes [a, a + n). Where the ranges of a COPY overlap the
bytes are free values (R478, log 3). -/
def State.moveSrc (s : State) (w : Who) (ctx : Nat) (c : Cmd) (a n : Nat) : State × (Marked ⊕ Try) :=
  match c.moveOp with
  | 0 => match s.tryRead w ctx (c.src + a) n with
    | (s, .inl m) =>
      let len := c.total
      let past (i : Nat) : Bool := decide (c.src ≤ c.dst.toNat + a + i) && decide (c.dst.toNat + a + i < c.src + len)
      if (List.range n).any past then
        match s.draw with
        | (v, s) =>
          let f := leBytes n v
          (s, .inl (m.zipIdx.map fun x => if past x.2 then (f.getD x.2 0, x.1.2) else x.1))
      else (s, .inl m)
    | x => x
  | 1 => (s, .inl ((List.range n).map fun i => ((c.raw.drop 0x30).getD ((c.dst.toNat + a + i) % 8) 0, false)))
  | _ =>
    let es := c.le 0x38 2
    s.gather w ctx c.src (c.le 0x30 8) es a (a + n) ((List.range ((a + n - 1) / es - a / es + 1)).map (a / es + ·))

/-- The first `n` bytes of a list of places. -/
def headPlaces : Nat → List (Loc × Nat) → List (Loc × Nat)
  | _, [] => []
  | n, (l, k) :: ls => if n = 0 then [] else if n ≤ k then [(l, n)] else (l, k) :: headPlaces (n - k) ls

/-- What follows them. -/
def tailPlaces : Nat → List (Loc × Nat) → List (Loc × Nat)
  | _, [] => []
  | n, (l, k) :: ls =>
    if n < k then (⟨l.host, l.addr + n⟩, k - n) :: ls else tailPlaces (n - k) ls

/-- The addends of a REDUCE applied to the accumulators that stand one after the other in a list of places, in order; whether one was not
(Table 6.7, R256). An accumulator may lie across two pages. -/
def State.reduceAt (s : State) (w : Who) (f : W32) : List Marked → List (Loc × Nat) → State × Bool
  | [], _ => (s, false)
  | m :: ms, ls =>
    let n := accWidth f
    let at_ := headPlaces n ls
    let next (s : State) (bad : Bool) : State × Bool := match State.reduceAt s w f ms (tailPlaces n ls) with
      | (s, b) => (s, bad || b)
    let s := s.homeReads w (devRanges at_)
    if m.any (·.2) then next (s.markAll at_ (List.replicate n (0, true))) true
    else match s.fetchAll at_ with
      | (_, true) => next s true
      | (b, false) =>
        let old := leNat b
        let x := leNat (m.map (·.1))
        let s := s.storeAll w at_ (leBytes n (redAdd f old x)) false
        next (if redTurns f old x then s.bump (telPcnt w.part 0) else s) false

/-- Bytes cut into pieces of `n`; `fuel` bounds the pieces. -/
def chop (n : Nat) : Nat → Marked → List Marked
  | 0, _ => []
  | fuel + 1, m => if m.isEmpty then [] else m.take n :: chop n fuel (m.drop n)

/-- Segment `k` of a MOVE. -/
def State.moveSeg (s : State) (qn : Nat) (c : Cmd) (k : Nat) : State × Try :=
  let q := s.queue qn
  let who := s.whoQ qn
  let a := k * c.segSz
  let n := min c.segSz (c.total - a)
  if c.moveOp = 3 then
    let f := c.fmt
    let w := etypeBytes (redEtype f)
    let i := a / accWidth f
    let cnt := n / accWidth f
    match s.tryRead who q.ctx (c.src + i * w) (cnt * w) with
    | (s, .inr t) => (s, t)
    | (s, .inl m) => match s.tryPlaces who q.ctx .atomic (c.dst.toNat + a) n with
      | (s, .inr t) => (s, t)
      | (s, .inl ls) =>
        if ls.any (·.1.host) then (s, .fail c.dst)
        else match s.gateAll who [] ls with
          | (s, false) => (s, .wait)
          | (s, true) =>
            match s.reduceAt who f (chop w cnt m) ls with
            | (s, bad) => if bad then (s, .fail c.dst) else (s, .done 0)
  else match s.moveSrc who q.ctx c a n with
    | (s, .inr t) => (s, t)
    | (s, .inl m) => match s.tryPlaces who q.ctx .write (c.dst.toNat + a) n with
      | (s, .inr t) => (s, t)
      | (s, .inl ls) => match s.gateAll who [] ls with
        | (s, false) => (s, .wait)
        | (s, true) =>
          let bad := m.any (·.2) || ls.any fun l => !l.1.host && s.releasedIn l.1.addr l.2
          (s.putMarked who ls m, if bad then .fail c.dst else .done 0)

/-- The state of segment `k` of a command recorded. -/
def State.setSeg (s : State) (qn id k : Nat) (st : SegSt) : State :=
  let q := s.queue qn
  match q.cmd? id with
  | some c => s.setQueue qn (q.setCmd { c with segs := c.segs.set k st })
  | none => s

/-- A command of a queue waits on a page request. -/
def State.cmdPage (s : State) (qn id : Nat) (va : W64) (write : Bool) : State :=
  s.pageNeed (s.queue qn).ctx (va.toNat / 4096) write false fun r =>
    if r.cmds.contains (qn, id) then r else { r with cmds := r.cmds ++ [(qn, id)] }

/-- The ranges of a COPY overlap. -/
def Cmd.overlaps (c : Cmd) : Bool :=
  c.moveOp == 0 && decide (c.src < c.dst.toNat + c.total) && decide (c.dst.toNat < c.src + c.total)

/-- A COPY between ranges that overlap goes on from the side on which it overwrites no source still to be read: a segment waits for those
before it (R478). -/
def Cmd.segTurn (c : Cmd) (k : Nat) : Bool :=
  !c.overlaps || c.segs.zipIdx.all fun y =>
    !(if c.src < c.dst.toNat then decide (k < y.2) else decide (y.2 < k)) || y.1 == .done || y.1 == .failed

/-- The order in which the segments of a MOVE are attempted. -/
def Cmd.segOrder (c : Cmd) : List Nat :=
  let ks := List.range c.segs.length
  if c.overlaps && decide (c.src < c.dst.toNat) then ks.reverse else ks

/-- An engine's turn comes to a command: no earlier one of its context that the engines of its kind still serve (R533). -/
def State.engTurn (s : State) (qn id : Nat) (serves : Cmd → Bool) : Bool :=
  match (s.queue qn).cmd? id with
  | none => true
  | some c => s.queues.all fun x => x.2.ctx != (s.queue qn).ctx || x.2.cmds.all fun d => decide (id ≤ d.id) || d.engine != c.engine || !serves d

/-- Segment `k` of a MOVE attempted, if it is open. -/
def State.runSeg (s : State) (qn id k : Nat) : State :=
  let q := s.queue qn
  match q.cmd? id with
  | none => s
  | some c =>
    if c.segs.getD k .done != .open_ || s.rotating || !c.segTurn k then s
    else match s.moveSeg qn c k with
      | (s, .done _) => s.setSeg qn id k .done
      | (s, .fail _) => s.setSeg qn id k .failed
      | (s, .wait) | (s, .moves _) => s
      | (s, .page w wr) => (s.cmdPage qn id w wr).setSeg qn id k (.paused (w.toNat / 4096) wr)

/-- The status of a segmented command that nothing else decides; none while a segment is open (R493). -/
def Cmd.segStatus (c : Cmd) : Option Nat :=
  if c.segs.all (· == .done) then some 0 else if c.segs.all fun x => x == .done || x == .failed then some 1 else none

/-- Every open segment of a MOVE attempted, in order, once its turn has come. -/
def State.runCmd (s : State) (qn id : Nat) : State :=
  match (s.queue qn).cmd? id with
  | some c => if s.engTurn qn id fun d => d.segStatus.isNone then c.segOrder.foldl (fun s k => s.runSeg qn id k) s else s
  | none => s

/-! ### SIGNAL, TIMESTAMP and MOVE TIER: they act once -/

/-- SIGNAL and TIMESTAMP: `f` gives the word to write from the old one; `add` needs an atomic. -/
def State.wordOnce (s : State) (qn : Nat) (va : W64) (add : Bool) (f : Nat → Nat) : State × Try :=
  let q := s.queue qn
  match s.tryPlaces (s.whoQ qn) q.ctx (if add then .atomic else .write) va.toNat 8 with
  | (s, .inr t) => (s, t)
  | (s, .inl ls) =>
    let host := ls.any (·.1.host)
    if add && host && !s.hostAtomics then (s, .fail va)
    else match s.gateAll (s.whoQ qn) (if add then ls else []) ls with
      | (s, false) => (s, .wait)
      | (s, true) =>
        let (old, bad) := s.fetchAll ls
        if add && bad then (s, .fail va) else (s.storeAll (s.whoQ qn) ls (leBytes 8 (f (leNat old))) false, .done 0)

/-- MOVE TIER (R478): every page of the range mapped to device memory with the write right. -/
def State.tierOnce (s : State) (qn : Nat) (q : Queue) (c : Cmd) : State × Try :=
  let pin := c.le 0x30 8
  match s.tryPlaces (s.whoQ qn) q.ctx .write (c.le 0x20 8) (c.le 0x28 8) with
  | (s, .inr t) => (s, t)
  | (s, .inl ls) =>
    if ls.any (·.1.host) then (s, .fail (BitVec.ofNat 64 (c.le 0x20 8)))
    else
      let pages := (ls.map fun l => l.1.addr / 65536).eraseDups
      if pin = 1 && s.pinRefused pages then (s, .done 0x0D)
      else
        let s := pages.foldl (fun s p => s.setPin p pin) s
        let left := pages.filter fun p => (s.page p).late == some pin
        if left.isEmpty then (s, .done 0) else (s, .moves left)

/-- A command that acts once is attempted. -/
def State.runOnce (s : State) (qn id : Nat) : State :=
  let q := s.queue qn
  match q.cmd? id with
  | none => s
  | some c =>
    let work (s : State) (w : Work) : State := match (s.queue qn).cmd? id with
      | some c => s.setQueue qn ((s.queue qn).setCmd { c with work := w })
      | none => s
    if s.rotating then s
    else
      let va : W64 := BitVec.ofNat 64 (c.le 0x10 8)
      let r := match descOp c.raw with
        | 0x03 => s.wordOnce qn va (c.le 0x20 1 == 1) fun old =>
          if c.le 0x20 1 = 1 then old + c.le 0x18 8 else c.le 0x18 8
        -- TIMESTAMP: the module time at its dispatch (R491)
        | 0x10 => s.wordOnce qn va false fun _ => (c.since - s.t0) / 5000 * 5
        | _ => s.tierOnce qn q c
      match r with
      | (s, .done st) => s.finish qn id st
      | (s, .wait) => work s (.once none)
      | (s, .moves ps) => work s (.tier ps)
      | (s, .page w wr) => work (s.cmdPage qn id w wr) (.once (some (w.toNat / 4096, wr)))
      | (s, .fail w) => (s.finish qn id 6).loseCtx q.ctx 0x15 6 qn (descSeq c.raw) w

/-- The descriptor at the front is dispatched as a command that acts once. -/
def State.dispatchOnce (s : State) (qn : Nat) (d : Desc) : State := (s.dispatch qn d (.once none) false).runOnce qn s.fresh

/-! ### The rows -/

/-- The descriptor at the front is dispatched as a MOVE of `total` destination bytes. -/
def State.dispatchMove (s : State) (qn : Nat) (d : Desc) (total : Nat) : State :=
  (s.dispatch qn d .mover false fun c => { c with
    dst := BitVec.ofNat 64 (rawLe d.bytes 0x20 8), total := total, segSz := segSize total
    segs := List.replicate (segCount total) .open_ }).runCmd qn s.fresh

def isMove (op : Nat) (raw : List Byte) : Bool := rawLe raw 0x10 1 == op

/-- The reserved bytes of every MOVE. -/
def moveRsv (raw : List Byte) : Bool := rawLe raw 0x11 3 == 0 && rawLe raw 0x3A 6 == 0
def inLen (hi n : Nat) : Bool := decide (1 ≤ n) && decide (n ≤ hi)

def copyOk (r : List Byte) : Bool :=
  moveRsv r && rawLe r 0x14 4 == 0 && inLen (2 ^ 40) (rawLe r 0x28 8) && rawLe r 0x30 8 == 0 && rawLe r 0x38 2 == 0
def fillOk (r : List Byte) : Bool :=
  moveRsv r && rawLe r 0x14 4 == 0 && rawLe r 0x18 8 == 0 && inLen (2 ^ 40) (rawLe r 0x28 8) && rawLe r 0x38 2 == 0
def gatherOk (r : List Byte) : Bool :=
  moveRsv r && rawLe r 0x14 4 == 0 && inLen (2 ^ 32) (rawLe r 0x28 8) && rawLe r 0x30 8 % 4 == 0 &&
    inLen 4096 (rawLe r 0x38 2) && rawLe r 0x38 2 % 8 == 0
def reduceOk (bl1 : Bool) (r : List Byte) : Bool :=
  moveRsv r && fmtWindow (BitVec.ofNat 32 (rawLe r 0x14 4)) bl1 && inLen (2 ^ 32) (rawLe r 0x28 8) &&
    rawLe r 0x30 8 == 0 && rawLe r 0x38 2 == 0
def tierOk (r : List Byte) : Bool :=
  moveRsv r && rawLe r 0x14 4 == 0 && rawLe r 0x18 8 == 0 && rawLe r 0x20 8 % 65536 == 0 &&
    rawLe r 0x28 8 % 65536 == 0 && decide (rawLe r 0x30 8 < 3) && rawLe r 0x38 2 == 0

/-- MOVE_COPY. -/
def execMoveCopy (queue : Nat) (s : State) : Res :=
  onFront 0x02 (isMove 0) copyOk queue s fun d s => s.dispatchMove queue d (rawLe d.bytes 0x28 8)

/-- MOVE_FILL. -/
def execMoveFill (queue : Nat) (s : State) : Res :=
  onFront 0x02 (isMove 1) fillOk queue s fun d s => s.dispatchMove queue d (rawLe d.bytes 0x28 8)

/-- MOVE_GATHER. -/
def execMoveGather (queue : Nat) (s : State) : Res :=
  onFront 0x02 (isMove 2) gatherOk queue s fun d s =>
    s.dispatchMove queue d (rawLe d.bytes 0x28 8 * rawLe d.bytes 0x38 2)

/-- MOVE_REDUCE. -/
def execMoveReduce (queue : Nat) (s : State) : Res :=
  onFront 0x02 (isMove 3) (reduceOk (s.ctx (s.queue queue).ctx).bl1) queue s fun d s =>
    s.dispatchMove queue d (rawLe d.bytes 0x28 8 * accWidth (BitVec.ofNat 32 (rawLe d.bytes 0x14 4)))

/-- MOVE_TIER. -/
def execMoveTier (queue : Nat) (s : State) : Res :=
  onFront 0x02 (isMove 4) tierOk queue s fun d s => s.dispatchOnce queue d

/-- SIGNAL. -/
def execSignalOp (queue : Nat) (s : State) : Res :=
  onFront 0x03 (fun _ => true) (fun r => rawLe r 0x10 8 % 8 == 0 && decide (rawLe r 0x20 1 < 2) && allZero r 0x21 31) queue s
    fun d s => s.dispatchOnce queue d

/-- TIMESTAMP. -/
def execTimestampOp (queue : Nat) (s : State) : Res :=
  onFront 0x10 (fun _ => true) (fun r => rawLe r 0x10 8 % 8 == 0 && allZero r 0x18 40) queue s fun d s =>
    s.dispatchOnce queue d

end Sys2Proof.Machine
end

