-- ==== Sys2Proof/Machine/Cmds.lean ====
section
/-! DEFINITION. LAUNCH, WAIT, the control commands, FENCE and the commands that act in the Parser (spec/10 R476, R480 to R487,
R491, R537; spec/02 R50 to R52; spec/05 R236 to R238, R251), watch notifications (spec/02 R77; spec/10 R481), and the event
log registers (Table 10.20). -/

namespace Sys2Proof.Machine

/-! ### LAUNCH -/

/-- A used region entry: its first byte and length; `.inr false` an unused entry, `.inr true` one that breaks R238. -/
def regionOf (w e : Nat) : (Nat × Nat) ⊕ Bool :=
  let base := e % 2 ^ 41
  let va := base * 65536 + (if base < 2 ^ 40 then 0 else 2 ^ 64 - 2 ^ 57)
  let len := e / 2 ^ 41 * 65536
  if len = 0 then .inr false
  else if !canonical w (BitVec.ofNat 64 va) || (if va < 2 ^ 63 then 2 ^ (w - 1) else 2 ^ 64) < va + len then .inr true
  else .inl (va, len)

def overlaps (a b : Nat × Nat) : Bool := decide (a.1 < b.1 + b.2) && decide (b.1 < a.1 + a.2)

/-- Whether one of these 4 KiB pages is mapped to host memory, as they are walked in order; none while a table's home is not free. -/
def State.pagesHost (w : Who) (ctx : Nat) : List Nat → State → State × Option Bool
  | [], s => (s, some false)
  | p :: ps, s => match s.translate w ctx (BitVec.ofNat 64 (4096 * p)) .read with
    | (s, .inr .wait) => (s, none)
    | (s, .inr _) => State.pagesHost w ctx ps s
    | (s, .inl l) => if l.host then (s, some true) else State.pagesHost w ctx ps s

/-- The 4 KiB pages of the reduction windows (R294). -/
def windowPages (wins : List (Nat × Nat × W32)) : List Nat := wins.flatMap fun x => (List.range (x.2.1 / 4096)).map (x.1 / 4096 + ·)

/-- A launch region table: the read-only regions and the reduction windows in use, or none where its words break R238. -/
def State.regionTable (s : State) (ctx : Nat) (t : List Byte) : Option (List (Nat × Nat) × List (Nat × Nat × W32)) :=
  let w := s.vaBits ctx
  let ros := (List.range 4).map fun i => regionOf w (rawLe t (8 * i) 8)
  let wins := [0x20, 0x30].map fun o => (regionOf w (rawLe t o 8), BitVec.ofNat 32 (rawLe t (o + 8) 4), rawLe t (o + 12) 4)
  let used (r : (Nat × Nat) ⊕ Bool) : List (Nat × Nat) := match r with
    | .inl x => [x]
    | .inr _ => []
  let bad (r : (Nat × Nat) ⊕ Bool) : Bool := r == .inr true
  let ro := ros.flatMap used
  let wn := wins.flatMap fun x => (used x.1).map fun r => (r, x.2.1)
  -- a reserved field is checked in unused entries too (R238)
  if ros.any bad || wins.any (fun x => bad x.1 || x.2.2 != 0 || fmtRsv x.2.1) then none
  else if wn.any fun x => !fmtWindow x.2 (s.ctx ctx).bl1 || ro.any (overlaps x.1) then none
  else match wn with
    | [a, b] => if overlaps a.1 b.1 then none else some (ro, wn.map fun x => (x.1.1, x.1.2, x.2))
    | _ => some (ro, wn.map fun x => (x.1.1, x.1.2, x.2))

/-- A kernel enters the placement list: an INVOKE ahead of every LAUNCH (R538), any other at the end (R534). -/
def State.enlist (s : State) (p k : Nat) (invoke : Bool) : State :=
  let list := (s.part p).placing
  if invoke then
    let ahead := list.takeWhile fun j => (s.kernel j).invoke.isSome
    s.setPlacing p (ahead ++ k :: list.drop ahead.length)
  else s.setPlacing p (list ++ [k])

/-- The kernel of a command starts: `f` gives its fields; it waits for tiles from now on. -/
def State.startKernel (s : State) (qn id : Nat) (f : Kernel → Kernel) : State :=
  let q := s.queue qn
  match q.cmd? id with
  | none => s
  | some c =>
    let k := s.fresh
    let kn : Kernel := f {
      ctx := q.ctx, part := q.part, queue := qn, seq := (descSeq c.raw).toNat, cmd := id, tag := q.tag, waitSince := s.now }
    let s := ({ s with fresh := s.fresh + 1 }).setKernel k kn
    (s.setQueue qn (q.setCmd { c with work := .kernel k })).enlist q.part k kn.invoke.isSome

/-- The launch fields of Table 10.11 from offset 0x28 on. -/
def launchFields (r : List Byte) (k : Kernel) : Kernel :=
  let b := rawLe r 0x2C 1
  { k with
    entry := BitVec.ofNat 64 (rawLe r 0x10 8), args := BitVec.ofNat 64 (rawLe r 0x18 8), blkCount := rawLe r 0x28 4
    blkClauses := b % 32 + 1, spmSplit := b / 32, granules := rawLe r 0x2D 1 % 32 + 1, blkSpm := rawLe r 0x2E 1
    tilesMax := rawLe r 0x30 2 }

/-- R51. -/
def State.launchFits (s : State) (p clauses g split spm : Nat) : Bool :=
  decide (clauses * g ≤ 256) && decide (spm ≤ split * 32) && decide (spm ≤ 224) &&
    (!(s.part p).herb || decide (split + s.fld herbStore ≤ 7))

def launchOk (r : List Byte) : Bool :=
  rawLe r 0x10 8 % 8 == 0 && rawLe r 0x18 8 % 128 == 0 && rawLe r 0x20 8 % 64 == 0 && decide (rawLe r 0x2D 1 < 32) &&
    rawLe r 0x2F 1 == 0 && allZero r 0x32 14

/-- The kernel of a LAUNCH placed in the list, or, with no block, the LAUNCH completed (R52). -/
def State.launch (s : State) (qn : Nat) (d : Desc) (regs : List (Nat × Nat) × List (Nat × Nat × W32)) : State :=
  if rawLe d.bytes 0x28 4 = 0 then s.endFront qn d 0
  else (s.dispatch qn d .mover false).startKernel qn s.fresh fun k =>
    { launchFields d.bytes k with ro := regs.1, win := regs.2 }

/-- LAUNCH. -/
def execLaunch (queue : Nat) (s : State) : Res :=
  onFront 0x01 (fun _ => true) launchOk queue s fun d s =>
    let q := s.queue queue
    let k := launchFields d.bytes {}
    let ro := rawLe d.bytes 0x20 8
    if !s.launchFits q.part k.blkClauses k.granules k.spmSplit k.blkSpm then s.endFront queue d 0x0D
    else if ro = 0 then s.launch queue d ([], [])
    else match s.ctrlRead queue d (BitVec.ofNat 64 ro) 64 with
      | .inl s => s
      | .inr (s, t) => match s.regionTable q.ctx t with
        | none => s.endFront queue d 0x0B
        | some regs => match State.pagesHost (s.whoQ queue) q.ctx (windowPages regs.2) s with
          | (s, none) => s
          | (s, some true) => s.endFront queue d 0x0B
          | (s, some false) => s.launch queue d regs

/-! ### WAIT and COND (R480 to R483, Table 10.13) -/

/-- The test of WAIT and COND on a 64-bit word. -/
def testHolds (raw : List Byte) (word : Nat) : Bool :=
  let w := Nat.land word (rawLe raw 0x20 8)
  let v := rawLe raw 0x18 8
  match rawLe raw 0x28 1 with
  | 0 => w == v
  | 1 => w != v
  | 2 => decide (v ≤ w)
  | _ => decide ((w + 2 ^ 64 - v) % 2 ^ 64 < 2 ^ 63)

def testOk (r : List Byte) : Bool := rawLe r 0x10 8 % 8 == 0 && decide (rawLe r 0x28 1 < 4) && allZero r 0x2C 20
def cmdWaitOk (r : List Byte) : Bool :=
  testOk r && (if rawLe r 0x29 1 = 1 then decide (rawLe r 0x2A 2 < 2 ^ 14) else rawLe r 0x29 1 == 0 && rawLe r 0x2A 2 == 0)
def condOk (r : List Byte) : Bool := testOk r && rawLe r 0x29 1 == 0 && rawLe r 0x2A 2 != 0

/-- A WAIT ends with a status; its watch is cancelled. -/
def State.endWait (s : State) (qn : Nat) (c : Cmd) (status : Nat) : State := (s.squash qn c).finish qn c.id status

/-- A control read of a WAIT that failed: its status, and the context is lost (R500). -/
def State.waitFail (s : State) (qn : Nat) (c : Cmd) (cause status : Nat) (va : W64) : State :=
  (s.endWait qn c status).loseCtx (s.queue qn).ctx cause status qn (descSeq c.raw) va

/-- The word of a WAIT whose place is known tested once more. -/
def State.waitTest (s : State) (qn id : Nat) : State :=
  match (s.queue qn).cmd? id with
  | some c => match c.work with
    | .wait host pa =>
      let l : Loc := ⟨host, pa⟩
      match s.gateAll (s.whoQ qn) [(l, 8)] [] with
      | (s, false) => s
      | (s, true) =>
        let (bs, bad) := s.fetch l 8
        if bad then s.waitFail qn c 0x12 7 (BitVec.ofNat 64 (c.le 0x10 8))
        else if testHolds c.raw (leNat bs) then s.endWait qn c 0 else s
    | _ => s
  | none => s

/-- The word of a WAIT located; a watch on it stands at its home (R481), and it is tested. -/
def State.waitLocate (s : State) (qn id : Nat) : State :=
  let q := s.queue qn
  match q.cmd? id with
  | none => s
  | some c =>
    let va : W64 := BitVec.ofNat 64 (c.le 0x10 8)
    let work (s : State) (w : Work) : State := s.setQueue qn ((s.queue qn).setCmd { c with work := w })
    match s.places (s.whoQ qn) q.ctx .read va 8 with
    | (s, .inr .wait) => s
    | (s, .inr (.page w)) => work (s.cmdPage qn id w false) .waitAsk
    | (s, .inr (.rights w)) => s.waitFail qn c 0x11 6 w
    | (s, .inr (.poison w)) => s.waitFail qn c 0x12 7 w
    | (s, .inl ls) =>
      let l := (ls.headD (⟨true, 0⟩, 8)).1
      let s := work s (.wait l.host l.addr)
      let s := if l.host then s else { s with watches := s.watches ++ [(l.addr / 128, .parser qn id)] }
      s.waitTest qn id


/-- CMD_WAIT. -/
def execCmdWait (queue : Nat) (s : State) : Res :=
  onFront 0x04 (fun _ => true) cmdWaitOk queue s fun d s =>
    let p := (s.queue queue).part
    if rawLe d.bytes 0x29 1 = 1 && s.fld (cohEpoch p) = 0 then s.endFront queue d 5
    else (s.dispatch queue d .waitAsk true).waitLocate queue s.fresh

/-- PARSER_HOST_POLL: the Parser reads a WAIT's word in host memory. -/
def execParserHostPoll (queue : Nat) (s : State) : Res :=
  unit (decide (queue < 12288)) (
    if s.rotating then s
    else match (s.queue queue).cmds.find? fun c => match c.work with
        | .wait true _ => true
        | _ => false with
    | some c => ((s.waitTest queue c.id).flush.settleFront queue).flush
    | none => s)

/-- WATCH_NOTIFY: a home slice tells a watcher that a line was written. The read that follows waits for the end of a rotation
(Table 5.11). -/
def execWatchNotify (msg : Nat) (s : State) : Res :=
  if s.rotating then .next s
  else takeRsp .notify msg s fun x s => match x.req.src with
    | .parser qn id => ((s.waitTest qn id).flush.settleFront qn).flush
    | .watchRead a =>
      let c := s.clause a
      if c.st == .waiting && c.wait.watching && c.wait.pa / 128 == x.req.line then
        let s := s.setTile a.tile { s.tile a.tile with quiet := none }
        if c.wait.reading then s.setClause a { c with wait := { c.wait with notified := true } } else s.reread a
      else s
    | _ => s

/-- COND. -/
def execCond (queue : Nat) (s : State) : Res :=
  onFront 0x06 (fun _ => true) condOk queue s fun d s =>
    match s.ctrlRead queue d (BitVec.ofNat 64 (rawLe d.bytes 0x10 8)) 8 with
    | .inl s => s
    | .inr (s, bs) =>
      let q := (s.queue queue).pop.readOver
      if testHolds d.bytes (leNat bs) then s.setQueue queue q
      else
        let n := rawLe d.bytes 0x2A 2
        s.setQueue queue (match q.calls with
          | c :: cs => { q with calls := { c with skip := n } :: cs }
          | [] => { q with skip := n })

/-! ### CALL, RETURN and LOOP (R484 to R486) -/

/-- CMD_CALL. -/
def execCmdCall (queue : Nat) (s : State) : Res :=
  onFront 0x09 (fun _ => true)
    (fun r => rawLe r 0x10 8 % 64 == 0 && inLen (2 ^ 20) (rawLe r 0x18 4) && allZero r 0x1C 36) queue s fun d s =>
    let q := s.queue queue
    if 8 ≤ q.calls.length then s.endFront queue d 0x0B
    else
      let q := q.pop
      s.setQueue queue { q with
        calls := { base := BitVec.ofNat 64 (rawLe d.bytes 0x10 8), count := rawLe d.bytes 0x18 4 } :: q.calls }

def noOperands (r : List Byte) : Bool := allZero r 0x10 48

/-- RETURN. -/
def execReturnOp (queue : Nat) (s : State) : Res :=
  onFront 0x0A (fun _ => true) noOperands queue s fun d s =>
    let q := s.queue queue
    match q.calls with
    | [] => s.endFront queue d 0x0B
    | c :: cs => if c.loops.isEmpty then s.setQueue queue { q with calls := cs } else s.endFront queue d 0x0B

/-- LOOP. -/
def execLoopOp (queue : Nat) (s : State) : Res :=
  onFront 0x07 (fun _ => true) (fun r => allZero r 0x14 44) queue s fun d s =>
    let q := s.queue queue
    match q.calls with
    | [] => s.endFront queue d 0x0B
    | c :: cs =>
      if 4 ≤ q.calls.foldl (fun n c => n + c.loops.length) 0 then s.endFront queue d 0x0B
      else
        let n := rawLe d.bytes 0x10 4
        let l : Loop := { start := d.idx + 1, left := n - 1, seq := descSeq d.bytes, cookie := descCookie d.bytes }
        s.setQueue queue { q with
          calls := { c with ahead := c.ahead.drop 1, loops := l :: c.loops, out := if n = 0 then 1 else 0 } :: cs }

/-- ENDLOOP. -/
def execEndloop (queue : Nat) (s : State) : Res :=
  onFront 0x08 (fun _ => true) noOperands queue s fun d s =>
    let q := s.queue queue
    match q.calls with
    | { loops := l :: ls, base := b, count := n, next := i, ahead := ds, skip := k, out := o, marks := ms } :: cs =>
      if l.left = 0 then
        s.setQueue queue { q with
          calls := { loops := ls, base := b, count := n, next := i, ahead := ds.drop 1, skip := k, out := o, marks := ms } :: cs }
      else
        s.setQueue queue { q with
          calls := { loops := { l with left := l.left - 1 } :: ls, base := b, count := n, next := l.start, ahead := [], skip := k, out := o
                     marks := ms } :: cs }
    | _ => s.endFront queue d 0x0B

/-! ### FENCE and the commands that act in the Parser -/

/-- The commands in flight or blocked within a FENCE's scope. -/
def State.fenceScope (s : State) (qn scope : Nat) : List (Nat × Nat) :=
  let q := s.queue qn
  let mine := s.queues.filter fun x => if scope = 0 then x.1 == qn else if scope = 1 then x.2.ctx == q.ctx else x.2.part == q.part
  mine.flatMap fun x => x.2.cmds.map fun c => (x.1, c.id)

/-- CMD_FENCE. -/
def execCmdFence (queue : Nat) (s : State) : Res :=
  onFront 0x0B (fun _ => true) (fun r => decide (rawLe r 0x10 1 < 3) && allZero r 0x11 47) queue s fun d s =>
    match s.fenceScope queue (rawLe d.bytes 0x10 1) with
    | [] => s.endFront queue d 0
    | before => s.dispatch queue d (.fence before) true

/-- EVENT. -/
def execEventOp (queue : Nat) (s : State) : Res :=
  onFront 0x05 (fun _ => true) noOperands queue s fun d s => s.endFront queue d 0 true

/-- CMD_NOP. -/
def execCmdNop (queue : Nat) (s : State) : Res :=
  onFront 0x3F (fun _ => true) noOperands queue s fun d s => s.endFront queue d 0

/-- PREEMPT_POINT: while a preemption is pending or in progress, the queue stands still here until the waiting kernel has been placed
(R537). -/
def execPreemptPoint (queue : Nat) (s : State) : Res :=
  onFront 0x11 (fun _ => true) noOperands queue s fun d s =>
    if s.preempting (s.queue queue).part then s else s.endFront queue d 0

/-! ### QUE_EVLOG (Table 10.20, R641) -/

def partOk (p : Nat) : Bool := decide (p < 48)

/-- A write of a field that resets the log: only while no queue of the partition is RUNNING. -/
def evlogWrite (fn part : Nat) (s : State) (f : State → State) : Res :=
  unit (fnOk fn && partOk part) (
    if !s.ready then s
    else if !s.vfLive fn then s.rejectInput
    else if !s.owns fn part || s.queues.any (fun x => x.2.part == part && x.2.st == .running) then s
    else (((f s).setFld (evlogHead part) 0).setFld (evlogTail part) 0).setFld (evlogOver part) 0)

/-- EVLOG_CONFIG_WRITE. -/
def execEvlogConfigWrite (fn part : Nat) (field : EvlogField) (value : W64) (s : State) : Res :=
  evlogWrite fn part s fun s => match field with
    | .base => s.setWord (evlog part) value
    | .ctx => s.setFld (evlogCtx part) value.toNat
    | .log2 => s.setFld (evlogLog2 part) (min 16 (max 6 (value.toNat % 32)))

/-- EVLOG_HEAD_WRITE. -/
def execEvlogHeadWrite (fn part : Nat) (value : W32) (s : State) : Res :=
  unit (fnOk fn && partOk part) (
    if !s.ready then s
    else if !s.vfLive fn then s.rejectInput
    else if !s.owns fn part then s
    else
      let h := s.fld (evlogHead part)
      if (2 ^ 32 + value.toNat - h) % 2 ^ 32 ≤ (2 ^ 32 + s.fld (evlogTail part) - h) % 2 ^ 32 then
        s.setFld (evlogHead part) value.toNat
      else s.rejectInput)

end Sys2Proof.Machine
end

