-- ==== Sys2Proof/Machine/Herb.lean ====
section
/-! DEFINITION. The Herbarium (spec/11 R538 to R545; spec/05 R257 to R259, R269) and INVOKE (spec/10 R490). -/

namespace Sys2Proof.Machine

def herbCmd (fn hi lo : Nat) : Field := fnField fn 0x00300020 hi lo
def herbStage : Nat := 0x00300100
def telHerb (off : Nat) : Nat := liveKey (0x00C00080 + off)

/-- The Herbarium partition, where one exists. -/
def State.herbPart (s : State) : Option Nat := (s.parts.find? fun x => x.2.st != .free && x.2.herb).map (·.1)

/-- The reserve and the store, in bytes (R257, R539). -/
def State.reserveBytes (s : State) : Nat := s.fld herbWays * 2 ^ 25
def State.storeBytes (s : State) : Nat := s.fld herbStore * 131072

/-- A model's footprint in the store (R541). -/
def Model.footprint (m : Model) : Nat := (m.codeBytes + 4095) / 4096 * 4096 + m.imageBytes

def State.registered (s : State) : List (Nat × Model) := s.models.filter (·.2.registered)
def sumBy (f : Model → Nat) (ms : List (Nat × Model)) : Nat := ms.foldl (fun n x => n + f x.2) 0

/-- Models that hold a residency entry, resident or filling. -/
def State.entries (s : State) : List (Nat × Model) := s.registered.filter fun x => x.2.resident || x.2.filling

/-- Pinning one more model is refused (R541). -/
def State.herbPinRefused (s : State) (h : Nat) (m : Model) : Bool :=
  let ps := (h, m) :: s.registered.filter fun x => x.2.pinned && x.1 != h
  decide (63 < ps.length) || decide (s.reserveBytes < sumBy Model.weightBytes ps) || decide (s.storeBytes < sumBy Model.footprint ps)

/-! ### Fills and evictions (R541, R542) -/

/-- A model fits beside those that hold entries. -/
def State.herbFits (s : State) (m : Model) : Bool :=
  let es := s.entries
  decide (es.length < 64) && decide (sumBy Model.footprint es + m.footprint ≤ s.storeBytes) &&
    decide (sumBy Model.weightBytes es + m.weightBytes ≤ s.reserveBytes)

/-- The least recently used model that may be evicted. -/
def State.herbVictim (s : State) : Option Nat :=
  ((s.registered.filter fun x => x.2.resident && !x.2.pinned && !s.inUse x.1).foldl
    (fun (b : Option (Nat × Nat)) x => match b with
      | none => some (x.1, x.2.used)
      | some y => if x.2.used < y.2 then some (x.1, x.2.used) else some y) none).map (·.1)

/-- Models are evicted until the model fits, and its fill starts; `fuel` bounds the evictions. Where every model that
could go is in use, the miss waits. -/
def State.herbTry (s : State) (h : Nat) : Nat → State
  | 0 => s
  | fuel + 1 =>
    let m := s.model h
    if m.resident || m.filling || !m.registered then s
    else if s.herbFits m then s.setModel h { m with filling := true, refill := false }
    else match s.herbVictim with
      | some v => ((s.unload v).bump (telHerb 0x18)).herbTry h fuel
      | none => s

/-- Prefetches of a model that has become resident, or that is gone, end. -/
def State.endPrefetch (s : State) (h st : Nat) : State :=
  (s.prefetches.filter (·.2 == h)).foldl (fun s x => (s.setFld (herbCmd x.1 27 24) st).setFld (herbCmd x.1 31 31) 0)
    { s with prefetches := s.prefetches.filter (·.2 != h) }

/-- The misses that wait are tried again, oldest command first; then prefetches (R542, R545). -/
def State.herbKick (s : State) : State :=
  let waits := s.queues.flatMap fun x => x.2.cmds.filterMap fun c => match c.work with
    | .model h => some (c.id, h)
    | _ => none
  let s := ((s.prefetches.filter fun x => !(s.model x.2).registered).map (·.2)).foldl (fun s h => s.endPrefetch h 2) s
  let hs := (rankSort waits).map (·.2) ++ s.prefetches.map (·.2)
  hs.foldl (fun s h => s.herbTry h 65) s

/-- The Herbarium controller, for its fills of a page (R387). -/
def State.whoHerb (s : State) (p page : Nat) : Who := { part := p, tag := s.privTag 2 page }

/-- A line of the weights of a model. -/
def Model.holds (m : Model) (line : Nat) : Bool := m.weightAt.any fun r => decide (r.1 / 128 ≤ line) && decide (line < (r.1 + r.2 + 127) / 128)

/-- The reserve way that a weight line of model `h` takes: an empty one, else one that holds nothing of the reserve, else one free of
pinned lines (R542), whose lines of other models leave it. Lines of the model itself stay, and so do those in use (DESIGN CHOICE, log 79). -/
def State.reserveWay (s : State) (h line : Nat) : Option Nat :=
  let fs := s.setFrames line
  let ways := List.range (s.fld herbWays)
  let at_ (w : Nat) : List (Nat × Frame) := fs.filter fun x => x.2.way == w
  let kept := s.registered.filter fun x => x.2.pinned || x.1 == h
  let held (x : Nat × Frame) : Bool := (s.miss x.1).isSome || s.stuck x.1 x.2.dirty
  let can (ok : Nat × Frame → Bool) (w : Nat) : Bool := (at_ w).all fun x => ok x && !held x
  ((ways.find? fun w => (at_ w).isEmpty).orElse fun _ => ways.find? (can fun x => !x.2.reserve)).orElse fun _ =>
    ways.find? (can fun x => !(x.2.reserve && kept.any fun m => m.2.holds x.1))

/-- A line of a model's weights in a reserve way, or, where its set has none for it, in an ordinary way as a spill (R258, R542). Its pair
is tried for compression (R246). -/
def State.reserveLine (s : State) (p h line : Nat) : State :=
  let way := s.reserveWay h line
  let who := s.whoHerb p (line / 512)
  match way with
  | some w =>
    let s := (((s.setFrames line).filter fun x => x.2.way == w && x.1 != line).map (·.1)).foldl State.evict s
    let need := s.lacks line 15
    let old := (s.frame line).getD { way := w, valid := 0 }
    let s := if s.keyless (line / 512) then
        ((List.range 4).filter fun i => bitOf need i).foldl (fun s i => s.poisonSector (4 * line + i)) s else s
    let s := ((s.chanBytes who line (32 * sectorCount need)).meet line old.valid p).unpair line
    (s.setFrame line (some { way := w, valid := 15, dirty := old.dirty, fwd := old.fwd, tag := who.tag, part := p, reserve := true })).pack line
  | none => (s.homeRead who line 15).bump (telHerb 0x10)

/-- The kernel of an INVOKE (R543). -/
def State.startInvoke (s : State) (qn id h : Nat) : State :=
  let m := s.model h
  match (s.queue qn).cmd? id with
  | none => s
  | some c =>
    let n := c.le 0x14 4
    s.startKernel qn id fun k => { k with
      entry := m.entry, blkCount := (n + m.items - 1) / m.items, blkClauses := m.clauses, granules := m.granules
      spmSplit := m.spmSplit, blkSpm := m.blkSpm, tilesMax := m.tiles
      invoke := some { handle := h, input := BitVec.ofNat 64 (c.le 0x18 8), output := BitVec.ofNat 64 (c.le 0x20 8), count := n
                       param := BitVec.ofNat 64 (c.le 0x28 8), weights := m.weights } }

/-- A model is most recently used. -/
def State.herbUse (s : State) (h : Nat) : State :=
  ({ s with herbTick := s.herbTick + 1 }).setModel h { s.model h with used := s.herbTick + 1 }

/-- HERB_FILL_DONE: the model is resident, and the INVOKEs that waited for it start. After a rotation pinned models are
refilled first (Table 5.11). -/
def execHerbFillDone (handle : Nat) (s : State) : Res :=
  unit (decide (handle < 1024)) (
    let m := s.model handle
    if !m.filling || s.rotating || (m.refill && !m.pinned && s.registered.any fun x => x.2.refill && x.2.pinned && x.2.filling) then s
    else match s.herbPart with
      | none => s
      | some p => if (s.part p).st != .ready then s else
        let images := (m.imageAt.filter (!·.1)).map (·.2)
        match s.gate (s.whoHerb p 0) (m.weightAt ++ images) [] with
        | (s, false) => s
        | (s, true) =>
        let s := (m.weightAt.flatMap byteLines).foldl (State.reserveLine · p handle) s
        let s := images.foldl (fun s r => s.homeReads (s.whoHerb p (r.1 / 65536)) [r]) s
        let image := m.imageAt.flatMap fun r => (s.fetch ⟨r.1, r.2.1⟩ r.2.2).1
        let s := s.setModel handle { m with filling := false, refill := false, resident := true, imageData := image }
        let ts := (List.range 48).flatMap fun g => if bitOf (s.part p).groups g then (List.range 32).map (32 * g + ·) else []
        let s := ts.foldl (fun (s : State) t =>
          let x := s.tile t
          let x := if x.lastPart == some p then x else { x with spm := [], acc := [], lastPart := some p }
          s.setTile t { x with store := insertNat handle x.store }) s
        let s := (s.herbUse handle).endPrefetch handle 0
        let waits := s.queues.flatMap fun x => x.2.cmds.filterMap fun c => if c.work == .model handle then some (c.id, x.1) else none
        (rankSort waits).foldl (fun s x => s.startInvoke x.2 x.1 handle) s)

/-! ### INVOKE -/

def invokeOk (r : List Byte) : Bool := allZero r 0x12 2 && allZero r 0x30 16

/-- INVOKE. -/
def execInvoke (queue : Nat) (s : State) : Res :=
  onFront 0x0F (fun _ => true) invokeOk queue s fun d s =>
    let h := rawLe d.bytes 0x10 2
    let m := s.model h
    if !m.registered || m.ctx != (s.queue queue).ctx then s.endFront queue d 0x0B
    else if rawLe d.bytes 0x14 4 = 0 then s.endFront queue d 0
    else
      let id := s.fresh
      let s := s.dispatch queue d (.model h) false
      if m.resident then ((s.bump (telHerb 0)).herbUse h).startInvoke queue id h
      else (s.bump (telHerb 8)).herbTry h 65

/-! ### HERB_CMD (Tables 11.13, 11.15, R641, R647) -/

/-- The function owns the Herbarium partition. -/
def State.herbOwned (s : State) (fn : Nat) : Bool := match s.herbPart with
  | some p => s.owns fn p
  | none => false

/-- The fields of HERB_CMD that software writes (R20). -/
def State.herbFields (s : State) (fn op handle : Nat) : State := (s.setFld (herbCmd fn 2 0) op).setFld (herbCmd fn 17 8) handle

/-- An op of HERB_CMD: ignored while an earlier one runs; refused where there is no Herbarium partition of the function. `f` gives its
status; none where it has to be sent again. -/
def herbOp (op : Nat) (fn : Nat) (handle : Nat) (s : State) (f : State → State × Option Nat) : Res :=
  viaFn fn s fun s =>
    if s.fld (herbCmd fn 31 31) = 1 then s.herbFields fn op handle
    else
      let s := s.setFld (herbCmd fn 17 8) handle
      if !s.herbOwned fn then s.cmdDone (herbCmd fn) op 5
      else match f s with
        | (s, some st) => s.cmdDone (herbCmd fn) op st
        | (s, none) => s

/-- The fields of a model descriptor that need no translation. -/
def State.modelOk (s : State) (d : List Byte) : Bool :=
  rawLe d 0 1 == 2 && decide (rawLe d 1 1 < 2) && decide (rawLe d 2 2 < 1024) && decide (rawLe d 4 2 < 4096) &&
    decide (rawLe d 7 1 < 32) && rawLe d 9 1 == 0 && rawLe d 0x0C 4 != 0 && rawLe d 0x18 8 % 65536 == 0 &&
    rawLe d 0x20 4 % 128 == 0 && decide (rawLe d 0x20 4 ≤ s.reserveBytes) && rawLe d 0x24 4 % 8 == 0 &&
    decide (rawLe d 0x24 4 ≤ 65536) && rawLe d 0x28 4 % 4096 == 0 && decide (rawLe d 0x28 4 ≤ rawLe d 8 1 * 4096) &&
    allZero d 0x2C 4 && allZero d 0x38 8

/-- A registration: the model, or the status that refuses it (R540, R541); none while a table's home is not free. -/
def State.herbCheck (s : State) (p : Nat) (d : List Byte) : State × Option (Model ⊕ Nat) :=
  let ctx := rawLe d 4 2
  let b := rawLe d 6 1
  let m : Model := {
    ctx := ctx, clauses := b % 32 + 1, spmSplit := b / 32, granules := rawLe d 7 1 + 1, blkSpm := rawLe d 8 1, tiles := rawLe d 0x0A 2
    items := rawLe d 0x0C 4, entry := BitVec.ofNat 64 (rawLe d 0x10 8), weights := BitVec.ofNat 64 (rawLe d 0x18 8)
    weightBytes := rawLe d 0x20 4, codeBytes := rawLe d 0x24 4, imageBytes := rawLe d 0x28 4, pinned := rawLe d 1 1 == 1 }
  if !s.modelOk d || (s.ctx ctx).st != .live || (s.ctx ctx).part != p then (s, some (.inr 1))
  else if (s.model (rawLe d 2 2)).registered then (s, some (.inr 2))
  else if !s.launchFits p m.clauses m.granules m.spmSplit m.blkSpm || (m.pinned && s.herbPinRefused 1024 m) then (s, some (.inr 4))
  else
    let who := s.whoHerb p 0
    let fail (s : State) (f : XFail) : State × Option (Model ⊕ Nat) := (s, if f == .wait then none else some (.inr 1))
    match s.places who ctx .read m.weights m.weightBytes with
    | (s, .inr f) => fail s f
    | (s, .inl ws) => match s.places who ctx .exec m.entry m.codeBytes with
      | (s, .inr f) => fail s f
      | (s, .inl _) => match s.places who ctx .read (BitVec.ofNat 64 (rawLe d 0x30 8)) m.imageBytes with
        | (s, .inr f) => fail s f
        | (s, .inl is) =>
          if ws.any (·.1.host) then (s, some (.inr 1))
          else
            let pages := (ws.map fun l => l.1.addr / 65536).eraseDups
            if s.pinRefused pages then (s, some (.inr 4))
            else (s, some (.inl { m with
              weightAt := ws.map fun l => (l.1.addr, l.2), imageAt := is.map fun l => (l.1.host, l.1.addr, l.2)
              pins := pages.filter fun n => !(s.page n).pinned }))

/-- HERB_REGISTER. A refused registration changes no model and no pin; one whose walk waits for a home is sent again (log 12). -/
def execHerbRegister (fn : Nat) (s : State) : Res :=
  herbOp 1 fn (s.fld (herbCmd fn 17 8)) s fun s =>
    let d := s.staged fn herbStage 8
    match s.herbCheck (s.herbPart.getD 0) d with
    | (s, none) => (s, none)
    | (s, some (.inr st)) => (s, some st)
    | (s, some (.inl m)) => ((m.pins.foldl (fun s p => s.setPin p 1) s).setModel (rawLe d 2 2) m, some 0)

/-- HERB_UNREGISTER. -/
def execHerbUnregister (fn : Nat) (handle : BitVec 10) (s : State) : Res :=
  herbOp 2 fn handle.toNat s fun s =>
    let h := handle.toNat
    if !(s.model h).registered then (s, some 2)
    else if s.inUse h then (s, some 3)
    else ((s.unregister h).endPrefetch h 2, some 0)

/-- HERB_PIN. -/
def execHerbPin (fn : Nat) (handle : BitVec 10) (s : State) : Res :=
  herbOp 3 fn handle.toNat s fun s =>
    let h := handle.toNat
    let m := s.model h
    if !m.registered then (s, some 2)
    else if s.herbPinRefused h m then (s, some 4)
    else (s.setModel h { m with pinned := true }, some 0)

/-- HERB_UNPIN. -/
def execHerbUnpin (fn : Nat) (handle : BitVec 10) (s : State) : Res :=
  herbOp 4 fn handle.toNat s fun s =>
    let h := handle.toNat
    let m := s.model h
    if m.registered then ((s.setModel h { m with pinned := false }).herbKick, some 0) else (s, some 2)

/-- HERB_PREFETCH: go reads 1 until the model is resident (R545). -/
def execHerbPrefetch (fn : Nat) (handle : BitVec 10) (s : State) : Res :=
  viaFn fn s fun s =>
    let h := handle.toNat
    if s.fld (herbCmd fn 31 31) = 1 then s.herbFields fn 5 h
    else
      let s := s.setFld (herbCmd fn 17 8) h
      if !s.herbOwned fn then s.cmdDone (herbCmd fn) 5 5
      else if !(s.model h).registered then s.cmdDone (herbCmd fn) 5 2
      else if (s.model h).resident then (s.herbUse h).cmdDone (herbCmd fn) 5 0
      else
        let s := { s with prefetches := s.prefetches ++ [(fn, h)] }
        (((s.setFld (herbCmd fn 2 0) 5).setFld (herbCmd fn 27 24) 0).setFld (herbCmd fn 31 31) 1).herbTry h 65

end Sys2Proof.Machine
end

