-- ==== Sys2Proof/Machine/Ctxs.lean ====
section
/-! DEFINITION. Contexts and the invalidation of translations (spec/11 R506 to R511, R517, R518, Tables 11.1 to 11.6; spec/00
R13, R14; spec/15 R640, R641, R647). -/

namespace Sys2Proof.Machine

def ctxCmd (fn hi lo : Nat) : Field := fnField fn 0x00202100 hi lo
def ctxInfo (fn i : Nat) : Nat := fnKey fn (0x00202110 + 8 * i)
def invVa (fn : Nat) : Nat := fnKey fn 0x00202140
def inv1 (fn hi lo : Nat) : Field := fnField fn 0x00202148 hi lo
def cohCtx (p : Nat) : Field := ⟨0x00602010 + 64 * p, 27, 16⟩

/-- An op of CTX_CMD: `f` gives its effect and status once the function has committed its negotiation. -/
def ctxOp (op : Nat) (fn : Nat) (ctx : Option Nat) (s : State) (f : State → State × Nat) : Res :=
  viaFn fn s fun s =>
    let s := match ctx with
      | some c => s.setFld (ctxCmd fn 19 8) c
      | none => s
    if !s.committed fn then s.cmdDone (ctxCmd fn) op 5
    else match f s with
      | (s, st) => s.cmdDone (ctxCmd fn) op st

/-- The device pages of a context's save area (R507). -/
def State.saveArea (s : State) (x : Ctx) : List Nat :=
  (List.range (x.saveSlots * x.slotPages)).filterMap fun i =>
    (grantByte (s.part x.part).grant ((x.savePpn + i) * 65536)).map (· / 65536)

def grantPages (g : List (Nat × Nat)) : Nat := g.foldl (fun n x => n + x.2) 0

/-- The fields of Table 11.1 other than the version and the partition. -/
def ctxDescOk (d : List Byte) : Bool :=
  decide (rawLe d 1 1 < 2) && decide (rawLe d 2 1 < 48) && decide (rawLe d 3 1 < 2) && decide (rawLe d 4 4 < 2 ^ 20) &&
    rawLe d 8 8 % 4096 == 0 && inLen 64 (rawLe d 0x14 4) && inLen 65535 (rawLe d 0x18 4) && allZero d 0x1C 228

/-- The context that a descriptor describes. -/
def State.ctxDesc (s : State) (fn : Nat) (d : List Byte) : Ctx :=
  { st := .live, fn := fn, part := rawLe d 2 1, bl1 := s.fld bootCompat == 1 || rawLe d 1 1 == 1, pasidEn := rawLe d 3 1 == 1
    pasid := rawLe d 4 4, ptRoot := rawLe d 8 8, savePpn := rawLe d 0x10 4, saveSlots := rawLe d 0x14 4, slotPages := rawLe d 0x18 4 }

/-- CTX_CREATE. -/
def execCtxCreate (fn : Nat) (s : State) : Res :=
  ctxOp 1 fn none s fun s =>
    let d := s.staged fn 0x00202000 32
    let x := s.ctxDesc fn d
    let p := x.part
    if rawLe d 0 1 != s.fld (negSel fn 23 20) then (s, 2)
    else if !ctxDescOk d || (fn ≠ 0 && p != fn - 1) then (s, 1)
    else if !s.owns fn p then (s, 4)
    else match tabFind (fun c => (s.ctx c).st == .free) 0 4096 with
      | none => (s, 3)
      | some c =>
        if (s.part p).st != .ready || (s.part p).ctxMax ≤ (s.ctxs.filter fun y => y.2.st != .free && y.2.part == p).length then (s, 3)
        else if grantPages (s.part p).grant < x.savePpn + x.saveSlots * x.slotPages then (s, 1)
        else
          let pages := s.saveArea x
          if s.pinRefused pages then (s, 7)
          else (((pages.foldl (fun s n => s.setPin n 1) s).setCtx c x).setFld (ctxCmd fn 19 8) c, 0)

/-- A context that exists and whose partition the function owns. -/
def State.ctxOwned (s : State) (fn c : Nat) : Bool := (s.ctx c).st != .free && s.owns fn (s.ctx c).part

/-- A context returns to FREE: its translations, page requests, models and save area go (R507, R509, R545). -/
def State.freeCtx (s : State) (c : Nat) : State :=
  let hs := (s.registered.filter fun x => x.2.ctx == c).map (·.1)
  let s := hs.foldl (fun s h => (s.unregister h).endPrefetch h 2) s
  let pages := s.saveArea (s.ctx c)
  let s := ({ s with xcache := s.xcache.filter (·.ctx != c), pageReqs := s.pageReqs.filter (·.ctx != c) }.sendPages).setCtx c {}
  pages.foldl (fun s n => s.setPin n 0) s

/-- CTX_DESTROY. -/
def execCtxDestroy (fn : Nat) (ctx : BitVec 12) (s : State) : Res :=
  ctxOp 2 fn (some ctx.toNat) s fun s =>
    let c := ctx.toNat
    if !s.ctxOwned fn c then (s, 4)
    else if s.queues.any (fun x => x.2.st != .empty && x.2.ctx == c) ||
        (List.range 48).any fun p => s.fld (cohEpoch p) != 0 && s.fld (cohCtx p) == c then (s, 6)
    else (s.freeCtx c, 0)

/-- CTX_QUERY: fills the function's CTX_INFO (Table 11.4). -/
def execCtxQuery (fn : Nat) (ctx : BitVec 12) (s : State) : Res :=
  ctxOp 3 fn (some ctx.toNat) s fun s =>
    let x := s.ctx ctx.toNat
    if x.st != .free && !s.owns fn x.part then (s, 4)
    else
      let st := match x.st with
        | .free => 0
        | .live => 1
        | .lost => 2
      let put (s : State) (i : Nat) (v : W64) : State := s.setWord (ctxInfo fn i) v
      let s := put s 0 (BitVec.ofNat 64 (st + 2 ^ 8 * x.cause + 2 ^ 16 * x.status + 2 ^ 32 * x.seq))
      (put (put (put (put s 1 x.faultVa) 2 (BitVec.ofNat 64 x.queue)) 3 x.launched) 4 x.completed, 0)

/-- CTX_KILL: loss with cause KILLED. -/
def execCtxKill (fn : Nat) (ctx : BitVec 12) (s : State) : Res :=
  ctxOp 4 fn (some ctx.toNat) s fun s =>
    if s.ctxOwned fn ctx.toNat then ((s.loseCtx ctx.toNat 0x16 8 0 0 0).flush, 0) else (s, 4)

/-! ### Invalidation (R517, R518, R242) -/

/-- The L1s of the tiles that run a kernel of one of these contexts invalidated. -/
def State.dropL1 (s : State) (is : Nat → Bool) : State :=
  { s with tiles := tabMap tileNone (fun _ t => match t.kernel with
      | some k => if is (s.kernel k).ctx then { t with l1 := [] } else t
      | none => t) s.tiles }

/-- A request made for a clause at an address that was translated for it. -/
def Req.translated (q : Req) : Bool := match q.src with
  | .clause _ | .watchRead _ | .args _ _ | .prefetch _ _ => q.kind != .unwatch
  | _ => false

/-- Accesses of a context issued before identifier `n` and not yet performed. -/
def State.outstanding (s : State) (ctx n : Nat) : Bool :=
  let mine (k : Nat) : Bool := (s.kernel k).ctx == ctx
  let r (q : Req) : Bool := decide (q.id < n) && q.translated && mine q.kernel
  s.reqs.any r || (s.hostReqs.any fun q => decide (q.id < n) && mine q.kernel) || s.misses.any fun m => match m.2 with
    | some m => m.waiters.any r
    | none => false

/-- CTX_INV: the cached translations of a range of pages are dropped; `go` reads 1 until CTX_INV_DONE. -/
def execCtxInv (fn : Nat) (pages : W32) (ctx : BitVec 12) (s : State) : Res :=
  viaFn fn s fun s =>
    let go := s.fld (inv1 fn 63 63) == 1
    let c := ctx.toNat
    let s := (s.setFld (inv1 fn 31 0) pages.toNat).setFld (inv1 fn 43 32) c
    if go then s
    else
      if (s.ctx c).st != .live || !s.owns fn (s.ctx c).part then s.setFld (inv1 fn 47 44) 1
      else
        let s := (s.dropX c ((s.word (invVa fn)).toNat / 4096) pages.toNat).dropL1 (· == c)
        let s := (s.setFld (inv1 fn 47 44) 0).setFld (inv1 fn 63 63) 1
        { s with invs := s.invs ++ [(fn, c, s.fresh)] }

/-- CTX_INV_DONE: every access translated through an old entry has been performed. -/
def execCtxInvDone (fn : Nat) (s : State) : Res :=
  unit (fnOk fn) (
    match s.invs.find? (·.1 == fn) with
    | some (_, c, n) =>
      if s.outstanding c n then s
      else
        let s := { s.dropL1 (· == c) with invs := s.invs.filter (·.1 != fn) }
        (s.setFld (inv1 fn 63 63) 0).setFld (inv1 fn 62 62) 1
    | none => s)

/-- ATS_INVALIDATE: translations of a virtual function's contexts that lead to a range of host pages are dropped; it is
complete under the conditions of R518. -/
def execAtsInvalidate (fn : Nat) (addr : W64) (pages : Nat) (s : State) : Res :=
  unit (fnOk fn) (
    let mine (c : Nat) : Bool := (s.ctx c).fn == fn && (s.ctx c).st != .free
    if s.hostReqs.any fun q => mine (s.kernel q.kernel).ctx then s
    else
      let a := addr.toNat / 4096 * 4096
      let hit (x : XEntry) : Bool := fn != 0 && x.host && mine x.ctx && decide (x.off < a + 4096 * pages) && decide (a < x.off + 4096 * x.pages)
      let s := { s with xcache := s.xcache.filter fun x => !hit x }
      let s := if fn = 0 then s else s.dropL1 mine
      { s with sent := .atsDone fn :: s.sent })

end Sys2Proof.Machine
end

