-- ==== Sys2Proof/Machine/Fabric.lean ====
section
/-! DEFINITION. Fabric messages: their header, sealing and opening, the port they take, and what a port holds until it is
acknowledged (spec/09 R411 to R424; spec/12 R566 to R568, R570). -/

namespace Sys2Proof.Machine

/-! ### Registers (Tables 9.9 to 9.16, 12.4) -/

def fabId (hi lo : Nat) : Field := fieldAt 0x00600000 hi lo
def fabTmo (hi lo : Nat) : Field := ⟨0x00600010, hi, lo⟩
def portCtl (p hi lo : Nat) : Field := fieldAt (0x00601000 + 64 * p) hi lo
def portStat (p hi lo : Nat) : Field := ⟨0x00601008 + 64 * p, hi, lo⟩
def fabRt (d : Nat) : Field := ⟨0x00610000 + 8 * d, 31, 0⟩
def cohFence (p : Nat) : Field := ⟨0x00602008 + 64 * p, 0, 0⟩
def cohCfg (p hi lo : Nat) : Field := ⟨0x00602010 + 64 * p, hi, lo⟩
def cohStat (p hi lo : Nat) : Field := ⟨0x00602018 + 64 * p, hi, lo⟩
def cohRpl (p : Nat) : Field := ⟨0x00602020 + 64 * p, 31, 0⟩
def membBit (p d : Nat) : Field := ⟨0x00640000 + 2048 * p + 8 * (d / 64), d % 64, d % 64⟩
def watchEnt (p i : Nat) : Field := ⟨0x00680000 + 512 * p + 8 * (i / 4), 16 * (i % 4) + 13, 16 * (i % 4)⟩

def State.modId (s : State) : Nat := s.fld (fabId 13 0)
def State.idValid (s : State) : Bool := s.fld (fabId 31 31) == 1
def State.member (s : State) (p d : Nat) : Bool := decide (d < 16384) && s.fld (membBit p d) == 1
def State.members (s : State) (p : Nat) : List Nat := (List.range 16384).filter (s.member p)
def State.watched (s : State) (p : Nat) : List Nat :=
  (List.range (min 256 (s.fld (cohCfg p 40 32)))).map fun i => s.fld (watchEnt p i)
def State.epochOf (s : State) (p : Nat) : W32 := BitVec.ofNat 32 (s.fld (cohEpoch p))
def State.fenced (s : State) (p : Nat) : Bool := s.fld (cohStat p 0 0) == 1
def State.encOf (s : State) (p : Nat) : Bool := s.fld (cohCfg p 0 0) == 1

def State.cohort (s : State) (p : Nat) : Cohort := tabGet (fun _ => {}) s.cohorts p
def State.setCohort (s : State) (p : Nat) (c : Cohort) : State := { s with cohorts := tabSet (fun _ => {}) s.cohorts p c }
def State.port (s : State) (p : Nat) : Port := tabGet (fun _ => {}) s.ports p
def State.setPort (s : State) (p : Nat) (x : Port) : State := { s with ports := tabSet (fun _ => {}) s.ports p x }
def State.xfer (s : State) (x : Nat) : Option Xfer := tabGet (fun _ => none) s.xfers x
def State.setXfer (s : State) (x : Nat) (f : Xfer) : State := { s with xfers := tabSet (fun _ => none) s.xfers x (some f) }

def xferTag (x : Nat) : W32 := BitVec.ofNat 32 x

/-! ### The header (Table 9.5) -/

/-- Header bytes 0x00 to 0x1F. -/
def FabMsg.head (m : FabMsg) : List Byte :=
  leBytes 1 m.type ++ leBytes 1 (b2n m.poison + 2 * b2n m.enc) ++ leBytes 2 (m.dst % 16384 + 16384 * m.hop) ++
    leBytes 2 m.src ++ leBytes 1 m.dpart ++ leBytes 1 m.spart ++ leBytes 4 m.epoch.toNat ++ leBytes 4 m.counter.toNat ++
    leBytes 8 m.addr.toNat ++ leBytes 2 m.len ++ leBytes 1 m.seg ++ leBytes 1 m.ver ++ leBytes 4 m.tag.toNat

/-- A message as its bytes spell it. `rsv` gathers the reserved bits. -/
def parseMsg (b : List Byte) : FabMsg :=
  let f (o n : Nat) := rawLe b o n
  { type := f 0 1, poison := bitOf (f 1 1) 0, enc := bitOf (f 1 1) 1, dst := f 2 2 % 16384, hop := f 2 2 / 16384
    src := f 4 2 % 16384, dpart := f 6 1 % 64, spart := f 7 1 % 64, epoch := BitVec.ofNat 32 (f 8 4)
    counter := BitVec.ofNat 32 (f 12 4), addr := BitVec.ofNat 64 (f 16 8), len := f 24 2, seg := f 26 1 % 64
    ver := f 27 1 % 16, tag := BitVec.ofNat 32 (f 28 4), gcm := BitVec.ofNat 128 (f 32 16), data := b.drop 48
    rsv := f 1 1 / 4 + f 4 2 / 16384 + f 6 1 / 64 + f 7 1 / 64 + f 26 1 / 64 + f 27 1 / 16 }

def FabMsg.dataLen (m : FabMsg) : Nat := if m.type = 3 then 0 else m.len

/-- CTL messages are of types 0x10 to 0x14; responses are GET_DATA, ACK and KV_CREDIT (Table 9.6). -/
def FabMsg.isCtl (m : FabMsg) : Bool := decide (0x10 ≤ m.type)
def FabMsg.isRsp (m : FabMsg) : Bool := m.type == 4 || m.type == 5 || m.type == 8

/-- A message that a receiver takes: of a type of Table 9.6 with the data of its type, and no reserved bit (R415). -/
def FabMsg.legal (m : FabMsg) : Bool :=
  m.rsv == 0 && match m.type with
    | 1 | 3 | 4 | 6 | 7 => decide (1 ≤ m.len) && decide (m.len ≤ 16384)
    | 2 => m.len == 8 && m.addr.toNat % 8 == 0
    | 5 => m.len == 8
    | 8 | 0x10 | 0x11 | 0x12 | 0x13 | 0x14 => m.len == 0
    | _ => false

/-- The flits of a message (R414, R417). -/
def FabMsg.flits (m : FabMsg) : Nat := 1 + (m.data.length - 200 + 247) / 248

/-- The virtual channel of a message: the base of its class, and its hop (R418). -/
def FabMsg.channel (m : FabMsg) : Nat := (if m.isCtl then 8 else if m.isRsp then 4 else 0) + m.hop

/-! ### Flits (R411, Table 9.4) -/

/-- One step of CRC-32C, least significant bit first (PRESUMED, log 71: of the CRC the spec gives the polynomial alone). -/
def crcBit (c : Nat) : Nat := if c % 2 = 1 then Nat.xor (c / 2) 0x82F63B78 else c / 2
def crcByte (c : Nat) (b : Byte) : Nat := (List.range 8).foldl (fun c _ => crcBit c) (Nat.xor c b.toNat)
def crc32c (bs : List Byte) : Nat := Nat.xor (bs.foldl crcByte (2 ^ 32 - 1)) (2 ^ 32 - 1)

/-- Bytes 0 to 251 of a flit. -/
def flitBytes (f : Flit) : List Byte :=
  leBytes 4 (f.kind.toNat + f.vc.toNat * 2 ^ 2 + f.seq.toNat * 2 ^ 6 + f.ack.toNat * 2 ^ 18 + f.rsv.toNat * 2 ^ 30) ++
    (f.body ++ List.replicate (248 - f.body.length) 0).take 248

def flitOk (f : Flit) : Bool := crc32c (flitBytes f) == f.crc.toNat

/-- A flit with its CRC. -/
def sealFlit (f : Flit) : Flit := { f with crc := BitVec.ofNat 32 (crc32c (flitBytes f)) }

/-- The flits of a message on its link: its header and data fill a head flit and then body flits; a CTL message goes in a control
flit (R414, R418). -/
def FabMsg.layOut (m : FabMsg) (first ack : BitVec 12) : List Flit :=
  let bs := m.head ++ leBytes 16 m.gcm.toNat ++ m.data
  (List.range m.flits).map fun i => sealFlit {
    kind := if m.isCtl then 3 else if i = 0 then 1 else 2, vc := BitVec.ofNat 4 m.channel, seq := first + BitVec.ofNat 12 i
    ack := ack, rsv := 0, body := (bs.drop (248 * i)).take 248, crc := 0 }

/-! ### Sealing (R419, R566 to R568, Table 12.3) -/

def ackStatus (data : List Byte) : Nat := rawLe data 0 1

/-- The messages that K_0 seals, which can cross epochs. -/
def FabMsg.crosses (m : FabMsg) (plain : List Byte) : Bool :=
  m.type == 0x13 || m.type == 0x14 || (m.type == 5 && (ackStatus plain == 5 || ackStatus plain == 0x0F))

/-- Table 12.3. -/
def nonce (src part : Nat) (epoch : W32) (g : Nat) (c : W32) : Nat :=
  src * 2 ^ 82 + part * 2 ^ 76 + epoch.toNat % 4096 * 2 ^ 64 + g % 2 ^ 32 * 2 ^ 32 + c.toNat

/-- The nonce's bytes, the most significant first (R567). -/
def nonceBytes (n : Nat) : List Byte := (leBytes 12 n).reverse

/-! HKDF-Expand over SHA-384 for 32 bytes, which one block of HMAC gives (R566). A digest's bytes and a key's are numbered least
significant first (R16). -/

def keyPad (key : Nat) (x : Byte) : List Byte := (leBytes 128 key).map (· ^^^ x)
def hmac384 (key : Nat) (m : List Byte) : Nat :=
  Config.sha384 (keyPad key 0x5C ++ leBytes 48 (Config.sha384 (keyPad key 0x36 ++ m)))
def hkdfExpand32 (key : Nat) (info : List Byte) : Nat := hmac384 key (info ++ [1]) % 2 ^ 256

/-- The traffic key of an epoch: the info is "KZ2-XFL" and the epoch (R566). -/
def epochKey (key : Nat) (e : W32) : Nat := hkdfExpand32 key ([0x4B, 0x5A, 0x32, 0x2D, 0x58, 0x46, 0x4C] ++ leBytes 4 e.toNat)

/-- The associated data: header bytes 0x00 to 0x1F (R567). -/
def FabMsg.aad (m : FabMsg) : List Byte := m.head

/-- A message sealed with a master key. -/
def FabMsg.seal (m : FabMsg) (key g : Nat) : FabMsg :=
  let k := Machine.epochKey key (if m.crosses m.data then 0 else m.epoch)
  let n := nonceBytes (nonce m.src m.spart m.epoch g m.counter)
  let m := { m with enc := !m.isCtl }
  let c := if m.isCtl then m.data else Config.gcmSeal k n m.data
  { m with data := c, gcm := Config.gcmTag k n m.aad c }

/-- A message opened with a master key, or none where its tag does not verify. An ACK may stand under either key. -/
def FabMsg.open? (m : FabMsg) (key g : Nat) : Option FabMsg :=
  let n := nonceBytes (nonce m.src m.spart m.epoch g m.counter)
  let try_ (k : Nat) (cross : Bool) : Option FabMsg :=
    if Config.gcmTag k n m.aad m.data != m.gcm then none
    else
      let d := if m.isCtl then m.data else Config.gcmOpen k n m.data
      if m.crosses d == cross then some { m with data := d } else none
  match try_ (Machine.epochKey key m.epoch) false with
  | some x => some x
  | none => try_ (Machine.epochKey key 0) true

/-! ### The port a message takes (R418, R420 to R424) -/

def State.portUp (s : State) (p : Nat) : Bool := s.fld (portStat p 2 0) == 5 || s.fld (portStat p 2 0) == 6

/-- The ports of a route, from a start on, in ascending order with wrap-around. -/
def rotate (n : Nat) (xs : List Nat) : List Nat := xs.drop n ++ xs.take n

def State.routePort (s : State) (m : FabMsg) : Option Nat :=
  let ps := (List.range 32).filter (bitOf (s.fld (fabRt m.dst)))
  let i := if m.isCtl then 0 else Config.routeHash m.src m.spart m.tag.toNat m.seg % ps.length
  (rotate i ps).find? s.portUp

def Port.heldFlits (q : Port) : Nat := q.held.foldl (fun n h => n + h.n) 0

/-- The bytes of a message over a port (R605), charged to the queue of its transfer, or to its partition here. -/
def State.portBytes (s : State) (m : FabMsg) (out : Bool) : State :=
  let mine := s.xfers.findSome? fun x => if xferTag x.1 == m.tag then x.2 else none
  let w : Who := if out && m.src != s.modId then {}
    else match mine with
      | some t => if m.isCtl || (out == m.isRsp) then { part := if out then m.spart else m.dpart } else { queue := some t.queue }
      | none => { part := if out then m.spart else m.dpart }
  s.charge w (50 * (48 + m.data.length))

/-- The transfer of this module whose exact data a message carries. -/
def State.exactOf (s : State) (m : FabMsg) : Option Nat :=
  if m.type != 6 || m.src != s.modId then none
  else s.xfers.findSome? fun x => match x.2 with
    | some t => if xferTag x.1 == m.tag && t.kind == .coll && t.coll.fmt.getLsbD 0 then some x.1 else none
    | none => none

/-- A message put to a port: into the replay buffer if its flits have room and none waits before it. A version-1 link carries no
collective data in exact mode: the collective is to fail (R405). -/
def State.sendOn (s : State) (p : Nat) (m : FabMsg) : State :=
  let q := s.port p
  match if s.fld (portStat p 19 17) = 1 then s.exactOf m else none with
  | some x => { s with xfers := tabMap (fun _ => none) (fun y o => if y = x then o.map fun t => { t with oldLink := true } else o) s.xfers }
  | none =>
    if q.queue.isEmpty && q.heldFlits + m.flits ≤ 2048 then
      let s := s.portBytes m true
      { s.setPort p { q with held := q.held ++ [{ msg := m, first := q.txNext, n := m.flits }]
                             txNext := q.txNext + BitVec.ofNat 12 m.flits } with
        sent := .fabric p m (m.layOut q.txNext (q.rxNext - 1)) :: s.sent }
    else s.setPort p { q with queue := q.queue ++ [m] }

/-- Messages that wait at a port leave as far as there is room. -/
def State.fillPort (s : State) (p : Nat) : Nat → State
  | 0 => s
  | fuel + 1 =>
    let q := s.port p
    match q.queue with
    | [] => s
    | m :: ms =>
      if q.heldFlits + m.flits ≤ 2048 then
        let s := (s.setPort p { q with queue := [] }).sendOn p m
        (s.setPort p { s.port p with queue := ms }).fillPort p fuel
      else s

/-- HB and PACE travel on over Hypha, where a later one of a source module takes the place of one that waits (R386, Table 8.5). -/
def FabMsg.isHypha (m : FabMsg) : Bool := m.type == 0x10 || m.type == 0x11

/-- A message takes a port, waits for one, or is for this module itself. -/
def State.post (s : State) (m : FabMsg) : State :=
  if m.dst = s.modId then
    if m.isHypha && s.inbox.any (fun x => x.2.type == m.type && x.2.src == m.src) then
      { s with inbox := s.inbox.map fun x => if x.2.type = m.type ∧ x.2.src = m.src then (s.fresh, m) else x, fresh := s.fresh + 1 }
    else { s with inbox := s.inbox ++ [(s.fresh, m)], fresh := s.fresh + 1 }
  else match s.routePort m with
    | some p => s.sendOn p m
    | none => { s with outbox := s.outbox ++ [(s.fresh, m, s.now)], fresh := s.fresh + 1 }

/-- The messages that wait for a port are tried again, in order (R423, R424). -/
def State.repost (s : State) : State :=
  let ms := s.outbox
  ms.foldl (fun s x => match s.routePort x.2.1 with
    | some p => s.sendOn p x.2.1
    | none => { s with outbox := s.outbox ++ [x] }) { s with outbox := [] }

/-- The messages of a transfer with one of them noted as first sent. -/
def Xfer.noted (t : Xfer) (m : FabMsg) (now : Nat) : Xfer :=
  { t with msgs := t.msgs.map fun y =>
      if y.msg.addr == m.addr && y.msg.seg == m.seg && y.msg.dst == m.dst && y.since.isNone then
        { y with msg := m, since := some now }
      else y }

/-- A message as it was first sent, kept for its resend and its timer (R413, R443). -/
def State.noteSent (s : State) (m : FabMsg) : State :=
  if m.isCtl || m.isRsp then { s with kept := m :: s.kept }
  else
    let f (x : Nat) (t : Xfer) : Xfer := if xferTag x = m.tag then t.noted m s.now else t
    { s with xfers := tabMap (fun _ => none) (fun x o => o.map (f x)) s.xfers }

/-- A message of a partition is given its counter, sealed where its cohort is encrypted, and sent. With the slot RETIRING
it waits; with no key it is dropped (R556, R560, R561). -/
def State.sendFrom (s : State) (p : Nat) (m : FabMsg) : State :=
  let c := s.cohort p
  let m := { m with src := s.modId, spart := p, counter := c.counter }
  let next := c.counter + 1
  let s' := s.setCohort p { c with counter := next, wraps := if next = 0 then c.wraps + 1 else c.wraps }
  if s.encOf p then
    let k := s.keySlot (s.fld (cohCfg p 8 2))
    if k.type != 2 || k.st = 0 then s
    else if k.st = 2 then { s with stalled := s.stalled ++ [(p, m)] }
    else (s'.noteSent (m.seal k.key c.wraps)).post (m.seal k.key c.wraps)
  else (s'.noteSent m).post m

/-- Messages that waited for a slot are sealed and sent. -/
def State.unstall (s : State) : State :=
  let ms := s.stalled
  ms.foldl (fun s x => s.sendFrom x.1 x.2) { s with stalled := [] }

/-- An ACK of a message (R416), with a status. -/
def State.ackMsg (s : State) (p : Nat) (m : FabMsg) (status : Nat) : State :=
  s.sendFrom p {
    type := 5, dst := m.src, dpart := m.spart, epoch := m.epoch, addr := m.addr, len := 8, seg := m.seg, tag := m.tag,
    data := leBytes 8 status }

/-- A ROUTE_LOST NAK of a discarded message (R413): neither sealed nor authenticated. -/
def State.routeLost (s : State) (m : FabMsg) : State :=
  s.post {
    type := 5, dst := m.src, src := s.modId, dpart := m.spart, epoch := m.epoch, addr := m.addr, len := 8, seg := m.seg,
    tag := m.tag, data := leBytes 8 (256 + m.counter.toNat * 65536) }

/-! ### The replay state (R570, R571) -/

/-- The byte of device memory at an offset of a partition's replay area. -/
def State.rplByte (s : State) (p off : Nat) : Option Nat :=
  grantByte (s.part p).grant (s.fld (cohRpl p) * 65536 + off)

def State.rplRead (s : State) (p off n : Nat) : Nat :=
  leNat ((List.range n).map fun i => match s.rplByte p (off + i) with
    | some a => memByte s.mem a
    | none => 0)

/-- The places of a source module's entry, 272 bytes in all. -/
def State.rplPlaces (s : State) (p d : Nat) : List (Loc × Nat) :=
  (List.range 17).filterMap fun i => (s.rplByte p (272 * d + 16 * i)).map fun a => (⟨false, a⟩, 16)

/-- The extended counter h accepted last from a source module, and its window. -/
def State.replay (s : State) (p d : Nat) : Nat × Nat :=
  if s.rplRead p (272 * d) 4 != (s.epochOf p).toNat then (0, 0)
  else (s.rplRead p (272 * d + 4) 4 * 2 ^ 32 + s.rplRead p (272 * d + 8) 4, s.rplRead p (272 * d + 16) 256)

/-- The generation whose counter lies nearest to h: x of R570, as an integer. -/
def nearest (h c : Nat) : Int :=
  let g : Int := h / 2 ^ 32
  let d (x : Int) : Nat := (x - h).natAbs
  let at_ (k : Int) : Int := (g + k) * 2 ^ 32 + c
  let best (a b : Int) : Int := if d b < d a then b else a
  best (best (at_ 0) (at_ (-1))) (at_ 1)

/-- Whether the replay check passes. -/
def replayOk (h w : Nat) (x : Int) : Bool :=
  decide ((x - h).natAbs < 2 ^ 30) && decide (0 ≤ x) &&
    (decide ((h : Int) < x) || (decide ((h : Int) - 2048 < x) && !bitOf w ((h : Int) - x).toNat))

/-- An accepted counter entered, in partition memory (R571). -/
def State.replayTook (s : State) (p d : Nat) (h w : Nat) (x : Int) : State :=
  let (h', w') := if (h : Int) < x then (x.toNat, (w * 2 ^ (x - h).toNat + 1) % 2 ^ 2048) else (h, Nat.lor w (2 ^ ((h : Int) - x).toNat))
  s.storeAll { part := p } (s.rplPlaces p d) (leBytes 4 (s.epochOf p).toNat ++ leBytes 4 (h' / 2 ^ 32) ++ leBytes 4 h' ++
    leBytes 4 (s.rplRead p (272 * d + 12) 4) ++ leBytes 256 w') false

/-! ### What a partition takes (R415, R419, R441, R569) -/

/-- A message dropped under R441, counted in FAB_COH_STAT.stale. -/
def State.staleCount (s : State) (p : Nat) : State :=
  s.setFld (cohStat p 63 32) (min (2 ^ 32 - 1) (s.fld (cohStat p 63 32) + 1))

/-- The status a REQ refused under R441 is answered with; none where it takes effect. -/
def State.refusal (s : State) (p : Nat) (m : FabMsg) : Option Nat :=
  let e := s.epochOf p
  if e != 0 && m.epoch == e && !s.fenced p && s.member p m.src then none
  else
    let d := (e - m.epoch).toNat
    some (if decide (1 ≤ d) && decide (d ≤ 2 ^ 31) then 5 else 0x0F)

/-- Whether a transfer that carries a tag is open. A PUT that ended is so for the acknowledgements that are still due (R428; log 71). -/
def State.tagOpen (s : State) (p : Nat) (m : FabMsg) : Bool :=
  (s.xfers.any fun x => xferTag x.1 == m.tag && (match x.2 with
    | some t => t.part == p
    | none => false)) || s.putsOut.any fun y => y.2.tag == m.tag && y.2.spart == p

/-- The checks of R569 (and, without encryption, of R441 alone) on a message for partition `p`: the state after them, and
the message as opened where it takes effect. A key that is being replaced makes it wait, and so does the host's copy of the replay
entry: then what it has begun. -/
def State.accept (s : State) (p : Nat) (m : FabMsg) : (State × Option FabMsg) ⊕ State :=
  let enc := s.encOf p
  let k := s.keySlot (s.fld (cohCfg p 8 2))
  let nak := m.type == 5 && !m.enc && rawLe m.data 1 1 == 1
  let refuse (s : State) (st : Nat) : (State × Option FabMsg) ⊕ State := .inl (s.ackMsg p m st, none)
  if nak then .inl (s, some m)
  else if enc && !m.isCtl && !m.enc then refuse s.rejectInput 0x0F
  else if m.isRsp && !s.tagOpen p m then .inl (s.staleCount p, none)
  else match if m.isCtl || m.isRsp then none else s.refusal p m with
    | some st => refuse (s.staleCount p) st
    | none =>
      -- what it cannot decrypt, a partition that is not encrypted refuses (DESIGN CHOICE, log 71)
      if !enc then (if !m.isCtl && m.enc then refuse s.rejectInput 0x0F else .inl (s, some m))
      else if k.st = 2 then .inr s
      -- a rotation does not hold up the replay check of the messages that it lets pass (R267)
      else match if s.rotating then (s, true) else s.gateAll { part := p } (s.rplPlaces p m.src) [] with
      | (w, false) => .inr w
      | (t, true) =>
        let s0 := s
        let s := t
        let (h, w) := s.replay p m.src
        let x := nearest h m.counter.toNat
        match if k.st = 1 && k.type = 2 then m.open? k.key (x / 2 ^ 32).toNat else none with
        | none => refuse s.rejectInput 0x0F
        | some m =>
          if m.isCtl then .inl (s, some m)
          else if !replayOk h w x then .inl (s.rasCount 0x18, none)
          else match if s.rotating then (s, true) else s.gateAll { part := p } [] (s.rplPlaces p m.src) with
            | (_, false) => .inr (s0.gateAll { part := p } [] (s0.rplPlaces p m.src)).1
            | (s, true) => .inl (s.replayTook p m.src h w x, some m)

/-- A message received whole at a port (R415, R422). -/
def State.arrive (s : State) (m : FabMsg) : State :=
  if !m.legal then s.rejectInput
  else if m.dst != s.modId then
    if m.hop = 3 then s.rejectInput else s.post { m with hop := m.hop + 1 }
  else if 48 ≤ m.dpart then s.rejectInput
  else (s.portBytes m false).post m

end Sys2Proof.Machine
end

