-- ==== Sys2Proof/Machine/FabPort.lean ====
section
/-! DEFINITION. Fabric ports: training, wavelengths, loss of a link, flits and their retry; and the laser sources (spec/09
R400 to R413; spec/01 R28, R36, R37). -/

namespace Sys2Proof.Machine

def portOk (p : Nat) : Bool := decide (p < 32)
def elsOk (e : Nat) : Bool := decide (e < 4)

def popN (n : Nat) (m : Nat) : Nat := ((List.range n).filter (bitOf m)).length

/-! ### Laser sources (R28, R36, R37, R409, R410) -/

def elsReg (i hi lo : Nat) : Field := fieldAt (0x00600100 + 8 * i) hi lo

def State.elsSt (s : State) (i : Nat) : ElsSt := tabGet (fun _ => .off) s.els i
def State.setEls (s : State) (i : Nat) (x : ElsSt) : State := { s with els := tabSet (fun _ => .off) s.els i x }

/-- The other ELS of a pair. -/
def elsPartner (i : Nat) : Nat := if i % 2 = 0 then i + 1 else i - 1

/-- A port's optical engine takes light from its pair (R28). -/
def State.lit (s : State) (p : Nat) : Bool := s.elsSt (p / 16 * 2) == .on || s.elsSt (p / 16 * 2 + 1) == .on

/-! ### A port's state (Table 9.2) -/

def State.portState (s : State) (p : Nat) : Nat := s.fld (portStat p 2 0)

/-- A port enters a training state. -/
def State.portGo (s : State) (p st : Nat) : State :=
  (s.setFld (portStat p 2 0) st).setPort p { s.port p with since := s.now }

/-- A port in DARK starts to train once it is enabled, has light, and its own comb is lit (R403, R410). -/
def State.portTrain (s : State) (p : Nat) : State :=
  if s.portState p = 0 && s.fld (portCtl p 0 0) = 1 && (s.port p).light && (s.port p).waitUntil ≤ s.now && s.lit p then
    (s.portGo p 1).setFld (portCtl p 1 1) 0
  else s

/-- The unfinished messages of a port that went down pass to another port in UP that leads to the same neighbour, ahead
of its new flits; with none they are discarded, each with a ROUTE_LOST NAK (R413). -/
def State.passOn (s : State) (p : Nat) (ms : List FabMsg) : State :=
  let peer := s.fld (portStat p 45 32)
  match (List.range 32).find? fun o => o != p && s.portState o = 5 && s.fld (portStat o 45 32) = peer with
  | some o =>
    let q := s.port o
    (s.setPort o { q with queue := ms ++ q.queue }).fillPort o (ms.length + q.queue.length)
  | none => ms.foldl State.routeLost s

/-- A port goes to DARK. -/
def State.portDark (s : State) (p : Nat) : State :=
  let q := s.port p
  let up := s.portUp p
  let s := s.setFld (portStat p 2 0) 0
  let s := s.setPort p { light := q.light, waitUntil := q.waitUntil, since := s.now }
  let s := ((s.setFld (portStat p 16 13) 15).setFld (portStat p 19 17) 0)
  let s := if up then (s.ras 0x1B 2 0xFF p).passOn p ((q.held.filter (!·.link)).map (·.msg) ++ q.queue) else s
  s.setFld (portStat p 45 32) 0

/-- A training that failed: counted, and tried again after 100 ms (R404). -/
def State.portFail (s : State) (p : Nat) : State :=
  let s := s.portDark p
  let s := s.setFld (portStat p 31 20) (min 4095 (s.fld (portStat p 31 20) + 1))
  s.setPort p { s.port p with waitUntil := s.now + 10 ^ 11 }

def onPort (p : Nat) (s : State) (f : State → State) : Res := unit (portOk p) (if s.ready then f s else s)

/-- PORT_LIGHT_ON. -/
def execPortLightOn (port : Nat) (s : State) : Res :=
  onPort port s fun s => (s.setPort port { s.port port with light := true }).portTrain port

/-- The wavelengths of a mask. -/
def waves (m : BitVec 9) : List Nat := (List.range 9).filter fun k => m.getLsbD k
def waveMask (ks : List Nat) : BitVec 9 := BitVec.ofNat 9 (ks.foldl (fun n k => n + 2 ^ k) 0)

/-- `n` good wavelengths taken as data; which ones the two ends agree on is a free choice (Table 9.2, log 3). -/
def State.pickLanes (s : State) (p : Nat) (good : BitVec 9) : State :=
  let ks := waves good
  match s.draw with
  | (v, s) =>
    let ks := rotate (v % (ks.length + 1)) ks
    let n := if 8 ≤ ks.length then 8 else 4
    let spare := if n = 8 then ks.getD 8 15 else 15
    (s.setPort p { s.port p with lanes := waveMask (ks.take n), swapping := none }).setFld (portStat p 16 13) spare

/-- The wavelengths that both ends must report before a port leaves LIGHT. -/
def State.lightNeed (s : State) (p : Nat) : Nat := if s.fld (portCtl p 2 2) = 1 then 4 else 8

/-- The highest protocol version that both ends support; 0 where there is none (R405). -/
def commonVer (lo hi vmin vmax : Nat) : Nat :=
  let h := min hi vmax
  if max lo vmin ≤ h then h else 0

/-- PORT_TRAIN_STEP_DONE. -/
def execPortTrainStepDone (port : Nat) (info : TrainInfo) (s : State) : Res :=
  onPort port s fun s => match s.portState port with
    | 1 =>
      let s := s.setFld (portStat port 12 4) info.good.toNat
      if s.lightNeed port ≤ info.bothReport && s.lightNeed port ≤ (waves info.good).length then s.portGo port 2 else s
    | 2 =>
      if s.lightNeed port ≤ (waves info.good).length then
        ((s.setFld (portStat port 12 4) info.good.toNat).pickLanes port info.good).portGo port 3
      else s
    | 3 => s.portGo port 4
    | 4 =>
      if !s.idValid then s
      else match commonVer (s.fld (fabId 19 16)) (s.fld (fabId 23 20)) info.verMin info.verMax with
        | 0 => s.portFail port
        | v =>
          let s := (s.setFld (portStat port 19 17) v).setFld (portStat port 45 32) info.peer.toNat
          (s.portGo port (if (waves (s.port port).lanes).length = 8 then 5 else 6)).repost
    | _ => s

/-- The limit of a training state, in ps (Table 9.2). -/
def trainLimit (st : Nat) : Nat := match st with
  | 1 => 10 ^ 8
  | 2 => 5 * 10 ^ 9
  | 3 => 10 ^ 9
  | _ => 10 ^ 8

/-- PORT_TRAIN_TIMEOUT. A port waits in EXCHANGE while FAB_ID is not valid (Table 14.1). -/
def execPortTrainTimeout (port : Nat) (s : State) : Res :=
  onPort port s fun s =>
    let st := s.portState port
    if st = 0 || 5 ≤ st || (st = 4 && !s.idValid) then s
    else (s.reach ((s.port port).since + trainLimit st)).portFail port

/-- PORT_RETRY_WAIT_END. -/
def execPortRetryWaitEnd (port : Nat) (s : State) : Res :=
  onPort port s fun s => if s.portState port != 0 then s else (s.reach (s.port port).waitUntil).portTrain port

/-- PORT_DOWN: a port loses its light, and is then in DARK whatever its state was (Table 9.2), or a port in UP loses block lock for 64
blocks. -/
def execPortDown (port : PortLoss) (s : State) : Res :=
  let p := port.port
  onPort p s fun s =>
    if port.light then
      let s := s.setPort p { s.port p with light := false }
      if s.portState p = 0 then s else s.portDark p
    else if s.portUp p then s.portDark p else s

/-- PORT_RETRAIN: the bit reads 1 until the port has left DARK. -/
def execPortRetrain (port : Nat) (s : State) : Res :=
  onPort port s fun s => (s.portDark port).setFld (portCtl port 1 1) 1

/-- What becomes of a port whose good wavelengths changed and that has no spare to swap in (R407). -/
def State.narrow (s : State) (p : Nat) (good : BitVec 9) : State :=
  let n := (waves good).length
  if n < 4 || (n < 8 && s.fld (portCtl p 2 2) = 1) then s.portDark p else s

/-- The wavelengths whose measure calls for the spare: data wavelengths above 10^(-swap_thr), and those without their comb line
(R406). -/
def badWaves (r : SerRead) (thr : Nat) (lanes : BitVec 9) : BitVec 9 :=
  r.dark ||| (lanes &&& waveMask ((List.range 9).filter fun k => decide (r.symbols < r.errs.getD k 0 * 10 ^ thr)))

/-- WAVELENGTH_SER_CHECK: what was measured against FAB_PORT_CTL.swap_thr. -/
def execWavelengthSerCheck (port : Nat) (read : SerRead) (s : State) : Res :=
  onPort port s fun s =>
    if !s.portUp port then s
    else
      let q := s.port port
      let bad := badWaves read (s.fld (portCtl port 11 8)) q.lanes
      let good : BitVec 9 := BitVec.ofNat 9 (s.fld (portStat port 12 4)) &&& ~~~bad
      let s := s.setFld (portStat port 12 4) good.toNat
      let spare := s.fld (portStat port 16 13)
      match waves (bad &&& q.lanes) with
      | [] => s
      | k :: _ =>
        if q.swapping.isSome then s
        else if spare < 9 && good.getLsbD spare then s.setPort port { q with swapping := some k }
        else s.narrow port good

/-- WAVELENGTH_SWAP. -/
def execWavelengthSwap (port : Nat) (s : State) : Res :=
  onPort port s fun s =>
    let q := s.port port
    let spare := s.fld (portStat port 16 13)
    match q.swapping with
    | some k =>
      if s.portUp port && spare < 9 then
        (s.setPort port { q with lanes := waveMask (((waves q.lanes).filter (· != k)) ++ [spare]), swapping := none }).setFld
          (portStat port 16 13) 15
      else s
    | none => s

/-- WAVELENGTH_RETEST: `pass` are those that passed. -/
def execWavelengthRetest (port : Nat) (pass : BitVec 9) (s : State) : Res :=
  onPort port s fun s =>
    if !s.portUp port then s
    else
      let q := s.port port
      let good : BitVec 9 := BitVec.ofNat 9 (s.fld (portStat port 12 4)) ||| pass
      let s := s.setFld (portStat port 12 4) good.toNat
      if s.portState port = 6 then (if 8 ≤ (waves good).length then s.portDark port else s)
      else match waves (pass &&& ~~~q.lanes) with
        | k :: _ => if s.fld (portStat port 16 13) = 15 then s.setFld (portStat port 16 13) k else s
        | [] => s

/-- FAB_ID_SET (R404, Table 9.9): written with valid = 1, the register locks. -/
def execFabIdSet (value : W32) (s : State) : Res :=
  .next (s.sup fun s =>
    if s.idValid || !value.getLsbD 31 then s
    else (s.setFld (fabId 13 0) value.toNat).setFld (fabId 31 31) 1)

/-! ### ELS events -/

/-- What happens to an ELS while the module has input power. -/
def onEls (i : Nat) (s : State) (f : State → State) : Res := unit (elsOk i) (if s.pwr.supply = 0 then s else f s)

/-- The output of an ELS in percent. -/
def State.elsOut (s : State) (i n : Nat) : State := s.setFld (elsReg i 15 8) n

/-- An ELS gives no more light: its partner raises its output, or the ports of the pair go down (R36, R37). -/
def State.elsDark (s : State) (i : Nat) : State :=
  let was := s.elsSt i
  let s := ((s.setEls i .off).setFld (elsReg i 1 1) 0).elsOut i 0
  if s.elsSt (elsPartner i) == .on then s.elsOut (elsPartner i) 100
  else if was != .on then s
  else (List.range 16).foldl (fun s k =>
    let p := i / 2 * 16 + k
    if s.portState p = 0 then s else s.portDark p) s

/-- ELS_SVC: the partner raises its output, the ELS goes dark and can be removed. With no partner in service it stays. -/
def execElsSvc (els : Nat) (s : State) : Res :=
  unit (elsOk els) <| s.sup fun s =>
    let s := s.setFld (elsReg els 2 2) 1
    if s.elsSt els == .on && s.elsSt (elsPartner els) == .on then (s.elsDark els).setFld (elsReg els 3 3) 1 else s

/-- ELS_REMOVED: an ELS is removed, or fails where it is seated (R36, R37, R410). -/
def execElsRemoved (els : ElsLoss) (s : State) : Res :=
  let i := els.els
  onEls i s fun s =>
    if s.fld (elsReg i 0 0) = 0 then s
    else if els.failed then s.elsDark i
    else ((((s.setFld (elsReg i 0 0) 0).setFld (elsReg i 3 3) 0).elsDark i).ras 0x1A 0 0xFF i)

/-- ELS_INSERTED. -/
def execElsInserted (els : Nat) (s : State) : Res :=
  onEls els s fun s =>
    if s.fld (elsReg els 0 0) = 1 then s
    else ((s.setFld (elsReg els 0 0) 1).setEls els (if s.pwr.supply = 2 then .locking s.now else .off)).ras 0x1A 0 0xFF els

/-- A comb locked: both of a pair give half their output, one alone all of it; dark ports of the pair train. -/
def State.elsLocked (s : State) (i : Nat) : State :=
  let both := s.elsSt (elsPartner i) == .on
  let s := ((s.setEls i .on).setFld (elsReg i 1 1) 1).elsOut i (if both then 50 else 100)
  let s := if both then s.elsOut (elsPartner i) 50 else s
  if both || !s.ready then s
  else (List.range 16).foldl (fun s k => s.portTrain (i / 2 * 16 + k)) s

/-- ELS_COMB_LOCK. -/
def execElsCombLock (els : Nat) (s : State) : Res :=
  unit (elsOk els) (match s.elsSt els with
    | .locking _ => s.elsLocked els
    | _ => s)

/-- ELS_LOCK_TIMEOUT: after 60 s. -/
def execElsLockTimeout (els : Nat) (s : State) : Res :=
  unit (elsOk els) (match s.elsSt els with
    | .locking t => (((s.reach (t + 60 * 10 ^ 12)).setEls els .off).elsOut els 0).ras 0x1A 2 0xFF els
    | _ => s)

/-! ### Flits (R411, R412) -/

/-- Messages whose last flit has been acknowledged leave the replay buffer. -/
def State.ackFlits (s : State) (p : Nat) (ack : BitVec 12) : State :=
  let q := s.port p
  let gone (h : Held) : Bool := decide ((ack - (h.first + BitVec.ofNat 12 (h.n - 1))).toNat < 2048)
  let q := { q with held := q.held.filter fun h => !gone h
                    replays := if (ack - q.replaySeq).toNat < 2048 then 0 else q.replays }
  (s.setPort p q).fillPort p q.queue.length

/-- A replay is asked for from the first flit that is lacking; after 32 that failed the port goes to DARK. The request goes in a control
flit, which takes the next number and is held as every flit is; with the replay buffer full it waits for a later flit's asking. -/
def State.askReplay (s : State) (p : Nat) : State :=
  let q := s.port p
  if 32 ≤ q.asks then s.portDark p
  else if 2048 ≤ q.heldFlits then s
  else { s.setPort p { q with asked := true, asks := q.asks + 1, txNext := q.txNext + 1
                              held := q.held ++ [{ msg := {}, first := q.txNext, n := 1, link := true }] } with
    sent := .link p q.rxNext q.txNext :: s.sent }

/-- What has been received of a message on a channel, and the message once it is whole. One that is not on the channel of its class and
hop is dropped and counted (R418; log 71). -/
def State.collect (s : State) (p vc : Nat) (bytes : List Byte) : State :=
  let m := parseMsg bytes
  let q := s.port p
  if 48 ≤ bytes.length && 48 + m.dataLen ≤ bytes.length then
    let s := s.setPort p { q with parts := q.parts.filter (·.1 != vc) }
    if m.channel = vc then s.arrive { m with data := m.data.take m.dataLen } else s.rejectInput
  else s.setPort p { q with parts := (q.parts.filter (·.1 != vc)) ++ [(vc, bytes)] }

/-- A flit in order. CTL messages travel in control flits on channels 8 to 11 and in no others; what else a control flit carries acts on
the link alone. -/
def State.takeFlit (s : State) (p : Nat) (f : Flit) : State :=
  let q := s.port p
  let s := s.setPort p { q with rxNext := q.rxNext + 1, asked := false, asks := 0 }
  let vc := f.vc.toNat
  match f.kind.toNat with
  | 1 => if 8 ≤ vc then s.rejectInput else s.collect p vc (f.body.take 248)
  | 2 => match q.parts.find? (·.1 == vc) with
    | some x => s.collect p vc (x.2 ++ f.body.take 248)
    | none => s
  | _ => if 8 ≤ vc && vc < 12 then s.collect p vc (f.body.take 48) else s

/-- FLIT_RECEIVE. -/
def execFlitReceive (port : Nat) (flit : Flit) (s : State) : Res :=
  onPort port s fun s =>
    if !s.portUp port then s
    else if !flitOk flit then s.askReplay port
    else
      let s := s.ackFlits port flit.ack
      let q := s.port port
      if flit.kind = 0 then s
      else if flit.seq = q.rxNext then s.takeFlit port flit
      else if q.asked || 2048 ≤ (flit.seq - q.rxNext).toNat then s
      else s.askReplay port

/-- REPLAY_REQUEST: the sender resends from a flit onward. -/
def execReplayRequest (port : Nat) (seq : BitVec 12) (s : State) : Res :=
  onPort port s fun s =>
    let q := s.port port
    if !s.portUp port || !(q.held.any fun h => decide ((seq - h.first).toNat < h.n)) then s
    else
      let n := if q.replaySeq = seq then q.replays + 1 else 1
      if 32 < n then s.portDark port
      else { s.setPort port { q with replaySeq := seq, replays := n } with sent := .resend port seq :: s.sent }

end Sys2Proof.Machine
end

