-- ==== Sys2Proof/Machine/Xfer.lean ====
section
/-! DEFINITION. Transfers: PUT, PUT_FLAG and GET, the messages that carry them, and their answers (spec/09 R425 to R430, R441,
Table 9.7; spec/10 R488, R492 to R495). -/

namespace Sys2Proof.Machine

/-! ### How transfers end (Table 9.7) -/

/-- A fabric command ends with one of the upper statuses of Table 9.7: its bitmap is 0, its local destination undefined. -/
def State.endFab (s : State) (x : Nat) (status : Nat) : State :=
  match s.xfer x with
  | none => s
  | some t =>
    let q := s.queue t.queue
    match q.cmd? t.cmd with
    | none => s.endXfer x
    | some c =>
      let c := { c with segs := c.segs.map fun _ => .open_ }
      (s.setQueue t.queue (q.setCmd c)).cut t.queue c status

/-- The open transfers of a partition. -/
def State.xfersOf (s : State) (p : Nat) : List (Nat × Xfer) := s.xfers.filterMap fun x => match x.2 with
  | some t => if t.part == p then some (x.1, t) else none
  | none => none

/-- Collectives whose exact data was to leave over a version-1 link fail (R405, R430). -/
def State.endOldLinks (s : State) : State :=
  (s.xfers.map (·.1)).foldl (fun s x => match s.xfer x with
    | some t => if t.oldLink then s.endFab x 0x0C else s
    | none => s) s

/-- Every queue's front made ready again, and what waits to be written tried, after commands ended. -/
def State.settleAll (s : State) : State :=
  let s := s.endOldLinks.herbKick.flush
  ((s.queues.map (·.1)).foldl State.settleFront s).flush

/-! ### Segments and messages (R417, R426) -/

/-- The pieces of `n` bytes from `off`, of at most 16,384 bytes. -/
def pieces (off n : Nat) : List (Nat × Nat) :=
  (List.range ((n + 16383) / 16384)).map fun i => (off + 16384 * i, min 16384 (n - 16384 * i))

/-- Messages put on a transfer's list and sent, in order. -/
def State.sendAll (s : State) (x : Nat) (ms : List XMsg) : State :=
  match s.xfer x with
  | none => s
  | some t =>
    let s := s.setXfer x { t with msgs := t.msgs ++ ms }
    ms.foldl (fun s m => s.sendFrom t.part m.msg) s

/-- The header of a message of a transfer. -/
def State.xferMsg (s : State) (x : Nat) (t : Xfer) (type : Nat) (dst dpart : Nat) : FabMsg :=
  { type := type, dst := dst, dpart := dpart, epoch := s.epochOf t.part, tag := xferTag x }

/-- Segment `k` of a PUT or GET started: its local end is translated, and its messages are sent. A PUT of poisoned data
fails its segment, and all of it is sent as poisoned (R427, Table 9.7). -/
def State.startSeg (s : State) (x k : Nat) : State :=
  match s.xfer x with
  | none => s
  | some t =>
    match (s.queue t.queue).cmd? t.cmd with
    | none => s
    | some c =>
      let off := k * t.segSz
      let n := min t.segSz (t.len - off)
      if c.segs.getD k .done != .open_ || t.msgs.any (·.seg == k) || s.rotating then s
      else
        let pause (s : State) (w : W64) (wr : Bool) : State :=
          (s.cmdPage t.queue t.cmd w wr).setSeg t.queue t.cmd k (.paused (w.toNat / 4096) wr)
        let local_ := t.loc.toNat + off
        if t.kind == .put then
          match s.tryRead (s.whoEng t.queue) t.ctx local_ n with
          | (s, .inr (.page w wr)) => pause s w wr
          | (s, .inr .wait) => s
          | (s, .inr _) => s.setSeg t.queue t.cmd k .failed
          | (s, .inl m) =>
            let bad := m.any (·.2)
            let ms : List XMsg := (pieces off n).map fun y =>
              { seg := k, off := y.1, len := y.2
                msg := { s.xferMsg x t 1 t.peer t.peerPart with
                  addr := t.rem + BitVec.ofNat 64 y.1, len := y.2, seg := k, poison := bad
                  data := ((m.drop (y.1 - off)).take y.2).map (·.1) } }
            let s := if bad then s.setSeg t.queue t.cmd k .failed else s
            s.sendAll x ms
        else
          match s.tryPlaces (s.whoEng t.queue) t.ctx .write local_ n with
          | (s, .inr (.page w wr)) => pause s w wr
          | (s, .inr .wait) => s
          | (s, .inr _) => s.setSeg t.queue t.cmd k .failed
          | (s, .inl _) =>
            s.sendAll x ((pieces off n).map fun y =>
              { seg := k, off := y.1, len := y.2
                msg := { s.xferMsg x t 3 t.peer t.peerPart with addr := t.rem + BitVec.ofNat 64 y.1, len := y.2, seg := k } })

/-- Every segment of a transfer that can start. -/
def State.startXfer (s : State) (x : Nat) : State :=
  match s.xfer x with
  | some t => (List.range ((t.len + t.segSz - 1) / t.segSz)).foldl (fun s k => s.startSeg x k) s
  | none => s

/-- A PUT whose data has not all been sent and acknowledged (R428). -/
def State.putOpen (s : State) (t : Xfer) : Bool :=
  let segs := match (s.queue t.queue).cmd? t.cmd with
    | some c => c.segs
    | none => []
  (t.msgs.any fun m => !m.answered) ||
    segs.zipIdx.any fun y => y.1 != .failed && y.1 != .done && !(t.msgs.any (·.seg == y.2))

/-- PUT_FLAGs of a queue are sent once every PUT before them to the same place is acknowledged (R428). -/
def State.kickFlags (s : State) (qn : Nat) : State :=
  (s.xfers.map (·.1)).foldl (fun s x => match s.xfer x with
    | some t =>
      let before := (s.xfers.any fun y => decide (y.1 < x) && (match y.2 with
        | some u => u.kind == .put && u.queue == qn && u.peer == t.peer && u.peerPart == t.peerPart && s.putOpen u
        | none => false)) || s.putsOut.any fun y => y.1 == qn && y.2.dst == t.peer && y.2.dpart == t.peerPart
      if t.kind != .flag || t.queue != qn || !t.msgs.isEmpty || before then s
      else s.sendAll x [{ seg := 0, off := 0, len := 8
                          msg := { s.xferMsg x t 2 t.peer t.peerPart with
                            addr := t.rem, len := 8, data := leBytes 8 t.value.toNat } }]
    | none => s) s

/-- A segment of a PUT whose messages have all been answered well is complete (R426). -/
def State.settleSeg (s : State) (x k : Nat) : State :=
  match s.xfer x with
  | none => s
  | some t => match (s.queue t.queue).cmd? t.cmd with
    | none => s
    | some c =>
      if t.kind == .put && c.segs.getD k .done == .open_ && (t.msgs.any (·.seg == k)) && (t.msgs.all fun m => m.seg != k || m.answered) then
        s.setSeg t.queue t.cmd k .done
      else s

/-- A message of a transfer is answered, well or not. -/
def State.answer (s : State) (x : Nat) (is : XMsg → Bool) (ok : Bool) : State :=
  match s.xfer x with
  | none => s
  | some t => match t.msgs.find? fun m => is m && !m.answered with
    | none => s
    | some m =>
      let s := s.setXfer x { t with msgs := t.msgs.map fun y => if y == m then { y with answered := true, failed := !ok } else y }
      let s := if ok then s else s.setSeg t.queue t.cmd m.seg .failed
      (s.settleSeg x m.seg).kickFlags t.queue

/-! ### The segments of a GET (R426, R430): a segment is written once all of it has been answered, or not at all -/

/-- What came of segment `k` of a GET from offset `off` on; what did not come is free. -/
def Xfer.landed (t : Xfer) (k off n : Nat) (free : List Byte) : List Byte :=
  (t.contrib.filter (·.1 == k)).foldl (fun b p =>
    b.take (p.2.1 - off) ++ p.2.2.map (·.1) ++ b.drop (p.2.1 - off + p.2.2.length)) (free.take n)

/-- Segment `k` of a GET once all of its messages have been answered: it is written, poisoned as a whole where one of them met an
uncorrectable error, and left unwritten where one failed by rights or its own place does. It may have to wait. -/
def State.land (s : State) (x k : Nat) : State :=
  match s.xfer x with
  | none => s
  | some t =>
    let ms := t.msgs.filter (·.seg == k)
    let off := k * t.segSz
    let n := min t.segSz (t.len - off)
    let done (s : State) (st : SegSt) : State :=
      (s.setXfer x { t with contrib := t.contrib.filter (·.1 != k) }).setSeg t.queue t.cmd k st
    if ms.any fun m => !m.answered then s
    else if ms.any (·.failed) then done s .failed
    else match s.tryPlaces (s.whoEng t.queue) t.ctx .write (t.loc.toNat + off) n with
      | (s, .inr (.page w wr)) => (s.cmdPage t.queue t.cmd w wr).setSeg t.queue t.cmd k (.paused (w.toNat / 4096) wr)
      | (s, .inr .wait) => s
      | (s, .inr _) => done s .failed
      | (s, .inl ls) => match s.gateAll (s.whoEng t.queue) [] ls with
        | (s, false) => s
        | (s, true) =>
          let bad := ms.any (·.bad)
          match if bad then s.draw else (0, s) with
          | (v, s) =>
            done (s.storeAll (s.whoEng t.queue) ls (t.landed k off n (leBytes n v)) bad) (if bad then .failed else .done)

/-- A message of a GET is answered: by its data, or by an ACK that says that it failed. -/
def State.getAnswer (s : State) (x : Nat) (is : XMsg → Bool) (data : List Byte) (failed bad : Bool) : State :=
  match s.xfer x with
  | none => s
  | some t => match t.msgs.find? fun m => is m && !m.answered with
    | none => s
    | some m =>
      let s := s.setXfer x { t with
        msgs := t.msgs.map fun y => if y == m then { y with answered := true, failed := failed, bad := bad } else y
        contrib := if data.isEmpty then t.contrib else t.contrib ++ [(m.seg, m.off, data.map fun b => (b, bad))] }
      s.land x m.seg

/-- The segments of a GET that have been answered and are not yet written are tried again. -/
def State.landAll (s : State) (x : Nat) : State :=
  match s.xfer x with
  | none => s
  | some t => (List.range ((t.len + t.segSz - 1) / t.segSz)).foldl (fun s k =>
      match s.xfer x with
      | none => s
      | some t => match (s.queue t.queue).cmd? t.cmd with
        | none => s
        | some c => if c.segs.getD k .done == .open_ && t.msgs.any (·.seg == k) then s.land x k else s) s

/-! ### The rows PUT, PUT_KIND_FLAG and GET (R440, R488) -/

/-- A descriptor dispatched as a fabric command. -/
def State.dispatchXfer (s : State) (qn : Nat) (d : Desc) (t : Xfer) (f : Cmd → Cmd) : State × Nat :=
  let id := s.fresh
  let s := s.dispatch qn d (.xfer (id + 1)) false f
  let q := s.queue qn
  (({ s with fresh := s.fresh + 1 }).setXfer (id + 1) { t with queue := qn, cmd := id, part := q.part, ctx := q.ctx }, id + 1)

def xferPeer (r : List Byte) : Nat := rawLe r 0x28 2
def xferPeerPart (r : List Byte) : Nat := rawLe r 0x2A 1

def xferRsv (r : List Byte) : Bool :=
  decide (xferPeer r < 16384) && decide (xferPeerPart r < 64) && allZero r 0x2C 4 && allZero r 0x38 8

/-- A transfer is refused: it names the own module, a lost peer, or the partition has no epoch or is fenced. -/
def State.xferRefused (s : State) (p : Nat) (r : List Byte) : Option Nat :=
  if xferPeer r = s.modId then some 0x0B
  else if (s.cohort p).lost.contains (xferPeer r) then some 4
  else if s.epochOf p = 0 || s.fenced p then some 5 else none

/-- A transfer of `len` bytes: `loc` is its local end, `rem` its remote end. -/
def State.putOrGet (s : State) (qn : Nat) (d : Desc) (kind : XKind) (loc rem len : Nat) : State :=
  let r := d.bytes
  match s.xferRefused (s.queue qn).part r with
  | some st => s.endFront qn d st
  | none =>
    let t : Xfer := {
      kind := kind, peer := xferPeer r, peerPart := xferPeerPart r, loc := BitVec.ofNat 64 loc, rem := BitVec.ofNat 64 rem
      len := len, segSz := segSize len, value := BitVec.ofNat 64 (rawLe r 0x30 8) }
    match s.dispatchXfer qn d t fun c => { c with
        dst := BitVec.ofNat 64 loc, segSz := segSize len, total := if kind == .get then len else 0
        segs := if kind == .flag then [] else List.replicate (segCount len) .open_ } with
    | (s, x) => if kind == .flag then s.kickFlags qn else s.startXfer x

/-- PUT. -/
def execPutOp (queue : Nat) (s : State) : Res :=
  onFront 0x0C (fun r => rawLe r 0x2B 1 == 0) (fun r => xferRsv r && inLen (2 ^ 40) (rawLe r 0x20 8) && rawLe r 0x30 8 == 0) queue s
    fun d s => s.putOrGet queue d .put (rawLe d.bytes 0x10 8) (rawLe d.bytes 0x18 8) (rawLe d.bytes 0x20 8)

/-- PUT_KIND_FLAG. -/
def execPutKindFlag (queue : Nat) (s : State) : Res :=
  onFront 0x0C (fun r => rawLe r 0x2B 1 == 1)
    (fun r => xferRsv r && rawLe r 0x10 8 == 0 && rawLe r 0x18 8 % 8 == 0 && rawLe r 0x20 8 == 0) queue s
    fun d s => s.putOrGet queue d .flag 0 (rawLe d.bytes 0x18 8) 8

/-- GET. -/
def execGetOp (queue : Nat) (s : State) : Res :=
  onFront 0x0D (fun _ => true)
    (fun r => xferRsv r && inLen (2 ^ 40) (rawLe r 0x20 8) && rawLe r 0x2B 1 == 0 && rawLe r 0x30 8 == 0) queue s
    fun d s => s.putOrGet queue d .get (rawLe d.bytes 0x18 8) (rawLe d.bytes 0x10 8) (rawLe d.bytes 0x20 8)

/-! ### Messages that arrive -/

def State.dropIn (s : State) (id : Nat) : State := { s with inbox := s.inbox.filter (·.1 != id) }

/-- A message of data, which a hash-key rotation holds up (R267, Table 5.11). -/
def FabMsg.isData (m : FabMsg) : Bool := !m.isCtl && m.type != 5 && m.type != 8

/-- What is done with a message that arrived: it is admitted under R569 and R441, then `f` acts on it; `f` answers none
where it must wait, with what it has begun. -/
def onMsg (is : FabMsg → Bool) (id : Nat) (s : State) (f : Nat → FabMsg → State → State ⊕ State) : Res :=
  .next (match s.inbox.find? fun x => x.1 == id && is x.2 with
    | none => s
    | some (_, m) =>
      if !s.ready || (s.rotating && m.isData) then s
      else match s.accept m.dpart m with
        | .inr w => w
        | .inl (t, none) => t.dropIn id
        | .inl (t, some m') => match f m.dpart m' t with
          | .inl t => t.dropIn id
          | .inr w => w)

/-- The places of an inbound access under the fabric context of its partition (R425): it raises no page request, and whatever keeps the
address from being used is a PROT_FAULT (R671). None where a table's home is waited for. -/
def State.fabPlaces (s : State) (p : Nat) (acc : Acc) (va : W64) (n : Nat) : State × Option (Option (List (Loc × Nat))) :=
  let c := s.fld (cohCtx p)
  if (s.ctx c).st != .live || (s.ctx c).part != p then (s, some none)
  else match s.places { part := p } c acc va n with
    | (s, .inl ls) => (s, some (some ls))
    | (s, .inr .wait) => (s, none)
    | (s, .inr _) => (s, some none)

/-- What an inbound access that has to wait has begun: `s` is the state before its message was admitted. -/
def State.fabBegun (s : State) (p : Nat) (acc : Acc) (va : W64) (n : Nat) : State :=
  match s.fabPlaces p acc va n with
  | (s, some (some ls)) => (if acc == .read then s.gateAll { part := p } ls [] else s.gateAll { part := p } [] ls).1
  | (s, _) => s

/-- Inbound data written at an address; it is acknowledged once it is performed (R271, R427). `s0` is the state before the
message was admitted. The answer says whether it was refused. -/
def State.inWrite (s s0 : State) (p : Nat) (m : FabMsg) (va : W64) : (State × Bool) ⊕ State :=
  match s.fabPlaces p .write va m.data.length with
  | (_, none) => .inr (s0.fabBegun p .write va m.data.length)
  | (s, some none) => .inl (s.ackMsg p m 6, true)
  | (s, some (some ls)) => match s.gateAll { part := p } [] ls with
    | (_, false) => .inr (s0.fabBegun p .write va m.data.length)
    | (s, true) => .inl ((s.storeAll { part := p } ls m.data m.poison).ackMsg p m 0, false)

def dropFlag : (State × Bool) ⊕ State → State ⊕ State
  | .inl x => .inl x.1
  | .inr w => .inr w

def isType (t : Nat) (m : FabMsg) : Bool := m.type == t

/-- PUT_DATA. -/
def execPutData (inbox : Nat) (s : State) : Res := onMsg (isType 1) inbox s fun p m t => dropFlag (t.inWrite s p m m.addr)

/-- PUT_FLAG. -/
def execPutFlag (inbox : Nat) (s : State) : Res := onMsg (isType 2) inbox s fun p m t => dropFlag (t.inWrite s p m m.addr)

/-- GET_REQ. The offset that GET_DATA carries is a free value: the request does not name it (Table 9.6, log 3). -/
def execGetReq (inbox : Nat) (s : State) : Res :=
  onMsg (isType 3) inbox s fun p m t =>
    match t.fabPlaces p .read m.addr m.len with
    | (_, none) => .inr (s.fabBegun p .read m.addr m.len)
    | (t, some none) => .inl (t.ackMsg p m 6)
    | (t, some (some ls)) => match t.gateAll { part := p } ls [] with
      | (_, false) => .inr (s.fabBegun p .read m.addr m.len)
      | (t, true) =>
        let d := t.fetchMarks ls
        match t.draw with
        | (v, t) => .inl (t.sendFrom p {
            type := 4, dst := m.src, dpart := m.spart, epoch := m.epoch, addr := BitVec.ofNat 64 (v % 2 ^ 40), len := m.len
            seg := m.seg, tag := m.tag, data := d.map (·.1), poison := d.any (·.2) })

/-- The open transfer that a response names. -/
def State.byTag (s : State) (m : FabMsg) : Option (Nat × Xfer) := s.xfers.findSome? fun x => match x.2 with
  | some t => if xferTag x.1 == m.tag then some (x.1, t) else none
  | none => none

/-- GET_DATA: data for a segment of a GET, which is written locally under the issuing context once the segment is whole. -/
def execGetData (inbox : Nat) (s : State) : Res :=
  onMsg (isType 4) inbox s fun p m t =>
    let off := m.addr.toNat % 2 ^ 40
    match t.byTag m with
    | none => .inl (t.staleCount p)
    | some (x, f) =>
      let is (y : XMsg) : Bool := y.off == off && y.len == m.len
      if f.kind != .get || !(f.msgs.any fun y => is y && !y.answered) then .inl (t.staleCount p)
      else .inl (t.getAnswer x is m.data false m.poison).settleAll

/-- The message that an ACK names. -/
def ackNames (m : FabMsg) (y : XMsg) : Bool := y.msg.addr == m.addr && y.msg.dst == m.src && y.msg.seg == m.seg

/-- The acknowledgement of a PUT that ended before it (R428). -/
def State.putAcked (s : State) (p : Nat) (m : FabMsg) : Option State :=
  match s.putsOut.find? fun y =>
    y.2.tag == m.tag && y.2.spart == p && y.2.addr == m.addr && y.2.dst == m.src && y.2.seg == m.seg with
  | some y => some (({ s with putsOut := s.putsOut.filter (· != y) }).kickFlags y.1)
  | none => none

/-- FABRIC_ACK (R416, Table 9.7). -/
def execFabricAck (inbox : Nat) (s : State) : Res :=
  onMsg (fun m => m.type == 5 && !(!m.enc && rawLe m.data 1 1 == 1)) inbox s fun p m t =>
    let st := ackStatus m.data
    if rawLe m.data 1 1 != 0 || !([0, 5, 6, 7, 0x0C, 0x0F].contains st) || rawLe m.data 2 6 != 0 then .inl t.rejectInput
    else match t.byTag m with
      | none => .inl ((t.putAcked p m).getD (t.staleCount p))
      | some (x, f) =>
        if !(f.msgs.any fun y => ackNames m y && !y.answered) || (f.kind == .get && st == 0) then .inl (t.staleCount p)
        else if st = 0 then .inl (t.answer x (ackNames m) true).settleAll
        else if f.kind == .get && (st = 6 || st = 7) then .inl (t.getAnswer x (ackNames m) [] (st == 6) (st == 7)).settleAll
        else if st = 6 || st = 7 then .inl (t.answer x (ackNames m) false).settleAll
        else .inl (t.endFab x st).settleAll

/-- The message that a NAK names, among those of this module as they were sent: of a transfer while it is not answered, or a response or
CTL message. -/
def State.lostMsg (s : State) (p : Nat) (m : FabMsg) : Option FabMsg :=
  let is (y : FabMsg) : Bool := y.addr == m.addr && y.seg == m.seg && y.tag == m.tag && y.epoch == m.epoch && y.spart == p &&
    y.counter.toNat == rawLe m.data 2 4
  let open_ := s.xfers.findSome? fun x => x.2.bind fun f => (f.msgs.find? fun y => is y.msg && y.since.isSome && !y.answered).map (·.msg)
  (open_.orElse fun _ => s.kept.find? is).orElse fun _ => (s.putsOut.map (·.2)).find? is

/-- ROUTE_LOST_NAK: the message it names is sent once more, as it was sent first (R413, R568). -/
def execRouteLostNak (inbox : Nat) (s : State) : Res :=
  onMsg (fun m => m.type == 5 && !m.enc && rawLe m.data 1 1 == 1) inbox s fun p m t =>
    if rawLe m.data 0 1 != 0 || rawLe m.data 6 2 != 0 then .inl t.rejectInput
    else match t.lostMsg p m with
      | some y => .inl (t.post y)
      | none => .inl (t.staleCount p)

end Sys2Proof.Machine
end

