-- ==== Sys2Proof/Machine/Cohort.lean ====
section
/-! DEFINITION. Cohorts: epochs, heartbeats, the loss of a member, fences and sweeps, and PACE (spec/09 R437, R440 to R451; spec/12
R572). -/

namespace Sys2Proof.Machine

/-! ### Timers that PACE stretches (R449, R450) -/

/-- The largest b held at any moment since a time. -/
def maxSince : List (Nat × Nat) → Nat → Nat
  | [], _ => 0
  | (t, b) :: r, t0 => if t ≤ t0 then b else max b (maxSince r t0)

/-- When a timer of a partition passes that started at `t0` and runs `d` ps (R450). -/
def State.passes (s : State) (p t0 d : Nat) : Nat :=
  let k := 256 - min 255 (maxSince (s.cohort p).held t0)
  t0 + (d * 256 + k - 1) / k

def State.peerPs (s : State) : Nat := s.fld (fabTmo 11 0) * 10 ^ 7
def State.hbPs (s : State) : Nat := s.fld (fabTmo 23 12) * 10 ^ 6
def State.collPs (s : State) : Nat := s.fld (fabTmo 39 24) * 10 ^ 9
def State.holdPs (s : State) : Nat := s.fld (fabTmo 47 40) * 10 ^ 9

def State.fabEvent (s : State) : State := s.raiseVec 0 (s.fld rasFabVec)

/-- The largest b that a partition holds from members of its cohort, with its source. -/
def State.paceOf (s : State) (p : Nat) : Nat × Nat :=
  if s.epochOf p = 0 then (0, 0)
  else s.paces.foldl (fun r x => if s.member p x.src && decide (r.1 < x.b) then (x.b, x.src) else r) (0, 0)

/-- The factors held changed: each partition records its largest, and an event is raised for each change (R451). -/
def State.paceChanged (s : State) : State :=
  (List.range 48).foldl (fun s p =>
    let (b, src) := s.paceOf p
    if b = s.fld (cohStat p 15 8) then s
    else
      let c := s.cohort p
      let s := s.setCohort p { c with held := (s.now, b) :: c.held }
      let s := (s.setFld (cohStat p 15 8) b).setFld (cohStat p 29 16) src
      if s.epochOf p = 0 then s else s.fabEvent) s

/-! ### Losing a member, fencing (R443 to R447) -/

/-- WAITs of a partition whose writer is a cohort member of a kind end (R444, R445, R482). -/
def State.releaseWaits (s : State) (p : Nat) (is : Nat → Bool) (status : Nat) : State :=
  let qs := (s.queues.filter fun x => x.2.st != .empty && x.2.part == p).map (·.1)
  qs.foldl (fun s qn => (s.queue qn).cmds.foldl (fun s c =>
    let waits : Bool := match c.work with
      | .wait _ _ | .waitAsk => true
      | _ => false
    if waits && c.le 0x29 1 = 1 && is (c.le 0x2A 2) then s.endWait qn c status else s) s) s

/-- A CTL message to a member, for a partition there: where nothing names one, the number of the own (log 72). -/
def State.ctl (s : State) (p type d : Nat) (addr : Nat := 0) (dp : Nat := p) : State :=
  s.sendFrom p { type := type, dst := d, dpart := dp, epoch := s.epochOf p, addr := BitVec.ofNat 64 addr }

/-- The other members of a partition's cohort. -/
def State.peers (s : State) (p : Nat) : List Nat := (s.members p).filter (· != s.modId)

/-- The partition fences (R445): a second trigger does not start again. Its data that has not left is not sent (R446). -/
def State.fence (s : State) (p : Nat) : State :=
  if s.fenced p then s
  else
    let s := (s.setFld (cohStat p 0 0) 1).setFld (cohFence p) 1
    let s := s.dropUnsent fun m => m.spart == p && !m.isCtl && m.type != 5
    let s := (s.xfersOf p).foldl (fun s x => s.endFab x.1 5) s
    let s := s.releaseWaits p (fun _ => true) 5
    let s := (s.peers p).foldl (fun s d => s.ctl p 0x12 d) s
    let n := (s.cohort p).probeNo + 1
    let s := s.setCohort p { s.cohort p with probeNo := n, sweep := some s.now, answered := [s.modId] }
    (s.peers p).foldl (fun s d => s.ctl p 0x13 d n) s

/-- A transfer or collective that involves a module. -/
def Xfer.involves (t : Xfer) (m : Nat) : Bool := match t.kind with
  | .coll | .ring => t.coll.members.any (·.1 == m)
  | _ => t.peer == m

/-- A member is declared lost (R444). -/
def State.lose (s : State) (p m : Nat) : State :=
  let c := s.cohort p
  if s.epochOf p = 0 || c.lost.contains m || m = s.modId then s
  else
    let s := s.setCohort p { c with lost := c.lost ++ [m], hbSeen := c.hbSeen.filter (·.1 != m) }
    let s := ((s.xfersOf p).filter fun x => x.2.involves m).foldl (fun s x => s.endFab x.1 4) s
    (s.releaseWaits p (· == m) 4).fence p

/-! ### The rows -/

def onPart (p : Nat) (s : State) (f : State → State) : Res := unit (partOk p) (if s.ready then f s else s)

/-- A CTL message that takes effect only in the partition's current epoch. -/
def onCtl (type inbox : Nat) (s : State) (f : Nat → FabMsg → State → State) : Res :=
  onMsg (isType type) inbox s fun p m t =>
    .inl (if t.epochOf p != 0 && m.epoch == t.epochOf p then f p m t else t)

/-- No HB or PACE of the same source module came before a message (R386). -/
def State.hyphaTurn (s : State) (id : Nat) : Bool := match s.inbox.find? (·.1 == id) with
  | some x => !((s.inbox.takeWhile (·.1 != id)).any fun y => y.2.isHypha && y.2.src == x.2.src)
  | none => false

/-- HB: it counts from a member that the partition watches. -/
def execHb (inbox : Nat) (s : State) : Res :=
  if !s.hyphaTurn inbox then .next s
  else onCtl 0x10 inbox s fun p m t =>
    let c := t.cohort p
    t.setCohort p { c with hbSeen := c.hbSeen.map fun x => if x.1 = m.src then (m.src, t.now) else x }

/-- HB_SEND. -/
def execHbSend (part : Nat) (s : State) : Res :=
  onPart part s fun s =>
    if s.epochOf part = 0 then s
    else
      let s := s.reach ((s.cohort part).hbSent + s.hbPs)
      let s := s.setCohort part { s.cohort part with hbSent := s.now }
      ((s.watched part).filter (· != s.modId)).foldl (fun s d => s.ctl part 0x10 d) s

/-- The factor that a source's last PACE carried is held, or dropped at b = 0. -/
def State.holdPace (s : State) (src b : Nat) : State :=
  let rest := s.paces.filter (·.src != src)
  let new : List Pace := if b = 0 then [] else [{ src := src, b := b, at_ := s.now }]
  ({ s with paces := rest ++ new }).paceChanged

/-- PACE. -/
def execPace (inbox : Nat) (s : State) : Res :=
  if !s.hyphaTurn inbox then .next s
  else onCtl 0x11 inbox s fun _ m t => t.holdPace m.src (m.addr.toNat % 256)

/-- PACE_HOLD_EXPIRE. -/
def execPaceHoldExpire (source : Nat) (s : State) : Res :=
  .next (match s.paces.find? (·.src == source) with
    | some x => if s.ready then (s.reach (x.at_ + s.holdPs)).holdPace source 0 else s
    | none => s)

/-- COHORT_FENCE_MSG. -/
def execCohortFenceMsg (inbox : Nat) (s : State) : Res := onCtl 0x12 inbox s fun p _ t => (t.fence p).settleAll

/-- PROBE: answered at any epoch, and by a fenced partition. -/
def execProbe (inbox : Nat) (s : State) : Res :=
  onMsg (isType 0x13) inbox s fun p m t =>
    .inl (t.sendFrom p { type := 0x14, dst := m.src, dpart := m.spart, epoch := t.epochOf p, addr := m.addr })

/-- PROBE_RSP: the member is reachable; a collective that probed it starts its step timer again (R437, R447). -/
def execProbeRsp (inbox : Nat) (s : State) : Res :=
  onMsg (isType 0x14) inbox s fun p m t =>
    let c := t.cohort p
    let t := if c.sweep.isSome && m.addr.toNat = c.probeNo && t.member p m.src && !c.answered.contains m.src then
      t.setCohort p { c with answered := c.answered ++ [m.src] } else t
    .inl ((t.xfersOf p).foldl (fun t x =>
      if x.2.probed.any (·.1 == m.src) then
        t.setXfer x.1 { x.2 with probed := x.2.probed.filter (·.1 != m.src), timer := t.now }
      else t) t)

/-- A ROUTE_LOST NAK, which a transit module sends (R413). -/
def FabMsg.isNak (m : FabMsg) : Bool := m.type == 5 && !m.enc && rawLe m.data 1 1 == 1

/-- When the wait of a message in transit passes: the module is of no cohort there, and takes the largest factor that a partition of
it holds (R423; DESIGN CHOICE, log 72). -/
def State.passesAny (s : State) (t0 d : Nat) : Nat := (List.range 48).foldl (fun n p => max n (s.passes p t0 d)) 0

/-- ROUTE_WAIT_TIMEOUT (R423): at its source the destination is lost, where it is a member; in transit the message is discarded. -/
def execRouteWaitTimeout (msg : Nat) (s : State) : Res :=
  .next (match s.outbox.find? (·.1 == msg) with
    | none => s
    | some (_, m, t) =>
      if !s.ready then s
      else
        let drop (s : State) : State := { s with outbox := s.outbox.filter (·.1 != msg) }
        if m.src = s.modId then
          let s := s.reach (s.passes m.spart t s.peerPs)
          if s.member m.spart m.dst && !m.isNak then (drop (s.lose m.spart m.dst)).settleAll else drop s
        else (drop (s.reach (s.passesAny t s.peerPs))).routeLost m)

/-- When the timer that a member failed started, by what it failed (R443). -/
def State.peerTimer (s : State) (p m : Nat) : LossWhy → Option Nat
  | .heartbeat => ((s.cohort p).hbSeen.find? (·.1 == m)).map (·.2)
  | .response => (s.xfersOf p).findSome? fun x => (x.2.msgs.find? fun y => y.msg.dst == m && !y.answered && y.since.isSome).bind (·.since)
  | .route => (s.outbox.find? fun o => o.2.1.src == s.modId && o.2.1.spart == p && o.2.1.dst == m).map (·.2.2)
  | .probe => (s.xfersOf p).findSome? fun x => (x.2.probed.find? (·.1 == m)).map (·.2)

/-- PEER_TIMEOUT. -/
def execPeerTimeout (part member : Nat) (why : LossWhy) (s : State) : Res :=
  onPart part s fun s => match s.peerTimer part member why with
    | some t => ((s.reach (s.passes part t s.peerPs)).lose part member).settleAll
    | none => s

/-- SWEEP_END (R447): the members that did not answer are lost (R443). -/
def execSweepEnd (part : Nat) (s : State) : Res :=
  onPart part s fun s =>
    let c := s.cohort part
    match c.sweep with
    | none => s
    | some t =>
      let s := s.reach (s.passes part t s.peerPs)
      let s := s.setCohort part { c with sweep := none, answered := [] }
      let s := ((s.peers part).filter fun d => !c.answered.contains d).foldl (fun s d => s.lose part d) s
      let s := (List.range 256).foldl (fun s w =>
        s.setWord (0x00660000 + 2048 * part + 8 * w)
          (BitVec.ofNat 64 ((c.answered.filter fun d => d / 64 == w).foldl (fun n d => n + 2 ^ (d % 64)) 0))) s
      ((s.setFld (cohStat part 1 1) 1).fabEvent).settleAll

/-- COH_FENCE_SET. -/
def execCohFenceSet (part : Nat) (s : State) : Res := onPart part s fun s => (s.fence part).settleAll

/-- The device pages of a partition's replay area; none where they do not lie in its grant (R571, R572). -/
def State.rplPages (s : State) (p : Nat) : Option (List Nat) :=
  let g := (s.part p).grant
  let ps := (List.range 68).filterMap fun i => (grantByte g ((s.fld (cohRpl p) + i) * 65536)).map (· / 65536)
  if ps.length = 68 then some ps else none

/-- Whether a nonzero epoch is taken (R572). -/
def State.epochOk (s : State) (p : Nat) : Bool :=
  !s.encOf p ||
    (let k := s.keySlot (s.fld (cohCfg p 8 2))
     k.st == 1 && k.type == 2 && (match s.rplPages p with
      | some ps => !s.pinRefused ps
      | none => false))

/-- EPOCH_WRITE (R442, R568, R572). -/
def execEpochWrite (part : Nat) (epoch : W32) (s : State) : Res :=
  onPart part s fun s =>
    let p := part
    let old := s.epochOf p
    if epoch = old || (epoch != 0 && !s.epochOk p) then s
    else
      let s := (s.xfersOf p).foldl (fun s x => s.endFab x.1 5) s
      let s := s.setFld (cohEpoch p) epoch.toNat
      let s := if epoch = 0 then s.releaseWaits p (fun _ => true) 5 else s
      let s := ((s.setFld (cohStat p 0 0) 0).setFld (cohFence p) 0).setFld (cohStat p 1 1) 0
      let pages := if s.encOf p then (s.rplPages p).getD [] else []
      let s := if epoch = 0 then pages.foldl (fun s g => s.setPin g 0) s
        else if old = 0 then pages.foldl (fun s g => s.setPin g 1) s else s
      let watch := if epoch = 0 then [] else (s.watched p).filter (· != s.modId)
      let s := s.setCohort p { probeNo := (s.cohort p).probeNo, hbSeen := watch.map fun d => (d, s.now), hbSent := s.now
                               held := [(s.now, s.fld (cohStat p 15 8))] }
      -- what the old epoch's messages still awaited is over with it
      let s := { s with kept := s.kept.filter (·.spart != p), putsOut := s.putsOut.filter (·.2.spart != p) }
      s.paceChanged.settleAll

end Sys2Proof.Machine
end

