-- ==== Sys2Proof/Machine/Coll.lean ====
section
/-! DEFINITION. Collectives and the KV ring (spec/09 R431 to R439; spec/10 R489). A collective's engine goes on as far as the
data it has and the pages it can reach allow, whenever something arrives for it. -/

namespace Sys2Proof.Machine

/-! ### The arithmetic of a combination (R431, R434) -/

/-- MIN or MAX of two elements of an etype (R156). -/
def collMin (f : W32) (isMax : Bool) (a b : Nat) : Nat :=
  let t := redEtype f
  if etypeFloat t then ((etypeFmt t).minMax isMax false a b).1
  else
    let w := 8 * etypeBytes t
    let v (x : Nat) : Int := intVal w (t == 4 || t == 5) x
    if isMax then (if v a < v b then b else a) else if v b < v a then b else a

/-- The contributions to one element in rank order combined, and whether the result turned into an infinity (R213). -/
def combine (f : W32) (op : Nat) : List Nat → Nat × Bool
  | [] => (0, false)
  | x :: xs =>
    if op != 0 then (xs.foldl (collMin f (op == 2)) x, false)
    else if fmtExact f && etypeFloat (redEtype f) then exactOut f ((x :: xs).foldl (redAdd f) 0)
    else (xs.foldl (redAdd f) x, false)

/-! ### Chunks (R433) -/

def CollOp.w (o : CollOp) : Nat := etypeBytes (redEtype o.fmt)
def CollOp.g (o : CollOp) : Nat := o.members.length
/-- The elements of a full chunk. -/
def CollOp.c (o : CollOp) : Nat := (o.n + o.g - 1) / o.g
/-- Where chunk `k` starts, and how long it is, in bytes. -/
def CollOp.at_ (o : CollOp) (k : Nat) : Nat := min o.n (k * o.c) * o.w
def CollOp.len (o : CollOp) (k : Nat) : Nat := o.at_ (k + 1) - o.at_ k
/-- ALL_REDUCE, REDUCE_SCATTER and REDUCE combine. -/
def CollOp.combines (o : CollOp) : Bool := o.kind == 0 || o.kind == 1 || o.kind == 4

/-- The bytes of output at this rank. -/
def CollOp.total (o : CollOp) : Nat := match o.kind with
  | 1 => o.len o.rank
  | 4 => if o.rank = o.root then o.n * o.w else 0
  | _ => o.n * o.w

/-- Where the result of rank `j` stands in the output of this rank, and its length; none where this rank has none of it. -/
def CollOp.place (o : CollOp) (j : Nat) : Option (Nat × Nat) := match o.kind with
  | 0 | 2 => some (o.at_ j, o.len j)
  | 1 => if j = o.rank then some (0, o.len j) else none
  | 3 => if j = o.root then some (0, o.n * o.w) else none
  | _ => if o.rank = o.root then some (o.at_ j, o.len j) else none

/-- The ranks that the result of this rank goes to. -/
def CollOp.sendsTo (o : CollOp) : List Nat :=
  let others := (List.range o.g).filter (· != o.rank)
  match o.kind with
  | 0 | 2 => others
  | 3 => if o.rank = o.root then others else []
  | 4 => others.filter (· == o.root)
  | _ => []

/-! ### Reading and writing for an engine -/

/-- Whether a page that an engine needs has been asked for and refused. -/
def State.refused (s : State) (t : Xfer) (page : Nat) (write : Bool) : Bool :=
  t.asked.contains (page, write) && !(s.pageReqs.any fun r => r.ctx == t.ctx && r.page == page && (r.write == write || r.write))

def State.askPage (s : State) (x : Nat) (w : W64) (write : Bool) : State :=
  match s.xfer x with
  | some t => (s.setXfer x { t with asked := (w.toNat / 4096, write) :: t.asked }).cmdPage t.queue t.cmd w write
  | none => s

/-- The places of ranges under the issuing context, each with its length, and none for a range that translation fails; none at all while
a page or a table's home is waited for (R425). -/
def State.engPlaces (s : State) (x : Nat) (acc : Acc) : List (Nat × Nat) → State × Option (List (Nat × Option (List (Loc × Nat))))
  | [] => (s, some [])
  | (va, n) :: rs => match s.xfer x with
    | none => (s, none)
    | some t =>
      let on (s : State) (o : Option (List (Loc × Nat))) := match State.engPlaces s x acc rs with
        | (s, some os) => (s, some ((n, o) :: os))
        | r => r
      match s.tryPlaces (s.whoEng t.queue) t.ctx acc va n with
      | (s, .inl ls) => on s (some ls)
      | (s, .inr (.page w wr)) => if s.refused t (w.toNat / 4096) wr then on s none else (s.askPage x w wr, none)
      | (s, .inr .wait) => (s, none)
      | (s, .inr _) => on s none

/-- What was read at places, from offset `off` on, with `free` bytes, poisoned, for what could not be translated; and the ranges that
could not. -/
def State.gathered (s : State) (free : List Byte) : Nat → List (Nat × Option (List (Loc × Nat))) → Marked × List (Nat × Nat)
  | _, [] => ([], [])
  | off, (n, o) :: os =>
    let r := s.gathered free (off + n) os
    match o with
    | some ls => (s.fetchMarks ls ++ r.1, r.2)
    | none => ((((free.drop off).take n).map fun b => (b, true)) ++ r.1, (off, n) :: r.2)

/-- Bytes of the issuing context read page by page, with the ranges that translation fails, whose bytes are free values, poisoned
(R425, R430, log 3); none while something is waited for. -/
def State.engRead (s : State) (x va n : Nat) : State × Option (Marked × List (Nat × Nat)) :=
  match s.xfer x with
  | none => (s, none)
  | some t => match s.engPlaces x .read (pageCuts (va, n)) with
    | (s, none) => (s, none)
    | (s, some os) => match s.gateAll (s.whoEng t.queue) (os.flatMap fun o => o.2.getD []) [] with
      | (s, false) => (s, none)
      | (s, true) =>
        match if os.all (·.2.isSome) then (0, s) else s.draw with
        | (v, s) => (s, some (s.gathered (leBytes n v) 0 os))

/-- Pieces written under the issuing context, each whole or not at all: whether it is over, and of each whether it failed. -/
def State.engPut (s : State) (x : Nat) (ps : List (Nat × Marked)) : State × Option (List Bool) :=
  match s.xfer x with
  | none => (s, none)
  | some t => match s.engPlaces x .write (ps.map fun p => (p.1, p.2.length)) with
    | (s, none) => (s, none)
    | (s, some os) => match s.gateAll (s.whoEng t.queue) [] (os.flatMap fun o => o.2.getD []) with
      | (s, false) => (s, none)
      | (s, true) => ((os.zip ps).foldl (fun s y => match y.1.2 with
          | some ls => s.putMarked (s.whoEng t.queue) ls y.2.2
          | none => s) s, some ((os.zip ps).map fun y => y.1.2.isNone || y.2.2.any (·.2)))

/-- One piece written. -/
def State.engWrite (s : State) (x va : Nat) (m : Marked) : State × Option Bool :=
  match s.engPut x [(va, m)] with
  | (s, some r) => (s, some (r.any id))
  | (s, none) => (s, none)

/-! ### Segments of an output (R436) -/

/-- How many bytes of [a, a + n) lie in a list of ranges. -/
def covered (rs : List (Nat × Nat)) (a n : Nat) : Nat :=
  rs.foldl (fun k r => k + (min (a + n) (r.1 + r.2) - max a r.1)) 0

/-- Output bytes are final at this rank; where they failed, so do their segments. -/
def State.finalAt (s : State) (x off n : Nat) (bad : Bool) : State :=
  match s.xfer x with
  | none => s
  | some t =>
    let fin := (off, n) :: t.final
    let s := s.setXfer x { t with final := fin }
    let q := s.queue t.queue
    match q.cmd? t.cmd with
    | none => s
    | some c =>
      let segs := c.segs.zipIdx.map fun y =>
        let a := y.2 * c.segSz
        let k := min c.segSz (c.total - a)
        if bad && 0 < covered [(off, n)] a k then SegSt.failed
        else if y.1 == .open_ && covered fin a k = k then .done else y.1
      s.setQueue t.queue (q.setCmd { c with segs := segs })

/-- A range cut at the borders of the segments of `sz` bytes that it lies in. -/
def segCuts (sz a n : Nat) : List (Nat × Nat) :=
  if n = 0 then [] else (List.range ((a + n - 1) / sz - a / sz + 1)).map fun i =>
    let lo := max a ((a / sz + i) * sz)
    (lo, min (a + n) ((a / sz + i + 1) * sz) - lo)

/-! ### What an engine serves (R533) -/

/-- The status of a transfer whose messages have all been answered; none while it goes on (Table 9.7). -/
def State.xferStatus (s : State) (x : Nat) (c : Cmd) : Option Nat :=
  match s.xfer x with
  | none => none
  | some t =>
    if t.msgs.any fun m => !m.answered then none
    else match t.kind with
      | .flag => if t.msgs.isEmpty then none else some (if t.msgs.any (·.failed) then 1 else 0)
      | .coll => if (t.coll.combines && t.stepSent < t.coll.g) || !t.combined then none else c.segStatus
      | .ring => if t.stepSent < t.coll.n then none else c.segStatus
      | _ => c.segStatus

/-- The engines serve one collective, and the ring engine one ring, of a context at a time, in dispatch order. -/
def State.collTurn (s : State) (t : Xfer) : Bool :=
  s.engTurn t.queue t.cmd fun d => match d.work with
    | .xfer x => (s.xferStatus x d).isNone
    | _ => false

/-! ### A collective's engine -/

/-- The messages that carry marked bytes to a rank: `off` is their offset in the n elements. -/
def State.collSend (s : State) (x : Nat) (j phase off : Nat) (m : Marked) : State :=
  match s.xfer x with
  | none => s
  | some t =>
    let (d, dp) := t.coll.members.getD j (0, 0)
    let sz := segSize (t.coll.n * t.coll.w)
    s.sendAll x ((pieces off m.length).map fun y =>
      let b := (m.drop (y.1 - off)).take y.2
      { seg := y.1 / sz, off := y.1, len := y.2
        msg := { s.xferMsg x t 6 d dp with
          addr := BitVec.ofNat 64 (y.1 % 2 ^ 40 + phase * 2 ^ 40), len := y.2, seg := y.1 / sz, data := b.map (·.1), poison := b.any (·.2) } })

/-- Chunks of the input sent to their owners, in rank order; `stepSent` counts them (R433 step 1). -/
def State.collScatter (s : State) (x : Nat) : Nat → State
  | 0 => s
  | fuel + 1 => match s.xfer x with
    | none => s
    | some t =>
      let o := t.coll
      let k := t.stepSent
      let next (s : State) : State := match s.xfer x with
        | some t => s.setXfer x { t with stepSent := k + 1 }
        | none => s
      if !o.combines || o.g ≤ k then s
      else if k = o.rank || o.len k = 0 then (next s).collScatter x fuel
      else match s.engRead x (o.inp.toNat + o.at_ k) (o.len k) with
        | (s, some m) => (next (s.collSend x k 1 (o.at_ k) m.1)).collScatter x fuel
        | (s, none) => s

/-- The bytes that rank `j` contributed, where all of them have arrived. -/
def Xfer.from? (t : Xfer) (j n : Nat) : Option Marked :=
  let parts := t.contrib.filter (·.1 == j)
  if parts.foldl (fun k p => k + p.2.2.length) 0 < n then none
  else some ((List.range n).map fun i =>
    match parts.find? fun p => decide (p.2.1 ≤ i) && decide (i < p.2.1 + p.2.2.length) with
    | some p => p.2.2.getD (i - p.2.1) (0, false)
    | none => (0, false))

/-- The result chunk of this rank from the contributions in rank order, and how many elements turned infinite. -/
def CollOp.result (o : CollOp) (cs : List Marked) : Marked × Nat :=
  let w := o.w
  (List.range (o.len o.rank / w)).foldl (fun r i =>
    let xs := cs.map fun m => (m.drop (i * w)).take w
    let v := combine o.fmt o.op (xs.map fun x => leNat (x.map (·.1)))
    let bad := xs.any fun x => x.any (·.2)
    (r.1 ++ (leBytes w v.1).map fun b => (b, bad), if v.2 then r.2 + 1 else r.2)) ([], 0)

/-- The addends that turn an exact accumulator of this rank's chunk into XNAN (R256). -/
def CollOp.turns (o : CollOp) (cs : List Marked) : Nat :=
  if o.op != 0 then 0
  else (List.range (o.len o.rank / o.w)).foldl (fun k i =>
    k + ((cs.map fun m => leNat (((m.drop (i * o.w)).take o.w).map (·.1))).foldl (fun (r : Nat × Nat) v =>
      (redAdd o.fmt r.1 v, if redTurns o.fmt r.1 v then r.2 + 1 else r.2)) (0, 0)).2) 0

/-- The result of this rank: combined, with the counts of R434 and R256, or read from the input; and the ranges of it whose input could
not be translated. None while something is lacking. -/
def State.collResult (s : State) (x : Nat) (t : Xfer) : State × Option (Marked × List (Nat × Nat) × Nat × Nat) :=
  let o := t.coll
  let r := o.rank
  if o.combines then
    let others := (List.range o.g).filter (· != r)
    if others.any fun j => (t.from? j (o.len r)).isNone then (s, none)
    else match s.engRead x (o.inp.toNat + o.at_ r) (o.len r) with
      | (s, some (own, gaps)) =>
        let cs := (List.range o.g).map fun j => if j = r then own else (t.from? j (o.len r)).getD []
        (s, some ((o.result cs).1, gaps ++ t.denied, (o.result cs).2, o.turns cs))
      | (s, none) => (s, none)
  else if o.kind = 3 && r != o.root then (s, some ([], [], 0, 0))
  else match s.engRead x o.inp.toNat (if o.kind = 3 then o.n * o.w else o.len r) with
    | (s, some (m, gaps)) => (s, some (m, gaps, 0, 0))
    | (s, none) => (s, none)

/-- The own result written at output offset `a`, segment by segment: a piece that holds a gap stays unwritten, and so does one whose own
place fails; both fail their segments alone (R436, R493). -/
def State.collPut (s : State) (x a : Nat) (t : Xfer) (sz : Nat) (m : Marked) (gaps : List (Nat × Nat)) : State × Bool :=
  let cuts := segCuts sz a m.length
  let gap (r : Nat × Nat) : Bool := 0 < covered gaps (r.1 - a) r.2
  let good := cuts.filter fun r => !gap r
  match s.engPut x (good.map fun r => (t.coll.out.toNat + r.1, (m.drop (r.1 - a)).take r.2)) with
  | (s, none) => (s, false)
  | (s, some bads) =>
    let s := (good.zip bads).foldl (fun s y => s.finalAt x y.1.1 y.1.2 y.2) s
    ((cuts.filter gap).foldl (fun s r => s.finalAt x r.1 r.2 true) s, true)

/-- The engine goes on, in its turn: it sends its chunks, and once it has its result it writes it to its own output and sends it on. -/
def State.collGo (s : State) (x : Nat) : State :=
  match s.xfer x with
  | none => s
  | some t0 =>
    if s.rotating || !s.collTurn t0 then s
    else
      let s := s.collScatter x (t0.coll.g + 1)
      match s.xfer x with
      | none => s
      | some t =>
        let o := t.coll
        if t.combined then s
        else match s.collResult x t with
          | (s, none) => s
          | (s, some (m, gaps, inf, turned)) =>
            let off := if o.kind = 3 then 0 else o.at_ o.rank
            let sz := match (s.queue t.queue).cmd? t.cmd with
              | some c => c.segSz
              | none => 4096
            let wrote : State × Bool := match o.place o.rank with
              | some (a, n) => if n = 0 then (s, true) else s.collPut x a t sz m gaps
              | none => (s, true)
            match wrote with
            | (s, false) => s
            | (s, true) =>
              let s := (s.bump (telPcnt t.part 0x18) inf).bump (telPcnt t.part 0) turned
              let s := match s.xfer x with
                | some t => s.setXfer x { t with combined := true }
                | none => s
              o.sendsTo.foldl (fun s j => if m.isEmpty then s else s.collSend x j 2 off m) s

/-! ### The group descriptor and the rows (R432, R435, R436, Table 10.15) -/

/-- A group descriptor read whole, checked: G, rank, root and members; none where it breaks a rule. -/
def State.groupOf (s : State) (p kind : Nat) (b : List Byte) : Option CollOp :=
  let g := rawLe b 2 2
  let r := rawLe b 4 2
  let root := rawLe b 6 2
  let ws := (List.range g).map fun i => rawLe b (16 + 4 * i) 4
  let ms := ws.map fun w => (w % 16384, w / 16384 % 64)
  let rooted := kind == 3 || kind == 4
  if rawLe b 0 1 = 2 && rawLe b 1 1 = 0 && inLen 16384 g && decide (r < g) && (if rooted then decide (root < g) else root == 0) &&
      allZero b 8 8 && ws.all (fun w => decide (w < 2 ^ 20)) && (ms.map (·.1)).eraseDups.length == ms.length &&
      ms.all (fun m => s.member p m.1) && ms.getD r (16384, 0) == (s.modId, p) then
    some { members := ms, rank := r, root := root }
  else none

/-- A member is reached over a version-1 link (R405, R436). -/
def State.overV1 (s : State) (d : Nat) : Bool :=
  d != s.modId && ((List.range 32).any fun p => bitOf (s.fld (fabRt d)) p && s.portUp p && s.fld (portStat p 19 17) = 1)

/-- The work buffer that a collective needs, in bytes (R435). -/
def CollOp.workNeed (o : CollOp) : Nat :=
  if !o.combines || o.op != 0 || !etypeFloat (redEtype o.fmt) then 0
  else if fmtExact o.fmt then o.c * accWidth o.fmt else (o.g - 1) * o.c * o.w

/-- Where a contribution of rank `j` to bytes [off, off + n) of the own chunk stands in the work buffer: a slot for each other rank, or the
exact accumulators (R434, R435; log 73). None where the collective needs no work buffer. -/
def CollOp.workAt (o : CollOp) (j off n : Nat) : Option (Nat × Nat) :=
  if o.workNeed = 0 then none
  else if fmtExact o.fmt then
    let a := accWidth o.fmt
    some (off / o.w * a, ((off + n - 1) / o.w + 1 - off / o.w) * a)
  else some ((if j < o.rank then j else j - 1) * (o.c * o.w) + off, n)

/-- A work buffer without the write right over what is needed is smaller than that; else its bytes become free values. None while it has to
wait. -/
def State.workBuf (s : State) (qn : Nat) (q : Queue) (va need : Nat) : State × Option Bool :=
  if need = 0 then (s, some true)
  else match s.tryPlaces (s.whoEng qn) q.ctx .write va need with
    | (s, .inl ls) => match s.gateAll (s.whoEng qn) [] ls with
      | (s, false) => (s, none)
      | (s, true) => match s.draw with
        | (v, s) => ((s.storeAll (s.whoEng qn) ls (leBytes need v) false).keepBad s.poison ls, some true)
    | (s, .inr (.page _ _)) => (s, some true)
    | (s, .inr .wait) => (s, none)
    | (s, .inr _) => (s, some false)

/-- Bytes of a context's space lie in host memory, as they have just been translated. -/
def State.inHost (s : State) (ctx va n : Nat) : Bool :=
  (pageCuts (va, n)).any fun r => match s.locate ctx (BitVec.ofNat 64 r.1) .read with
    | some l => l.host
    | none => false

/-- The group of a COLLECTIVE read, and what refuses the command before it acts; `f` starts it. The version in its header is judged before
anything else of it is used (R19). -/
def State.collStart (s : State) (qn : Nat) (d : Desc) (kind : Nat) (f : CollOp → State → State) : State :=
  let q := s.queue qn
  let p := q.part
  let va := rawLe d.bytes 0x30 8
  if s.epochOf p = 0 then s.endFront qn d 5
  else match s.ctrlRead qn d (BitVec.ofNat 64 va) 16 with
    | .inl s => s
    | .inr (s, h) =>
      if rawLe h 0 1 != s.fld (negSel q.fn 27 24) then s.endFront qn d 0x0C
      else if s.inHost q.ctx va 16 || !inLen 16384 (rawLe h 2 2) then s.endFront qn d 0x0B
      else
        let len := 16 + 4 * rawLe h 2 2
        match s.ctrlRead qn d (BitVec.ofNat 64 va) len with
        | .inl s => s
        | .inr (s, b) => match if s.inHost q.ctx va len then none else s.groupOf p kind b with
          | none => s.endFront qn d 0x0B
          | some o =>
            if o.members.any fun m => (s.cohort p).lost.contains m.1 then s.endFront qn d 4
            else if s.fenced p then s.endFront qn d 5
            else f o s

/-- The checks of a COLLECTIVE of kinds 0 to 4 on its own fields. -/
def collFieldsOk (kind : Nat) (bl1 : Bool) (r : List Byte) : Bool :=
  let f : W32 := BitVec.ofNat 32 (rawLe r 0x14 4)
  let op := rawLe r 0x11 1
  decide (op < 3) && allZero r 0x12 2 && rawLe r 0x30 8 % 64 == 0 && inLen (2 ^ 40) (rawLe r 0x38 8) &&
    (if kind == 2 || kind == 3 then f == 0
     else fmtLegal f && !(bl1 && fmtExact f) && (op == 0 || (!fmtExact f && fmtPlain f)))

/-- A COLLECTIVE of kinds 0 to 4. -/
def collRow (kind : Nat) (queue : Nat) (s : State) : Res :=
  onFront 0x0E (fun r => rawLe r 0x10 1 == kind) (collFieldsOk kind (s.ctx (s.queue queue).ctx).bl1) queue s fun d s =>
    s.collStart queue d kind fun o s =>
      let r := d.bytes
      let q := s.queue queue
      let v (off : Nat) : W64 := BitVec.ofNat 64 (rawLe r off 8)
      let o := { o with
        kind := kind, op := rawLe r 0x11 1, fmt := BitVec.ofNat 32 (rawLe r 0x14 4), n := rawLe r 0x38 8
        inp := v 0x18, out := v 0x20, work := v 0x28 }
      if o.combines && fmtExact o.fmt && o.members.any (fun m => s.overV1 m.1) then s.endFront queue d 0x0C
      else match s.workBuf queue q (rawLe r 0x28 8) o.workNeed with
        | (s, none) => s
        | (s, some false) => s.endFront queue d 0x0D
        | (s, some true) =>
          let n := o.total
          match s.dispatchXfer queue d { kind := .coll, coll := o, timer := s.now } fun c => { c with
              dst := o.out, segSz := segSize (max 1 n), total := n
              segs := List.replicate (if n = 0 then 0 else segCount n) .open_ } with
          | (s, x) => (s.collGo x).endOldLinks

/-- ALL_REDUCE. -/
def execAllReduce (queue : Nat) (s : State) : Res := collRow 0 queue s
/-- REDUCE_SCATTER. -/
def execReduceScatter (queue : Nat) (s : State) : Res := collRow 1 queue s
/-- ALL_GATHER. -/
def execAllGather (queue : Nat) (s : State) : Res := collRow 2 queue s
/-- BROADCAST. -/
def execBroadcastOp (queue : Nat) (s : State) : Res := collRow 3 queue s
/-- REDUCE. -/
def execReduceOp (queue : Nat) (s : State) : Res := collRow 4 queue s

/-! ### COLL_DATA -/

/-- What rank `j` still owes a phase of a collective: where in the own chunk or the output the bytes at an offset go; none
where they are not awaited. Offsets count in the n elements, modulo 2^40. -/
def Xfer.awaits (t : Xfer) (j phase addr n : Nat) : Option Nat :=
  let o := t.coll
  let rel (base : Nat) : Nat := (addr + 2 ^ 40 - base % 2 ^ 40) % 2 ^ 40
  if phase = 1 then
    let off := rel (o.at_ o.rank)
    if o.combines && j != o.rank && off + n ≤ o.len o.rank &&
        !(t.contrib.any fun c => c.1 == j && decide (c.2.1 < off + n) && decide (off < c.2.1 + c.2.2.length)) then some off else none
  else if phase = 2 then
    match o.place j with
    | some (a, k) =>
      let off := rel (if o.kind = 3 then 0 else o.at_ j)
      if j != o.rank && off + n ≤ k && covered t.final (a + off) n = 0 then some (a + off) else none
    | none => none
  else none

/-- The oldest collective of a partition that awaits a message, with the rank of its source and where its bytes go. -/
def State.collFor (s : State) (p : Nat) (m : FabMsg) : Option (Nat × Xfer × Nat × Nat) :=
  (s.xfersOf p).findSome? fun x =>
    match x.2.coll.members.findIdx? (· == (m.src, m.spart)) with
    | some j =>
      if x.2.kind == .coll then
        (x.2.awaits j (m.addr.toNat / 2 ^ 40 % 256) (m.addr.toNat % 2 ^ 40) m.len).map fun off => (x.1, x.2, j, off)
      else none
    | none => none

/-- A contribution to a collective is taken, or refused: its bytes then count as poisoned, and what they were for stays unwritten
(R425; log 73). -/
def State.contribute (s : State) (x : Nat) (f : Xfer) (j off : Nat) (m : FabMsg) (denied : Bool) : State :=
  s.setXfer x { f with
    contrib := f.contrib ++ [(j, off, m.data.map fun b => (b, m.poison || denied))]
    denied := if denied then (off, m.len) :: f.denied else f.denied }

/-- COLL_DATA: a contribution or a result. It waits until a collective of the partition awaits it. A contribution is held in the engine;
its place in the work buffer is translated as R425 has it. -/
def execCollData (inbox : Nat) (s : State) : Res :=
  onMsg (isType 6) inbox s fun p m t =>
    match t.collFor p m with
    | none => .inr s
    | some (x, f, j, off) =>
      let seen (t : State) : State := match t.xfer x with
        | some f => t.setXfer x { f with timer := t.now, probed := f.probed.filter (·.1 != m.src) }
        | none => t
      if m.addr.toNat / 2 ^ 40 % 256 = 1 then
        let r := f.coll.workAt j off m.len
        let va := f.coll.work + BitVec.ofNat 64 (r.elim 0 (·.1))
        match t.fabPlaces p .write va (r.elim 0 (·.2)) with
        | (_, none) => .inr (s.fabPlaces p .write va (r.elim 0 (·.2))).1
        | (t, some ls) =>
          let t := t.contribute x f j off m ls.isNone
          .inl (((seen t).ackMsg p m (if ls.isNone then 6 else 0)).collGo x).settleAll
      else match t.inWrite s p m (f.coll.out + BitVec.ofNat 64 off) with
        | .inr w => .inr w
        -- an output that the fabric context cannot write fails its segments
        | .inl (t, denied) => .inl (((seen t).finalAt x off m.len (m.poison || denied)).collGo x).settleAll

/-! ### Step timers (R437) -/

/-- The ranks whose data a collective or a ring still lacks. -/
def Xfer.lacks (t : Xfer) : List Nat :=
  let o := t.coll
  let others := (List.range o.g).filter (· != o.rank)
  if t.kind == .ring then (if t.stepDone < o.n then [(o.rank + o.g - 1) % o.g] else [])
  else others.filter fun j =>
    (o.combines && (t.from? j (o.len o.rank)).isNone) || (match o.place j with
      | some (a, n) => decide (covered t.final a n < n)
      | none => false)

/-- COLL_STEP_TIMEOUT: the members whose data is lacking are probed. -/
def execCollStepTimeout (xfer : Nat) (s : State) : Res :=
  .next (match s.xfer xfer with
    | none => s
    | some t =>
      if !s.ready || (t.kind != .coll && t.kind != .ring) || t.lacks.isEmpty || !t.probed.isEmpty then s
      else
        let s := s.reach (s.passes t.part t.timer s.collPs)
        let ms := (t.lacks.map fun j => t.coll.members.getD j (0, 0)).eraseDups
        let n := (s.cohort t.part).probeNo + 1
        let s := s.setCohort t.part { s.cohort t.part with probeNo := n }
        let s := s.setXfer xfer { t with probed := ms.map fun m => (m.1, s.now) }
        ms.foldl (fun s m => s.ctl t.part 0x13 m.1 n m.2) s)

/-! ### The KV ring (R438, R439). Its block size is `len`, its step count the collective's n. -/

/-- The bytes of step `t` that have landed. -/
def Xfer.gotOf (t : Xfer) (step : Nat) : Nat := (t.got.filter (·.1 == step)).foldl (fun n x => n + x.2.2) 0

def ringBuf (t : Xfer) (step : Nat) : Nat := t.coll.out.toNat + step % 2 * t.len

/-- A block of which something could not be written has not landed whole. -/
def Xfer.notWhole (t : Xfer) (step : Nat) : Bool := t.denied.any (·.1 == step)

/-- Blocks that have come are done with, in order: one that landed whole is posted in the step word. -/
def State.ringPost (s : State) (x : Nat) : Nat → State
  | 0 => s
  | fuel + 1 => match s.xfer x with
    | none => s
    | some t =>
      let k := t.stepDone + 1
      if t.coll.n < k || t.gotOf k < t.len then s
      else if t.notWhole k then (s.setXfer x { t with stepDone := k }).ringPost x fuel
      else match s.engWrite x t.coll.work.toNat ((leBytes 8 k).map fun b => (b, false)) with
        | (s, none) => s
        | (s, some bad) =>
          let seg := match (s.queue t.queue).cmd? t.cmd with
            | some c => c.segs.getD (k - 1) .done
            | none => .done
          let s := if bad then s.setSeg t.queue t.cmd (k - 1) .failed
            else if seg == .open_ then s.setSeg t.queue t.cmd (k - 1) .done else s
          match s.xfer x with
          | some t => (s.setXfer x { t with stepDone := k }).ringPost x fuel
          | none => s

/-- Blocks sent to the successor, as far as they are held and it has room for them. -/
def State.ringSend (s : State) (x : Nat) : Nat → State
  | 0 => s
  | fuel + 1 => match s.xfer x with
    | none => s
    | some t =>
      let o := t.coll
      let k := t.stepSent + 1
      if o.n < k || t.stepDone + 1 < k || t.credit + 2 < k then s
      else match s.engRead x (if k = 1 then t.loc.toNat else ringBuf t (k - 1)) t.len with
        | (s, none) => s
        | (s, some (m, _)) =>
          let (d, dp) := o.members.getD ((o.rank + 1) % o.g) (0, 0)
          let m := m.map fun b => (b.1, b.2 || t.notWhole (k - 1))
          let ms : List XMsg := (pieces 0 t.len).map fun y =>
            let b := (m.drop y.1).take y.2
            { seg := k - 1, off := y.1, len := y.2
              msg := { s.xferMsg x t 7 d dp with
                addr := BitVec.ofNat 64 (y.1 + k * 2 ^ 40), len := y.2, seg := (k - 1) % 64, data := b.map (·.1), poison := b.any (·.2) } }
          let s := s.sendAll x ms
          match s.xfer x with
          | some t => (s.setXfer x { t with stepSent := k }).ringSend x fuel
          | none => s

def State.ringGo (s : State) (x : Nat) : State :=
  match s.xfer x with
  | some t => if s.rotating || !s.collTurn t then s else (s.ringPost x (t.coll.n + 1)).ringSend x (t.coll.n + 1)
  | none => s

/-- KV_RING. -/
def execKvRing (queue : Nat) (s : State) : Res :=
  onFront 0x0E (fun r => rawLe r 0x10 1 == 5)
    (fun r => allZero r 0x11 7 && rawLe r 0x30 8 % 64 == 0 && inLen (2 ^ 26) (rawLe r 0x38 4) && rawLe r 0x38 4 % 4096 == 0 &&
      decide (1 ≤ rawLe r 0x3C 3) && rawLe r 0x3F 1 == 0) queue s fun d s =>
    s.collStart queue d 5 fun o s =>
      let r := d.bytes
      let steps := rawLe r 0x3C 3
      let v (off : Nat) : W64 := BitVec.ofNat 64 (rawLe r off 8)
      if o.g ≤ steps then s.endFront queue d 0x0B
      else if 16 ≤ (s.xfers.filter fun x => match x.2 with
          | some t => t.kind == .ring
          | none => false).length then s.endFront queue d 0x0D
      else
        let o := { o with kind := 5, n := steps, inp := v 0x18, out := v 0x20, work := v 0x28 }
        -- the consumed word as it stands is where its rises count from
        match s.tryRead (s.whoEng queue) (s.queue queue).ctx ((o.work + 8).toNat) 8 with
        | (s, .inr .wait) => s
        | (s, w) =>
          let now := match w with
            | .inl m => leNat (m.map (·.1))
            | .inr _ => 0
          match s.dispatchXfer queue d { kind := .ring, coll := o, loc := v 0x18, len := rawLe r 0x38 4, timer := s.now, consumed := now }
              fun c => { c with segs := List.replicate steps .open_ } with
          | (s, x) => s.ringGo x

/-- KV_DATA: it waits until a ring of the partition awaits its step. -/
def execKvData (inbox : Nat) (s : State) : Res :=
  onMsg (isType 7) inbox s fun p m t =>
    let step := m.addr.toNat / 2 ^ 40
    let off := m.addr.toNat % 2 ^ 40
    match (t.xfersOf p).find? fun x =>
      let o := x.2.coll
      x.2.kind == .ring && o.members[(o.rank + o.g - 1) % o.g]? == some (m.src, m.spart) && decide (x.2.stepDone < step) &&
        decide (step ≤ o.n) && decide (off + m.len ≤ x.2.len) &&
        !(x.2.got.any fun g => g.1 == step && decide (g.2.1 < off + m.len) && decide (off < g.2.1 + g.2.2)) with
    | none => .inr s
    | some (x, f) =>
      let va : W64 := BitVec.ofNat 64 (ringBuf f step + off)
      match t.inWrite s p m va with
      | .inr w => .inr w
      | .inl (t, denied) =>
        let t := if m.poison || denied then t.setSeg f.queue f.cmd (step - 1) .failed else t
        let t := match t.xfer x with
          | some f => t.setXfer x { f with
              denied := if denied then (step, 0) :: f.denied else f.denied
              got := f.got ++ [(step, off, m.len)], peerTag := some m.tag, timer := t.now, probed := f.probed.filter (·.1 != m.src) }
          | none => t
        .inl (t.ringGo x).settleAll

/-- KV_CREDIT. -/
def execKvCredit (inbox : Nat) (s : State) : Res :=
  onMsg (isType 8) inbox s fun p m t => match t.byTag m with
    | some (x, f) =>
      if f.kind != .ring then .inl (t.staleCount p)
      else .inl ((t.setXfer x { f with credit := max f.credit (m.addr.toNat % 2 ^ 24) }).ringGo x).settleAll
    | none => .inl (t.staleCount p)

/-- KV_CONSUMED_RISE. -/
def execKvConsumedRise (ring : Nat) (s : State) : Res :=
  .next (match s.xfer ring with
    | none => s
    | some t =>
      if !s.ready || s.rotating || t.kind != .ring then s
      else match s.engRead ring ((t.coll.work + 8).toNat) 8 with
        | (s, none) => s
        | (s, some (m, _)) =>
          let v := leNat (m.map (·.1))
          let o := t.coll
          let (d, dp) := o.members.getD ((o.rank + o.g - 1) % o.g) (0, 0)
          if v ≤ t.consumed || m.any (·.2) then s
          else
            let s := match s.xfer ring with
              | some t => s.setXfer ring { t with consumed := v }
              | none => s
            match t.peerTag with
            | some tag => s.sendFrom t.part {
                type := 8, dst := d, dpart := dp, epoch := s.epochOf t.part, addr := BitVec.ofNat 64 (v % 2 ^ 24), tag := tag }
            | none => s)

end Sys2Proof.Machine
end

