-- ==== Sys2Proof/Machine/Finish.lean ====
section
/-! DEFINITION. The ends of commands: completion, timeout, and the host's answers to page requests (spec/10 R493, R499, R503;
spec/11 R520 to R522). -/

namespace Sys2Proof.Machine

/-! ### COMMAND_COMPLETE -/

/-- A kernel whose every block has retired, with its stores acknowledged (R59, R66). -/
def Kernel.isOver (k : Kernel) : Bool :=
  k.st == .running && k.retired == k.blkCount && k.nextBlock == k.blkCount && k.storesOut == 0 && k.fault.isNone

/-- R289, R292: the kernel is over, and the host writes of its clauses are complete at the host, those of exited clauses too. -/
def State.kernelOver (s : State) (k : Nat) : Bool :=
  (s.kernel k).isOver && !(s.hostReqs.any (·.kernel == k))

/-- A kernel ends by itself: its tiles' matrix units finish what its clauses issued (R48, R197). -/
def State.endOver (s : State) (k : Nat) : State :=
  ((s.kernel k).tiles.foldl (fun s t => s.setTile t ((s.tile t).matDrain (s.cycle (frondOf t)))) s).endKernel k

/-- What a command does that was held up by a snoop or a rotation, tried again. -/
def State.retryCmd (s : State) (qn id : Nat) : State :=
  match (s.queue qn).cmd? id with
  | none => s
  | some c => match c.work with
    | .mover => s.runCmd qn id
    | .once _ => s.runOnce qn id
    | .waitAsk => s
    | .wait _ _ => s.waitTest qn id
    | .xfer x => match s.xfer x with
      | some t => (match t.kind with
        | .put | .get => (s.startXfer x).landAll x
        | .flag => s.kickFlags qn
        | .coll => s.collGo x
        | .ring => s.ringGo x)
      | none => s
    | _ => s

/-- The engine's own end of a command, once it has done everything. -/
def State.complete (s : State) (qn id : Nat) : State :=
  match (s.queue qn).cmd? id with
  | none => s
  | some c => match c.work with
    | .kernel k => if s.kernelOver k then (s.endOver k).finish qn id 0 else s
    | .mover => match c.segStatus with
      | some st => s.finish qn id st
      | none => s
    | .tier ps => if ps.any fun p => (s.page p).late.isSome then s else s.finish qn id 0
    | .fence before => if before.any fun b => ((s.queue b.1).cmd? b.2).isSome then s else s.finish qn id 0
    | .xfer x => match s.xferStatus x c with
      | some st => (s.endXfer x).finish qn id st
      | none => s
    | _ => s

/-- COMMAND_COMPLETE. -/
def execCommandComplete (queue cmd : Nat) (s : State) : Res :=
  unit (decide (queue < 12288)) (if !s.ready || s.rotating || (s.part (s.queue queue).part).st != .ready then s else ((s.retryCmd queue cmd).endOldLinks.complete queue cmd).settleAll)

/-! ### COMMAND_TIMEOUT -/

/-- The timers that run, each with its command and when it passes: of the commands in flight, and of the descriptor at a queue's front
whose control read waits. While a command's kernel is switched out for preemption its timer stands. -/
def State.timers (s : State) : List ((Nat × Nat) × Nat) :=
  (s.queues.filter fun x => (s.part x.2.part).st == .ready).flatMap fun x =>
    ((x.2.cmds.filter s.timing).map fun c => ((x.1, c.id), c.due x.2)) ++
      (match x.2.frontWait with
        | some (id, t) => [((x.1, id), t + x.2.tmoUs * 1000000)]
        | none => [])

/-- COMMAND_TIMEOUT: the command has not completed when its timer passes. The first to expire is the one that ends: another timer that
passes before has its turn first. -/
def execCommandTimeout (queue cmd : Nat) (s : State) : Res :=
  unit (decide (queue < 12288)) (
    match s.timers.find? (·.1 == (queue, cmd)) with
    | none => s
    | some (_, due) =>
      if !s.ready || s.timers.any (fun t => decide (t.2 < due)) then s
      else (((s.reach due).expire queue cmd).flush.settleFront queue).settleAll)

/-! ### PAGE_RESPONSE -/

/-- The faulting address on a page: that of the access, where it lies there. -/
def onPage (va : W64) (page : Nat) : W64 := if va.toNat / 4096 = page then va else BitVec.ofNat 64 (page * 4096)

/-- A kernel whose page request was refused, or whose page is still not there: its context is lost (Table 11.7). -/
def State.kernelRefused (s : State) (k page : Nat) : State :=
  let kn := s.kernel k
  let va := onPage kn.faultVa page
  if kn.st == .done then s
  else ((s.endKernel k).finish kn.queue kn.cmd 6).loseCtx kn.ctx 0x13 6 kn.queue (BitVec.ofNat 32 kn.seq) va

/-- A kernel that has no request open any more: it is eligible to resume, or goes on where it was held in place. -/
def State.kernelAnswered (s : State) (k : Nat) : State :=
  let kn := s.kernel k
  if s.pageReqs.any fun r => r.kernels.any (·.1 == k) then s
  else if kn.st == .out && !kn.eligible && kn.swCause = 1 then s.eligible k
  else if kn.held then s.setKernel k { kn with held := false }
  else s

/-- A need of a command for a page, to read or to write, that the answer to a request settles: the need's own request, or for a read a
write request where the command's own read request is not open any more (R520). -/
def State.settles (s : State) (r : PageReq) (qn id : Nat) (w : Bool) : Bool :=
  w == r.write || (r.write && !(s.pageReqs.any fun x => x.ctx == r.ctx && x.page == r.page && !x.write && x.cmds.contains (qn, id)))

/-- The segments of a command that wait for a page go on, or fail. -/
def State.segsAnswered (s : State) (qn id : Nat) (r : PageReq) (ok : Bool → Bool) : State :=
  let q := s.queue qn
  match q.cmd? id with
  | none => s
  | some c =>
    let segs := c.segs.map fun x => match x with
      | .paused p w => if p = r.page && s.settles r qn id w then (if ok w then .open_ else .failed) else x
      | x => x
    s.setQueue qn (q.setCmd { c with segs := segs })

/-- The pages that a collective or ring asked for and that are there now: a later need of them is a new one. -/
def State.askedThere (s : State) (x qn id : Nat) (r : PageReq) (ok : Bool → Bool) : State :=
  match s.xfer x with
  | some t => s.setXfer x { t with asked := t.asked.filter fun a => !(a.1 == r.page && s.settles r qn id a.2 && ok a.2) }
  | none => s

/-- A command that waits for a page goes on, or fails (Table 11.7). `ok` says for a read and for a write whether the page
is there. -/
def State.cmdAnswered (s : State) (qn id : Nat) (r : PageReq) (ok : Bool → Bool) : State :=
  let q := s.queue qn
  match q.cmd? id with
  | none => s
  | some c => match c.work with
    | .mover => (s.segsAnswered qn id r ok).runCmd qn id
    | .once (some (p, w)) =>
      if p != r.page || !s.settles r qn id w then s
      else if ok w then s.runOnce qn id
      else
        let va := onPage (BitVec.ofNat 64 (c.le (if descOp c.raw = 0x02 then 0x20 else 0x10) 8)) p
        (s.finish qn id 6).loseCtx q.ctx 0x13 6 qn (descSeq c.raw) va
    | .waitAsk => if ok false then s.waitLocate qn id else s.waitFail qn c 0x13 6 (BitVec.ofNat 64 (c.le 0x10 8))
    | .xfer x => match s.xfer x with
      | some t => (match t.kind with
        | .put | .get => ((s.segsAnswered qn id r ok).startXfer x).landAll x
        | .coll => (s.askedThere x qn id r ok).collGo x
        | .ring => (s.askedThere x qn id r ok).ringGo x
        | .flag => s)
      | none => s
    | _ => s

/-- A queue's fetch of its next descriptor, or the control read of the one at its front, goes on, or finds its page refused (R500). -/
def State.fetchAnswered (s : State) (qn page : Nat) (ok : Bool) : State :=
  let q := s.queue qn
  if ok then s else s.setQueue qn { q with fetchBad := page :: q.fetchBad }

def State.readAnswered (s : State) (qn page : Nat) (ok : Bool) : State :=
  let q := s.queue qn
  if q.readPage != some page then s
  else s.setQueue qn { q with readPage := none, readBad := if ok then q.readBad else some page }

/-- Whom the walks after an answer serve: the agent that waited first. -/
def State.whoAsked (s : State) (r : PageReq) : Who :=
  match r.kernels, r.cmds, r.fetches ++ r.reads with
  | k :: _, _, _ => s.whoKernel k.1 (s.kernel k.1).part (s.kernel k.1).tag
  | [], c :: _, _ => s.whoQ c.1
  | [], [], q :: _ => s.whoQ q
  | [], [], [] => { part := (s.ctx r.ctx).part }

/-- A page walked again for accesses: for each, whether the page is there with the right; none while a table's home is waited for. A walk
that meets poison counts as there, for the access made again meets it (R671). -/
def State.walkAgain (s : State) (w : Who) (ctx : Nat) (va : W64) : List Acc → State × Option (List (Acc × Bool))
  | [] => (s, some [])
  | a :: as => match s.translate w ctx va a with
    | (s, .inr .wait) => (s, none)
    | (s, r) => match State.walkAgain s w ctx va as with
      | (s, some l) => (s, some ((a, match r with
          | .inl _ | .inr .poison => true
          | _ => false) :: l))
      | x => x

/-- PAGE_RESPONSE: the host answers a page request. After a Success the module walks again for every agent that waits
(R521): the request stays open until the tables can be read, and until a rotation has ended (R265). -/
def execPageResponse (ctx page : Nat) (write : Bool) (code : PrCode) (s : State) : Res :=
  .next (match s.pageReqs.find? fun r => r.ctx == ctx && r.page == page && r.write == write && r.sent with
    | none => s
    | some r =>
      if !s.ready || s.rotating then s
      else
        let accs := if code != .success then [] else (r.kernels.map (·.2)).eraseDups ++
          (if r.cmds.isEmpty && r.fetches.isEmpty && r.reads.isEmpty then [] else [Acc.read]) ++
          (if r.write && !r.cmds.isEmpty then [Acc.write] else [])
        match s.walkAgain (s.whoAsked r) ctx (BitVec.ofNat 64 (page * 4096)) accs with
        | (s, none) => s
        | (s, some there) =>
          let s := { s with pageReqs := s.pageReqs.filter fun x => !(x.ctx == ctx && x.page == page && x.write == write) }
          let ok (a : Acc) : Bool := there.contains (a, true)
          let s := r.kernels.foldl (fun s k => if ok k.2 then s.kernelAnswered k.1 else s.kernelRefused k.1 page) s
          let s := r.cmds.foldl (fun s c => s.cmdAnswered c.1 c.2 r fun w => ok (if w then .write else .read)) s
          let s := r.fetches.foldl (fun s qn => s.fetchAnswered qn page (ok .read)) s
          (r.reads.foldl (fun s qn => s.readAnswered qn page (ok .read)) s).sendPages.settleAll)

end Sys2Proof.Machine
end

