-- ==== Sys2Proof/Machine/Keys.lean ====
section
/-! DEFINITION. Key slots: bindings, users, installation, retirement and erasure, and the mailbox (spec/12 R555 to R565, Tables
12.9 to 12.11). -/

namespace Sys2Proof.Machine

/-! ### Bindings and users (R556) -/

def cohSlot (p : Nat) : Field := cohCfg p 8 2

/-- The partitions whose memory key stands in a slot. -/
def State.memBound (s : State) (n : Nat) : List Nat :=
  (s.parts.filter fun x => x.2.st != .free && x.2.enc && x.2.key == n).map (·.1)

/-- The partitions whose cohort block uses a slot. -/
def State.fabBound (s : State) (n : Nat) : List Nat :=
  (List.range 48).filter fun p => s.encOf p && s.fld (cohSlot p) == n && s.epochOf p != 0

def State.bindings (s : State) (n : Nat) : Nat := (s.memBound n).length + (s.fabBound n).length

/-- The lines whose fills are in flight on the key of a slot. -/
def State.slotUsers (s : State) (n : Nat) : List Nat :=
  if (s.memBound n).isEmpty then []
  else (s.misses.filter fun x => s.memSlot (x.1 / 512) == some n && (match x.2 with
    | some m => m.why == .fill
    | none => false)).map (·.1)

def State.slotBusy (s : State) (n : Nat) : Bool := s.bindings n != 0 || !(s.slotUsers n).isEmpty

/-! ### Installation (R559, R560) -/

/-- The tweak of a sector: PA[51:5] (R563). -/
def tweak (sector : Nat) : W128 := BitVec.ofNat 128 (sector % 2 ^ 47)

/-- The key that the memory controllers use for a page: of its owner's slot, or the module's; none where that slot has no key (R563). -/
def State.pageKey (s : State) (page : Nat) : Option Nat := match s.memSlot page with
  | some n => if (s.keySlot n).st != 0 && (s.keySlot n).type = 1 then some (s.keySlot n).key else none
  | none => some s.trust.memKey

/-- A sector as its tier holds it, while no dirty copy of it is cached (R563). The model's memory holds the plaintext. -/
def State.stored (s : State) (sector : Nat) : Option (List Byte) :=
  (s.pageKey (sector / 2048)).map fun k => Config.xtsSeal k (tweak sector) (memBytes s.mem (32 * sector) 32)

/-- What stands encrypted with one key read with another; with a key that nobody holds any more, free bytes. -/
def otherKey (old : Option Nat) (new sector : Nat) (plain free : List Byte) : List Byte := match old with
  | some o => if o = new then plain else Config.xtsOpen new (tweak sector) (Config.xtsSeal o (tweak sector) plain)
  | none => free

/-- The sectors of a range of device pages that neither are dirty in the cache nor were written back under the new key read as what the new
key makes of what stands there (R560, R563). Their poison stays (R312). -/
def State.underKey (s : State) (old : Option Nat) (new : Nat) (late : List Nat) (first n : Nat) : State :=
  (List.range n).foldl (fun s i =>
    let keep (k : Nat) : Bool := late.contains k || (match s.frame (k / 4) with
      | some f => bitOf f.dirty (k % 4)
      | none => false)
    match s.draw with
    | (v, s) =>
      let free := leBytes 65536 v
      (List.range 2048).foldl (fun s j =>
        let k := 2048 * (first + i) + j
        if keep k then s
        else { s with mem := memPut s.mem (32 * k) (((otherKey old new k (memBytes s.mem (32 * k) 32) ((free.drop (32 * j)).take 32) ++
          List.replicate 32 0)).take 32) }) s) s

/-- What a bound partition's memory reads as once a slot's key has changed. -/
def State.rekeyed (s : State) (n : Nat) (old : Option Nat) (new : Nat) (late : List Nat) : State :=
  (s.memBound n).foldl (fun s p => (s.part p).grant.foldl (fun s g => s.underKey old new late g.1 g.2) s) s

/-- The width of a key of a type (R555). -/
def keyOf (type key : Nat) : Nat := key % 2 ^ (if type = 2 then 256 else 512)

/-- A key stands in a slot from now on. -/
def State.putKey (s : State) (n type key : Nat) : State :=
  let k := s.keySlot n
  let old := if k.st != 0 && k.type = 1 then some k.key else none
  let s := s.setKey n { st := 1, type := type, key := keyOf type key, usersSeen := k.usersSeen, installs := (k.installs + 1) % 65536 }
  (if type = 1 then s.rekeyed n old (keyOf type key) k.late else s).unstall

/-- An install: its status, and whether it waits for old users to end (R557 to R560, R562). -/
def State.install (s : State) (n type key : Nat) (force viaMb : Bool) : State × Nat :=
  let k := s.keySlot n
  if type = 0 || 2 < type then (s, 0x0B)
  else if s.bindings n != 0 && k.st != 0 && k.type != type then (s, 0x0B)
  else if k.st = 2 || (s.slotBusy n && !force) then (s, 0x0E)
  else if s.slotBusy n && k.st = 1 then (s.setKey n { k with st := 2, next := keyOf type key, viaMb := viaMb, users := s.slotUsers n }, 0)
  else (s.putKey n type key, 0)

/-! ### Erasure (R559, R561) -/

/-- The commands whose kernels have accesses among the fills of a slot. -/
def State.hitKernels (s : State) (n : Nat) : List Nat :=
  ((s.slotUsers n).flatMap fun l => match s.miss l with
    | some m => m.waiters.filterMap fun r => if (s.kernel r.kernel).st == .done then none else some r.kernel
    | none => []).eraseDups

/-- A slot made EMPTY; write-backs that waited for its new key store poison (R561). A mailbox install that waited ends; what its status
then reads is open. -/
def State.emptySlot (s : State) (n : Nat) : State :=
  let k := s.keySlot n
  let s := k.late.foldl (fun s x => s.poisonSector x) s
  let s := s.setKey n { usersSeen := k.usersSeen, installs := k.installs }
  if k.viaMb then
    match s.draw with
    | (v, s) => ((s.setFld ⟨0x00900100, 31, 31⟩ 0).setFld ⟨0x00900100, 40, 40⟩ 0).setFld ⟨0x00900100, 39, 32⟩ v
  else s

/-- A forced ERASE (R561): users are aborted, the slot is EMPTY, their commands end with KEY_RETIRED, and bound cohorts
fence. -/
def State.forceErase (s : State) (n : Nat) : State :=
  let ks := s.hitKernels n
  let hit := s.slotUsers n
  let fabs := s.fabBound n
  let s := hit.foldl (fun s l => match s.miss l with
    | some m => ((List.range 4).filter fun i => bitOf m.need i).foldl (fun s i => s.poisonSector (4 * l + i)) s
    | none => s) s
  let s := { s.emptySlot n with stalled := s.stalled.filter fun x => !fabs.contains x.1 }
  let s := ks.foldl (fun s k =>
    let kn := s.kernel k
    (s.endKernel k).finish kn.queue kn.cmd 9) s
  let s := fabs.foldl (fun s p => (s.xfersOf p).foldl (fun s x => s.endFab x.1 9) s) s
  fabs.foldl State.fence s

/-- The TDIs in CONFIG_LOCKED or RUN whose memory key stands in a slot. -/
def State.lockedOn (s : State) (n : Nat) : List Nat :=
  (s.memBound n).filter fun p => (s.tdi p).st == 1 || (s.tdi p).st == 2

/-- A TDI enters ERROR (R577): its contexts are lost with cause KILLED, and its slot is erased by force. -/
def State.tdiFail (s : State) (p why : Nat) : State :=
  let t := s.tdi p
  if t.st != 1 && t.st != 2 then s
  else
    let s := s.setTdi p { t with st := 3, err := why }
    let cs := (s.ctxs.filter fun x => x.2.st == .live && x.2.part == p).map (·.1)
    let s := cs.foldl (fun s c => s.loseCtx c 0x16 8 0 0 0) s
    s.forceErase (s.part p).key

/-- A forced ERASE or install of a slot sends the TDIs on it to ERROR (Table 12.5). -/
def State.forcedOn (s : State) (n : Nat) : State := (s.lockedOn n).foldl (fun s p => s.tdiFail p 2) s

/-- ERASE: its status. -/
def State.erase (s : State) (n : Nat) (force : Bool) : State × Nat :=
  if !s.slotBusy n then (s.emptySlot n, 0)
  else if !force then (s, 0x0E)
  else ((s.forceErase n).forcedOn n, 0)

/-- An install by mailbox or session, with what force does to a TDI. -/
def State.installOn (s : State) (n type key : Nat) (force viaMb : Bool) : State × Nat :=
  let forced := force && s.slotBusy n
  match s.install n type key force viaMb with
  | (s', 0) => if forced then (s'.forcedOn n, 0) else (s', 0)
  | (s', st) => (s', st)

/-! ### NEG_COMMIT (Table 10.4, Table 12.5) -/

/-- A function's configuration is locked: its TDI is in CONFIG_LOCKED or RUN. -/
def State.cfgLocked (s : State) (fn : Nat) : Bool := fn != 0 && ((s.tdi (fn - 1)).st == 1 || (s.tdi (fn - 1)).st == 2)

/-- NEG_COMMIT: checks the choice as a whole; once committed, a further commit changes nothing. On a locked TDI it is a change of locked
configuration. -/
def execNegCommit (fn : Nat) (s : State) : Res :=
  viaFn fn s fun s =>
    if s.cfgLocked fn then (s.tdiFail (fn - 1) 1).settleAll
    else if s.fld (negCommitted fn) = 1 then s
    else
      let st := s.negCheck fn
      ((s.setFld (negStatus fn) st).setFld (negCommitted fn) (if st = 0 then 1 else 0)).setFld (negCommit fn) 0

/-! ### The mailbox (R557, Tables 12.9, 12.10) -/

def mbCmd (hi lo : Nat) : Field := ⟨0x00900100, hi, lo⟩
def mbStat (hi lo : Nat) : Field := ⟨0x00900100, hi + 32, lo + 32⟩
def mbData : Nat := 0x00900140
def tcNoPlain : Field := ⟨0x00900008, 0, 0⟩

/-- The fields of TC_MB_CMD that software writes (R20). -/
def State.mbFields (s : State) (op : Nat) (c : MbCmd) : State :=
  (((s.setFld (mbCmd 2 0) op).setFld (mbCmd 3 3) (b2n c.force)).setFld (mbCmd 5 4) c.type.toNat).setFld (mbCmd 14 8) c.slot.toNat

/-- A mailbox op: one at a time; TC_MB_DATA is zeroed at its end. -/
def mbOp (op : Nat) (c : MbCmd) (s : State) (f : State → State × Nat) : Res :=
  .next (
    if !s.answers then s
    else if s.fld (mbCmd 31 31) = 1 then s.mbFields op c
    else match f (s.mbFields op c) with
      | (s, st) =>
        let waits := (s.keySlot c.slot.toNat).st == 2 && (s.keySlot c.slot.toNat).viaMb
        let s := (List.range 8).foldl (fun s i => s.setWord (mbData + 8 * i) 0) s
        let s := if waits then (s.setFld (mbCmd 31 31) 1).setFld (mbStat 8 8) 1 else s.setFld (mbStat 7 0) st
        s.settleAll)

/-- GENERATE. -/
def execMbGenerate (cmd : MbCmd) (s : State) : Res :=
  mbOp 1 cmd s fun s => match s.draw with
    | (v, s) => s.installOn cmd.slot.toNat cmd.type.toNat v cmd.force true

/-- SET_PLAIN. -/
def execMbSetPlain (cmd : MbCmd) (s : State) : Res :=
  mbOp 2 cmd s fun s =>
    let d := (List.range 8).map fun i => (s.word (mbData + 8 * i)).toNat
    let key := d.zipIdx.foldl (fun n x => n + x.1 * 2 ^ (64 * x.2)) 0
    if s.fld tcNoPlain = 1 || (cmd.type = 2 && 2 ^ 256 ≤ key) then (s, 0x0B)
    else s.installOn cmd.slot.toNat cmd.type.toNat key cmd.force true

/-- ERASE. -/
def execMbErase (cmd : MbCmd) (s : State) : Res := mbOp 3 cmd s (State.erase · cmd.slot.toNat cmd.force)

/-- QUERY. -/
def execMbQuery (cmd : MbCmd) (s : State) : Res :=
  mbOp 4 cmd s fun s =>
    let n := cmd.slot.toNat
    (s.setKey n { s.keySlot n with usersSeen := min 65535 (s.slotUsers n).length }, 0)

/-- KEY_RETIRE_DONE: the old users have ended; the new key is installed, and the stalled users proceed. -/
def execKeyRetireDone (slot : Nat) (s : State) : Res :=
  unit (decide (slot < 128)) (
    let k := s.keySlot slot
    if k.st != 2 || !k.users.isEmpty then s
    else
      let s := s.putKey slot k.type k.next
      let s := if k.viaMb then ((s.setFld (mbCmd 31 31) 0).setFld (mbStat 8 8) 0).setFld (mbStat 7 0) 0 else s
      s.settleAll)

end Sys2Proof.Machine
end

