-- ==== Sys2Proof/Machine/Parts.lean ====
section
/-! DEFINITION. Partitions: creation, growth, assignment, reset and destruction; Function Level Reset; hash-key rotation; the
migration log; MSI-X (spec/11 R523 to R532; spec/05 R265 to R269; spec/08 R382; spec/12 R562, R574, R578; spec/15 R646). -/

namespace Sys2Proof.Machine

/-! ### PRT_CMD (Tables 11.8, 11.9, R523 to R526) -/

def prtCmd (hi lo : Nat) : Field := ⟨0x00100080, hi, lo⟩
def prtStage : Nat := 0x00100000

/-- The end of a PRT_CMD op. -/
def State.prtDone (s : State) (st : Nat) : State := (s.setFld (prtCmd 19 16) st).setFld (prtCmd 31 31) 0

/-- The fields of a partition descriptor that stand alone (Table 11.8, R18), and its key slot (R562). -/
def State.prtDescOk (s : State) (d : List Byte) : Bool :=
  let key := rawLe d 2 1
  let k := s.keySlot (key % 128)
  rawLe d 0 1 == 2 && decide (rawLe d 1 1 < 2) && rawLe d 3 1 == 0 && inLen 4096 (rawLe d 4 2) && rawLe d 6 2 == 0 &&
    decide (rawLe d 8 8 < 2 ^ 48) && rawLe d 8 8 != 0 && inLen 90 (rawLe d 0x14 1) && allZero d 0x15 11 && allZero d 0x60 32 &&
    (key < 128 || (k.st == 1 && k.type == 1))

/-- The used extents of a descriptor. -/
def prtExtents (d : List Byte) : List (Nat × Nat) :=
  (List.range 8).filterMap fun i =>
    let e := rawLe d (0x20 + 8 * i) 8
    if e / 2 ^ 36 = 0 then none else some (e % 2 ^ 36, e / 2 ^ 36)

/-- A page of an extent that cannot be granted (R524). -/
def State.notGrantable (s : State) (es : List (Nat × Nat)) : Bool :=
  let owned := (s.parts.filter fun x => x.2.st != .free).flatMap fun x => x.2.grant
  es.zipIdx.any fun e =>
    decide (s.usable < e.1.1 + e.1.2) || owned.any (overlaps e.1) || (es.drop (e.2 + 1)).any (overlaps e.1) ||
      s.pages.any fun x => x.2.released && decide (e.1.1 ≤ x.1) && decide (x.1 < e.1.1 + e.1.2)

def rasTile (f hi lo : Nat) : Field := ⟨0x00A00300 + 8 * f, hi, lo⟩

/-- A tile group that is disabled (R624). -/
def State.groupOff (s : State) (g : Nat) : Bool := bitOf (s.fld (rasTile (g / 4) 27 24)) (g % 4)

/-- A tile group that can be granted to no partition now: disabled, or under self-test (R624, R626). -/
def State.groupBarred (s : State) (g : Nat) : Bool :=
  s.groupOff g || (match s.bist with
    | some (1, u, _) => u == g
    | _ => false)

/-- The checks of R524 that a create and a grow have in common, in the order of the statuses. -/
def State.prtRefused (s : State) (p : Nat) (d : List Byte) : Option Nat :=
  if !s.prtDescOk d then some 1
  else if s.parts.any (fun x => x.1 != p && x.2.st != .free && Nat.land x.2.groups (rawLe d 8 8) != 0) ||
      (List.range 48).any (fun g => bitOf (rawLe d 8 8) g && s.groupBarred g) then some 3
  else if s.notGrantable (prtExtents d) then some 4
  else if bitOf (rawLe d 1 1) 0 && s.herbPart.isSome then some 5
  else none

/-- The pages of new extents under the key of their partition: they stood under the module memory key (R563). -/
def State.granted (s : State) (p : Nat) (es : List (Nat × Nat)) : State :=
  if (s.part p).enc then
    es.foldl (fun s g => s.underKey (some s.trust.memKey) (s.keySlot (s.part p).key).key [] g.1 g.2) s
  else s

/-- PRT_CREATE, once no rotation holds it. -/
def State.prtMake (s : State) (p : Nat) : State :=
  let d := s.staged 0 prtStage 16
  if (s.part p).st != .free then s.prtDone 2
  else match s.prtRefused p d with
    | some st => s.prtDone st
    | none =>
      let es := prtExtents d
      let s := s.setPart p {
        st := .ready, herb := bitOf (rawLe d 1 1) 0, key := rawLe d 2 1 % 128, enc := bitOf (rawLe d 2 1) 7, ctxMax := rawLe d 4 2
        groups := rawLe d 8 8, quantumUs := rawLe d 0x10 4, drainMs := rawLe d 0x14 1, grant := es }
      (s.granted p es).prtDone 0

/-! ### Reset (R527, R528, Table 11.11) -/

/-- The tiles of a partition. -/
def Part.tiles (x : Part) : List Nat :=
  (List.range 48).flatMap fun g => if bitOf x.groups g then (List.range 32).map (32 * g + ·) else []

/-- The queues of a partition. -/
def State.queuesOf (s : State) (p : Nat) : List Nat :=
  (s.queues.filter fun x => x.2.st != .empty && x.2.part == p).map (·.1)

/-- A reset begins: steps 1 to 3. `f` notes what waits for its end. -/
def State.resetStart (s : State) (p : Nat) (f : Part → Part) : State :=
  let s := s.setPart p (f { s.part p with st := .resetting, resetAt := s.now })
  let s := if s.epochOf p != 0 then s.fence p else s
  let ks := (s.kernels.filter fun x => x.2.part == p).map (·.1)
  let s := ks.foldl State.endKernel s
  let s := { s with pageReqs := s.pageReqs.filter fun r => (s.ctx r.ctx).part != p || (s.ctx r.ctx).st == CtxSt.free }
  s.sendPages.settleAll

/-- Accesses of a partition that are outstanding. -/
def State.partBusy (s : State) (p : Nat) : Bool :=
  s.reqs.any (·.part == p) || s.hostReqs.any (·.part == p) || s.misses.any fun m => match m.2 with
    | some m => m.waiters.any (·.part == p)
    | none => false

/-- A sector that holds bytes of a done segment and of one that is not is poisoned (Table 11.11, step 5). -/
def State.squashWrites (s : State) (q : Queue) (c : Cmd) : State :=
  (List.range (c.segs.length - 1)).foldl (fun s i =>
    let a := c.segs.getD i .open_ == .done
    let b := c.segs.getD (i + 1) .open_ == .done
    let edge := c.dst.toNat + (i + 1) * c.segSz
    if a == b || edge % 32 = 0 then s
    else match s.locate q.ctx (BitVec.ofNat 64 (edge / 32 * 32)) .write with
      | some l => if l.host then s else s.poisonSector (l.addr / 32)
      | none => s) s

/-- A register of which a partition's requests are squashed: a forwarded read keeps its register until its forwarder answers; one
that waits for room to be forwarded, or for a recall, is gone with its last request. -/
def Miss.squash (m : Miss) (p : Nat) : Option Miss :=
  let keep := match m.why with
    | .fwd _ => m.waiters.take 1
    | _ => []
  let rest := (m.waiters.drop keep.length).filter (·.part != p)
  let own := m.own && (keep ++ rest).head?.map (·.id) == m.waiters.head?.map (·.id)
  match m.why, keep ++ rest with
  | .fwdHold _, [] | .recall _, [] => none
  | _, ws => some { m with waiters := ws, own := own }

/-- What is outstanding of a partition is squashed. -/
def State.squashPart (s : State) (p : Nat) : State :=
  let s := (s.queuesOf p).foldl (fun s n =>
    let q := s.queue n
    q.cmds.foldl (fun s c => (s.squashWrites q c).squash n c) s) s
  { s with
    reqs := s.reqs.filter (·.part != p)
    hostReqs := s.hostReqs.filter (·.part != p)
    misses := tabMap missNone (fun _ o => o.bind (·.squash p)) s.misses }

/-- The event log registers of a partition at their reset values (Table 10.20). -/
def State.evlogReset (s : State) (p : Nat) : State :=
  (List.range 4).foldl (fun s i => s.setWord (evlog p + 8 * i) (regReset (evlog p + 8 * i))) s

/-- A function's negotiation and HTFD cleared. -/
def State.negReset (s : State) (fn : Nat) : State :=
  ([0x00010008, 0x00010010] ++ (List.range 4).map fun i => 0x00010040 + 8 * i).foldl (fun s o => s.setWord (fnKey fn o) 0) s

/-- A function's MSI-X table and pending bits as reset leaves them (Table 14.3). -/
def State.msixReset (s : State) (fn : Nat) : State :=
  let k (o : Nat) : Nat := fn * 2 ^ 32 + o
  { s with
    regs := s.regs.filter fun x => !(decide (k 0x00E00000 ≤ x.1) && decide (x.1 < k 0x00E10100))
    raised := s.raised.filter (·.1 != fn) }

/-- The queues and contexts of a partition are gone, and its event log registers are clear (step 6). -/
def State.dropPart (s : State) (p : Nat) : State :=
  let s := (s.queuesOf p).foldl (fun s n => s.setQueue n {}) s
  let cs := (s.ctxs.filter fun x => x.2.st != .free && x.2.part == p).map (·.1)
  let s := cs.foldl State.freeCtx s
  let s := { s.evlogReset p with events := s.events.filter (·.part != p) }
  s.setPart p { s.part p with placing := [], preempt := none, rrCtx := 0 }

/-- A partition's tiles return to the pool, zeroed, and its pages are to be zeroed (R526). -/
def State.destroyStart (s : State) (p : Nat) : State :=
  let x := s.part p
  let s := x.tiles.foldl (fun s t => s.setTile t {}) s
  s.setPart p { x with st := .destroying, groups := 0, destroyAfter := false }

/-- A rotation requested while a partition reset ran starts (R268). -/
def State.rotBegin (s : State) : State :=
  if s.rot == .waiting && !(s.parts.any fun x => x.2.st == .resetting) then
    { s with rot := .draining, rotAt := s.now, rotCycles := (List.range 12).map s.cycle }
  else s

/-- The reset is complete (step 7), with what waited for it. -/
def State.resetEnd (s : State) (p : Nat) : State :=
  let x := s.part p
  let s := s.setPart p { x with st := .ready, resetAt := 0, byCmd := false, byFn := false, tdiStop := false, tdiSess := none }
  let s := if x.tdiStop then ((s.forceErase x.key).setTdi p { s.tdi p with st := 0, stream := 0 }) else s
  let s := match x.tdiSess with
    | some n => { s with sent := .tdispDone n p :: s.sent }
    | none => s
  let s := if x.byCmd then s.prtDone 0 else s
  let s := if x.destroyAfter then s.destroyStart p else s
  s.rotBegin.settleAll

/-- PRT_RESET_DRAIN_END: the drain has ended, or drain_ms has passed. -/
def execPrtResetDrainEnd (part : Nat) (s : State) : Res :=
  unit (partOk part) (
    let x := s.part part
    if x.st != .resetting then s
    else
      let s := if s.partBusy part then s.reach (x.resetAt + x.drainMs * 10 ^ 9) else s
      ((s.squashPart part).dropPart part).resetEnd part)

/-- A reset or destroy by PRT_CMD begins. -/
def State.prtReset (s : State) (p : Nat) (destroy : Bool) : State :=
  let t := s.tdi p
  if (s.part p).st != .ready || t.st == 1 || t.st == 2 then s.prtDone 2
  else s.resetStart p fun x => { x with byCmd := true, destroyAfter := destroy }

/-- A create, destroy or reset of a partition. -/
def State.prtRun (s : State) (op p : Nat) : State := match op with
  | 1 => s.prtMake p
  | 2 => s.prtReset p true
  | _ => s.prtReset p false

/-- The fields of PRT_CMD that software writes (R20). -/
def State.prtFields (s : State) (op part : Nat) : State := (s.setFld (prtCmd 2 0) op).setFld (prtCmd 13 8) part

/-- A write of PRT_CMD with go = 1: one op runs at a time. -/
def prtOp (op : Nat) (part : BitVec 6) (s : State) (f : State → State) : Res :=
  .next (s.sup fun s =>
    let t := s.prtFields op part.toNat
    if s.fld (prtCmd 31 31) = 1 then t
    else
      let s := t.setFld (prtCmd 31 31) 1
      if 48 ≤ part.toNat then s.prtDone 1 else f s)

/-- An op that waits for a rotation in progress (R268). -/
def State.afterRot (op p : Nat) (s : State) : State :=
  if s.rot == .idle then s.prtRun op p else { s with prtHeld := some (op, p) }

/-- PRT_CREATE. -/
def execPrtCreate (part : BitVec 6) (s : State) : Res := prtOp 1 part s (State.afterRot 1 part.toNat)
/-- PRT_DESTROY. -/
def execPrtDestroy (part : BitVec 6) (s : State) : Res := prtOp 2 part s (State.afterRot 2 part.toNat)
/-- PRT_RESET. -/
def execPrtReset (part : BitVec 6) (s : State) : Res := prtOp 3 part s (State.afterRot 3 part.toNat)

/-- A function's set-up as an assignment or unassignment leaves it; the partition's contexts belong to the driver of the other function
from now on (R525). -/
def State.reassign (s : State) (p : Nat) (vf : Bool) : State :=
  let s := (s.setPart p { s.part p with vf := vf }).setTdi p {}
  let s := { s with ctxs := tabMap ctxNone (fun _ x => if x.st != CtxSt.free && x.part == p then { x with fn := if vf then p + 1 else 0 } else x) s.ctxs }
  (s.negReset (p + 1)).evlogReset p

/-- PRT_ASSIGN. -/
def execPrtAssign (part : BitVec 6) (s : State) : Res :=
  prtOp 4 part s fun s =>
    let p := part.toNat
    if (s.part p).st != .ready || (s.part p).vf then s.prtDone 2
    else if s.vfs < p + 1 then s.prtDone 6
    else if !(s.queuesOf p).isEmpty then s.prtDone 7
    else (s.reassign p true).prtDone 0

/-- PRT_UNASSIGN. -/
def execPrtUnassign (part : BitVec 6) (s : State) : Res :=
  prtOp 5 part s fun s =>
    let p := part.toNat
    let t := s.tdi p
    if (s.part p).st != .ready || !(s.part p).vf || t.st == 1 || t.st == 2 then s.prtDone 2
    else if !(s.queuesOf p).isEmpty then s.prtDone 7
    else (s.reassign p false).prtDone 0

/-- PRT_GROW. -/
def execPrtGrow (part : BitVec 6) (s : State) : Res :=
  prtOp 6 part s fun s =>
    let p := part.toNat
    let t := s.tdi p
    let d := s.staged 0 prtStage 16
    if (s.part p).st != .ready || t.st == 1 || t.st == 2 then s.prtDone 2
    else match s.prtRefused p d with
      | some st => s.prtDone st
      | none =>
        let es := prtExtents d
        ((s.setPart p { s.part p with grant := (s.part p).grant ++ es }).granted p es).prtDone 0

/-- PRT_ZERO_DONE: every page of a DESTROYING partition has been zeroed; it is FREE (R526). A line that the host holds is
recalled first. -/
def execPrtZeroDone (part : Nat) (s : State) : Res :=
  unit (partOk part) (
    let x := s.part part
    if x.st != .destroying || s.rotating then s
    else
      let bytes := x.grant.map fun g => (g.1 * 65536, g.2 * 65536)
      match s.gate { part := part, tag := s.privTag 1 (x.grant.headD (0, 0)).1 } [] bytes with
      | (s, false) => s
      | (s, true) =>
        let mine (page : Nat) : Bool := x.grant.any (fun g => decide (g.1 ≤ page) && decide (page < g.1 + g.2)) && !(s.page page).released
        { s with
          mem := s.mem.filter fun b => !mine (b.1 / 65536)
          poison := s.poison.filter fun b => !mine (b.1 / 2048)
          upsets := s.upsets.filter fun u => !mine (u.1 / 2048)
          under := s.under.filter fun k => !mine (k / 2048)
          frames := s.frames.filter fun b => !mine (b.1 / 512) }.setPart part {})

/-! ### Function Level Reset (R527, Table 14.3) -/

/-- A Hot Reset (R618, Table 14.3): every partition is reset, every function's negotiation and MSI-X table are cleared, and
SR-IOV is off. A reset in progress counts as its partition's. -/
def State.hotReset (s : State) : State :=
  let s := (List.range 49).foldl (fun s fn => (s.negReset fn).msixReset fn) s
  let s := { s with vfs := 0, bar4 := [] }
  (List.range 48).foldl (fun s p =>
    let stop := (s.tdi p).st != 0
    match (s.part p).st with
    | .ready => s.resetStart p fun x => { x with byFn := true, tdiStop := stop }
    | .resetting => s.setPart p { s.part p with byFn := true, tdiStop := stop || (s.part p).tdiStop }
    | _ => s) s

/-- The Function Level Reset of a virtual function, once no rotation holds it; of function 0, a Hot Reset. -/
def State.flr (s : State) (fn : Nat) : State :=
  let p := fn - 1
  if fn = 0 then s.hotReset else
  let s := ((s.negReset fn).msixReset fn)
  let s := { s with bar4 := tabSet (fun _ => 2 ^ 30) s.bar4 fn (2 ^ 30) }
  let stop := (s.tdi p).st != 0
  if !(s.part p).vf then s
  else match (s.part p).st with
    | .ready => s.resetStart p fun x => { x with byFn := true, tdiStop := stop }
    | .resetting => s.setPart p { s.part p with byFn := true, tdiStop := stop || (s.part p).tdiStop }
    | _ => s

/-- FUNCTION_LEVEL_RESET: of an enabled virtual function. -/
def execFunctionLevelReset (fn : Nat) (s : State) : Res :=
  unit (fnOk fn && fn != 0) (
    if !s.ready || s.vfs < fn then s
    else if s.rot == .idle then s.flr fn
    else if s.flrs.contains fn then s
    else { s with flrs := s.flrs ++ [fn] })

/-! ### Hash-key rotation (Table 5.11, R265 to R269) -/

def rotReg (hi lo : Nat) : Field := ⟨0x00500100, hi, lo⟩

/-- HASH_ROT_REQUEST: a rotation requested during a partition reset waits for its end. -/
def execHashRotRequest (s : State) : Res :=
  .next (s.sup fun s =>
    if s.rot != .idle then s else ({ s.setFld (rotReg 0 0) 1 with rot := .waiting }).rotBegin)

/-- Nothing is outstanding in the cache, the networks and the Tier Manager. -/
def State.netIdle (s : State) : Bool :=
  s.reqs.isEmpty && s.hostReqs.isEmpty && s.misses.isEmpty && s.moves.isEmpty && s.rsps.all (·.kind == RspKind.notify)

/-- The host's copies of lines are recalled, as far as registers are free (R235). -/
def State.recallAll (s : State) (lines : List Nat) : State :=
  lines.foldl (fun s l => if (s.miss l).isNone && s.missRoom l 15 then s.snoop l true [] else s) s

/-- HASH_ROT_DRAINED: outstanding accesses are complete; lines that the host holds are recalled, every L1 is invalidated, and
every frame is written back and dropped. -/
def execHashRotDrained (s : State) : Res :=
  .next (
    if s.rot != .draining || !s.netIdle then s
    else if !s.hosts.isEmpty && !s.silent then s.recallAll (s.hosts.map (·.1))
    else
      let s := (s.hosts.map (·.1)).foldl State.loseHost s
      let s := (s.frames.map (·.1)).foldl State.evict s
      { s with
        rot := .rekey
        tiles := tabMap tileNone (fun _ t => { t with l1 := [] }) s.tiles
        models := tabMap modelNone (fun _ m => if m.resident then { m with resident := false, filling := true, refill := true } else m) s.models })

/-- What a tile's waits and quiescence count from once the cycles of a rotation are left out (R267). -/
def Tile.skip (t : Tile) (c0 c1 : Nat) : Tile :=
  let on (n : Nat) : Nat := n + (c1 - max n c0)
  { t with
    quiet := t.quiet.map on
    clauses := tabMap clauseNone (fun _ c => if c.st == .waiting then { c with wait := { c.wait with since := on c.wait.since } } else c) t.clauses }

/-- HASH_ROT_DONE: the new key is loaded, and the requesters resume. Each watch is checked at once. -/
def execHashRotDone (us : Nat) (s : State) : Res :=
  .next (
    if s.rot != .rekey then s
    else match s.draw with
      | (v, s) =>
        let s := s.reach (s.rotAt + us * 10 ^ 6)
        let n := s.fld (rotReg 15 8) + 1
        let s := (((s.setFld (rotReg 0 0) 0).setFld (rotReg 1 1) 1).setFld (rotReg 15 8) n).setFld (rotReg 31 16) (min 65535 us)
        let c0 (t : Nat) : Nat := s.rotCycles.getD (frondOf t) 0
        let s := { s with
          hashKey := BitVec.ofNat 128 v, rot := .idle, rotAt := 0, rotCycles := []
          tiles := tabMap tileNone (fun t x => x.skip (c0 t) (s.cycle (frondOf t))) s.tiles }
        let s := (s.watches.map (·.1)).eraseDups.foldl State.notifyLine s
        let s := match s.prtHeld with
          | some (op, p) => { s with prtHeld := none }.prtRun op p
          | none => s
        let fs := s.flrs
        let s := fs.foldl State.flr { s with flrs := [] }
        -- STOP_INTERFACE requests that waited (R268, R578)
        let ps := (s.parts.filter fun x => x.2.st == .ready && x.2.tdiStop).map (·.1)
        (ps.foldl (fun s p => s.resetStart p id) s).settleAll)

/-! ### PRT_DLOG (Table 11.12, R531, R532) -/

/-- A new round: every page is eligible again. -/
def State.dlogStart (s : State) (p : Nat) : State :=
  (s.setPart p { s.part p with dlogged := [] }).setFld (dlogRounds p) (s.fld (dlogRounds p) + 1)

/-- A write of the control word of PRT_DLOG. log2 changes only while en is 0; setting en starts a round. -/
def State.dlogCtl (s : State) (p : Nat) (v : Nat) : State :=
  let was := s.fld (dlogEn p)
  let s := if was = 0 then s.setFld (dlogLog2 p) (min 20 (max 8 (v % 32))) else s
  let s := if bitOf v 10 then s.setFld (dlogOverflow p) 0 else s
  let s := s.setFld (dlogEn p) (bitsOf v 8 8)
  if was = 0 && bitOf v 8 then (((s.setFld (dlogHead p) 0).setFld (dlogTail p) 0).dlogStart p)
  else if bitOf v 9 then s.dlogStart p else s

/-- DLOG_ENABLE: a write of PRT_DLOG + 0x08. -/
def execDlogEnable (part : Nat) (value : W64) (s : State) : Res :=
  unit (partOk part) (s.sup (State.dlogCtl · part value.toNat))

/-- DLOG_ROUND: writing 1 to round, which reads 0 once it has taken effect. -/
def execDlogRound (part : Nat) (s : State) : Res := unit (partOk part) (s.sup (State.dlogStart · part))

/-- DLOG_HEAD_WRITE. -/
def execDlogHeadWrite (part : Nat) (value : W32) (s : State) : Res :=
  unit (partOk part) (s.sup fun s =>
    let h := s.fld (dlogHead part)
    if (2 ^ 32 + value.toNat - h) % 2 ^ 32 ≤ (2 ^ 32 + s.fld (dlogTail part) - h) % 2 ^ 32 then s.setFld (dlogHead part) value.toNat
    else s)

/-! ### MSI-X (R382, R646) -/

def msixMask (fn v : Nat) : Field := ⟨msixWord fn v 1, 32, 32⟩
def pbaBit (fn v : Nat) : Field := ⟨pbaWord fn v, v % 64, v % 64⟩
def vecOk (fn v : Nat) : Bool := fnOk fn && decide (v < 2048)

/-- The message of a vector, as its table entry gives it. -/
def State.msixOut (s : State) (fn v : Nat) : State :=
  { s with sent := .msix fn v (s.word (msixWord fn v 0)) (BitVec.ofNat 32 (s.word (msixWord fn v 1)).toNat) :: s.sent }

/-- MSIX_SEND: a raised vector is sent, or keeps its pending bit while it is masked. -/
def execMsixSend (fn vector : Nat) (s : State) : Res :=
  unit (vecOk fn vector) (
    if !s.answers || !s.raised.contains (fn, vector) then s
    else
      let s := { s with raised := s.raised.erase (fn, vector) }
      if s.fld (msixMask fn vector) = 1 then s.setFld (pbaBit fn vector) 1 else s.msixOut fn vector)

/-- MSIX_UNMASK: the mask bit is cleared, and a pending message is sent. -/
def execMsixUnmask (fn vector : Nat) (s : State) : Res :=
  unit (vecOk fn vector) (
    if !s.ready then s
    else if !s.vfLive fn then s.rejectInput
    else
      let s := s.setFld (msixMask fn vector) 0
      if s.fld (pbaBit fn vector) = 1 then (s.setFld (pbaBit fn vector) 0).msixOut fn vector else s)

end Sys2Proof.Machine
end

