-- ==== Sys2Proof/Machine/Power.lean ====
section
/-! DEFINITION. Power, clocks and telemetry: samples, the cap loop, the lowest state, temperature, tile clocks, PACE, energy
and the epoch's latch (spec/13; spec/09 R448, R451). -/

namespace Sys2Proof.Machine

def pwrCap (hi lo : Nat) : Field := ⟨0x00800000, hi, lo⟩
def pwrCtl (hi lo : Nat) : Field := ⟨0x00800008, hi, lo⟩
def pwrStat (hi lo : Nat) : Field := ⟨0x00800010, hi, lo⟩
def pwrEvt (i : Nat) : Field := ⟨0x00800018, i, i⟩

/-- The power controller runs: the input is at 36 V or above (Table 14.1, R653). -/
def State.powered (s : State) : Bool := s.pwr.supply != 0

/-- The load rails are up and PERST_N is deasserted. -/
def State.up (s : State) : Bool := s.pwr.supply == 2 && !s.pwr.perst

/-! ### Counts of the lowest state and of bubbles (Table 13.9) -/

def fronds : List Nat := List.range 12

/-- lowest_ns and bubbles brought up to date, ahead of a change of what they count. -/
def State.pwrMeter (s : State) : State :=
  let ns := s.now / 1000 - s.pwr.meterAt / 1000
  let s := if s.fld pwrLowest = 1 then s.bump (liveKey 0x00C00070) ns else s
  let n := fronds.foldl (fun n f =>
    let b := s.bubbles f
    n + (s.cycle f * b / 256 - s.pwr.meterC.getD f 0 * b / 256)) 0
  let s := if n = 0 then s else s.bump (liveKey 0x00C00078) n
  { s with pwr := { s.pwr with meterAt := s.now, meterC := fronds.map s.cycle } }

/-! ### Tile clocks (R599 to R601, R451) -/

def State.setClk (s : State) (f mhz : Nat) : State :=
  let s := { s with clks := tabSet clkDef s.clks f { mhz := mhz, t0 := s.now, c0 := s.cycle f } }
  s.setFld (tclkReg f 26 16) mhz

/-- The ratio that pace_follow applies to a Frond: all its enabled tiles belong to a partition that follows its cohort. -/
def State.followB (s : State) (f : Nat) : Nat :=
  let gs := ((List.range 4).map (4 * f + ·)).filter fun g => !s.groupOff g
  match gs.map s.groupOwner with
  | some p :: rest =>
    if rest.all (· == some p) && s.fld (cohCfg p 1 1) = 1 && s.epochOf p != 0 then (s.paceOf p).1 else 0
  | _ => 0

/-- The pace-follow TCLK of a ratio, and the TCLK of R600. -/
def followMhz (b : Nat) : Nat := max 600 (1600 * (256 - b) / 256 / 25 * 25)

def State.tclkGoal (s : State) (f : Nat) : Nat :=
  if s.fld (tclkReg f 28 28) = 1 then 600
  else
    let set := s.fld (tclkReg f 10 0) / 25 * 25
    let b := s.followB f
    if b = 0 then set else min set (followMhz b)

/-- PWR_TCLK.set as stored (Table 13.6). -/
def tclkStored (v : Nat) : Nat := min 1800 (max 600 v) / 25 * 25

/-- TCLK_SET. -/
def execTclkSet (frond : Nat) (value : W64) (s : State) : Res :=
  unit (decide (frond < 12)) (
    if s.answers then s.setFld (tclkReg frond 10 0) (tclkStored (value.toNat % 2048)) else s)

/-- TCLK_SWITCH: the PLL goes to the TCLK of R600 as it stands now. -/
def execTclkSwitch (frond : Nat) (s : State) : Res :=
  unit (decide (frond < 12)) (
    if !s.up then s
    else
      let s := s.setFld (tclkReg frond 27 27) (b2n (s.followB frond != 0))
      let m := s.tclkGoal frond
      if m = (s.clk frond).mhz then s else s.pwrMeter.setClk frond m)

/-! ### The lowest state (R592 to R594, R597) -/

/-- A Frond's clock at its standby output. -/
def State.lowFrond (s : State) (f : Nat) : State := (s.setFld (tclkReg f 28 28) 1).setClk f 600

/-- A cause holds the lowest state: its bit of PWR_EVT, and on entry the state itself with its record. -/
def State.lowCause (s : State) (bit : Nat) (status : Option W64) : State :=
  let s := (s.pwrMeter).setFld (pwrEvt bit) 1
  let low := s.fld pwrLowest = 1
  let s := if low then s
    else fronds.foldl State.lowFrond ((s.setFld pwrLowest 1).setFld pwrB 224)
  match status with
  | some w => s.ras 0x14 0 0xFF bit w
  | none => if low then s else s.ras 0x14 0 0xFF bit

/-- The module leaves the lowest state once no cause holds it: b stays 224, and a Frond too hot stays. -/
def State.lowEnd (s : State) : State :=
  if s.fld pwrLowest = 0 || s.fld (pwrStat 20 20) = 1 || s.fld (pwrStat 21 21) = 1 || s.pwr.capFail then s
  else
    let s := (s.pwrMeter).setFld pwrLowest 0
    fronds.foldl (fun s f => s.setFld (tclkReg f 28 28) (b2n (s.pwr.therm.contains f))) s

/-- CAP_FAIL: b has stood at 224 and every sample has exceeded the cap for 1 ms (R590). -/
def execCapFail (s : State) : Res :=
  .next (match s.pwr.overSince with
    | some t =>
      if s.pwr.capFail || s.pwr.sampleAt < t + 10 ^ 9 then s
      else
        let s := s.lowCause 2 none
        { s with pwr := { s.pwr with capFail := true, overSince := none, underSince := none } }
    | none => s)

/-- BRAKE_ASSERT: PWR_BRAKE_N has been low for a time. -/
def execBrakeAssert (lowNs : Nat) (s : State) : Res :=
  .next (if !s.powered || lowNs < 100 || s.fld (pwrStat 20 20) = 1 then s else (s.lowCause 0 none).setFld (pwrStat 20 20) 1)

/-- BRAKE_RELEASE: PWR_BRAKE_N has been high for a time. -/
def execBrakeRelease (highNs : Nat) (s : State) : Res :=
  .next (if s.fld (pwrStat 20 20) = 0 || highNs < 10000 then s else (s.setFld (pwrStat 20 20) 0).lowEnd)

/-- CONVERTER_ALERT: the alert wire has been asserted for a time; the converter's status words are recorded. -/
def execConverterAlert (ns : Nat) (status : W64) (s : State) : Res :=
  .next (if !s.powered || ns < 200 || s.fld (pwrStat 21 21) = 1 then s
    else (s.lowCause 1 (some status)).setFld (pwrStat 21 21) 1)

/-- ALERT_RELEASE: the alert wire has been deasserted for a time. -/
def execAlertRelease (ns : Nat) (s : State) : Res :=
  .next (if s.fld (pwrStat 21 21) = 0 || ns < 10 ^ 6 then s else (s.setFld (pwrStat 21 21) 0).lowEnd)

/-! ### Power readings and the loop (R586, R587, R590, R613) -/

/-- Rounding to the nearest, a half away from zero. -/
def roundAway (n : Int) (d : Nat) : Int :=
  if 0 ≤ n then (2 * n + d) / (2 * d) else -((2 * (-n) + d) / (2 * d))

/-- The ratio after a sample (R587). -/
def loopB (b p cap gain : Nat) : Nat :=
  (min 224 (max 0 ((b : Int) + roundAway (((p : Int) - cap) * gain) 256))).toNat

def State.setB (s : State) (b : Nat) : State := if s.fld pwrB = b then s else s.pwrMeter.setFld pwrB b

/-- A reading was invalid (R595, R613): the event, on the change to invalid. -/
def State.sensorBad (s : State) (unit : Nat) : State := (s.setFld (pwrEvt 4) 1).sensorEvent unit

/-- A power reading counts as invalid: b is held at no less than 128 (R613). -/
def State.powerBad (s : State) : State :=
  let s := if s.pwr.bad then s else s.sensorBad 0xFF
  let s := { s with pwr := { s.pwr with bad := true, good := 0, overSince := none, underSince := none } }
  s.setB (max (s.fld pwrB) 128)

/-- A valid sample of the input power moves the loop. -/
def State.capLoop (s : State) (p : Nat) : State :=
  let cap := s.fld (pwrCap 11 0)
  let low := s.fld pwrLowest = 1
  let s := if low then s else s.setB (loopB (s.fld pwrB) p cap (s.fld (pwrCtl 7 0)))
  let above := s.fld pwrB = 224 && decide (cap < p)
  let under := s.pwr.capFail && decide (20 * p ≤ 19 * cap)
  let x := s.pwr
  let s := { s with pwr := { x with
    overSince := if above then some (x.overSince.getD s.now) else none
    underSince := if under then some (x.underSince.getD s.now) else none } }
  match s.pwr.underSince with
  | some t => if s.now < t + 10 ^ 8 then s else { s with pwr := { s.pwr with capFail := false, underSince := none } }.lowEnd
  | none => s

/-- Both power readings of a sample. -/
def State.takePower (s : State) : Option Int → Option Int → State
  | some p, some l =>
    let s := { s with pwr := { s.pwr with seen := s.now } }
    if p < 0 || 5000 < p || l < 0 || 5000 < l then s.powerBad
    else
      let s := (s.setFld (pwrStat 11 0) (min 4095 l.toNat)).setFld (pwrStat 59 48) (min 4095 p.toNat)
      if s.pwr.bad && s.pwr.good < 2 then
        { s with pwr := { s.pwr with good := s.pwr.good + 1 } }.setB (max (s.fld pwrB) 128)
      else { s with pwr := { s.pwr with bad := false, good := 0 } }.capLoop p.toNat
  | _, _ => if s.pwr.seen + 10 ^ 8 ≤ s.now then s.powerBad else s

/-! ### Temperature (R595 to R598) -/

/-- A reading counts as 103 degrees while invalid. In eighths of a degree. -/
def Reading.eff (x : Reading) : Int := if x.invalid then 824 else x.val

/-- A sensor read at a time (R595), and whether it becomes invalid. -/
def Reading.take (x : Reading) (now : Nat) : Option Int → Reading × Bool
  | none => if x.seen + 10 ^ 8 ≤ now then ({ x with invalid := true, valid := 0 }, !x.invalid) else (x, false)
  | some t =>
    let x := { x with seen := now }
    if t < -320 || 1200 < t then ({ x with invalid := true, valid := 0 }, !x.invalid)
    else if x.invalid && x.valid < 2 then ({ x with valid := x.valid + 1 }, false)
    else ({ x with val := t, invalid := false, valid := 0 }, false)

def readingNone : Nat → Reading := fun _ => {}
def State.reading (s : State) (k : Nat) : Reading := tabGet readingNone s.pwr.sens k

/-- One Frond sensor read. -/
def State.readSensor (s : State) (k : Nat) (v : Option Int) : State :=
  match (s.reading k).take s.now v with
  | (x, bad) =>
    let s := { s with pwr := { s.pwr with sens := tabSet readingNone s.pwr.sens k x } }
    if bad then s.sensorBad (k / 20) else s

/-- T_f, in eighths of a degree. -/
def State.frondTemp (s : State) (f : Nat) : Int :=
  ((List.range 20).map fun i => (s.reading (20 * f + i)).eff).foldl max (-320)

/-- Whole degrees as a register shows them. -/
def shown (t : Int) : Nat := (min 255 (max 0 (t / 8))).toNat

/-- The thermal ratio after a sample (R596). -/
def nextBt (bt : Nat) (t : Int) (tgt : Nat) : Nat :=
  if (tgt : Int) < t then min 224 (bt + 4 * (t - tgt).toNat) else if t < (tgt : Int) - 2 then bt - 4 else bt

/-- A Frond's thermal ratio and its own lowest state (R596, R597). -/
def State.thermal (s : State) (f : Nat) : State :=
  let t := s.frondTemp f
  let s := (s.setFld (tclkReg f 47 40) (shown t)).setFld (tclkReg f 39 32)
    (nextBt (s.fld (tclkReg f 39 32)) (t / 8) (s.fld (pwrCtl 23 16)))
  if s.pwr.therm.contains f then
    if t ≤ 800 then
      let s := { s with pwr := { s.pwr with therm := s.pwr.therm.filter (· != f) } }
      if s.fld pwrLowest = 1 then s else s.setFld (tclkReg f 28 28) 0
    else s
  else if 840 ≤ t then
    let s := { s with pwr := { s.pwr with therm := f :: s.pwr.therm } }
    ((if s.fld pwrLowest = 1 then s else s.lowFrond f).setFld (pwrEvt 3) 1).ras 0x14 0 0xFF f
  else s

/-- Readings at or above the limits of R598, with how long they have been. -/
def State.noteHot (s : State) (cause unit : Nat) (hot : Bool) : State :=
  let was := s.pwr.hotSince.find? fun x => x.1 == cause && x.2.1 == unit
  let rest := s.pwr.hotSince.filter fun x => !(x.1 == cause && x.2.1 == unit)
  if hot then (if was.isSome then s else { s with pwr := { s.pwr with hotSince := (cause, unit, s.now) :: rest } })
  else if was.isNone then s else { s with pwr := { s.pwr with hotSince := rest } }

/-- A valid reading at or above a limit. -/
def atLeast (lim : Int) : Option Int → Bool
  | some t => decide (lim ≤ t) && decide (t ≤ 1200)
  | none => false

/-! ### Energy (R605 to R607) -/

/-- Half picojoules added to a live energy counter. -/
def State.energy (s : State) (off n : Nat) : State := if n = 0 then s else s.bump (liveKey off) n
def queueEnergy (q : Nat) : Nat := 0x00C10000 + 8 * q
def idleEnergy (p : Nat) : Nat := 0x00C02008 + 32 * p
def unqueuedEnergy (p : Nat) : Nat := 0x00C02010 + 32 * p

/-- To whom a tile's energy goes while a queue's kernel held it, or none. -/
def State.tileEnergy (s : State) (tile : Nat) (q : Option Nat) (n : Nat) : State :=
  match q with
  | some q => s.energy (queueEnergy q) n
  | none => match s.groupOwner (tile / 32) with
    | some p => s.energy (idleEnergy p) n
    | none => s

/-- The cycles of the interval in which each queue's kernel held a tile. -/
def State.held (s : State) (tile : Nat) : List (Option Nat × Nat) :=
  let c0 := s.pwr.cycles.getD (frondOf tile) 0
  let evs := (s.occ.filter fun x => x.1 == tile).reverse
  let r := evs.foldl (fun (x : List (Option Nat × Nat) × Nat) e => (x.1 ++ [(e.2.1, e.2.2 - x.2)], max x.2 e.2.2)) ([], c0)
  let now := (s.tile tile).kernel.map fun k => (s.kernel k).queue
  r.1 ++ [(now, s.cycle (frondOf tile) - r.2)]

/-- A tile's share of its group's energy, split by cycles. -/
def State.shareTile (s : State) (tile share : Nat) : State :=
  let parts := s.held tile
  let total := parts.foldl (fun n x => n + x.2) 0
  match parts.foldl (fun (x : State × Nat) e =>
    let n := share * e.2 / total
    (x.1.tileEnergy tile e.1 n, x.2 + n)) (s, 0) with
  | (s, given) => s.tileEnergy tile ((parts.getLast?.map (·.1)).getD none) (share - given)

/-- The energy of an interval divided and charged. -/
def State.charges (s : State) (r : PowerSample) : State :=
  let watts (s : State) : Option Int → Nat × State
    | some p => (p.toNat * 20000000, s)
    | none => s.draw
  match watts s r.pLoad with
  | (l, s) => match watts s r.pIn with
    | (i, s) =>
      let s := (s.energy 0x00C00058 l).energy 0x00C00060 i
      let s := (List.range 48).foldl (fun s g =>
        let share := r.groupEnergy.getD g 0 / 32
        if share = 0 then s else (List.range 32).foldl (fun s t => s.shareTile (32 * g + t) share) s) s
      let s := s.spent.foldl (fun s x =>
        s.energy (if x.1 < 16384 then queueEnergy x.1 else unqueuedEnergy (x.1 - 16384)) x.2) s
      { s with spent := [], occ := [], pwr := { s.pwr with cycles := fronds.map s.cycle } }

/-- POWER_SAMPLE. -/
def execPowerSample (r : PowerSample) (s : State) : Res :=
  .next (
    if !s.powered then s
    else
      let s := (s.reach (s.pwr.sampleAt + 10 ^ 7)).pwrMeter
      let s := { s with pwr := { s.pwr with sampleAt := s.now } }
      let s := s.charges r
      let s := (List.range 240).foldl (fun s k => s.readSensor k ((r.frondTemp.getD (k / 20) []).getD (k % 20) none)) s
      let s := fronds.foldl State.thermal s
      let s := s.setFld (pwrStat 31 24) (shown (fronds.foldl (fun t f => max t (s.frondTemp f)) (-320)))
      let s := (List.range 240).foldl (fun s k => s.noteHot 0 k (decide (920 ≤ (s.reading k).eff))) s
      let s := (List.range 16).foldl (fun s k => s.noteHot 1 k (atLeast 880 (r.stackTemp.getD k none))) s
      let s := (List.range 8).foldl (fun s k => s.noteHot 2 k (atLeast 680 (r.opticTemp.getD k none))) s
      let s := if r.opticTemp.any (atLeast 600) then s.setFld (pwrEvt 5) 1 else s
      if s.now < s.pwr.holdTill then s else s.takePower r.pIn r.pLoad)

/-- SENSOR_TIMEOUT: a reading has not been refreshed for 100 us (R595, R613); a PMBus reading for 5 ms (Table 14.12). -/
def execSensorTimeout (sensor : Sensor) (s : State) : Res :=
  match sensor with
  | .power => .next (if !s.powered then s else (s.reach (s.pwr.seen + 10 ^ 8)).powerBad)
  | .pmbus => .next (if !s.powered then s else (s.reach (s.pwr.pmbusAt + 5 * 10 ^ 9)).powerBad)
  | .frond f => unit (decide (f < 12)) (
      if !s.powered then s
      else
        let ks := (List.range 20).map (20 * f + ·)
        let s := s.reach (ks.foldl (fun n k => min n (s.reading k).seen) (s.reading (20 * f)).seen + 10 ^ 8)
        ks.foldl (fun s k => s.readSensor k none) s)

/-- PMBUS_POLL (R585): an input voltage outside 30 to 70 V is invalid (Table 14.12, R613). -/
def execPmbusPoll (r : Pmbus) (s : State) : Res :=
  .next (
    if !s.powered then s
    else if r.vin < 30000 || 70000 < r.vin then s.powerBad
    else { s with pwr := { s.pwr with pmbus := some r, pmbusAt := s.now } }.setFld (pwrStat 47 32) (r.vin / 10))

/-- PWR_CAP as stored (R591). -/
def State.writeCap (s : State) (v : Nat) : State := s.setFld (pwrCap 11 0) (min (s.fld (pwrCap 27 16)) (max 2400 (v % 4096)))

/-- PWR_CAP_WRITE. -/
def execPwrCapWrite (value : W32) (s : State) : Res := .next (if s.answers then s.writeCap value.toNat else s)

/-! ### PACE (R448, R604) -/

/-- The ratio that PACE carries. -/
def State.paceB (s : State) : Nat :=
  if s.fld pwrLowest = 1 then 224 else min 224 (fronds.foldl (fun b f => max b (s.bubbles f)) 0)

def State.sendPace (s : State) (b : Nat) : State :=
  let s := (List.range 48).foldl (fun s p =>
    if s.epochOf p = 0 then s else (s.peers p).foldl (fun s d => s.ctl p 0x11 d b) s) s
  { s with pwr := { s.pwr with paceB := b, paceAt := s.now } }

/-- PACE_SEND: on a change by 8 or more, every 1 ms while b > 0, and once when the bubbles end. -/
def execPaceSend (s : State) : Res :=
  .next (s.sup fun s =>
    let b := s.paceB
    let last := s.pwr.paceB
    if b = 0 then (if last = 0 then s else s.sendPace 0)
    else if last + 8 ≤ b || b + 8 ≤ last then s.sendPace b
    else (s.reach (s.pwr.paceAt + 10 ^ 9)).sendPace b)

/-! ### Telemetry epochs (R608 to R612) -/

def telSeq : Field := ⟨0x00C00008, 31, 0⟩
def telMod (off : Nat) : Nat := 0x00C00040 + off
def telEpochUs : Field := ⟨0x00C00000, 19, 0⟩

/-- A live counter of energy. -/
def isEnergy (off : Nat) : Bool :=
  off == 0x00C00058 || off == 0x00C00060 || (decide (0x00C02000 ≤ off) && decide (off < 0x00C02600)) || decide (0x00C10000 ≤ off)

/-- A live counter as its snapshot shows it. -/
def State.latchOne (s : State) (off : Nat) (v : W64) : State :=
  if isEnergy off then s.setWord off (BitVec.ofNat 64 (v.toNat / 2000000))
  else if 0x00C04000 ≤ off ∧ off < 0x00C0C000 then s.setFld (fieldAt off 31 0) v.toNat
  else s.setWord off v

/-- A partition's energy in the live counters, in half picojoules. -/
def partEnergy (live : List (Nat × W64)) (p : Nat) : Nat :=
  live.foldl (fun n x =>
    if x.1 = idleEnergy p || x.1 = unqueuedEnergy p || (decide (queueEnergy (256 * p) ≤ x.1) && decide (x.1 < queueEnergy (256 * p + 256)))
    then n + x.2.toNat else n) 0

/-- Every live counter latched into its snapshot, and restarted at 0 (R609). -/
def State.latch (s : State) (tEnd : Nat) : State :=
  let live := (s.regs.filter fun x => decide (2 ^ 60 ≤ x.1) && decide (x.1 < 2 ^ 61)).map fun x => (x.1 - 2 ^ 60, x.2)
  let s := { s with regs := s.regs.filter fun x =>
    !(decide (2 ^ 60 ≤ x.1) && decide (x.1 < 2 ^ 61)) && !(decide (0x00C00040 ≤ x.1) && decide (x.1 < 0x00C28000)) }
  let s := live.foldl (fun s x => s.latchOne x.1 x.2) s
  let totals := (List.range 48).map (partEnergy live)
  let s := totals.zipIdx.foldl (fun s x => s.setWord (0x00C02000 + 32 * x.2) (BitVec.ofNat 64 (x.1 / 2000000))) s
  let load := ((live.find? (·.1 == 0x00C00058)).map (·.2.toNat)).getD 0
  let rest : Int := ((load : Int) - (totals.foldl (· + ·) 0 : Nat)) / 2000000
  let s := (s.setWord (telMod 0) (BitVec.ofNat 64 s.epoch)).setWord (telMod 8) (BitVec.ofNat 64 s.epochStart)
  (s.setWord (telMod 0x10) (BitVec.ofNat 64 tEnd)).setWord (telMod 0x28) (BitVec.ofInt 64 rest)

/-- TELEMETRY_EPOCH: the latch starts at the boundary; the Tier Manager's epoch update and plan follow (R330, R335). -/
def execTelemetryEpoch (s : State) : Res :=
  .next (
    if !s.up || s.fld telSeq % 2 = 1 then s
    else
      let tEnd := s.epochStart + 1000 * s.pwr.epochUs
      let s := (s.reach (s.t0 + 1000 * tEnd)).pwrMeter.latch tEnd
      let s := (s.setFld telSeq (s.fld telSeq + 1)).setFld polUsed s.policyStarts
      let s := { s with
        epoch := s.epoch + 1, epochStart := tEnd, policyStarts := 0, otherStarts := 0, hotSeen := [], tileCe := []
        pwr := { s.pwr with epochUs := s.fld telEpochUs } }
      s.heatUpdate.movePlan)

/-- TELEMETRY_LATCH_END. -/
def execTelemetryLatchEnd (s : State) : Res :=
  .next (if s.fld telSeq % 2 = 0 then s else s.setFld telSeq (s.fld telSeq + 1))

end Sys2Proof.Machine
end

