-- ==== Sys2Proof/Machine/Trust.lean ====
section
/-! DEFINITION. The Trust Controller: measurements, SPDM, IDE, TDISP and KZ_UNLOCK; firmware images (spec/12; spec/14 R630). -/

namespace Sys2Proof.Machine

def tcBoot : Field := ⟨0x00900000, 1, 0⟩
def tcSvn : Field := ⟨0x00900000, 15, 8⟩
def tcSvnMin : Field := ⟨0x00900000, 23, 16⟩
def tcUnlocked : Field := ⟨0x00900000, 24, 24⟩
def tcUnlocks : Field := ⟨0x00900000, 39, 32⟩
def tcSessions : Field := ⟨0x00900000, 47, 40⟩
def tcSvnCommit : Field := ⟨0x00900008, 1, 1⟩
def keyAuth (i : Nat) : Nat := 0x00900040 + 8 * i

/-! ### Firmware images (R546 to R548, R630) -/

/-- The components of Table 14.11, by their index in Table 12.1. -/
def isComp (c : Nat) : Bool := [2, 4, 5, 6, 7].contains c

/-- The image of a component as shipped, in both copies (log 15). -/
def shippedImage (c : Nat) : Image := { svn := 1, hash := Config.imageHash c, sigOk := true }

def State.fwOf (s : State) (c : Nat) : Fw := match tabGet (fun _ => none) s.fw c with
  | some f => f
  | none => { a := shippedImage c, b := shippedImage c, run := shippedImage c }
def State.setFw (s : State) (c : Nat) (f : Fw) : State := { s with fw := tabSet (fun _ => none) s.fw c (some f) }

/-- The fused minimum SVN of a component (log 15). -/
def State.svnMin (s : State) (c : Nat) : Nat := tabGet (fun _ => 1) s.fuses.svnMin c

/-- An image that verifies: its signature, and its SVN against the fused minimum. -/
def State.accepts (s : State) (c : Nat) (i : Image) : Bool := i.sigOk && decide (s.svnMin c ≤ i.svn)

/-- An image verified, measured and released (R547). -/
def State.released (s : State) (c : Nat) : State := { s with trust := { s.trust with measured := s.trust.measured ++ [c] } }

/-- The first copy that verifies runs; none where neither does (R546, R549). -/
def State.bootImage (s : State) (c : Nat) : Option State :=
  let f := s.fwOf c
  let one := if f.bFirst then f.b else f.a
  let two := if f.bFirst then f.a else f.b
  if s.accepts c one then some ((s.setFw c { f with run := one, runB := f.bFirst }).released c)
  else if s.accepts c two then some ((s.setFw c { f with run := two, runB := !f.bFirst }).released c)
  else none

/-! ### Measurements (Table 12.1) -/

/-- The 48 bytes of a SHA-384 value. -/
def digest (n : Nat) : List Byte := leBytes 48 n

/-- A measurement extended with a value. -/
def extend (m v : Nat) : Nat := Config.sha384 (digest m ++ digest v)

/-- The policy items of index 3. -/
def State.policy (s : State) : Nat :=
  Config.sha384 ([bitsOf (s.word 0).toNat 15 8, s.fld bootCompat, s.fld tcUnlocked, s.fuses.unlocks].flatMap (leBytes 1) ++
    [2, 4, 5, 6, 7].flatMap fun c => leBytes 2 (s.svnMin c))

/-- The service record, as index 8 measures it. -/
def Svc.bytes (x : Svc) : List Byte :=
  (x.tmap.flatMap fun e => leBytes 2 e.1 ++ leBytes 1 e.2) ++ (x.failed.flatMap fun e => leBytes 1 e.1 ++ leBytes 1 e.2) ++
    (x.retired.flatMap fun f => leBytes 1 (b2n f.fast) ++ leBytes 8 f.n) ++ x.fastCh.flatMap (leBytes 2) ++ x.capCh.flatMap (leBytes 1)

/-- The values in force at an index (R554). -/
def State.measure (s : State) (i : Nat) : Nat := match i with
  -- an image that has not been measured since boot has no value
  | 1 => (Config.imageHash 1).toNat
  | 3 => s.trust.m3
  | 8 => s.trust.m8
  | 9 => Config.sha384 ((List.range 6).flatMap (fun i => leBytes 8 (s.word (keyAuth i)).toNat) ++
      leBytes 1 (s.fld tcNoPlain) ++ (List.range 6).flatMap (fun i => leBytes 1 (b2n (s.locks.contains (keyAuth i)))) ++
      leBytes 1 (b2n (s.locks.contains 0x00900008)))
  | 10 => s.trust.m10
  | c => if s.trust.measured.contains c then (s.fwOf c).run.hash.toNat else 0

/-! ### SPDM (R552, R553, Table 12.2) -/

def transportNo : Transport → Nat
  | .doe => 0
  | .vdm => 1
  | .i3c => 2

def State.reply (s : State) (via : Transport) (r : SpdmRsp) : State := { s with sent := .spdm via r :: s.sent }
def State.setTrust (s : State) (t : Trust) : State := { s with trust := t }.setFld tcSessions t.sessions.length

/-- A transport that the TC answers on: its firmware runs, and the host link does where it is needed. -/
def State.hears (s : State) : Transport → Bool
  | .i3c => s.up && decide (2 ≤ s.fld bootStage)
  | _ => s.answers

def State.conn (s : State) (via : Transport) : Nat := tabGet (fun _ => 0) s.trust.conns (transportNo via)

/-- A request on a connection negotiated at least as far as `need`; else UnexpectedRequest (SPDM, PRESUMED). -/
def onConn (via : Transport) (need : Nat) (s : State) (f : State → State) : Res :=
  .next (if !s.hears via then s else if s.conn via < need then s.reply via (.error .unexpectedRequest) else f s)

def State.setConn (s : State) (via : Transport) (n : Nat) : State :=
  s.setTrust { s.trust with conns := tabSet (fun _ => 0) s.trust.conns (transportNo via) n }

/-- GET_VERSION: 1.2 and 1.3; it starts the connection anew. -/
def execGetVersion (via : Transport) (s : State) : Res :=
  onConn via 0 s fun s => (s.setConn via 1).reply via (.version [0x12, 0x13])

/-- GET_CAPABILITIES. -/
def execGetCapabilities (via : Transport) (s : State) : Res :=
  onConn via 1 s fun s => (s.setConn via (max 2 (s.conn via))).reply via .capabilities

/-- NEGOTIATE_ALGORITHMS: a requester that does not offer the algorithms of Table 12.2 asks for something outside it. -/
def execNegotiateAlgorithms (via : Transport) (algs : SpdmAlgs) (s : State) : Res :=
  onConn via 2 s fun s =>
    if algs.p384 && algs.sha384 && algs.ecdhe384 && algs.aes256gcm then (s.setConn via 3).reply via .algorithms
    else s.reply via (.error .unsupportedRequest)

/-- The device identity and alias key pairs, derived at each boot and nowhere stored (R552). -/
def State.deriveKeys (s : State) : State :=
  let id := Config.deriveKey s.fuses.secret (s.measure 1)
  { s with trust := { s.trust with identity := id, aliasKey := Config.deriveKey id (s.measure 2) } }

/-- The chain of slot 0: root, intermediate, device, and the alias certificate with indices 1 to 3 (R552, R581). -/
def State.chain (s : State) : List Byte :=
  (List.range 3).flatMap Config.issuedCert ++
    Config.aliasCert s.trust.identity (Config.p384Pub s.trust.aliasKey) [s.measure 1, s.measure 2, s.measure 3] (s.fld tcUnlocked == 1)

/-- GET_DIGESTS: slot 0 alone is used. -/
def execGetDigests (via : Transport) (s : State) : Res :=
  onConn via 3 s fun s => s.reply via (.digests (Config.sha384 s.chain))

/-- GET_CERTIFICATE: slots 1 to 7 are empty. -/
def execGetCertificate (via : Transport) (slot : Nat) (s : State) : Res :=
  onConn via 3 s fun s => s.reply via (if slot = 0 then .certificate s.chain else .error .invalidRequest)

/-- CHALLENGE: the answer carries a challenge nonce that the TC issues. -/
def execSpdmChallenge (via : Transport) (slot : Nat) (s : State) : Res :=
  onConn via 3 s fun s =>
    if slot != 0 then s.reply via (.error .invalidRequest)
    else
      let t := s.trust
      let n := Config.spdmNonce t.nonceSeed t.nonces % 2 ^ 256
      (s.setTrust { t with nonces := t.nonces + 1, challenges := (n, s.now) :: t.challenges }).reply via (.challengeAuth n)

/-- A signature of measurement blocks with the alias key, where it is asked for (Table 12.2). -/
def State.signed (s : State) (r : MeasReq) (bs : List (Nat × Nat)) : Option Nat :=
  if r.signed then some (Config.p384Sign s.trust.aliasKey (bs.flatMap fun b => leBytes 1 b.1 ++ digest b.2)) else none

/-- GET_MEASUREMENTS: how many there are (0), all of them (255), or one; signed on request. -/
def execGetMeasurements (via : Transport) (req : MeasReq) (s : State) : Res :=
  onConn via 3 s fun s =>
    let block (i : Nat) : Nat × Nat := (i, s.measure i)
    let blocks (bs : List (Nat × Nat)) : SpdmRsp := .measurements bs (s.signed req bs)
    s.reply via (
      if req.index = 0 then .count 10 (s.signed req [])
      else if req.index = 255 then blocks ((List.range 10).map fun i => block (i + 1))
      else if req.index ≤ 10 then blocks [block req.index]
      else .error .invalidRequest)

/-- KEY_EXCHANGE: at most 8 sessions. -/
def execKeyExchange (via : Transport) (s : State) : Res :=
  onConn via 3 s fun s =>
    match (List.range 8).find? fun n => !s.trust.sessions.any (·.id == n) with
    | none => s.reply via (.error .busy)
    | some n => (s.setTrust { s.trust with sessions := s.trust.sessions ++ [{ id := n, via := via }] }).reply via (.keyExchange n)

/-- A request in a session. Without the session nothing can be opened, and nothing is answered. -/
def onSess (sess : Nat) (s : State) (f : Sess → State → State) : Res :=
  .next (match s.trust.sessions.find? (·.id == sess) with
    | some x => if s.hears x.via then f x s else s
    | none => s)

/-- A request that needs a session FINISH has opened. -/
def onOpen (sess : Nat) (s : State) (f : Sess → State → State) : Res :=
  onSess sess s fun x s => if x.open_ then f x s else s.reply x.via (.error .unexpectedRequest)

def State.dropSess (s : State) (n : Nat) : State :=
  s.setTrust { s.trust with sessions := s.trust.sessions.filter (·.id != n) }

/-- FINISH: the session opens, or ends where a check fails (PRESUMED, SPDM). -/
def execSpdmFinish (sess : Nat) (auth : SpdmAuth) (s : State) : Res :=
  onSess sess s fun x s =>
    if x.open_ then s.reply x.via (.error .unexpectedRequest)
    else if !auth.ok then (s.dropSess sess).reply x.via (.error .decryptError)
    else (s.setTrust { s.trust with sessions := s.trust.sessions.map fun y =>
      if y.id = sess then { x with open_ := true, mutual_ := auth.mutualAuth, root := auth.rootHash.toNat } else y }).reply x.via .finish

/-- KEY_UPDATE. -/
def execKeyUpdate (sess : Nat) (s : State) : Res := onOpen sess s fun x s => s.reply x.via .keyUpdateAck

/-- HEARTBEAT of a session. -/
def execSpdmHeartbeat (sess : Nat) (s : State) : Res := onOpen sess s fun x s => s.reply x.via .heartbeatAck

/-- END_SESSION. -/
def execEndSession (sess : Nat) (s : State) : Res := onOpen sess s fun x s => (s.dropSess sess).reply x.via .endSessionAck

/-! ### KZ_KEY_SET (R558) and IDE_KM (R573) -/

/-- The root hash that TC_KEYAUTH holds; 0 refuses every KZ_KEY_SET. -/
def State.authRoot (s : State) : Nat := (List.range 6).foldl (fun n i => n + (s.word (keyAuth i)).toNat * 2 ^ (64 * i)) 0

/-- KZ_KEY_SET. -/
def execKzKeySet (sess : Nat) (slot : BitVec 7) (type : BitVec 2) (force : Bool) (key : BitVec 512) (s : State) : Res :=
  onOpen sess s fun x s =>
    if !x.mutual_ || s.authRoot = 0 || x.root != s.authRoot || s.fld tcUnlocked = 1 then s.reply x.via (.error .unauthorized)
    else if type = 2 && 2 ^ 256 ≤ key.toNat then s.reply x.via (.vendor 0x0B)
    else match s.installOn slot.toNat type.toNat key.toNat force false with
      | (s, st) => (s.reply x.via (.vendor st)).settleAll

/-- A stream in the secure state: a key in use in both directions on each sub-stream. -/
def State.secure (s : State) (stream : Nat) : Bool :=
  [true, false].all fun tx => (List.range 3).all fun sub =>
    s.trust.ide.any fun k => k.stream == stream && k.kind == .selective && k.tx == tx && k.sub == sub && k.active

/-- IDE_KM: a key programmed beside the one in use, or the switch to a programmed key by its K bit. -/
def execIdeKm (sess : Nat) (op : IdeKm) (s : State) : Res :=
  onOpen sess s fun x s =>
    let same (k : IdeKey) : Bool := k.stream == op.stream && k.kind == op.kind && k.tx == op.tx && k.sub == op.sub.toNat
    let streams := ((s.trust.ide.filter fun k => k.kind == op.kind).map (·.stream)).eraseDups.filter (· != op.stream)
    if op.sub = 3 || 256 ≤ op.stream || (if op.kind = .selective then 64 else 1) ≤ streams.length then s.reply x.via (.error .invalidRequest)
    else if op.go then
      if s.trust.ide.any fun k => same k && k.kbit == op.kbit then
        (s.setTrust { s.trust with ide := s.trust.ide.map fun k => if same k then { k with active := k.kbit == op.kbit } else k }).reply
          x.via .ideAck
      else s.reply x.via (.error .invalidRequest)
    else
      let rest := s.trust.ide.filter fun k => !(same k && k.kbit == op.kbit)
      let k : IdeKey := { stream := op.stream, kind := op.kind, tx := op.tx, sub := op.sub.toNat, kbit := op.kbit, key := op.key.toNat }
      (s.setTrust { s.trust with ide := rest ++ [k] }).reply x.via .ideAck

/-- IDE_INTEGRITY_FAIL: the stream leaves the secure state, and the TDIs bound to it fail. -/
def execIdeIntegrityFail (stream : Nat) (s : State) : Res :=
  .next (
    if !s.answers then s
    else
      let s := s.setTrust { s.trust with ide := s.trust.ide.filter fun k => k.kind != .selective || k.stream != stream }
      ((List.range 48).foldl (fun s p => if (s.tdi p).stream = stream then s.tdiFail p 3 else s) s).settleAll)

/-! ### TDISP (R574 to R578) -/

/-- The lines of a list that lie in an extent. -/
def linesOf (grant : List (Nat × Nat)) (lines : List Nat) : List Nat :=
  lines.filter fun line => grant.any fun g => decide (g.1 ≤ line / 512) && decide (line / 512 < g.1 + g.2)

/-- Every cached line of a partition's pages written back and dropped; the host's copies are recalled first: whether that is done. -/
def State.flushPages (s : State) (grant : List (Nat × Nat)) : State × Bool :=
  let held := linesOf grant (s.hosts.map (·.1))
  if !held.isEmpty && !s.silent then (s.recallAll held, false)
  else ((linesOf grant (s.frames.map (·.1))).foldl State.evict (held.foldl State.loseHost s), true)

/-- LOCK_INTERFACE is refused (R575, R581). -/
def State.lockRefused (s : State) (p stream : Nat) : Bool :=
  let x := s.part p
  x.st != .ready || !x.vf || (s.tdi p).st != 0 || s.ctxs.any (fun c => c.2.part == p && c.2.st != .free) || !x.enc ||
    s.memBound x.key != [p] || !s.secure stream || s.fld tcUnlocked = 1

/-- LOCK_INTERFACE. -/
def execLockInterface (sess part stream : Nat) (s : State) : Res :=
  if !partOk part then .fault .noSuchUnit
  else onOpen sess s fun x s =>
    if s.lockRefused part stream then s.reply x.via (.error .invalidRequest)
    else
      match s.flushPages (s.part part).grant with
      | (s, false) => s
      | (s, true) => match s.draw with
      | (v, s) => ((s.putKey (s.part part).key 1 v).setTdi part { s.tdi part with st := 1, stream := stream }).reply x.via .tdispAck

/-- START_INTERFACE. -/
def execStartInterface (sess part : Nat) (s : State) : Res :=
  if !partOk part then .fault .noSuchUnit
  else onOpen sess s fun x s =>
    if (s.tdi part).st = 1 then ((s.setTdi part { s.tdi part with st := 2 }).reply x.via .tdispAck).settleAll
    else s.reply x.via (.error .invalidRequest)

/-- STOP_INTERFACE: the partition is reset, its slot erased by force, and the TDI unlocked (R578). -/
def execStopInterface (sess part : Nat) (s : State) : Res :=
  if !partOk part then .fault .noSuchUnit
  else onOpen sess s fun x s =>
    if (s.tdi part).st = 0 then s.reply x.via .tdispAck
    else match (s.part part).st with
      | .ready =>
        let f (y : Part) : Part := { y with tdiStop := true, tdiSess := some sess }
        -- a reset requested during a rotation starts when that completes (R268)
        if s.rot == .idle then s.resetStart part f else s.setPart part (f (s.part part))
      | .resetting => s.setPart part { s.part part with tdiStop := true, tdiSess := some sess }
      | _ => s.reply x.via (.error .invalidRequest)

/-- The size of a function's BAR4. -/
def State.bar4Of (s : State) (fn : Nat) : Nat := tabGet (fun _ => 2 ^ 30) s.bar4 fn

/-- GET_DEVICE_INTERFACE_REPORT. -/
def execGetDeviceInterfaceReport (sess part : Nat) (s : State) : Res :=
  if !partOk part then .fault .noSuchUnit
  else onOpen sess s fun x s =>
    let t := s.tdi part
    let y := s.part part
    s.reply x.via (
      if t.st = 1 || t.st = 2 then .report y.groups y.grant y.key 65536 (2 ^ 20) (s.bar4Of (part + 1))
      else .error .invalidRequest)

/-- TDI_ERROR: a cause of Table 12.12. -/
def execTdiError (part : Nat) (why : BitVec 8) (s : State) : Res :=
  unit (partOk part) (if s.answers && 1 ≤ why.toNat && why.toNat ≤ 3 then (s.tdiFail part why.toNat).settleAll else s)

/-! ### KZ_UNLOCK (R579 to R581) -/

/-- Bytes that nobody can read any more: every listed byte becomes a free value. -/
def State.voidMem (s : State) : State :=
  match s.draw with
  | (v, s) => { s with mem := tabMap memDef (fun a _ => BitVec.ofNat 8 (v / 256 ^ a)) s.mem }

/-- KZ_UNLOCK. -/
def execKzUnlock (via : Transport) (sess : Option Nat) (req : UnlockReq) (s : State) : Res :=
  onConn via 3 s fun s =>
    let fresh := s.trust.challenges.any fun c => c.1 == req.challenge.toNat && decide (s.now ≤ c.2 + 60 * 10 ^ 12)
    if req.serial != Config.serial || !fresh || !req.sigOk then s.rejectInput.reply via (.error .unauthorized)
    else if s.parts.any (fun x => x.2.st != .free) || 255 ≤ s.fuses.unlocks then s.reply via (.error .unauthorized)
    else
      let t := s.trust
      let s := s.setTrust { t with ide := [], memKey := 0, sessions := t.sessions.filter fun x => some x.id == sess }
      let s := { s with keys := [], fuses := { s.fuses with unlocks := s.fuses.unlocks + 1 } }.voidMem
      let s := (s.setFld tcUnlocks s.fuses.unlocks).setFld tcUnlocked 1
      (s.setTrust { s.trust with m3 := extend s.trust.m3 s.policy }).reply via (.vendor 0)

/-! ### Firmware update (R630, Table 14.11) -/

/-- FIRMWARE_UPDATE: the image stands in the flash copy that does not run. -/
def execFirmwareUpdate (comp : Nat) (image : Image) (s : State) : Res :=
  unit (isComp comp) (
    if !s.hears .i3c then s
    else
      let f := s.fwOf comp
      (s.setFw comp (if f.runB then { f with a := image } else { f with b := image })).reply .i3c (.pldm true))

/-- The record of an activation: the new SVN and the first 12 bytes of the hash. -/
def State.fwRecord (s : State) (comp : Nat) (i : Image) : State :=
  s.ras 0x02 0 0xFF comp (BitVec.ofNat 64 (i.svn % 2 ^ 32 + i.hash.toNat % 2 ^ 32 * 2 ^ 32)) (BitVec.ofNat 64 (i.hash.toNat / 2 ^ 32))

/-- ACTIVATE_FIRMWARE: an image that does not verify is not activated. TC firmware runs from the next boot on. -/
def execActivateFirmware (comp : Nat) (s : State) : Res :=
  unit (isComp comp) (
    if !s.hears .i3c then s
    else
      let f := s.fwOf comp
      let i := if f.runB then f.a else f.b
      if !s.accepts comp i then s.reply .i3c (.pldm false)
      else
        let s := s.reply .i3c (.pldm true)
        if comp = 2 then s.setFw comp { f with bFirst := !f.runB }
        else
          let s := s.setFw comp { f with run := i, runB := !f.runB, bFirst := !f.runB }
          -- b is held for 50 us while the power controller restarts (Table 14.11)
          let s := if comp = 5 then { s with pwr := { s.pwr with holdTill := s.now + 5 * 10 ^ 7 } } else s
          (s.setTrust { s.trust with m10 := extend s.trust.m10 i.hash.toNat }).fwRecord comp i)

end Sys2Proof.Machine
end

