-- ==== Sys2Proof/Machine/Boot.lean ====
section
/-! DEFINITION. From power to ready, resets, trips and fatal errors (spec/14 R614 to R620, R627, R631, R634; spec/16 R653, R656,
R659; spec/13 R598). -/

namespace Sys2Proof.Machine

/-! ### What a reset clears (R617, R619, Table 14.3) -/

/-- Registers that PERST_N keeps: the reliability log and its counters. -/
def rasKept (k : Nat) : Bool :=
  k == 0x00A00010 || (decide (0x00A00800 ≤ k) && decide (k < 0x00A00C00)) || (decide (0x00A01000 ≤ k) && decide (k < 0x00A09000))

def isIn (fr til k : Nat) : Bool := decide (fr ≤ k) && decide (k < til)

/-- What stays of a channel: that it is mapped out, and its spare bit lines (R325, Table 7.14). -/
def Chan.kept (c : Chan) : Chan := { st := if c.st = 2 then 2 else 0, spares := c.spares, subs := c.subs }

/-- Everything that PERST_N clears is cleared, and every operation has ended. What stays is outside the module, in fuses or
flash, in the reliability block, or on its pins; of FAB_ELS, present, for every other field takes its reset value (R452). The tile map, the retired frames and the mapped-out channels stay: the service record
has them, or has them within a second, and loses them only where the input fails (R325, R631). -/
def State.cleared (s : State) : State :=
  { pending := s.pending, freeCtr := s.freeCtr, fresh := s.fresh, now := s.now, t0 := s.now
    host := s.host, hostBad := s.hostBad, hostAtomics := s.hostAtomics, hostCache := s.hostCache, priAlloc := s.priAlloc, sent := s.sent
    regs := (s.regs.filter fun x => rasKept x.1 || (isIn 0x00600100 0x00600120 x.1 && x.2.getLsbD 0)).map fun x =>
      if isIn 0x00600100 0x00600120 x.1 then (x.1, 1) else x
    ports := tabMap (fun _ => {}) (fun _ q => { light := q.light }) s.ports
    capTemps := [], fuses := s.fuses, fw := s.fw, svc := s.svc, unsaved := s.unsaved
    tmap := s.tmap, failedPhys := s.failedPhys, noSpare := s.noSpare, retired := s.retired
    fastCh := tabMap chanNone (fun _ c => c.kept) s.fastCh, capCh := tabMap chanNone (fun _ c => c.kept) s.capCh
    i3c := s.i3c, tap := s.tap
    pwr := { supply := s.pwr.supply, inRange := s.pwr.inRange, perst := s.pwr.perst, early := s.pwr.early
             pmbus := s.pwr.pmbus, pmbusAt := s.pwr.pmbusAt, sampleAt := s.now, seen := s.now, meterAt := s.now } }

/-- The module at power-on, with the fuses and the flash it has. -/
def State.powerOff (s : State) : State :=
  let s := s.cleared
  { s with
    regs := s.regs.filter fun x => isIn 0x00600100 0x00600120 x.1
    els := [], i3c := none, tap := none, unsaved := {}
    -- what the service record does not hold yet is lost (R631)
    tmap := s.svc.tmap.foldl (fun t e => tabSet (fun t => t % 128) t e.1 e.2) []
    failedPhys := s.svc.failed, noSpare := s.svc.noSpare, retired := s.svc.retired
    fastCh := tabMap chanNone (fun _ c => { c with st := 0 }) s.fastCh, capCh := tabMap chanNone (fun _ c => { c with st := 0 }) s.capCh
    pwr := { supply := 0, perst := true } }

/-- The load rails go off: the state in which they left the module is gone, and PERST_N, if deasserted, is held (R659). -/
def State.railsOff (s : State) (supply : Nat) (inRange : Bool) : State :=
  let held : Option Straps := if s.pwr.perst then s.pwr.early
    else some ⟨List.replicate 3 (s.fld bootCompat == 1), List.replicate 3 (BitVec.ofNat 6 (s.fld bootSlot))⟩
  let s := s.cleared
  { s with pwr := { s.pwr with supply := supply, inRange := inRange, perst := true, early := held } }

/-! ### Power (Table 14.1 steps 1 and 2, R653, R634) -/

/-- INPUT_IN_RANGE: step 1; with the ELS modules that are present. A tripped module stays in standby. -/
def execInputInRange (millivolts : Nat) (els : BitVec 4) (s : State) : Res :=
  .next (
    if millivolts < 40000 || 60000 < millivolts || s.pwr.inRange then s
    else if s.pwr.supply = 3 then { s with pwr := { s.pwr with inRange := true } }
    else
      let early := s.pwr.early
      let s := s.powerOff
      let s := { s with pwr := { s.pwr with supply := 1, inRange := true, early := early } }
      (List.range 4).foldl (fun s i => s.setFld (elsReg i 0 0) (b2n (els.getLsbD i))) s)

/-- INPUT_BELOW_RANGE: for 20 us or more. Below 36 V the whole module is off. -/
def execInputBelowRange (millivolts : Nat) (s : State) : Res :=
  .next (
    if 40000 ≤ millivolts || s.pwr.supply = 0 then s
    else if millivolts < 36000 then s.powerOff
    else if s.pwr.supply = 3 then { s with pwr := { s.pwr with inRange := false } }
    else s.railsOff 1 false)

/-- The majority of samples. -/
def majority (l : List Bool) : Bool := decide (l.length < 2 * (l.filter id).length)
def majoritySlot (l : List (BitVec 6)) : Nat :=
  (List.range 6).foldl (fun n i => n + 2 ^ i * b2n (majority (l.map (·.getLsbD i)))) 0

/-- The ELS modules that are seated start to lock their combs: at step 2, and again once their registers have been reset (DESIGN CHOICE,
log 29). -/
def State.elsStart (s : State) : State :=
  { s with els := (List.range 4).foldl (fun t i =>
    if s.fld (elsReg i 0 0) = 1 then tabSet (fun _ => .off) t i (.locking s.now) else t) s.els }

/-- Step 3: PERST_N is deasserted (R527, R548, R551, R585, R603, R627). -/
def State.boot (s : State) (straps : Straps) : State :=
  let commit := s.fld tcSvnCommit = 1
  let fuses := if commit then
    [2, 4, 5, 6, 7].foldl (fun (f : Fuses) c =>
      if s.svnMin c < (s.fwOf c).run.svn then { f with svnMin := tabSet (fun _ => 1) f.svnMin c (s.fwOf c).run.svn } else f) s.fuses
    else s.fuses
  let s := { s with fuses := fuses }.cleared
  let s := { s with pwr := { s.pwr with perst := false, early := none, warn := some (41000, 59000) } }
  let s := (s.setFld bootStage 1).setFld bootCompat (b2n (majority straps.compat))
  let s := (s.setFld bootSlot (majoritySlot straps.slot)).setFld tcUnlocks s.fuses.unlocks
  let s := (s.setWord 0x00000008 Config.serial).elsStart
  match s.draw with
  | (v, s) => match s.draw with
    | (m, s) => match s.draw with
      | (n, s) => { s with hashKey := BitVec.ofNat 128 v, trust := { s.trust with memKey := m % 2 ^ 512, nonceSeed := n } }

/-- RAILS_UP: step 2 ends; a deassertion of PERST_N that was held takes effect (R659). -/
def execRailsUp (s : State) : Res :=
  .next (
    if s.pwr.supply != 1 || !s.pwr.inRange then s
    else
      let s := { s with pwr := { s.pwr with supply := 2 } }.elsStart
      match s.pwr.early with
      | some x => s.boot x
      | none => s)

/-- PERST_DEASSERT. Below 36 V it has no effect; before the rails are up it is held. -/
def execPerstDeassert (straps : Straps) (s : State) : Res :=
  .next (
    if s.pwr.supply = 0 || !s.pwr.perst then s
    else if s.pwr.supply = 2 then s.boot straps
    else { s with pwr := { s.pwr with early := some straps } })

/-- PERST_ASSERT: one shorter than 100 us is ignored (Table 14.12). -/
def execPerstAssert (ns : Nat) (s : State) : Res :=
  .next (
    if s.pwr.supply = 0 || ns < 1000 then s
    else if ns < 100000 then s.rejectInput
    else if s.pwr.perst then { s with pwr := { s.pwr with early := none } }
    else
      -- what TC_CTL.svn_commit holds is read at the deassertion (R548)
      let commit := s.fld tcSvnCommit
      let s := s.cleared.setFld tcSvnCommit commit
      { s with pwr := { s.pwr with perst := true } })

/-- WAKE_N is driven low (R658). -/
def State.wakeLow (s : State) : Bool := s.pwr.supply == 2 && s.pwr.perst

/-! ### Trust, images (Table 14.1 steps 3 and 4, R546 to R549) -/

def State.bootRecord (s : State) : State := s.ras 0x01 0 0xFF 0 (BitVec.ofNat 64 (s.fld bootStage))

/-- The recovery stage (R549, R615). -/
def State.recovery (s : State) : State := ((s.setFld bootStage 6).setFld tcBoot 2).bootRecord

/-- TRUST_STAGE_DONE: a copy of the TC firmware runs, and the policy is measured. -/
def execTrustStageDone (s : State) : Res :=
  .next (
    if !s.up || s.fld bootStage != 1 then s
    else
      let was := (s.fwOf 2).runB
      match s.bootImage 2 with
      | none => s.recovery
      | some s =>
        let f := s.fwOf 2
        let s := (s.setFld tcSvn f.run.svn).setFld tcSvnMin (s.svnMin 2)
        let s := (s.setTrust { s.trust with m3 := s.policy, m8 := Config.sha384 s.svc.bytes, m10 := 0 }).deriveKeys
        (if f.runB == was then s else s.fwRecord 2 f.run).setFld bootStage 2)

/-- Images verified, measured and released in order, up to the first that has no valid copy; whether there was none. -/
def State.bootImages (s : State) : List Nat → State × Bool
  | [] => (s, true)
  | c :: cs => match s.bootImage c with
    | some s => s.bootImages cs
    | none => (s, false)

/-- IMAGES_STAGE_DONE: every further image has a copy that verifies, or the module is in recovery. -/
def execImagesStageDone (s : State) : Res :=
  .next (
    if !s.up || s.fld bootStage != 2 then s
    else match s.bootImages [4, 5, 6, 7] with
      | (s, true) => s.setFld bootStage 3
      | (s, false) => s.recovery)

/-! ### Self-test and the tile map (Table 14.2, R616, R621, R624) -/

def physOf (s : State) (t : Nat) : Nat := tabGet (fun t => t % 128) s.tmap t

/-- Working spares of a Frond: neither failed nor in use. -/
def State.spares (s : State) (f : Nat) : List Nat :=
  let used := (s.tmap.filter fun e => e.1 / 128 == f).map (·.2)
  (List.range 8).map (128 + ·) |>.filter fun p => !used.contains p && !s.failedPhys.contains (f, p)

/-- A spare takes a tile's number; which one is a free choice (log 3). -/
def State.substitute (s : State) (t : Nat) : State :=
  let f := frondOf t
  let ps := s.spares f
  match s.draw with
  | (v, s) =>
    let old := physOf s t
    let s := { s with tmap := tabSet (fun t => t % 128) s.tmap t (ps.getD (v % ps.length) 128), failedPhys := s.failedPhys ++ [(f, old)] }
    s.ras 0x07 0 0xFF t (BitVec.ofNat 64 old)

/-- A tile has failed and its Frond has no spare left. -/
def State.noSpareLeft (s : State) (t : Nat) : State :=
  if s.noSpare.contains t then s
  else { s with noSpare := s.noSpare ++ [t] }.ras 0x08 2 0xFF t (BitVec.ofNat 64 (physOf s t))

/-- A tile group disabled, and what ID_CAP then counts. -/
def State.disableGroup (s : State) (g : Nat) : State :=
  if s.groupOff g then s
  else
    let s := s.setFld (rasTile (g / 4) 27 24) (s.fld (rasTile (g / 4) 27 24) + 2 ^ (g % 4))
    s.setFld ⟨0x00000010, 10, 0⟩ (s.fld ⟨0x00000010, 10, 0⟩ - 32)

/-- A tile that fails at boot. -/
def State.badTile (s : State) (t : Nat) : State :=
  if (s.spares (frondOf t)).isEmpty then (s.noSpareLeft t).disableGroup (t / 32) else s.substitute t

def State.failed (s : State) : State := (s.setFld bootStage 7).bootRecord

/-- How many entries of a list name a slice, at most. -/
def mostOf (l : List (Nat × Nat)) : Nat := (l.map fun x => (l.filter (·.1 == x.1)).length).foldl max 0

/-- SELFTEST_STAGE_DONE. -/
def execSelftestStageDone (r : SelfTest) (s : State) : Res :=
  let ok := r.badTiles.all tileOk && r.badSpares.all (fun x => decide (x.1 < 12) && decide (128 ≤ x.2) && decide (x.2 < 136)) &&
    r.badWays.all (fun x => decide (x.1 < 512) && decide (x.2 < 16)) && r.badMissRegs.all (fun x => decide (x.1 < 512)) &&
    r.badSpines.all fun x => decide (x.1 < 4) && decide (x.2 < 16)
  unit ok (
    if !s.up || s.fld bootStage != 3 then s
    else if r.badSlice || r.badCore || 2 < mostOf r.badWays || 32 < mostOf r.badMissRegs then s.failed
    else
      let n := r.badWays.length
      let s := { s with
        failedPhys := (s.failedPhys ++ r.badSpares).eraseDups, waysOff := r.badWays, missOff := r.badMissRegs }
      let s := (s.noSpare.map (· / 32)).foldl State.disableGroup s
      let s := r.badTiles.foldl State.badTile s
      let s := r.badSpines.foldl (fun s x => s.setFld ⟨0x00500510, 16 * x.1 + x.2, 16 * x.1 + x.2⟩ 1) s
      ((s.setFld ⟨0x00000020, 26, 16⟩ n).setFld ⟨0x00000020, 51, 32⟩ (524288 - 64 * n)).setFld bootStage 4)

/-! ### Memory, ready (Table 14.1 steps 6 and 7, R323 to R325, R355) -/

/-- The channels that are out from the start, the frames retired, and the map over the rest. -/
def State.layMap (s : State) (fast cap : List Nat) : State :=
  let out (s : State) (t : Bool) (c : Nat) : State :=
    if (s.chan t c).st = 2 then s else s.setChan t c { s.chan t c with st := 2 }
  let s := s.svc.fastCh.foldl (out · true) s
  let s := s.svc.capCh.foldl (out · false) s
  let new (t : Bool) (s : State) (c : Nat) : State := if (s.chan t c).st = 2 then s else (out s t c).ras 0x0E 2 0xFF c
  let s := fast.foldl (new true) s
  let s := cap.foldl (new false) s
  let s := s.retired.foldl (fun s f => s.setChan f.fast f.ch { s.chan f.fast f.ch with retired := (s.chan f.fast f.ch).retired + 1 }) s
  let outs (t : Bool) : List Nat := (List.range (tierCh t)).filter fun c => (s.chan t c).st == 2
  { s with bad := { fastCh := outs true, capCh := outs false, frames := s.retired }, pageCount := s.usable, pages := []
           scrubFast := { start := s.now }, scrubCap := { start := s.now } }

/-- Virtual functions are enabled and BAR4s sized, as the host's software does once it can (log 2, DESIGN CHOICE). -/
def State.hostSetUp (s : State) : State :=
  { s with vfs := 48, bar4 := (List.range 49).map fun f => (f, 2 ^ 42) }

/-- MEMORY_STAGE_DONE: the module is ready; trips in the service record are logged. -/
def execMemoryStageDone (r : MemTrain) (ms : Nat) (s : State) : Res :=
  unit (r.badFast.all (fun c => decide (c < 512)) && r.badCap.all fun c => decide (c < 32)) (
    if !s.up || s.fld bootStage != 4 then s
    else
      let s := s.layMap r.badFast r.badCap
      let s := ((s.setFld bootStage 5).setFld bootMs ms).setFld tcBoot 1
      let s := s.bootRecord
      let trips := s.svc.tripNew
      let s := { s with svc := { s.svc with tripNew := [] } }
      let s := trips.foldl (fun s x => s.ras 0x04 3 0xFF x.2 (BitVec.ofNat 64 x.1)) s
      (List.range 32).foldl State.portTrain s.hostSetUp)

/-- HOST_LINK_TRAINED: the host agent answers again (R316). -/
def execHostLinkTrained (s : State) : Res :=
  .next (
    if !s.up then s
    else
      let s := { s with silent := false }
      if s.ready && s.vfs = 0 then s.hostSetUp else s)

/-- HOT_RESET, or DL_Down (R618); one that meets a hash-key rotation waits for its end (R268). -/
def execHotReset (s : State) : Res :=
  .next (s.sup fun s =>
    if s.rot == .idle then s.hotReset else if s.flrs.contains 0 then s else { s with flrs := s.flrs ++ [0] })

def bistCmd (hi lo : Nat) : Field := ⟨0x00A00100, hi, lo⟩
def bistRes (hi lo : Nat) : Field := ⟨0x00A00108, hi, lo⟩

/-! ### Fatal errors and trips (R620, R598, R634, R366) -/

/-- A fatal module error: no record or event is written, contexts are lost, tiles stop. -/
def State.fatal (s : State) (why : W64) : State :=
  if !s.up || s.fld bootStage = 0 || s.fld bootStage = 8 then s
  else
    let live := (s.ctxs.filter fun x => x.2.st == .live).map (·.1)
    let s : State := live.foldl (fun s c => s.loseCtx c 0x16 8 0 0 0) (s.setFld bootStage 8)
    let s : State := (s.kernels.map (·.1)).foldl State.endKernel s
    let s : State := { s with
      tiles := tabMap tileNone (fun _ t => { t with stopped := true }) s.tiles
      bist := none, unsaved := { s.unsaved with fatals := s.unsaved.fatals ++ [why] } }
    let s := if s.fld (bistCmd 63 63) = 1 then (s.setFld (bistCmd 63 63) 0).setFld (bistRes 3 0) 4 else s
    let s := s.ras 0x03 3 0xFF 0 why
    { s with sent := .aerFatal :: s.sent }

/-- FATAL_ERROR. -/
def execFatalError (why : W64) (s : State) : Res := .next (s.fatal why)

/-- STIPE_FLIT_REPLAY: a resend of a flit that held, or failed; 32 in a row are a fatal error. -/
def execStipeFlitReplay (link : Nat) (ok : Bool) (s : State) : Res :=
  .next (
    if !s.up then s
    else if ok then { s with links := tabSet (fun _ => 0) s.links link 0 }
    else
      let n := tabGet (fun _ => 0) s.links link + 1
      let s := { s with links := tabSet (fun _ => 0) s.links link n }
      if 32 ≤ n then s.fatal (BitVec.ofNat 64 (1 + 256 * link)) else s)

def tripNo : TripCause → Nat
  | .junction => 0
  | .stack => 1
  | .optics => 2

def tripUnits : TripCause → Nat
  | .junction => 240
  | .stack => 16
  | .optics => 8

/-- TRIP: a reading has stood at its limit for 100 us; every load rail goes off. -/
def execTrip (cause : TripCause) (u : Nat) (s : State) : Res :=
  unit (decide (u < tripUnits cause)) (
    if s.pwr.supply != 2 then s
    else match s.pwr.hotSince.find? fun x => x.1 == tripNo cause && x.2.1 == u with
      | some (_, _, t) =>
        if s.pwr.sampleAt < t + 10 ^ 8 then s
        else
          let x := (tripNo cause, u)
          let v := s.unsaved
          { s with unsaved := { v with trips := v.trips ++ [x], tripNew := v.tripNew ++ [x] } }.railsOff 3 s.pwr.inRange
      | none => s)

/-- TRIP_CLEAR: the module starts again from step 2. -/
def execTripClear (s : State) : Res :=
  .next (if s.pwr.supply = 3 && s.pwr.inRange then { s with pwr := { s.pwr with supply := 1 } } else s)

end Sys2Proof.Machine
end

