-- ==== Sys2Proof/Machine/Service.lean ====
section
/-! DEFINITION. Tile errors and spares, self-test by command, the service record, recalibration, the sideband and boundary scan
(spec/14 R621 to R635; spec/16 R660, R661). -/

namespace Sys2Proof.Machine

/-! ### Quarantine and substitution (R622 to R624, Table 14.4) -/

def spareCmd (hi lo : Nat) : Field := fieldAt 0x00A00200 hi lo
def rasAuto : Field := fieldAt 0x00A00008 27 27
def rasCeThr : Field := fieldAt 0x00A00008 31 28

/-- Tiles of a Frond that wait for a spare. -/
def State.waitSpare (s : State) (f : Nat) : List Nat :=
  (s.quarantined.map (·.1)).filter fun t => frondOf t == f && !s.noSpare.contains t

/-- A tile is quarantined; with no spare left on its Frond it has failed for good. -/
def State.quarantine (s : State) (t : Nat) (sup : Bool) : State :=
  if s.quarantined.any (·.1 == t) then s
  else
    let s := { s with quarantined := s.quarantined ++ [(t, sup)] }
    if (s.spares (frondOf t)).length < (s.waitSpare (frondOf t)).length then (s.noSpareLeft t).loseOut else s

/-- A clause that meets an error of its tile gets POISON (R88, R311). -/
def State.poisonClause (s : State) (a : At) : State :=
  let c := s.clause a
  if c.st == .empty || c.st == .exited || c.st == .faulted then s else s.clauseFault a 7 0

/-- TILE_ERROR_REPORT. -/
def execTileErrorReport (tile : Nat) (err : TileErr) (s : State) : Res :=
  unit (tileOk tile) (
    let part := (s.groupOwner (tile / 32)).getD 0xFF
    let phys : W64 := BitVec.ofNat 64 (physOf s tile)
    let hit (s : State) : Option Nat → State
      | some e => if e < 72 then s.poisonClause ⟨tile, e⟩ else s
      | none => s
    if !s.up then s
    else match err with
      | .corrected syn =>
        let n := tabGet (fun _ => 0) s.tileCe tile + 1
        let s := { s with tileCe := tabSet (fun _ => 0) s.tileCe tile n }.rasCount 0x05
        let thr := s.fld rasCeThr
        if s.fld rasAuto = 1 && thr != 0 && thr < n && !s.quarantined.any (·.1 == tile) then
          ((s.rasAppend 0x05 1 part tile phys syn).raiseVec 0 (s.fld rasRelVec)).quarantine tile false
        else s
      | .sram e off => ((hit s e).ras 0x06 2 part tile phys (BitVec.ofNat 64 off)).quarantine tile false
      | .parity e => ((hit s e).ras 0x06 2 part tile phys).quarantine tile false)

/-- An op of RAS_SPARE_CMD ends. -/
def State.spareEnd (s : State) (st : Nat) : State := (s.setFld (spareCmd 27 24) st).setFld (spareCmd 31 31) 0

/-- A write of RAS_SPARE_CMD with go = 1; ignored while go reads 1, but for a cancel of the quarantine that holds it. -/
def State.spareOp (s : State) (op tile : Nat) (f : State → State) : State :=
  let t := (s.setFld (spareCmd 10 0) tile).setFld (spareCmd 17 16) op
  if s.fld (spareCmd 31 31) = 1 && (op != 2 || !s.quarantined.contains (tile, true) || s.noSpare.contains tile) then t
  else f (t.setFld (spareCmd 31 31) 1)

/-- SPARE_QUARANTINE. -/
def execSpareQuarantine (tile : BitVec 11) (s : State) : Res :=
  .next (s.ans fun s => s.spareOp 1 tile.toNat fun s =>
    let t := tile.toNat
    if !tileOk t then s.spareEnd 1
    else if s.quarantined.any (·.1 == t) then s.spareEnd 3
    else
      let s := s.quarantine t true
      if s.noSpare.contains t then s.spareEnd 2 else s)

/-- A quarantined tile's substitution has started: it is free, and has a spare to wait for (R623). -/
def State.substituting (s : State) (t : Nat) : Bool :=
  s.quarantined.any (·.1 == t) && !s.noSpare.contains t && (s.tile t).kernel.isNone

/-- SPARE_CANCEL: too late once the substitution has started; the quarantine's own op then still holds go. -/
def execSpareCancel (tile : BitVec 11) (s : State) : Res :=
  .next (s.ans fun s => s.spareOp 2 tile.toNat fun s =>
    let t := tile.toNat
    if !tileOk t then s.spareEnd 1
    else if s.substituting t && s.quarantined.contains (t, true) then s.setFld (spareCmd 27 24) 4
    else if s.quarantined.contains (t, true) && !s.noSpare.contains t then
      { s with quarantined := s.quarantined.filter (·.1 != t) }.spareEnd 0
    else s.spareEnd 4)

/-- A packet addresses a tile, or is about to: a request of it, an answer or a notice to it, a FWD (R368). -/
def State.addressed (s : State) (tile : Nat) : Bool :=
  let mine (r : Req) : Bool := r.src.tile == tile
  s.reqs.any mine || s.hostReqs.any (fun h => h.src.tile == tile) ||
    (s.rsps.any fun r => mine r.req || ((r.kind == .fwd || r.kind == .fwdAck || r.kind == .fwdMiss) && r.tile == tile)) ||
    s.misses.any fun m => match m.2 with
      | some m => m.waiters.any mine || m.why == .fwd tile || m.why == .fwdHold tile
      | none => false

/-- TILE_SUBSTITUTE: of a quarantined tile that is free and that no packet addresses, once no hash-key rotation is in progress. The spare
bears its number, zeroed, with the stores of the resident models. -/
def execTileSubstitute (tile : Nat) (s : State) : Res :=
  unit (tileOk tile) (
    let t := s.tile tile
    if !s.ready || s.rot != .idle || t.kernel.isSome || !s.quarantined.any (·.1 == tile) || s.noSpare.contains tile ||
        s.addressed tile then s
    else
      let mine := s.fld (spareCmd 31 31) = 1 && s.quarantined.contains (tile, true)
      if (s.spares (frondOf tile)).isEmpty then
        let s := (s.noSpareLeft tile).loseOut
        if mine then s.spareEnd 2 else s
      else
        let s := (s.substitute tile).setTile tile { store := t.store }
        let s := { s with quarantined := s.quarantined.filter (·.1 != tile) }
        if mine then s.spareEnd 0 else s)

/-! ### Self-test by command (R625, R626, Tables 14.6 to 14.8) -/

/-- The units of a kind. -/
def bistUnits (kind : Nat) : Nat := [0, 48, 12, 512, 32, 32].getD kind 0

/-- The target is in the state that Table 14.6 asks for. -/
def State.bistReady (s : State) (kind u : Nat) : Bool := match kind with
  | 1 => (s.groupOwner u).isNone && (List.range 32).all fun i => (s.tile (32 * u + i)).clauses.isEmpty
  | 2 => !(s.waitSpare u).any s.substituting
  | 3 => (s.chan true u).st == 2
  | 4 => (s.chan false u).st == 2
  | _ => s.fld (portCtl u 0 0) == 0 && s.portState u == 0

/-- A write of RAS_BIST_CMD with go = 1. -/
def State.bistOp (s : State) (kind u : Nat) (seed : W16) : State :=
  let go := s.fld (bistCmd 63 63) == 1
  let s := ((s.setFld (bistCmd 2 0) kind).setFld (bistCmd 16 8) u).setFld (bistCmd 47 32) seed.toNat
  if go then s
  else
    if bistUnits kind ≤ u then s.setFld (bistRes 3 0) 3
    else if !s.bistReady kind u then s.setFld (bistRes 3 0) 2
    else { s.setFld (bistCmd 63 63) 1 with bist := some (kind, u, seed, s.now) }

/-- BIST_TILE_GROUP. -/
def execBistTileGroup (unit : BitVec 9) (seed : W16) (s : State) : Res := .next (s.ans (State.bistOp · 1 unit.toNat seed))
/-- BIST_SPARES. -/
def execBistSpares (unit : BitVec 9) (seed : W16) (s : State) : Res := .next (s.ans (State.bistOp · 2 unit.toNat seed))
/-- BIST_FAST_CHANNEL. -/
def execBistFastChannel (unit : BitVec 9) (seed : W16) (s : State) : Res := .next (s.ans (State.bistOp · 3 unit.toNat seed))
/-- BIST_CAP_CHANNEL. -/
def execBistCapChannel (unit : BitVec 9) (seed : W16) (s : State) : Res := .next (s.ans (State.bistOp · 4 unit.toNat seed))
/-- BIST_PORT. -/
def execBistPort (unit : BitVec 9) (seed : W16) (s : State) : Res := .next (s.ans (State.bistOp · 5 unit.toNat seed))

/-- BIST_DONE: the signature against the fault-free one; what the target is left as. -/
def execBistDone (r : BistResult) (s : State) : Res :=
  .next (match s.bist with
    | none => s
    | some (kind, u, seed, t0) =>
      let s := s.reach (t0 + r.ms.toNat * 10 ^ 9)
      let exp := Config.bistSig kind seed
      let s := ((s.setFld (bistRes 3 0) (if r.sig = exp then 0 else 1)).setFld (bistRes 31 16) r.fails.toNat).setFld (bistRes 63 32) r.ms.toNat
      let s := (s.setWord 0x00A00110 r.sig).setWord 0x00A00118 exp
      let s := if kind = 1 then (List.range 32).foldl (fun s i => s.setTile (32 * u + i) { store := (s.tile (32 * u + i)).store }) s else s
      let s := if kind = 2 then
        { s with failedPhys := (s.failedPhys ++ (r.badUnits.filter fun p => decide (128 ≤ p) && decide (p < 136)).map (u, ·)).eraseDups } else s
      { s with bist := none }.setFld (bistCmd 63 63) 0 |>.ras 0x1C 0 0xFF u (BitVec.ofNat 64 kind))

/-! ### The service record (R631, R635) -/

/-- SERVICE_RECORD_WRITE: substitutions, retirements, map-outs, trips and fatal errors stand in the record. -/
def execServiceRecordWrite (s : State) : Res :=
  .next (
    if !s.powered then s
    else
      let x := s.svc
      let v := s.unsaved
      let outs (t : Bool) (l : List Nat) : List Nat := (l ++ ((if t then s.fastCh else s.capCh).filter (·.2.st == 2)).map (·.1)).eraseDups
      { s with unsaved := {}, svc := {
        tmap := s.tmap, failed := s.failedPhys, noSpare := s.noSpare, retired := s.retired
        fastCh := outs true x.fastCh, capCh := outs false x.capCh
        trips := x.trips ++ v.trips, fatals := x.fatals ++ v.fatals, tripNew := x.tripNew ++ v.tripNew } })

/-- SVC_READ. -/
def execSvcRead (s : State) : Res := .next (if s.powered then { s with sent := .svcRecord s.svc :: s.sent } else s)

/-! ### Recalibration (R632) -/

/-- CHANNEL_RECAL: due by its interval, or at once where its temperature has moved by delta. -/
def execChannelRecal (fast : Bool) (channel : Nat) (temp : Int) (s : State) : Res :=
  unit (decide (channel < tierCh fast)) (
    let k := if fast then channel else 512 + channel
    if !s.ready || s.fld ⟨0x00A00020, 16, 16⟩ = 0 then s
    else
      let s := match tabGet (fun _ => none) s.recals k with
        | some (t, at_) =>
          if (s.fld ⟨0x00A00020, 15, 8⟩ : Int) ≤ max (temp - t) (t - temp) then s
          else s.reach (at_ + s.fld ⟨0x00A00020, 7, 0⟩ * 10 ^ 11)
        | none => s
      { s with recals := tabSet (fun _ => none) s.recals k (some (temp, s.now)) })

/-! ### The sideband, the host link's timer, boundary scan -/

/-- I3C_ENTDAA: the bus controller assigns the dynamic address (R628, R660). -/
def execI3cEntdaa (addr : BitVec 7) (s : State) : Res := .next (if s.powered then { s with i3c := some addr } else s)

/-- I3C_STALL_TIMEOUT: a transaction stalled for 100 ms is aborted (Table 14.12). -/
def execI3cStallTimeout (s : State) : Res := .next (if s.powered then s.rejectInput else s)

/-- PCIE_COMPLETION_TIMEOUT: a request of the module that the host has not completed in 50 ms counts as completed with poison. -/
def execPcieCompletionTimeout (req : Nat) (s : State) : Res :=
  .next (match s.hostReqs.find? (·.id == req) with
    | some r => s.rejectInput.hostDone r true
    | none => s)

/-- BOUNDARY_SCAN_INSTRUCTION: taken in stages 0 and 6 to 8; else the TAP holds its bypass register (R661). -/
def execBoundaryScanInstruction (ir : W32) (s : State) : Res :=
  .next (if s.powered then { s with tap := if s.fld bootStage = 0 || 6 ≤ s.fld bootStage then some ir else none } else s)

end Sys2Proof.Machine
end

