-- ==== Sys2Proof/Machine/Bar.lean ====
section
/-! DEFINITION. Writes of set-up registers and doorbells, and accesses through BAR4 (spec/15 R636 to R648; the field maps of the
other chapters; spec/12 R576). -/

namespace Sys2Proof.Machine

/-! ### Where registers stand (R637, Table 15.2) -/

/-- The index of an offset among `n` of them from `start` on. -/
def idxAt (o start stride n : Nat) : Option Nat :=
  if start ≤ o ∧ (o - start) % stride = 0 ∧ (o - start) / stride < n then some ((o - start) / stride) else none

/-- The registers of 64 bits: offset, stride, how many. -/
def regs64 : List (Nat × Nat × Nat) :=
  [ (0x00000000, 8, 5), (0x00010000, 8, 2), (0x00010040, 8, 4), (0x00100000, 8, 16), (0x00100100, 16, 48)
  , (0x00101000, 64, 48), (0x00200000, 8, 16), (0x00201000, 32, 48), (0x00201008, 32, 48), (0x00202000, 8, 32), (0x00202110, 8, 5)
  , (0x00202140, 8, 2), (0x00300028, 8, 1), (0x00300100, 8, 8), (0x00400008, 8, 2), (0x00400020, 8, 1)
  , (0x00400100, 8, 48), (0x00500010, 8, 1), (0x00500400, 16, 16), (0x00500510, 8, 1), (0x00500800, 8, 256)
  , (0x00600010, 8, 1), (0x00601008, 64, 32), (0x00602010, 64, 48), (0x00602018, 64, 48), (0x00602020, 64, 48)
  , (0x00610000, 8, 16384), (0x00800010, 8, 1), (0x00800100, 8, 12), (0x00900000, 8, 1), (0x00900040, 8, 6)
  , (0x00900140, 8, 8), (0x00901000, 8, 128), (0x00902000, 8, 48), (0x00A00000, 8, 1), (0x00A00100, 8, 4)
  , (0x00A00300, 8, 12), (0x00A00800, 8, 64), (0x00A00A00, 8, 48), (0x00C00040, 8, 8), (0x00C00080, 8, 4)
  , (0x00C000C0, 8, 5), (0x00C01000, 8, 128), (0x00C02000, 8, 192), (0x00C03000, 8, 384), (0x00C10000, 8, 12288) ]

/-- A register of 64 bits begins at an offset. -/
def is64 (o : Nat) : Bool := regs64.any fun r => (idxAt o r.1 r.2.1 r.2.2).isSome

/-- The offset of a virtual function's BAR0 in the physical function's layout (Table 15.9). -/
def vfOffset (p o : Nat) : Option Nat :=
  if o < 0x28 then some o
  else if isIn 0x100 0x160 o then some (0x00010000 + (o - 0x100))
  else if isIn 0x200 0x288 o then some (0x00200000 + (o - 0x200))
  else if isIn 0x300 0x320 o then some (0x00201000 + 32 * p + (o - 0x300))
  else if isIn 0x400 0x550 o then some (0x00202000 + (o - 0x400))
  else if isIn 0x600 0x608 o then some (0x00300020 + (o - 0x600))
  else if isIn 0x608 0x610 o then some (0x00300028 + (o - 0x608))
  else if isIn 0x700 0x740 o then some (0x00300100 + (o - 0x700))
  else if isIn 0x800 0x808 o then some (0x00100100 + 16 * p + (o - 0x800))
  else if isIn 0x1000 0x1008 o then some (0x00C00008 + (o - 0x1000))
  else if isIn 0x1020 0x1040 o then some (0x00C02000 + 32 * p + (o - 0x1020))
  else if isIn 0x1040 0x1080 o then some (0x00C03000 + 64 * p + (o - 0x1040))
  else if isIn 0x1800 0x2000 o then some (0x00C10000 + 2048 * p + (o - 0x1800))
  else if isIn 0x7E00 0x7F00 o then some (0x00E10000 + (o - 0x7E00))
  else if isIn 0x8000 0x10000 o then some (0x00E00000 + (o - 0x8000))
  else none

/-- The blocks that answer in stages 6 to 8 (R615, R620). -/
def alwaysBlock (o : Nat) : Bool := isIn 0 0x28 o || isIn 0x00800000 0x00B00000 o

/-! ### Writing -/

/-- The next state of a command that a register write performs. -/
def State.run (s : State) : Res → State
  | .next t => t
  | _ => s

/-- The writable bits of a word replaced. -/
def State.putBits (s : State) (k mask v : Nat) : State :=
  s.setWord k (BitVec.ofNat 64 (Nat.lor (Nat.land (s.word k).toNat (2 ^ 64 - 1 - mask)) (Nat.land v mask)))

/-- A value stored within limits. -/
def clampTo (lo hi v : Nat) : Nat := min hi (max lo v)

/-- Bits cleared by writing 1 to them. -/
def State.w1c (s : State) (f : Field) (v : Nat) : State := s.setFld f (Nat.land (s.fld f) (2 ^ (f.hi + 1 - f.lo) - 1 - v % 2 ^ (f.hi + 1 - f.lo)))

/-- A write of a function's NEG_ block. A locked TDI fails on a change of it, which is the configuration of the function that the module
holds (Table 12.5; log 63). A 0 written to commit has no effect (R20). -/
def State.writeNeg (s : State) (fn o v : Nat) : State :=
  let done := s.fld (negCommitted fn) = 1
  let put (f : State → State) : State := if s.cfgLocked fn then (s.tdiFail (fn - 1) 1).settleAll else if done then s else f s
  if o = 0x00010008 then put fun s => s.putBits (fnKey fn o) 0x0FFFFF0F v
  else if o = 0x00010010 then (if bitOf v 0 then s.run (execNegCommit fn s) else s)
  else match idxAt o 0x00010040 8 4 with
    | some i => put fun s => s.putBits (fnKey fn o) ([2 ^ 62 - 1, 0x3F, 2 ^ 64 - 1, 0xFFFF].getD i 0) v
    | none => s

/-- A write of a staging word, ignored while the command's go reads 1 (R639). -/
def State.stage (s : State) (key : Nat) (go : Field) (v : Nat) : State :=
  if s.fld go = 1 then s else s.setWord key (BitVec.ofNat 64 v)

/-- A write of PRT_STAGE, PRT_CMD and PRT_DLOG. -/
def State.writePrt (s : State) (o v : Nat) : State :=
  if o < 0x00100080 then s.stage o (prtCmd 31 31) v
  else if o = 0x00100080 then
    let part := BitVec.ofNat 6 (bitsOf v 13 8)
    if !bitOf v 31 || s.fld (prtCmd 31 31) = 1 then s.prtFields (v % 8) part.toNat
    else match v % 8 with
      | 1 => s.run (execPrtCreate part s)
      | 2 => s.run (execPrtDestroy part s)
      | 3 => s.run (execPrtReset part s)
      | 4 => s.run (execPrtAssign part s)
      | 5 => s.run (execPrtUnassign part s)
      | 6 => s.run (execPrtGrow part s)
      | op => s.run (prtOp op part s (State.prtDone · 1))
  else
    let p := (o - 0x00101000) / 64
    if !isIn 0x00101000 0x00101C00 o then s
    else if o % 64 = 0 then (if s.fld (dlogEn p) = 0 then s.setWord o (BitVec.ofNat 64 v) else s)
    else if o % 64 = 8 then s.run (execDlogEnable p (BitVec.ofNat 64 v) s)
    else if o % 64 = 16 then s.run (execDlogHeadWrite p (BitVec.ofNat 32 v) s)
    else s

/-- A write of QUE_STAGE, QUE_CMD and QUE_EVLOG. -/
def State.writeQue (s : State) (fn o v : Nat) : State :=
  if o < 0x00200080 then s.stage (fnKey fn o) (queCmd fn 31 31) v
  else if o = 0x00200080 then
    let q := BitVec.ofNat 14 (bitsOf v 21 8)
    if !bitOf v 31 || s.fld (queCmd fn 31 31) = 1 then (s.setFld (queCmd fn 2 0) (v % 8)).setFld (queCmd fn 21 8) q.toNat
    else match v % 8 with
      | 1 => s.run (execQueCreate fn q s)
      | 2 => s.run (execQueStart fn q s)
      | 3 => s.run (execQueStop fn q s)
      | 4 => s.run (execQueDestroy fn q s)
      | op => (s.setFld (queCmd fn 21 8) q.toNat).cmdDone (queCmd fn) op 1
  else
    let p := (o - 0x00201000) / 32
    if !isIn 0x00201000 0x00201600 o then s
    else if o % 32 = 0 then s.run (execEvlogConfigWrite fn p .base (BitVec.ofNat 64 v) s)
    else if o % 32 = 8 then
      let s := s.run (execEvlogConfigWrite fn p .ctx (BitVec.ofNat 64 (v % 4096)) s)
      s.run (execEvlogConfigWrite fn p .log2 (BitVec.ofNat 64 (bitsOf v 20 16)) s)
    else if o % 32 = 16 then s.run (execEvlogHeadWrite fn p (BitVec.ofNat 32 v) s)
    else s

/-- A write of CTX_STAGE, CTX_CMD and CTX_INV. -/
def State.writeCtx (s : State) (fn o v : Nat) : State :=
  if o < 0x00202100 then s.stage (fnKey fn o) (ctxCmd fn 31 31) v
  else if o = 0x00202100 then
    let c := BitVec.ofNat 12 (bitsOf v 19 8)
    if !bitOf v 31 || s.fld (ctxCmd fn 31 31) = 1 then (s.setFld (ctxCmd fn 2 0) (v % 8)).setFld (ctxCmd fn 19 8) c.toNat
    else match v % 8 with
      | 1 => s.run (execCtxCreate fn (s.setFld (ctxCmd fn 19 8) c.toNat))
      | 2 => s.run (execCtxDestroy fn c s)
      | 3 => s.run (execCtxQuery fn c s)
      | 4 => s.run (execCtxKill fn c s)
      | op => (s.setFld (ctxCmd fn 19 8) c.toNat).cmdDone (ctxCmd fn) op 1
  else if o = 0x00202140 then s.setWord (invVa fn) (BitVec.ofNat 64 v)
  else if o = 0x00202148 then
    let s := s.w1c (inv1 fn 62 62) (bitsOf v 62 62)
    let c := BitVec.ofNat 12 (bitsOf v 43 32)
    if bitOf v 63 then s.run (execCtxInv fn (BitVec.ofNat 32 v) c s)
    else (s.setFld (inv1 fn 31 0) (v % 2 ^ 32)).setFld (inv1 fn 43 32) c.toNat
  else s

/-- A write of the HERB_ block. Ordinary frames that stand in ways which become reserve ways stay there, are no victims any more,
and take up those ways (log 79, DESIGN CHOICE). -/
def State.writeHerb (s : State) (fn o v : Nat) : State :=
  if o = 0x00300010 then (if s.herbPart.isSome then s else s.setFld herbWays (min 8 (v % 16)))
  else if o = 0x00300018 then (if s.herbPart.isSome then s else s.setFld herbStore (min 6 (v % 8)))
  else if o = 0x00300020 then
    let h := BitVec.ofNat 10 (bitsOf v 17 8)
    if !bitOf v 31 || s.fld (herbCmd fn 31 31) = 1 then s.herbFields fn (v % 8) h.toNat
    else match v % 8 with
      | 1 => s.run (execHerbRegister fn (s.setFld (herbCmd fn 17 8) h.toNat))
      | 2 => s.run (execHerbUnregister fn h s)
      | 3 => s.run (execHerbPin fn h s)
      | 4 => s.run (execHerbUnpin fn h s)
      | 5 => s.run (execHerbPrefetch fn h s)
      | op => s.run (herbOp op fn h.toNat s fun s => (s, some 1))
  else if isIn herbStage (herbStage + 64) o then s.stage (fnKey fn o) (herbCmd fn 31 31) v
  else s

/-- A write of the TIER_ block. -/
def State.writeTier (s : State) (o v : Nat) : State :=
  let f (hi lo : Nat) : Field := fieldAt o hi lo
  if o = 0x00400000 then
    (((s.setFld tierEn (v % 2)).setFld (f 7 4) (min 10 (bitsOf v 7 4))).setFld (f 11 8) (min 10 (bitsOf v 11 8))).setFld
      tierFreeze (max 1 (bitsOf v 19 12))
  else if o = 0x00400008 then s.putBits o (2 ^ 48 - 1) v
  else if o = 0x00400020 then s.stage o tierGo v
  else if o = 0x00400028 then (if bitOf v 31 then s.tierCmd (v % 8) else s.setFld tierOp (v % 8))
  else if o = 0x00400030 then
    ((s.setFld (f 7 0) (max 1 (v % 256))).setFld (f 15 8) (max 1 (bitsOf v 15 8))).setFld (f 16 16) (bitsOf v 16 16)
  else match idxAt o 0x00400100 8 48 with
    | some p => s.setFld (quotaOf p) (v % 2 ^ 24)
    | none => s

/-- A write of the UC_ block; the case-tag tables are staged (R395). -/
def State.writeUc (s : State) (o v : Nat) : State :=
  if o = 0x00500010 then s.putBits o (2 ^ 48 - 1) v
  else if o = 0x00500100 then
    let s := s.w1c (rotReg 1 1) (bitsOf v 1 1)
    if bitOf v 0 then s.run (execHashRotRequest s) else s
  else if o = 0x00500200 then s.putBits o 0x10FFF v
  else if o = 0x00500300 then (s.setFld ⟨o, 5, 0⟩ (clampTo 10 50 (v % 64))).w1c cohFired (bitsOf v 31 16)
  else if o = 0x00500500 then
    let s := s.w1c ucApplyDone (bitsOf v 1 1)
    if bitOf v 0 then s.run (execUcRegApply s) else s
  else if o = 0x00500508 then (s.setFld (fieldAt o 0 0) (v % 2)).setFld (fieldAt o 6 4) (max 1 (bitsOf v 6 4))
  else match idxAt o 0x00500400 16 16 with
    | some c => s.putBits o (if c = 15 then 0x0FFF3FFFFF00 else 0x0FFF3FFFFFFF) v
    | none => match idxAt o 0x00500600 8 8 with
      | some _ => s.putBits o 0xF v
      | none => match idxAt o 0x00500800 8 256 with
        | some i => s.putBits o (if i % 2 = 0 then 2 ^ 41 - 1 else 2 ^ 36 - 1) v
        | none => s

/-- A write of FAB_TMO as stored. -/
def State.writeTmo (s : State) (v : Nat) : State :=
  (((s.setFld (fabTmo 11 0) (max 10 (v % 4096))).setFld (fabTmo 23 12) (max 10 (bitsOf v 23 12))).setFld (fabTmo 39 24)
    (max 1 (bitsOf v 39 24))).setFld (fabTmo 47 40) (max 1 (bitsOf v 47 40))

/-- A write of FAB_PORT_CTL. -/
def State.writePort (s : State) (p v : Nat) : State :=
  let was := s.fld (portCtl p 0 0)
  let s := ((s.setFld (portCtl p 0 0) (v % 2)).setFld (portCtl p 2 2) (bitsOf v 2 2)).setFld (portCtl p 11 8) (max 1 (bitsOf v 11 8))
  let s := if bitOf v 1 then s.run (execPortRetrain p s) else s
  if was = 1 && v % 2 = 0 then (if s.portState p = 0 then s else s.portDark p) else s.portTrain p

/-- A write of a cohort block's register. CFG and RPL are written only while the epoch is 0. -/
def State.writeCoh (s : State) (p r v : Nat) : State :=
  if r = 0 then s.run (execEpochWrite p (BitVec.ofNat 32 v) s)
  else if r = 8 then (if bitOf v 0 then s.run (execCohFenceSet p s) else s)
  else if r = 0x18 then s.w1c (cohStat p 1 1) (bitsOf v 1 1)
  else if s.epochOf p != 0 then s
  else if r = 0x10 then s.putBits (cohCfg p 0 0).key 0x1FF0FFF01FF v
  else if r = 0x20 then s.setFld (cohRpl p) (v % 2 ^ 32)
  else s

/-- A write of the FAB_ block. Clearing FAB_ELS.svc before the source is removed changes that bit alone: the lasers stay off (DESIGN
CHOICE, log 29). -/
def State.writeFab (s : State) (o v : Nat) : State :=
  if o = 0x00600000 then s.run (execFabIdSet (BitVec.ofNat 32 v) s)
  else if o = 0x00600010 then s.writeTmo v
  else match idxAt o 0x00600100 8 4 with
    | some i => if bitOf v 2 then s.run (execElsSvc i s) else s.setFld (elsReg i 2 2) 0
    | none => match idxAt o 0x00601000 64 32 with
      | some p => s.writePort p v
      | none =>
        if isIn 0x00602000 0x00602C00 o then s.writeCoh ((o - 0x00602000) / 64) (o % 64) v
        else if isIn 0x00610000 0x00630000 o then (s.setFld (fabRt ((o - 0x00610000) / 8)) (v % 2 ^ 32)).repost
        else if isIn 0x00640000 0x00658000 o then
          (if s.epochOf ((o - 0x00640000) / 2048) = 0 then s.setFld (fieldAt o 31 0) (v % 2 ^ 32) else s)
        else if isIn 0x00680000 0x00686000 o then
          (if s.epochOf ((o - 0x00680000) / 512) = 0 then s.setFld (fieldAt o 31 0) (Nat.land v 0x3FFF3FFF) else s)
        else s

/-- A write of the PWR_ block. -/
def State.writePwr (s : State) (o v : Nat) : State :=
  if o = 0x00800000 then s.writeCap v
  else if o = 0x00800008 then (s.setFld (pwrCtl 7 0) (max 1 (v % 256))).setFld (pwrCtl 23 16) (clampTo 85 104 (bitsOf v 23 16))
  else if o = 0x00800018 then s.w1c ⟨o, 5, 0⟩ (v % 64)
  else match idxAt o 0x00800100 8 12 with
    | some f => s.run (execTclkSet f (BitVec.ofNat 64 v) s)
    | none => s

/-- A field that its first write sets and locks (R22). -/
def State.lockWrite (s : State) (k : Nat) (f : State → State) : State :=
  if s.locks.contains k then s else { f s with locks := k :: s.locks }

/-- A write of the TC_ block. -/
def State.writeTc (s : State) (o v : Nat) : State :=
  if o = 0x00900008 then (s.lockWrite o fun s => s.setFld tcNoPlain (v % 2)).setFld tcSvnCommit (bitsOf v 1 1)
  else if o = 0x00900100 then
    let c : MbCmd := { force := bitOf v 3, type := BitVec.ofNat 2 (bitsOf v 5 4), slot := BitVec.ofNat 7 (bitsOf v 14 8) }
    if !bitOf v 31 || s.fld (mbCmd 31 31) = 1 then s.putBits (mbCmd 0 0).key 0x7F3F v
    else match v % 8 with
      | 1 => s.run (execMbGenerate c s)
      | 2 => s.run (execMbSetPlain c s)
      | 3 => s.run (execMbErase c s)
      | 4 => s.run (execMbQuery c s)
      | op => s.run (mbOp op c s fun s => (s, 0x0B))
  else match idxAt o 0x00900040 8 6 with
    | some _ => s.lockWrite o fun s => s.setWord o (BitVec.ofNat 64 v)
    | none => if isIn 0x00900140 0x00900180 o then s.stage o (mbCmd 31 31) v else s

/-- A write of the RAS_ block. -/
def State.writeRas (s : State) (o v : Nat) : State :=
  if o = 0x00A00008 then s.putBits o 0xFFFF07FF v
  else if o = 0x00A00020 then
    ((s.setFld ⟨o, 7, 0⟩ (max 1 (v % 256))).setFld ⟨o, 15, 8⟩ (max 1 (bitsOf v 15 8))).setFld ⟨o, 16, 16⟩ (bitsOf v 16 16)
  else if o = 0x00A00100 then
    (if bitOf v 63 then s.bistOp (v % 8) (bitsOf v 16 8) (BitVec.ofNat 16 (bitsOf v 47 32))
    else s.putBits o 0xFFFF0001FF07 v)
  else if o = 0x00A00200 then
    let t := BitVec.ofNat 11 v
    if !bitOf v 31 then s.putBits o 0x307FF v
    else match bitsOf v 17 16 with
      | 1 => s.run (execSpareQuarantine t s)
      | 2 => s.run (execSpareCancel t s)
      | op => s.spareOp op t.toNat (State.spareEnd · 1)
  else s

/-- A write of an MSI-X table entry's word (R646). -/
def State.writeMsix (s : State) (fn o v : Nat) : State :=
  let n := (o - 0x00E00000) / 16
  let k := fnKey fn o
  if !isIn 0x00E00000 0x00E08000 o then s
  else match o % 16 with
    | 0 => s.setFld ⟨k, 31, 0⟩ (v / 4 * 4)
    | 4 => s.setFld ⟨k - 4, 63, 32⟩ v
    | 8 => s.setFld ⟨k, 31, 0⟩ v
    | _ => if v % 2 = 1 then s.setFld (msixMask fn n) 1 else s.run (execMsixUnmask fn n s)

/-- A write to the register at an offset of the physical function's layout, by a function. -/
def State.writeReg (s : State) (fn o v : Nat) : State :=
  if isIn 0x00010000 0x00010060 o then s.writeNeg fn o v
  else if isIn 0x00200000 0x00202000 o then s.writeQue fn o v
  else if isIn 0x00202000 0x00203000 o then s.writeCtx fn o v
  else if isIn 0x00300000 0x00400000 o then (if fn != 0 && o < 0x00300020 then s else s.writeHerb fn o v)
  else if isIn 0x00E00000 0x00F00000 o then s.writeMsix fn o v
  else if fn != 0 then s
  else if isIn 0x00100000 0x00200000 o then s.writePrt o v
  else if isIn 0x00400000 0x00500000 o then s.writeTier o v
  else if isIn 0x00500000 0x00600000 o then s.writeUc o v
  else if isIn 0x00600000 0x00700000 o then s.writeFab o v
  else if isIn 0x00800000 0x00900000 o then s.writePwr o v
  else if isIn 0x00900000 0x00A00000 o then s.writeTc o v
  else if isIn 0x00A00000 0x00B00000 o then s.writeRas o v
  else if o = 0x00C00000 then s.setFld telEpochUs (clampTo 100 1000000 (v % 2 ^ 20))
  else s

/-- An access of 32 or 64 bits, naturally aligned (R637). -/
def sized (o bytes : Nat) : Bool := (bytes == 4 || bytes == 8) && o % bytes == 0

/-- A write in BAR0 at an offset of the physical function's layout: a 64-bit one to two registers of 32 bits acts as two, a 32-bit
one to a register of 64 bits is rejected (R637). -/
def State.writeBar0 (s : State) (fn o bytes v : Nat) : State :=
  if bytes = 8 then
    (if is64 o then s.writeReg fn o v else (s.writeReg fn o (v % 2 ^ 32)).writeReg fn (o + 4) (v / 2 ^ 32 % 2 ^ 32))
  else if is64 (o / 8 * 8) then s.rejectInput
  else s.writeReg fn o (v % 2 ^ 32)

/-- A write in a doorbell page (Table 10.8, R465). -/
def State.writeBar2 (s : State) (fn o bytes v : Nat) : State :=
  let page := o / 4096
  let r := o % 4096
  if r = 0 then s.run (execSqTail fn page (BitVec.ofNat 32 v) s)
  else if r = 8 then s.run (execCqHead fn page (BitVec.ofNat 32 v) s)
  else if r = 0x20 then
    (if bytes = 4 then s.rejectInput
    else if bitOf v 32 then s.run (execAbortAll fn page s) else s.run (execAbort fn page (BitVec.ofNat 32 v) s))
  else if (r = 0x24 || r = 0x28 || r = 0x2C) && bytes = 4 then s.rejectInput
  else s

/-- The size of a function's BAR0 and BAR2 (Table 15.1). -/
def barSize (fn : Nat) (bar : Nat) : Nat := if fn = 0 then 2 ^ 26 else if bar = 0 then 2 ^ 16 else 2 ^ 20

/-- REGISTER_WRITE. -/
def execRegisterWrite (fn : Nat) (bar : BitVec 3) (offset bytes : Nat) (value : W64) (s : State) : Res :=
  unit (fnOk fn && (bar == 0 || bar == 2) && decide (offset < barSize fn bar.toNat)) (
    if !s.answers || s.vfs < fn then s
    else if !sized offset bytes || !s.vfLive fn then s.rejectInput
    else if bar = 2 then (if s.ready then s.writeBar2 fn offset bytes value.toNat else s)
    else match (if fn = 0 then some offset else vfOffset (fn - 1) offset) with
      | none => s
      | some o => if s.ready || (fn == 0 && alwaysBlock o) then s.writeBar0 fn o bytes value.toNat else s)

/-! ### BAR4 (R642, R576, R344) -/

/-- The device byte of a BAR4 offset; none outside memory. -/
def State.bar4Byte (s : State) (fn o : Nat) : Option Nat :=
  if fn = 0 then (if o < s.usable * 65536 then some o else none) else grantByte (s.part (fn - 1)).grant o

/-- The places of an access that lies wholly inside memory; it can cross from one extent into the next. -/
def State.bar4Places (s : State) (fn o n : Nat) : Option (List (Loc × Nat)) :=
  (List.range ((o + n - 1) / 65536 - o / 65536 + 1)).mapM fun i =>
    let a := max o ((o / 65536 + i) * 65536)
    let b := min (o + n) ((o / 65536 + i + 1) * 65536)
    (s.bar4Byte fn a).map fun d => (⟨false, d⟩, b - a)

/-- A TDI's pages are reached only through its function's BAR4, in its stream, with the T bit (R576). -/
def State.tdiAllows (s : State) (fn : Nat) (a : Bar4) (page : Nat) : Bool := match s.lockedPage page with
  | some p => fn == p + 1 && a.stream == some (s.tdi p).stream && a.tBit
  | none => true

def State.refuseBar4 (s : State) (fn : Nat) (a : Bar4) : State := { s with sent := .unsupported fn a.offset :: s.sent }

/-- An access inside memory, by privileged master 0. -/
def State.doBar4 (s : State) (fn : Nat) (a : Bar4) (ps : List (Loc × Nat)) : State :=
  let page := ((ps.head?.map (·.1.addr)).getD 0) / 65536
  let part := (s.ownerOf page).getD 255
  let w : Who := { part := part, tag := s.privTag 0 page }
  match a.write with
  | some bs =>
    (match s.gateAll w [] ps with
    | (s, false) => s
    | (s, true) => (s.charge w (40 * bs.length)).storeAll w ps bs false)
  | none =>
    -- while the host agent is silent, host reads are refused with a poisoned completion (R316)
    if s.silent then { s with sent := .bar4Data fn a.offset (List.replicate a.size 0) true :: s.sent }
    else match s.gateAll w ps [] with
    | (s, false) => s
    | (s, true) =>
      let s := s.charge w (40 * a.size)
      let (bs, bad) := s.fetchAll ps
      { s with sent := .bar4Data fn a.offset bs bad :: s.sent }

/-- BAR4_ACCESS. -/
def execBar4Access (fn : Nat) (a : Bar4) (s : State) : Res :=
  let n := (a.write.map (·.length)).getD a.size
  unit (fnOk fn && n != 0) (
    if !s.answers || s.vfs < fn || s.rotating then s
    else if s.fld bootStage = 8 then
      (if a.write.isSome then s else { s with sent := .bar4Data fn a.offset (List.replicate n 0) true :: s.sent })
    else if !s.ready || a.atomic then s.refuseBar4 fn a
    else if !s.vfLive fn then (if a.write.isSome then s.rejectInput else s.refuseBar4 fn a)
    else if s.bar4Of fn < a.offset + n then
      (if a.write.isSome then s.rejectInput
      else { s.rejectInput with sent := .bar4Data fn a.offset (List.replicate n 0) false :: s.rejectInput.sent })
    else match s.bar4Places fn a.offset n with
      | none => if a.write.isSome then s.rejectInput else s.refuseBar4 fn a
      | some ps =>
        if ps.all fun l => s.tdiAllows fn a (l.1.addr / 65536) then s.doBar4 fn a ps else s.refuseBar4 fn a)

end Sys2Proof.Machine
end

