-- ==== Sys2Proof/Machine/Dispatch.lean ====
section
/-! DEFINITION. The effect of each command: one arm per constructor of Instr. -/

namespace Sys2Proof.Machine

def exec (i : Instr) (s : State) : Host.Outcome State Fault Refusal :=
  match i with
  | .iadd a e => Sys2Proof.Machine.execIadd a e s
  | .isub a e => Sys2Proof.Machine.execIsub a e s
  | .ineg a e => Sys2Proof.Machine.execIneg a e s
  | .iabs a e => Sys2Proof.Machine.execIabs a e s
  | .imin a e => Sys2Proof.Machine.execImin a e s
  | .imax a e => Sys2Proof.Machine.execImax a e s
  | .iaddc a e => Sys2Proof.Machine.execIaddc a e s
  | .isubb a e => Sys2Proof.Machine.execIsubb a e s
  | .imul a e => Sys2Proof.Machine.execImul a e s
  | .imulh a e => Sys2Proof.Machine.execImulh a e s
  | .imad a e => Sys2Proof.Machine.execImad a e s
  | .idiv a e => Sys2Proof.Machine.execIdiv a e s
  | .irem a e => Sys2Proof.Machine.execIrem a e s
  | .imulw a e => Sys2Proof.Machine.execImulw a e s
  | .and a e => Sys2Proof.Machine.execAnd a e s
  | .or a e => Sys2Proof.Machine.execOr a e s
  | .xor a e => Sys2Proof.Machine.execXor a e s
  | .andn a e => Sys2Proof.Machine.execAndn a e s
  | .not a e => Sys2Proof.Machine.execNot a e s
  | .popc a e => Sys2Proof.Machine.execPopc a e s
  | .clz a e => Sys2Proof.Machine.execClz a e s
  | .ctz a e => Sys2Proof.Machine.execCtz a e s
  | .brev a e => Sys2Proof.Machine.execBrev a e s
  | .bfe a e => Sys2Proof.Machine.execBfe a e s
  | .bfi a e => Sys2Proof.Machine.execBfi a e s
  | .prmt a e => Sys2Proof.Machine.execPrmt a e s
  | .shl a e => Sys2Proof.Machine.execShl a e s
  | .shr a e => Sys2Proof.Machine.execShr a e s
  | .sar a e => Sys2Proof.Machine.execSar a e s
  | .setp a e => Sys2Proof.Machine.execSetp a e s
  | .sel a e => Sys2Proof.Machine.execSel a e s
  | .pand a e => Sys2Proof.Machine.execPand a e s
  | .por a e => Sys2Proof.Machine.execPor a e s
  | .pxor a e => Sys2Proof.Machine.execPxor a e s
  | .pnot a e => Sys2Proof.Machine.execPnot a e s
  | .p2u a e => Sys2Proof.Machine.execP2u a e s
  | .u2p a e => Sys2Proof.Machine.execU2p a e s
  | .mov a e => Sys2Proof.Machine.execMov a e s
  | .movi a e => Sys2Proof.Machine.execMovi a e s
  | .movih a e => Sys2Proof.Machine.execMovih a e s
  | .cvt a e => Sys2Proof.Machine.execCvt a e s
  | .srd a e => Sys2Proof.Machine.execSrd a e s
  | .swr a e => Sys2Proof.Machine.execSwr a e s
  | .v2u a e => Sys2Proof.Machine.execV2u a e s
  | .fadd a e => Sys2Proof.Machine.execFadd a e s
  | .fsub a e => Sys2Proof.Machine.execFsub a e s
  | .fmul a e => Sys2Proof.Machine.execFmul a e s
  | .ffma a e => Sys2Proof.Machine.execFfma a e s
  | .fmin a e => Sys2Proof.Machine.execFmin a e s
  | .fmax a e => Sys2Proof.Machine.execFmax a e s
  | .fabs a e => Sys2Proof.Machine.execFabs a e s
  | .fneg a e => Sys2Proof.Machine.execFneg a e s
  | .fdiv a e => Sys2Proof.Machine.execFdiv a e s
  | .fsqrt a e => Sys2Proof.Machine.execFsqrt a e s
  | .fclass a e => Sys2Proof.Machine.execFclass a e s
  | .exp2 a e => Sys2Proof.Machine.execExp2 a e s
  | .log2 a e => Sys2Proof.Machine.execLog2 a e s
  | .rcp a e => Sys2Proof.Machine.execRcp a e s
  | .rsq a e => Sys2Proof.Machine.execRsq a e s
  | .tanh a e => Sys2Proof.Machine.execTanh a e s
  | .smxstep a e => Sys2Proof.Machine.execSmxstep a e s
  | .maskgen a e => Sys2Proof.Machine.execMaskgen a e s
  | .shfl a e => Sys2Proof.Machine.execShfl a e s
  | .vote a e => Sys2Proof.Machine.execVote a e s
  | .ld a e => Sys2Proof.Machine.execLd a e s
  | .lds a e => Sys2Proof.Machine.execLds a e s
  | .st a e => Sys2Proof.Machine.execSt a e s
  | .ldu a e => Sys2Proof.Machine.execLdu a e s
  | .stu a e => Sys2Proof.Machine.execStu a e s
  | .pref a e => Sys2Proof.Machine.execPref a e s
  | .atomAdd a e => Sys2Proof.Machine.execAtomAdd a e s
  | .atomMinu a e => Sys2Proof.Machine.execAtomMinu a e s
  | .atomMins a e => Sys2Proof.Machine.execAtomMins a e s
  | .atomMaxu a e => Sys2Proof.Machine.execAtomMaxu a e s
  | .atomMaxs a e => Sys2Proof.Machine.execAtomMaxs a e s
  | .atomAnd a e => Sys2Proof.Machine.execAtomAnd a e s
  | .atomOr a e => Sys2Proof.Machine.execAtomOr a e s
  | .atomXor a e => Sys2Proof.Machine.execAtomXor a e s
  | .atomExch a e => Sys2Proof.Machine.execAtomExch a e s
  | .atomCas a e => Sys2Proof.Machine.execAtomCas a e s
  | .atomFadd a e => Sys2Proof.Machine.execAtomFadd a e s
  | .br a e => Sys2Proof.Machine.execBr a e s
  | .brx a e => Sys2Proof.Machine.execBrx a e s
  | .call a e => Sys2Proof.Machine.execCall a e s
  | .split a e => Sys2Proof.Machine.execSplit a e s
  | .join a e => Sys2Proof.Machine.execJoin a e s
  | .nop a e => Sys2Proof.Machine.execNop a e s
  | .bar a e => Sys2Proof.Machine.execBar a e s
  | .wait a e => Sys2Proof.Machine.execWait a e s
  | .fence a e => Sys2Proof.Machine.execFence a e s
  | .exit a e => Sys2Proof.Machine.execExit a e s
  | .mma a e => Sys2Proof.Machine.execMma a e s
  | .mmas a e => Sys2Proof.Machine.execMmas a e s
  | .accld a e => Sys2Proof.Machine.execAccld a e s
  | .accst a e => Sys2Proof.Machine.execAccst a e s
  | .accz a e => Sys2Proof.Machine.execAccz a e s
  | .matrixFinish tile => Sys2Proof.Machine.execMatrixFinish tile s
  | .blockPlace kernel => Sys2Proof.Machine.execBlockPlace kernel s
  | .argumentReadReturn a => Sys2Proof.Machine.execArgumentReadReturn a s
  | .promote tile slot => Sys2Proof.Machine.execPromote tile slot s
  | .loaddepDemote a load => Sys2Proof.Machine.execLoaddepDemote a load s
  | .waitLimitExpire a => Sys2Proof.Machine.execWaitLimitExpire a s
  | .sleepEnd a => Sys2Proof.Machine.execSleepEnd a s
  | .watchRereadReturn a => Sys2Proof.Machine.execWatchRereadReturn a s
  | .hostWatchPoll a => Sys2Proof.Machine.execHostWatchPoll a s
  | .qsc tile => Sys2Proof.Machine.execQsc tile s
  | .deadlockDeclare kernel => Sys2Proof.Machine.execDeadlockDeclare kernel s
  | .stop kernel => Sys2Proof.Machine.execStop kernel s
  | .switchOutRequest tile => Sys2Proof.Machine.execSwitchOutRequest tile s
  | .switchOutDrainEnd tile => Sys2Proof.Machine.execSwitchOutDrainEnd tile s
  | .tileSaved tile => Sys2Proof.Machine.execTileSaved tile s
  | .kernelSwitchedOut kernel => Sys2Proof.Machine.execKernelSwitchedOut kernel s
  | .kernelResume kernel => Sys2Proof.Machine.execKernelResume kernel s
  | .tileAssign tile => Sys2Proof.Machine.execTileAssign tile s
  | .preemptQuantumExpire part => Sys2Proof.Machine.execPreemptQuantumExpire part s
  | .rd req errs => Sys2Proof.Machine.execRd req errs s
  | .rdRo req errs => Sys2Proof.Machine.execRdRo req errs s
  | .wr req => Sys2Proof.Machine.execWr req s
  | .atom req errs => Sys2Proof.Machine.execAtom req errs s
  | .red req errs => Sys2Proof.Machine.execRed req errs s
  | .watch req => Sys2Proof.Machine.execWatch req s
  | .unwatch req => Sys2Proof.Machine.execUnwatch req s
  | .watchNotify msg => Sys2Proof.Machine.execWatchNotify msg s
  | .hostReadShared line => Sys2Proof.Machine.execHostReadShared line s
  | .hostReadExclusive line => Sys2Proof.Machine.execHostReadExclusive line s
  | .hostWriteBack line keepS data => Sys2Proof.Machine.execHostWriteBack line keepS data s
  | .fwd msg => Sys2Proof.Machine.execFwd msg s
  | .fwdAck msg => Sys2Proof.Machine.execFwdAck msg s
  | .fwdMiss msg => Sys2Proof.Machine.execFwdMiss msg s
  | .birsps line data => Sys2Proof.Machine.execBirsps line data s
  | .birspi line data => Sys2Proof.Machine.execBirspi line data s
  | .dataRsp msg => Sys2Proof.Machine.execDataRsp msg s
  | .dataF msg => Sys2Proof.Machine.execDataF msg s
  | .ack msg => Sys2Proof.Machine.execAck msg s
  | .atomRsp msg => Sys2Proof.Machine.execAtomRsp msg s
  | .retry msg => Sys2Proof.Machine.execRetry msg s
  | .grant slice => Sys2Proof.Machine.execGrant slice s
  | .grantHoldExpire req => Sys2Proof.Machine.execGrantHoldExpire req s
  | .nack msg => Sys2Proof.Machine.execNack msg s
  | .nackBackoffExpire req => Sys2Proof.Machine.execNackBackoffExpire req s
  | .fwdTimeout req => Sys2Proof.Machine.execFwdTimeout req s
  | .bisnpTimeout line => Sys2Proof.Machine.execBisnpTimeout line s
  | .fillReturn line errs array => Sys2Proof.Machine.execFillReturn line errs array s
  | .hotWindowEnd slice w => Sys2Proof.Machine.execHotWindowEnd slice w s
  | .hashRotRequest => Sys2Proof.Machine.execHashRotRequest s
  | .hashRotDrained => Sys2Proof.Machine.execHashRotDrained s
  | .hashRotDone us => Sys2Proof.Machine.execHashRotDone us s
  | .ucRegApply => Sys2Proof.Machine.execUcRegApply s
  | .telemetryEpoch => Sys2Proof.Machine.execTelemetryEpoch s
  | .telemetryLatchEnd => Sys2Proof.Machine.execTelemetryLatchEnd s
  | .pageMoveStart page => Sys2Proof.Machine.execPageMoveStart page s
  | .pageMoveDone page badSectors => Sys2Proof.Machine.execPageMoveDone page badSectors s
  | .mapRebuildDone channel => Sys2Proof.Machine.execMapRebuildDone channel s
  | .tierManage => Sys2Proof.Machine.execTierManage s
  | .tierPinFast => Sys2Proof.Machine.execTierPinFast s
  | .tierPinCap => Sys2Proof.Machine.execTierPinCap s
  | .tierRelease => Sys2Proof.Machine.execTierRelease s
  | .tierMapoutFast => Sys2Proof.Machine.execTierMapoutFast s
  | .tierMapoutCap => Sys2Proof.Machine.execTierMapoutCap s
  | .stackTempSample stack temp => Sys2Proof.Machine.execStackTempSample stack temp s
  | .tempReadingTimeout fast unit => Sys2Proof.Machine.execTempReadingTimeout fast unit s
  | .capTempReport device refr temp => Sys2Proof.Machine.execCapTempReport device refr temp s
  | .scrubRead fast frame errs => Sys2Proof.Machine.execScrubRead fast frame errs s
  | .scrubPassEnd fast => Sys2Proof.Machine.execScrubPassEnd fast s
  | .columnRepairDone channel => Sys2Proof.Machine.execColumnRepairDone channel s
  | .channelNoAnswer fast channel => Sys2Proof.Machine.execChannelNoAnswer fast channel s
  | .channelMappedOut fast channel => Sys2Proof.Machine.execChannelMappedOut fast channel s
  | .stipeFlitReplay link ok => Sys2Proof.Machine.execStipeFlitReplay link ok s
  | .msixSend fn vector => Sys2Proof.Machine.execMsixSend fn vector s
  | .portLightOn port => Sys2Proof.Machine.execPortLightOn port s
  | .portTrainStepDone port info => Sys2Proof.Machine.execPortTrainStepDone port info s
  | .portTrainTimeout port => Sys2Proof.Machine.execPortTrainTimeout port s
  | .portRetryWaitEnd port => Sys2Proof.Machine.execPortRetryWaitEnd port s
  | .portDown port => Sys2Proof.Machine.execPortDown port s
  | .wavelengthSerCheck port read => Sys2Proof.Machine.execWavelengthSerCheck port read s
  | .wavelengthSwap port => Sys2Proof.Machine.execWavelengthSwap port s
  | .wavelengthRetest port pass => Sys2Proof.Machine.execWavelengthRetest port pass s
  | .portRetrain port => Sys2Proof.Machine.execPortRetrain port s
  | .fabIdSet value => Sys2Proof.Machine.execFabIdSet value s
  | .elsSvc els => Sys2Proof.Machine.execElsSvc els s
  | .elsRemoved els => Sys2Proof.Machine.execElsRemoved els s
  | .elsInserted els => Sys2Proof.Machine.execElsInserted els s
  | .elsCombLock els => Sys2Proof.Machine.execElsCombLock els s
  | .elsLockTimeout els => Sys2Proof.Machine.execElsLockTimeout els s
  | .flitReceive port flit => Sys2Proof.Machine.execFlitReceive port flit s
  | .replayRequest port seq => Sys2Proof.Machine.execReplayRequest port seq s
  | .putData inbox => Sys2Proof.Machine.execPutData inbox s
  | .putFlag inbox => Sys2Proof.Machine.execPutFlag inbox s
  | .getReq inbox => Sys2Proof.Machine.execGetReq inbox s
  | .getData inbox => Sys2Proof.Machine.execGetData inbox s
  | .fabricAck inbox => Sys2Proof.Machine.execFabricAck inbox s
  | .routeLostNak inbox => Sys2Proof.Machine.execRouteLostNak inbox s
  | .collData inbox => Sys2Proof.Machine.execCollData inbox s
  | .kvData inbox => Sys2Proof.Machine.execKvData inbox s
  | .kvCredit inbox => Sys2Proof.Machine.execKvCredit inbox s
  | .kvConsumedRise ring => Sys2Proof.Machine.execKvConsumedRise ring s
  | .hb inbox => Sys2Proof.Machine.execHb inbox s
  | .hbSend part => Sys2Proof.Machine.execHbSend part s
  | .pace inbox => Sys2Proof.Machine.execPace inbox s
  | .paceSend => Sys2Proof.Machine.execPaceSend s
  | .paceHoldExpire source => Sys2Proof.Machine.execPaceHoldExpire source s
  | .cohortFenceMsg inbox => Sys2Proof.Machine.execCohortFenceMsg inbox s
  | .probe inbox => Sys2Proof.Machine.execProbe inbox s
  | .probeRsp inbox => Sys2Proof.Machine.execProbeRsp inbox s
  | .routeWaitTimeout msg => Sys2Proof.Machine.execRouteWaitTimeout msg s
  | .peerTimeout part member why => Sys2Proof.Machine.execPeerTimeout part member why s
  | .collStepTimeout xfer => Sys2Proof.Machine.execCollStepTimeout xfer s
  | .sweepEnd part => Sys2Proof.Machine.execSweepEnd part s
  | .cohFenceSet part => Sys2Proof.Machine.execCohFenceSet part s
  | .epochWrite part epoch => Sys2Proof.Machine.execEpochWrite part epoch s
  | .negCommit fn => Sys2Proof.Machine.execNegCommit fn s
  | .queCreate fn queue => Sys2Proof.Machine.execQueCreate fn queue s
  | .queStart fn queue => Sys2Proof.Machine.execQueStart fn queue s
  | .queStop fn queue => Sys2Proof.Machine.execQueStop fn queue s
  | .queDestroy fn queue => Sys2Proof.Machine.execQueDestroy fn queue s
  | .sqTail fn page value => Sys2Proof.Machine.execSqTail fn page value s
  | .cqHead fn page value => Sys2Proof.Machine.execCqHead fn page value s
  | .abort fn page seq => Sys2Proof.Machine.execAbort fn page seq s
  | .abortAll fn page => Sys2Proof.Machine.execAbortAll fn page s
  | .descriptorFetch queue => Sys2Proof.Machine.execDescriptorFetch queue s
  | .launch queue => Sys2Proof.Machine.execLaunch queue s
  | .moveCopy queue => Sys2Proof.Machine.execMoveCopy queue s
  | .moveFill queue => Sys2Proof.Machine.execMoveFill queue s
  | .moveGather queue => Sys2Proof.Machine.execMoveGather queue s
  | .moveReduce queue => Sys2Proof.Machine.execMoveReduce queue s
  | .moveTier queue => Sys2Proof.Machine.execMoveTier queue s
  | .signalOp queue => Sys2Proof.Machine.execSignalOp queue s
  | .cmdWait queue => Sys2Proof.Machine.execCmdWait queue s
  | .parserHostPoll queue => Sys2Proof.Machine.execParserHostPoll queue s
  | .eventOp queue => Sys2Proof.Machine.execEventOp queue s
  | .cond queue => Sys2Proof.Machine.execCond queue s
  | .loopOp queue => Sys2Proof.Machine.execLoopOp queue s
  | .endloop queue => Sys2Proof.Machine.execEndloop queue s
  | .cmdCall queue => Sys2Proof.Machine.execCmdCall queue s
  | .returnOp queue => Sys2Proof.Machine.execReturnOp queue s
  | .cmdFence queue => Sys2Proof.Machine.execCmdFence queue s
  | .putOp queue => Sys2Proof.Machine.execPutOp queue s
  | .putKindFlag queue => Sys2Proof.Machine.execPutKindFlag queue s
  | .getOp queue => Sys2Proof.Machine.execGetOp queue s
  | .allReduce queue => Sys2Proof.Machine.execAllReduce queue s
  | .reduceScatter queue => Sys2Proof.Machine.execReduceScatter queue s
  | .allGather queue => Sys2Proof.Machine.execAllGather queue s
  | .broadcastOp queue => Sys2Proof.Machine.execBroadcastOp queue s
  | .reduceOp queue => Sys2Proof.Machine.execReduceOp queue s
  | .kvRing queue => Sys2Proof.Machine.execKvRing queue s
  | .invoke queue => Sys2Proof.Machine.execInvoke queue s
  | .timestampOp queue => Sys2Proof.Machine.execTimestampOp queue s
  | .preemptPoint queue => Sys2Proof.Machine.execPreemptPoint queue s
  | .cmdNop queue => Sys2Proof.Machine.execCmdNop queue s
  | .commandComplete queue cmd => Sys2Proof.Machine.execCommandComplete queue cmd s
  | .commandTimeout queue cmd => Sys2Proof.Machine.execCommandTimeout queue cmd s
  | .evlogConfigWrite fn part field value => Sys2Proof.Machine.execEvlogConfigWrite fn part field value s
  | .evlogHeadWrite fn part value => Sys2Proof.Machine.execEvlogHeadWrite fn part value s
  | .ctxCreate fn => Sys2Proof.Machine.execCtxCreate fn s
  | .ctxDestroy fn ctx => Sys2Proof.Machine.execCtxDestroy fn ctx s
  | .ctxQuery fn ctx => Sys2Proof.Machine.execCtxQuery fn ctx s
  | .ctxKill fn ctx => Sys2Proof.Machine.execCtxKill fn ctx s
  | .ctxInv fn pages ctx => Sys2Proof.Machine.execCtxInv fn pages ctx s
  | .ctxInvDone fn => Sys2Proof.Machine.execCtxInvDone fn s
  | .atsInvalidate fn addr pages => Sys2Proof.Machine.execAtsInvalidate fn addr pages s
  | .pageResponse ctx page write code => Sys2Proof.Machine.execPageResponse ctx page write code s
  | .prtCreate part => Sys2Proof.Machine.execPrtCreate part s
  | .prtDestroy part => Sys2Proof.Machine.execPrtDestroy part s
  | .prtReset part => Sys2Proof.Machine.execPrtReset part s
  | .prtAssign part => Sys2Proof.Machine.execPrtAssign part s
  | .prtUnassign part => Sys2Proof.Machine.execPrtUnassign part s
  | .prtGrow part => Sys2Proof.Machine.execPrtGrow part s
  | .prtResetDrainEnd part => Sys2Proof.Machine.execPrtResetDrainEnd part s
  | .prtZeroDone part => Sys2Proof.Machine.execPrtZeroDone part s
  | .functionLevelReset fn => Sys2Proof.Machine.execFunctionLevelReset fn s
  | .dlogEnable part value => Sys2Proof.Machine.execDlogEnable part value s
  | .dlogRound part => Sys2Proof.Machine.execDlogRound part s
  | .dlogHeadWrite part value => Sys2Proof.Machine.execDlogHeadWrite part value s
  | .herbRegister fn => Sys2Proof.Machine.execHerbRegister fn s
  | .herbUnregister fn handle => Sys2Proof.Machine.execHerbUnregister fn handle s
  | .herbPin fn handle => Sys2Proof.Machine.execHerbPin fn handle s
  | .herbUnpin fn handle => Sys2Proof.Machine.execHerbUnpin fn handle s
  | .herbPrefetch fn handle => Sys2Proof.Machine.execHerbPrefetch fn handle s
  | .herbFillDone handle => Sys2Proof.Machine.execHerbFillDone handle s
  | .getVersion via => Sys2Proof.Machine.execGetVersion via s
  | .getCapabilities via => Sys2Proof.Machine.execGetCapabilities via s
  | .negotiateAlgorithms via algs => Sys2Proof.Machine.execNegotiateAlgorithms via algs s
  | .getDigests via => Sys2Proof.Machine.execGetDigests via s
  | .getCertificate via slot => Sys2Proof.Machine.execGetCertificate via slot s
  | .spdmChallenge via slot => Sys2Proof.Machine.execSpdmChallenge via slot s
  | .getMeasurements via req => Sys2Proof.Machine.execGetMeasurements via req s
  | .keyExchange via => Sys2Proof.Machine.execKeyExchange via s
  | .spdmFinish sess auth => Sys2Proof.Machine.execSpdmFinish sess auth s
  | .keyUpdate sess => Sys2Proof.Machine.execKeyUpdate sess s
  | .spdmHeartbeat sess => Sys2Proof.Machine.execSpdmHeartbeat sess s
  | .endSession sess => Sys2Proof.Machine.execEndSession sess s
  | .kzKeySet sess slot type force key => Sys2Proof.Machine.execKzKeySet sess slot type force key s
  | .ideKm sess op => Sys2Proof.Machine.execIdeKm sess op s
  | .lockInterface sess part stream => Sys2Proof.Machine.execLockInterface sess part stream s
  | .startInterface sess part => Sys2Proof.Machine.execStartInterface sess part s
  | .stopInterface sess part => Sys2Proof.Machine.execStopInterface sess part s
  | .getDeviceInterfaceReport sess part => Sys2Proof.Machine.execGetDeviceInterfaceReport sess part s
  | .kzUnlock via sess req => Sys2Proof.Machine.execKzUnlock via sess req s
  | .tdiError part why => Sys2Proof.Machine.execTdiError part why s
  | .ideIntegrityFail stream => Sys2Proof.Machine.execIdeIntegrityFail stream s
  | .mbGenerate cmd => Sys2Proof.Machine.execMbGenerate cmd s
  | .mbSetPlain cmd => Sys2Proof.Machine.execMbSetPlain cmd s
  | .mbErase cmd => Sys2Proof.Machine.execMbErase cmd s
  | .mbQuery cmd => Sys2Proof.Machine.execMbQuery cmd s
  | .keyRetireDone slot => Sys2Proof.Machine.execKeyRetireDone slot s
  | .firmwareUpdate comp image => Sys2Proof.Machine.execFirmwareUpdate comp image s
  | .activateFirmware comp => Sys2Proof.Machine.execActivateFirmware comp s
  | .powerSample x => Sys2Proof.Machine.execPowerSample x s
  | .capFail => Sys2Proof.Machine.execCapFail s
  | .brakeAssert lowNs => Sys2Proof.Machine.execBrakeAssert lowNs s
  | .brakeRelease highNs => Sys2Proof.Machine.execBrakeRelease highNs s
  | .converterAlert ns status => Sys2Proof.Machine.execConverterAlert ns status s
  | .alertRelease ns => Sys2Proof.Machine.execAlertRelease ns s
  | .sensorTimeout sensor => Sys2Proof.Machine.execSensorTimeout sensor s
  | .trip cause unit => Sys2Proof.Machine.execTrip cause unit s
  | .tripClear => Sys2Proof.Machine.execTripClear s
  | .pwrCapWrite value => Sys2Proof.Machine.execPwrCapWrite value s
  | .tclkSet frond value => Sys2Proof.Machine.execTclkSet frond value s
  | .tclkSwitch frond => Sys2Proof.Machine.execTclkSwitch frond s
  | .pmbusPoll r => Sys2Proof.Machine.execPmbusPoll r s
  | .inputInRange millivolts els => Sys2Proof.Machine.execInputInRange millivolts els s
  | .inputBelowRange millivolts => Sys2Proof.Machine.execInputBelowRange millivolts s
  | .railsUp => Sys2Proof.Machine.execRailsUp s
  | .perstDeassert straps => Sys2Proof.Machine.execPerstDeassert straps s
  | .trustStageDone => Sys2Proof.Machine.execTrustStageDone s
  | .imagesStageDone => Sys2Proof.Machine.execImagesStageDone s
  | .selftestStageDone r => Sys2Proof.Machine.execSelftestStageDone r s
  | .memoryStageDone r bootMs => Sys2Proof.Machine.execMemoryStageDone r bootMs s
  | .perstAssert ns => Sys2Proof.Machine.execPerstAssert ns s
  | .hotReset => Sys2Proof.Machine.execHotReset s
  | .hostLinkTrained => Sys2Proof.Machine.execHostLinkTrained s
  | .fatalError why => Sys2Proof.Machine.execFatalError why s
  | .tileErrorReport tile err => Sys2Proof.Machine.execTileErrorReport tile err s
  | .spareQuarantine tile => Sys2Proof.Machine.execSpareQuarantine tile s
  | .spareCancel tile => Sys2Proof.Machine.execSpareCancel tile s
  | .tileSubstitute tile => Sys2Proof.Machine.execTileSubstitute tile s
  | .bistTileGroup unit seed => Sys2Proof.Machine.execBistTileGroup unit seed s
  | .bistSpares unit seed => Sys2Proof.Machine.execBistSpares unit seed s
  | .bistFastChannel unit seed => Sys2Proof.Machine.execBistFastChannel unit seed s
  | .bistCapChannel unit seed => Sys2Proof.Machine.execBistCapChannel unit seed s
  | .bistPort unit seed => Sys2Proof.Machine.execBistPort unit seed s
  | .bistDone r => Sys2Proof.Machine.execBistDone r s
  | .serviceRecordWrite => Sys2Proof.Machine.execServiceRecordWrite s
  | .channelRecal fast channel temp => Sys2Proof.Machine.execChannelRecal fast channel temp s
  | .svcRead => Sys2Proof.Machine.execSvcRead s
  | .i3cEntdaa addr => Sys2Proof.Machine.execI3cEntdaa addr s
  | .i3cStallTimeout => Sys2Proof.Machine.execI3cStallTimeout s
  | .pcieCompletionTimeout req => Sys2Proof.Machine.execPcieCompletionTimeout req s
  | .h2dSnoop line => Sys2Proof.Machine.execH2dSnoop line s
  | .bar4Access fn a => Sys2Proof.Machine.execBar4Access fn a s
  | .msixUnmask fn vector => Sys2Proof.Machine.execMsixUnmask fn vector s
  | .registerWrite fn bar offset bytes value => Sys2Proof.Machine.execRegisterWrite fn bar offset bytes value s
  | .hostLinkCompletion req poisoned => Sys2Proof.Machine.execHostLinkCompletion req poisoned s
  | .localLoadReturn a load bad => Sys2Proof.Machine.execLocalLoadReturn a load bad s
  | .translationWalkDone a => Sys2Proof.Machine.execTranslationWalkDone a s
  | .boundaryScanInstruction ir => Sys2Proof.Machine.execBoundaryScanInstruction ir s

end Sys2Proof.Machine
end

