-- ==== Sys2Proof/Machine/Views.lean ====
section
/-! DEFINITION. What a read of a set-up register or a doorbell page returns. No read has a side effect (R638), so reads are
functions of the state and no command (spec/15; Tables 7.9, 7.12, 7.14, 10.8, 11.10, 11.16, 12.11, 12.12, 14.5). -/

namespace Sys2Proof.Machine

/-- A number in a field of a register. -/
def at_ (v lo : Nat) : Nat := v * 2 ^ lo

/-- Channels of a tier in service (Table 15.6). -/
def State.chIn (s : State) (fast : Bool) : Nat :=
  tierCh fast - ((if fast then s.fastCh else s.capCh).filter fun x => x.2.st != 0).length

/-- Pages of a list of extents that lie in the fast tier. -/
def State.fastPages (s : State) (gs : List (Nat × Nat)) : Nat :=
  gs.foldl (fun n g => n + ((List.range g.2).filter fun i => (s.page (g.1 + i)).at_.fast && !(s.page (g.1 + i)).released).length) 0

/-- ID_MEM and TIER_CAP. -/
def State.readIdMem (s : State) : Nat := s.usable + at_ (s.chIn true) 32 + at_ (s.chIn false) 48
def State.readTierCap (s : State) : Nat := s.usable + at_ s.owed 32

/-- TIER_QUOTA[p]. -/
def State.readQuota (s : State) (p : Nat) : Nat := s.fld (quotaOf p) + at_ (s.fastPages (s.part p).grant) 32

/-- TIER_CHSTAT of a channel. -/
def State.readChstat (s : State) (fast : Bool) (c : Nat) : Nat :=
  let x := s.chan fast c
  x.st + at_ x.refr 2 + at_ (min 65535 x.retired) 8 + at_ (if fast then min 255 x.spares else 0) 24

/-- PRT_STAT[p]. -/
def State.readPrtStat (s : State) (p : Nat) : Nat :=
  let x := s.part p
  let st := match x.st with
    | .free => 0
    | .ready => 1
    | .resetting => 2
    | .destroying => 3
  if st = 0 then 0
  else st + at_ (b2n x.vf) 3 + at_ (b2n x.herb) 4 + at_ (32 * ((List.range 48).filter (bitOf x.groups)).length) 16 +
    at_ (if st = 3 then x.zeroing else x.grant.foldl (fun n g => n + g.2) 0) 32

/-- HERB_STAT as a function sees it (R647). -/
def State.readHerbStat (s : State) (fn : Nat) : Nat :=
  if fn != 0 && s.herbPart != some (fn - 1) then 0
  else
    let es := s.entries
    (es.filter (·.2.resident)).length + at_ (s.registered.filter (·.2.pinned)).length 7 +
      at_ ((sumBy Model.weightBytes es + 2 ^ 20 - 1) / 2 ^ 20) 16 + at_ (sumBy Model.footprint es / 1024) 32

/-- TC_SLOT[n] and TC_TDI[p]. -/
def State.readSlot (s : State) (n : Nat) : Nat :=
  let k := s.keySlot n
  k.st + at_ (if k.st = 0 then 0 else k.type) 2 + at_ (s.bindings n) 8 + at_ (min 65535 k.usersSeen) 16 + at_ (k.installs % 65536) 32
def State.readTdi (s : State) (p : Nat) : Nat := (s.tdi p).st + at_ (s.tdi p).stream 8 + at_ (s.tdi p).err 16

/-- RAS_TILE[f] and RAS_TMAP[t]. -/
def State.readRasTile (s : State) (f : Nat) : Nat :=
  (s.spares f).length + at_ (s.failedPhys.filter fun x => x.1 == f).length 8 +
    at_ (s.quarantined.filter fun x => frondOf x.1 == f).length 16 + at_ (s.fld (rasTile f 27 24)) 24
def State.readTmap (s : State) (t : Nat) : Nat :=
  physOf s t + at_ (b2n (s.quarantined.any (·.1 == t))) 8 + at_ (b2n (s.noSpare.contains t)) 9

/-- The bits of a stored word that read as 0: the write-only halves of Tables 10.20 and 11.12, and TC_MB_DATA. -/
def readMask (k : Nat) : Nat :=
  if isIn 0x00101000 0x00101C00 k && k % 64 == 16 then 2 ^ 64 - 2 ^ 32
  else if isIn 0x00201000 0x00201600 k && k % 32 == 16 then 2 ^ 64 - 2 ^ 32
  else if isIn 0x00900140 0x00900180 k then 0
  else 2 ^ 64 - 1

/-- Words of the physical function's layout of which every function has its own copy (R640, R646). -/
def ownCopy (k : Nat) : Bool :=
  isIn 0x00010000 0x00010060 k || isIn 0x00200000 0x00200088 k || isIn 0x00202000 0x00202150 k ||
    isIn 0x00300020 0x00300028 k || isIn 0x00300100 0x00300140 k || isIn 0x00E00000 0x00E10100 k

/-- The 64-bit word at an offset of the physical function's layout, as a function reads it. -/
def State.readLayout (s : State) (fn k : Nat) : Nat :=
  if k = 0x00000008 then Config.serial.toNat
  else if k = 0x00000018 then s.readIdMem
  else if k = 0x00300028 then s.readHerbStat fn
  else if k = 0x00400010 then s.readTierCap
  else if isIn 0x00401000 0x00401880 k then
    (let f := decide (k < 0x00401800)
     let c := if f then (k - 0x00401000) / 4 else (k - 0x00401800) / 4
     s.readChstat f c + at_ (s.readChstat f (c + 1)) 32)
  else if isIn 0x00A0A000 0x00A0B000 k then (Config.svcSummary s.svc.bytes ((k - 0x00A0A000) / 8)).toNat
  else if isIn 0x00A09000 0x00A09C00 k then
    (List.range 4).foldl (fun n i => n + at_ (s.readTmap ((k - 0x00A09000) / 2 + i)) (16 * i)) 0
  else match idxAt k 0x00100100 16 48, idxAt k 0x00400100 8 48, idxAt k 0x00901000 8 128, idxAt k 0x00902000 8 48, idxAt k 0x00A00300 8 12 with
    | some p, _, _, _, _ => s.readPrtStat p
    | _, some p, _, _, _ => s.readQuota p
    | _, _, some n, _, _ => s.readSlot n
    | _, _, _, some p, _ => s.readTdi p
    | _, _, _, _, some f => s.readRasTile f
    | _, _, _, _, _ => Nat.land (s.word (if ownCopy k then fnKey fn k else k)).toNat (readMask k)

/-- A doorbell page's word (Table 10.8). -/
def Queue.pageRead (q : Queue) (r : Nat) : Nat :=
  if r = 0x10 then q.sqHead.toNat
  else if r = 0x18 then q.cqTail.toNat
  else if r = 0x28 then q.abort.result + at_ q.abort.status 8 + at_ q.abort.count 16 + at_ q.abort.seq.toNat 32
  else if r = 0x30 then
    (match q.st with
    | .empty => 0
    | .running => 1
    | .stopped => 2
    | .lost => 3) + at_ q.dbErr 16
  else 0

/-- A read of BAR0 or BAR2 of a function, 0 where nothing stands (R637, R638, R647, R648). None where the host link answers no
access (Table 14.1), or with Unsupported Request (R615). The count of a rejected access is the write rows' (R637). -/
def State.readBar (s : State) (fn bar offset bytes : Nat) : Option Nat :=
  if !s.answers || s.vfs < fn || (bar = 2 && !s.ready) then none
  else if !sized offset bytes || !s.vfLive fn then some 0
  else
    let w :=
      if bar = 2 then (s.queue (if fn = 0 then offset / 4096 else (fn - 1) * 256 + offset / 4096)).pageRead (offset % 4096 / 8 * 8)
      else match (if fn = 0 then some (offset / 8 * 8) else vfOffset (fn - 1) (offset / 8 * 8)) with
        | none => 0
        | some k => if s.ready || (fn == 0 && alwaysBlock k) then s.readLayout fn k else 0
    some (if bytes = 8 then w else w / 2 ^ (8 * (offset % 8)) % 2 ^ 32)

end Sys2Proof.Machine
end

