-- ==== Sys2Proof/WellFormed.lean ====
section
/-! DEFINITION. Well-formed commands: every unit an operand names is one the part has, and every operand that crosses the
module's boundary has the shape the spec gives it (log 1). What hangs on the state of the module (the pages it has) stands in
Sys2Proof/Safety.lean. -/

namespace Sys2Proof

/-- Device pages of a module as shipped, at most (R323). -/
def maxPages : Nat := 46104576

/-- 1,536 tiles of 72 clause state entries (spec/02 Table 2.1). -/
def At.wf (a : At) : Bool := decide (a.tile < 1536) && decide (a.entry < 72)

/-- A line has 128 bytes (R221). -/
def LineData.wf (d : LineData) : Bool := d.bytes.length == 128

/-- An error stands in one of the `n` sectors of a line (R223) or a frame (R349), at one of the 288 bits of its burst (R351). -/
def MemErr.wf (n : Nat) (e : MemErr) : Bool := decide (e.sector < n) && decide (e.bit < 288)

def ArrayErr.wf (e : ArrayErr) : Bool := decide (e.sector < 4)

/-- A flit's body (Table 9.4). -/
def Flit.wf (f : Flit) : Bool := f.body.length == 248

def TripCause.units : TripCause → Nat
  | .junction => 240
  | .stack => 16
  | .optics => 8

def Sensor.wf : Sensor → Bool
  | .power | .pmbus => true
  | .frond f => decide (f < 12)

/-- Three samples of each strap (R627). -/
def Straps.wf (x : Straps) : Bool := x.compat.length == 3 && x.slot.length == 3

/-- Tiles, spares, spines, ways and miss registers that the part has (Table 14.2). -/
def SelfTest.wf (r : SelfTest) : Bool :=
  r.badTiles.all (fun t => decide (t < 1536)) &&
  r.badSpares.all (fun x => decide (x.1 < 12) && decide (128 ≤ x.2) && decide (x.2 < 136)) &&
  r.badWays.all (fun x => decide (x.1 < 512) && decide (x.2 < 16)) &&
  r.badMissRegs.all (fun x => decide (x.1 < 512)) &&
  r.badSpines.all (fun x => decide (x.1 < 4) && decide (x.2 < 16))

/-- Channels that the part has (R355). -/
def MemTrain.wf (r : MemTrain) : Bool :=
  r.badFast.all (fun c => decide (c < 512)) && r.badCap.all (fun c => decide (c < 32))

/-- One reading for every sensor (R586, R595, R598). -/
def PowerSample.wf (r : PowerSample) : Bool :=
  r.groupEnergy.length == 48 && r.frondTemp.length == 12 && r.frondTemp.all (fun x => x.length == 20) &&
  r.stackTemp.length == 16 && r.opticTemp.length == 8

/-- An access of at least one byte (R642). -/
def Bar4.wf (x : Bar4) : Bool := decide (0 < (x.write.map (·.length)).getD x.size)

/-- Every unit that a command names exists, and its operands have the shape the spec gives them. -/
def Instr.wf : Instr → Bool
  | .iadd a _ | .isub a _ | .ineg a _ | .iabs a _ | .imin a _ | .imax a _ | .iaddc a _ | .isubb a _ | .imul a _
  | .imulh a _ | .imad a _ | .idiv a _ | .irem a _ | .imulw a _ | .and a _ | .or a _ | .xor a _ | .andn a _
  | .not a _ | .popc a _ | .clz a _ | .ctz a _ | .brev a _ | .bfe a _ | .bfi a _ | .prmt a _ | .shl a _ | .shr a _
  | .sar a _ | .setp a _ | .sel a _ | .pand a _ | .por a _ | .pxor a _ | .pnot a _ | .p2u a _ | .u2p a _ | .mov a _
  | .movi a _ | .movih a _ | .cvt a _ | .srd a _ | .swr a _ | .v2u a _ | .fadd a _ | .fsub a _ | .fmul a _
  | .ffma a _ | .fmin a _ | .fmax a _ | .fabs a _ | .fneg a _ | .fdiv a _ | .fsqrt a _ | .fclass a _ | .exp2 a _
  | .log2 a _ | .rcp a _ | .rsq a _ | .tanh a _ | .smxstep a _ | .maskgen a _ | .shfl a _ | .vote a _ | .ld a _
  | .lds a _ | .st a _ | .ldu a _ | .stu a _ | .pref a _ | .atomAdd a _ | .atomMinu a _ | .atomMins a _
  | .atomMaxu a _ | .atomMaxs a _ | .atomAnd a _ | .atomOr a _ | .atomXor a _ | .atomExch a _ | .atomCas a _
  | .atomFadd a _ | .br a _ | .brx a _ | .call a _ | .split a _ | .join a _ | .nop a _ | .bar a _ | .wait a _
  | .fence a _ | .exit a _ | .mma a _ | .mmas a _ | .accld a _ | .accst a _ | .accz a _ | .argumentReadReturn a
  | .loaddepDemote a _ | .waitLimitExpire a | .sleepEnd a | .watchRereadReturn a | .hostWatchPoll a
  | .localLoadReturn a _ _ | .translationWalkDone a => a.wf
  | .matrixFinish tile | .qsc tile | .switchOutRequest tile | .switchOutDrainEnd tile | .tileSaved tile
  | .tileAssign tile | .tileErrorReport tile _ | .tileSubstitute tile => decide (tile < 1536)
  | .blockPlace _ | .deadlockDeclare _ | .stop _ | .kernelSwitchedOut _ | .kernelResume _ | .wr _
  | .watch _ | .unwatch _ | .watchNotify _ | .fwd _ | .fwdAck _ | .fwdMiss _ | .dataRsp _
  | .dataF _ | .ack _ | .atomRsp _ | .retry _ | .grantHoldExpire _ | .nack _ | .nackBackoffExpire _ | .fwdTimeout _
  | .hashRotRequest | .hashRotDrained | .hashRotDone _ | .ucRegApply | .telemetryEpoch | .telemetryLatchEnd
  | .tierManage | .tierPinFast | .tierPinCap | .tierRelease | .tierMapoutFast | .tierMapoutCap | .scrubPassEnd _
  | .stipeFlitReplay _ _ | .fabIdSet _ | .putData _ | .putFlag _ | .getReq _ | .getData _ | .fabricAck _
  | .routeLostNak _ | .collData _ | .kvData _ | .kvCredit _ | .kvConsumedRise _ | .hb _ | .pace _ | .paceSend
  | .paceHoldExpire _ | .cohortFenceMsg _ | .probe _ | .probeRsp _ | .routeWaitTimeout _ | .collStepTimeout _
  | .prtCreate _ | .prtDestroy _ | .prtReset _ | .prtAssign _ | .prtUnassign _ | .prtGrow _ | .getVersion _
  | .getCapabilities _ | .negotiateAlgorithms _ _ | .getDigests _ | .getMeasurements _ _ | .keyExchange _
  | .spdmFinish _ _ | .keyUpdate _ | .spdmHeartbeat _ | .endSession _ | .kzKeySet _ _ _ _ _ | .ideKm _ _
  | .kzUnlock _ _ _ | .ideIntegrityFail _ | .mbGenerate _ | .mbSetPlain _ | .mbErase _ | .mbQuery _ | .capFail
  | .brakeAssert _ | .brakeRelease _ | .converterAlert _ _ | .alertRelease _ | .tripClear | .pwrCapWrite _
  | .pmbusPoll _ | .inputInRange _ _ | .inputBelowRange _ | .railsUp | .trustStageDone | .imagesStageDone
  | .perstAssert _ | .hotReset | .hostLinkTrained | .fatalError _ | .spareQuarantine _ | .spareCancel _
  | .bistTileGroup _ _ | .bistSpares _ _ | .bistFastChannel _ _ | .bistCapChannel _ _ | .bistPort _ _ | .bistDone _
  | .serviceRecordWrite | .svcRead | .i3cEntdaa _ | .i3cStallTimeout | .pcieCompletionTimeout _
  | .hostLinkCompletion _ _ | .boundaryScanInstruction _ => true
  | .promote tile slot => decide (tile < 1536) && decide (slot < 8)
  | .preemptQuantumExpire part | .hbSend part | .sweepEnd part | .cohFenceSet part | .epochWrite part _
  | .prtResetDrainEnd part | .prtZeroDone part | .dlogEnable part _ | .dlogRound part | .dlogHeadWrite part _
  | .lockInterface _ part _ | .startInterface _ part | .stopInterface _ part | .getDeviceInterfaceReport _ part
  | .tdiError part _ => decide (part < 48)
  | .hostReadShared line | .hostReadExclusive line | .bisnpTimeout line | .h2dSnoop line => decide (line < maxPages * 512)
  | .hostWriteBack line _ data => decide (line < maxPages * 512) && data.wf
  | .birsps line data | .birspi line data => decide (line < maxPages * 512) && data.all LineData.wf
  | .grant slice | .hotWindowEnd slice _ => decide (slice < 512)
  | .rd _ errs | .rdRo _ errs | .atom _ errs | .red _ errs => errs.all ArrayErr.wf
  | .fillReturn line errs arr => decide (line < maxPages * 512) && errs.all (MemErr.wf 4) && arr.all ArrayErr.wf
  | .pageMoveStart page => decide (page < maxPages)
  | .pageMoveDone page badSectors => decide (page < maxPages) && badSectors.all fun x => decide (x < 2048)
  | .mapRebuildDone channel => decide (channel < 32)
  | .stackTempSample stack _ => decide (stack < 16)
  | .tempReadingTimeout _ u => decide (u < 16)
  | .capTempReport device _ _ => decide (device < 16)
  | .scrubRead fast frame errs => decide (frame < if fast then 512 * 24576 else 32 * 1048576) && errs.all (MemErr.wf 2048)
  | .columnRepairDone channel => decide (channel < 512)
  | .channelNoAnswer fast channel | .channelMappedOut fast channel | .channelRecal fast channel _ => decide (channel < if fast then 512 else 32)
  | .msixSend fn vector | .msixUnmask fn vector => decide (fn < 49) && decide (vector < 2048)
  | .portLightOn port | .portTrainStepDone port _ | .portTrainTimeout port | .portRetryWaitEnd port | .portDown ⟨port, _⟩
  | .wavelengthSerCheck port _ | .wavelengthSwap port | .wavelengthRetest port _ | .portRetrain port
  | .replayRequest port _ => decide (port < 32)
  | .elsRemoved x => decide (x.els < 4)
  | .elsSvc els | .elsInserted els | .elsCombLock els | .elsLockTimeout els => decide (els < 4)
  | .flitReceive port flit => decide (port < 32) && flit.wf
  | .peerTimeout part member _ => decide (part < 48) && decide (member < 16384)
  | .negCommit fn | .queCreate fn _ | .queStart fn _ | .queStop fn _ | .queDestroy fn _ | .ctxCreate fn
  | .ctxDestroy fn _ | .ctxQuery fn _ | .ctxKill fn _ | .ctxInv fn _ _ | .ctxInvDone fn | .atsInvalidate fn _ _
  | .herbRegister fn | .herbUnregister fn _ | .herbPin fn _ | .herbUnpin fn _ | .herbPrefetch fn _ => decide (fn < 49)
  | .sqTail fn page _ | .cqHead fn page _ | .abort fn page _ | .abortAll fn page => decide (fn < 49) && decide (page < if fn = 0 then 12288 else 256)
  | .descriptorFetch queue | .launch queue | .moveCopy queue | .moveFill queue | .moveGather queue
  | .moveReduce queue | .moveTier queue | .signalOp queue | .cmdWait queue | .parserHostPoll queue | .eventOp queue
  | .cond queue | .loopOp queue | .endloop queue | .cmdCall queue | .returnOp queue | .cmdFence queue | .putOp queue
  | .putKindFlag queue | .getOp queue | .allReduce queue | .reduceScatter queue | .allGather queue
  | .broadcastOp queue | .reduceOp queue | .kvRing queue | .invoke queue | .timestampOp queue | .preemptPoint queue
  | .cmdNop queue | .commandComplete queue _ | .commandTimeout queue _ => decide (queue < 12288)
  | .evlogConfigWrite fn part _ _ | .evlogHeadWrite fn part _ => decide (fn < 49) && decide (part < 48)
  | .pageResponse ctx _ _ _ => decide (ctx < 4096)
  | .functionLevelReset fn => decide (0 < fn) && decide (fn < 49)
  | .herbFillDone handle => decide (handle < 1024)
  | .getCertificate _ slot | .spdmChallenge _ slot => decide (slot < 8)
  | .keyRetireDone slot => decide (slot < 128)
  | .firmwareUpdate comp _ | .activateFirmware comp => [2, 4, 5, 6, 7].contains comp
  | .powerSample x => x.wf
  | .sensorTimeout sensor => sensor.wf
  | .trip cause u => decide (u < cause.units)
  | .tclkSet frond _ | .tclkSwitch frond => decide (frond < 12)
  | .perstDeassert straps => straps.wf
  | .selftestStageDone r | .memoryStageDone r _ => r.wf
  | .bar4Access fn a => decide (fn < 49) && a.wf
  | .registerWrite fn n offset _ _ => decide (fn < 49) && (n == 0 || n == 2) && decide (offset < if fn = 0 then 2 ^ 26 else if n = 0 then 2 ^ 16 else 2 ^ 20)

end Sys2Proof
end

