-- ==== Sys2Proof/Safety.lean ====
section
/-! DEFINITION. The terms in which claims about the Kaztun are stated: which commands can act in a state, when an Atset
instruction issues, what an instruction leaves alone, and the invariant that every step keeps. -/

namespace Sys2Proof.Machine

/-! ### Commands that name what the module has -/

/-- What a command names in device memory lies in the pages the module has now (log 1). -/
def State.hasPages (s : State) : Instr → Bool
  | .hostReadShared line | .hostReadExclusive line | .bisnpTimeout line | .h2dSnoop line | .hostWriteBack line _ _
  | .birsps line _ | .birspi line _ | .fillReturn line _ _ => lineExists s line
  | .pageMoveStart page | .pageMoveDone page _ => decide (page < s.pageCount)
  | _ => true

/-! ### Issue of Atset instructions (R47, R67, R109, R519) -/

/-- The clause can issue, and the fetch of its instruction succeeds and leaves `s'`: an INVOKE's code comes from the store, other
code needs the execute right, and memory, or the instruction cache, that is not poisoned. -/
def State.Fetches (s : State) (a : At) (s' : State) : Prop :=
  atOk a = true ∧ s.canIssue a = true ∧ s.fetchCode a = (s', .ok)

/-- No register that the instruction uses waits for a load or for the matrix unit (R71, R190). -/
def State.NoHazard (s : State) (a : At) (q : IssueReq) : Prop :=
  (s.clause a).awaits q.regs.vr q.regs.ur = false ∧ (s.tile a.tile).matHazard a.entry q.regs = false ∧
  (q.statusOrder = true → (s.clause a).mxcnt = 0)

/-- Every register lies in the clause's granules, or no lane acts (R53, R112). -/
def State.InRange (s : State) (a : At) (e : Enc) (q : IssueReq) : Prop :=
  q.range = true → regRange (s.tileKernel a.tile).granules (q.regs.vr ++ q.regs.vw) = true →
    q.lanes = true ∧ (s.clause a).acting e = 0

/-- The instruction issues: it is fetched, its opcode is its row's, it stalls on nothing, is legal, and its registers exist. -/
structure State.Issues (s : State) (a : At) (e : Enc) (q : IssueReq) (s' : State) : Prop where
  fetched : s.Fetches a s'
  own : e.op = none
  free : s'.NoHazard a q
  legal : q.legal = true
  range : s'.InRange a e q

/-- An instruction of classes 0x0 to 0x8 issues under its form. -/
def State.IssuesAlu (s : State) (fm : Form) (a : At) (e : Enc) (s' : State) : Prop :=
  s.Issues a e { legal := fm.ok e, regs := fm.regs e, lanes := !fm.uniform (aluFields e) } s'

/-! ### Results -/

/-- The lanes for which an instruction computes a result: the acting lanes, or, once, lane 0 for a uniform one. -/
def Clause.resultLanes (c : Clause) (fm : Form) (e : Enc) : List Nat :=
  if fm.uniform (aluFields e) then [0] else maskLanes (c.acting e)

/-- The operand pattern of a source field in a lane, `w` bits (R111, R114); Format I's second source is its immediate (R120). -/
def Clause.srcA (c : Clause) (fm : Form) (e : Enc) (l : Nat) : Nat := c.opd (aluFields e).a (fm.aWidth (aluFields e)) l
def Clause.srcB (c : Clause) (e : Enc) (l : Nat) : Nat := match (aluFields e).imm with
  | some v => immVal (aluFields e).ty v
  | none => c.opd (aluFields e).b (tyBits (aluFields e).ty) l
def Clause.srcC (c : Clause) (e : Enc) (l : Nat) : Nat := c.opd (aluFields e).c (tyBits (aluFields e).ty) l

/-- A destination field holds a `w`-bit value in a lane: v255 keeps nothing (R112), a 64-bit value lies in a register and the
next (R111), and a uniform register holds a 32-bit value zero-extended (R113). -/
def Clause.holds (c : Clause) (f w l x : Nat) : Prop :=
  match Opd.of f with
  | .v n => (n ≠ 255 → c.getV n l = BitVec.ofNat 32 x) ∧
      (w = 64 → n + 1 ≠ 255 → c.getV (n + 1) l = BitVec.ofNat 32 (x / 2 ^ 32))
  | .u n => c.getU n = BitVec.ofNat 64 (x % 2 ^ (if w = 64 then 64 else 32))
  | .bad => True

/-- The status word a lane (or a uniform instruction) has. -/
def Clause.flags (c : Clause) (fm : Form) (e : Enc) (l : Nat) : W32 :=
  if fm.uniform (aluFields e) then c.ustatus else c.getStatus l

/-- The state `t` follows an instruction that acted on its clause alone, issued in `s`: the clause has changed, its tile has
noted the issue, a queued ACCST may have lost registers to it, and time may have passed; nothing else has changed. -/
def State.ClauseOnly (s t : State) (a : At) : Prop :=
  t = { s with now := t.now, tiles := t.tiles } ∧ s.now ≤ t.now ∧
  (∀ u, u ≠ a.tile → t.tile u = s.tile u) ∧
  t.tile a.tile = { s.tile a.tile with
    clauses := (t.tile a.tile).clauses, lastSlot := (t.tile a.tile).lastSlot, lastIssue := (t.tile a.tile).lastIssue
    matq := (t.tile a.tile).matq, stalls := (t.tile a.tile).stalls, tried := (t.tile a.tile).tried } ∧
  (∀ k, k ≠ a.entry → (t.tile a.tile).clause k = (s.tile a.tile).clause k)

/-- What an instruction with a register destination leaves of its clause: everything but the program counter, the status words
and the registers of its destination field; of outstanding loads, the registers they are still to write may have become fewer
(R164). -/
def Clause.KeepsBut (c d : Clause) (w f : Nat) (m : W32) : Prop :=
  d = { c with pc := c.pc + 8, v := d.v, u := d.u, status := d.status, ustatus := d.ustatus, loads := d.loads } ∧
  (∀ r l, ((Opd.of f).vregs (regsOf w)).contains r = false ∨ m.getLsbD l = false → l < 32 → d.getV r l = c.getV r l) ∧
  (∀ r, (Opd.of f).uregs.contains r = false → d.getU r = c.getU r)

/-! ### The invariant -/

/-- Memories and registers are held in their one canonical form, and module time did not begin in the future. -/
structure State.Inv (s : State) : Prop where
  mem : memWf s.mem = true
  host : memWf s.host = true
  regs : tabWf regReset s.regs = true
  time : s.t0 ≤ s.now

end Sys2Proof.Machine
end

