-- ==== Sys2Proof/Certificates/Slice0/Obligations.lean ====
section
/-! DEFINITION. The statements for the provers. Rows that share a shape are listed once, in a table of the namespace
Sys2Proof.Claims, with what the spec says of each. -/

namespace Sys2Proof.Claims

open Sys2Proof.Machine

/-! ### Instructions of classes 0x0 to 0x8 with a register destination -/

/-- What the spec says of an instruction: its form (Table 3.13), the encodings its own rules exclude, and its result and flag
effect in one lane from operand patterns. -/
structure AluClaim where
  instr : At → Enc → Instr
  fm : Form
  ok : AluF → Bool := fun _ => true
  res : AluIn → Nat × FlagEff

def AluClaim.req (r : AluClaim) (e : Enc) : IssueReq :=
  { legal := r.fm.ok e && r.ok (aluFields e), regs := r.fm.regs e, lanes := !r.fm.uniform (aluFields e) }

/-- The lane's operands as the rules name them: a, b and c, the width and sign of ty, sat, the carry, the rounding, the modes. -/
def AluClaim.inputs (r : AluClaim) (c : Clause) (e : Enc) (l : Nat) : AluIn :=
  let x := aluFields e
  { w := if tyBits x.ty = 64 then 64 else 32, sg := tySigned x.ty, a := c.srcA r.fm e l
    b := if r.fm.b.isReg then c.srcB e l else (if x.imm.isSome then c.srcB e l else 0)
    c := if r.fm.c.isReg then c.srcC e l else 0, sat := x.sat, cin := (c.flags r.fm e l).getLsbD 0
    rm := rmOf x.rm c.mode 0, ftz32 := c.mode.getLsbD 3, ftz64 := c.mode.getLsbD 4, aux := x.aux, ty := x.ty }

/-- In a state in which it issues, the instruction completes: every result lane's destination holds the result, and its status
word has taken the flags. -/
def AluClaim.holds (r : AluClaim) : Prop :=
  ∀ (s s' : State) (a : At) (e : Enc), s.Issues a e (r.req e) s' →
    ∃ t, exec (r.instr a e) s = .next t ∧
      ∀ l ∈ (s'.clause a).resultLanes r.fm e,
        let o := r.res (r.inputs (s'.clause a) e l)
        (t.clause a).holds (aluFields e).d (r.fm.dWidth (aluFields e)) l o.1 ∧
        (t.clause a).flags r.fm e l = o.2.apply ((s'.clause a).flags r.fm e l)

/-- A number modulo 2^w (R137). -/
def wrapTo (w : Nat) (x : Int) : Nat := (x % (2 ^ w : Nat)).toNat

/-- The least and the greatest value of a type. -/
def tyMin (i : AluIn) : Int := if i.sg then -(2 ^ (i.w - 1) : Nat) else 0
def tyMax (i : AluIn) : Int := if i.sg then (2 ^ (i.w - 1) : Nat) - 1 else (2 ^ i.w : Nat) - 1
def outside (i : AluIn) (x : Int) : Bool := decide (x < tyMin i ∨ tyMax i < x)

/-- R137: the result wraps, or with sat clamps to the range of the type. -/
def fitted (i : AluIn) (x : Int) : Nat := wrapTo i.w (if i.sat then max (tyMin i) (min (tyMax i) x) else x)

/-- Integer arithmetic (R137 to R141, Table 3.8). -/
def arithmetic : List AluClaim :=
  let f : Form := { tys := [0, 1, 2, 3], b := .reg }
  let n : Form := { tys := [1, 3], sat := true }
  let sum (i : AluIn) (k : Nat) : Nat × FlagEff := (fitted i (i.va + i.vb + k),
    { c := some (decide (2 ^ i.w ≤ i.a + i.b + k)), v := some (outside i (i.va + i.vb + k)) })
  let diff (i : AluIn) (k : Nat) : Nat × FlagEff := (fitted i (i.va - i.vb - k),
    { c := some (decide (i.a < i.b + k)), v := some (outside i (i.va - i.vb - k)) })
  let divByM1 (i : AluIn) : Bool := i.sg && i.va == tyMin i && i.vb == -1
  [ { instr := .iadd, fm := { f with imm := true, sat := true }, res := fun i => sum i 0 }
  , { instr := .isub, fm := { f with imm := true, sat := true }, res := fun i => diff i 0 }
  , { instr := .iaddc, fm := { f with sat := true }, res := fun i => sum i (b2n i.cin) }
  , { instr := .isubb, fm := { f with sat := true }, res := fun i => diff i (b2n i.cin) }
  , { instr := .ineg, fm := n, res := fun i => (fitted i (-i.va), { v := some (i.va == tyMin i) }) }
  , { instr := .iabs, fm := n, res := fun i => (fitted i i.va.natAbs, { v := some (i.va == tyMin i) }) }
  , { instr := .imin, fm := { f with imm := true }, res := fun i => (wrapTo i.w (min i.va i.vb), {}) }
  , { instr := .imax, fm := { f with imm := true }, res := fun i => (wrapTo i.w (max i.va i.vb), {}) }
  , { instr := .imul, fm := { f with imm := true, sat := true }, res := fun i =>
        (fitted i (i.va * i.vb), { c := some false, v := some (outside i (i.va * i.vb)) }) }
  , { instr := .imulh, fm := f, res := fun i => (wrapTo (2 * i.w) (i.va * i.vb) / 2 ^ i.w, {}) }
  , { instr := .imad, fm := { f with c := .reg }, res := fun i => ((i.a * i.b + i.c) % 2 ^ i.w, {}) }
  , { instr := .imulw, fm := { tys := [0, 1], dw := some 64, b := .reg }, res := fun i => (wrapTo 64 (i.va * i.vb), {}) }
  , { instr := .idiv, fm := { f with imm := true }, res := fun i =>
        if i.b = 0 then (2 ^ i.w - 1, { v := some false, idz := true })
        else (wrapTo i.w (i.va.tdiv i.vb), { v := some (divByM1 i) }) }
  , { instr := .irem, fm := { f with imm := true }, res := fun i =>
        if i.b = 0 then (i.a, { v := some false, idz := true })
        else (wrapTo i.w (i.va.tmod i.vb), { v := some (divByM1 i) }) } ]

/-- Bitwise operations, bit counts, fields, bytes and shifts (R141 to R145): bit `k` of a number is `bitOf _ k`. -/
def bitwise : List AluClaim :=
  let f : Form := { tys := [0, 2], imm := true, b := .reg }
  let u : Form := { tys := [0, 2] }
  let bits (w : Nat) (p : Nat → Bool) : Nat := (List.range w).foldl (fun n k => n + b2n (p k) * 2 ^ k) 0
  let byteOf (x k : Nat) : Nat := x / 2 ^ (8 * k) % 256
  [ { instr := .and, fm := f, res := fun i => (bits i.w fun k => bitOf i.a k && bitOf i.b k, {}) }
  , { instr := .or, fm := f, res := fun i => (bits i.w fun k => bitOf i.a k || bitOf i.b k, {}) }
  , { instr := .xor, fm := f, res := fun i => (bits i.w fun k => bitOf i.a k ^^ bitOf i.b k, {}) }
  , { instr := .andn, fm := f, res := fun i => (bits i.w fun k => bitOf i.a k && !bitOf i.b k, {}) }
  , { instr := .not, fm := u, res := fun i => (bits i.w fun k => !bitOf i.a k, {}) }
  , { instr := .popc, fm := u, res := fun i => ((List.range i.w).countP (bitOf i.a), {}) }
  , { instr := .clz, fm := u, res := fun i => (((List.range i.w).find? fun k => bitOf i.a (i.w - 1 - k)).getD i.w, {}) }
  , { instr := .ctz, fm := u, res := fun i => (((List.range i.w).find? (bitOf i.a)).getD i.w, {}) }
  , { instr := .brev, fm := u, res := fun i => (bits i.w fun k => bitOf i.a (i.w - 1 - k), {}) }
  , { instr := .bfe, fm := { tys := [0, 1, 2, 3], b := .reg, c := .reg }, res := fun i =>
        let n := min i.c (i.w - i.b)
        (if n = 0 then 0
         else bits i.w fun k => if k < n then bitOf i.a (i.b + k) else i.sg && bitOf i.a (i.b + n - 1), {}) }
  , { instr := .bfi, fm := { tys := [0, 2], b := .reg, c := .reg }, res := fun i =>
        let st := i.c % 65536
        let n := min (i.c / 65536 % 65536) (i.w - st)
        (bits i.w fun k => if st ≤ k ∧ k < st + n then bitOf i.b (k - st) else bitOf i.a k, {}) }
  , { instr := .prmt, fm := { b := .reg, c := .reg }, res := fun i =>
        (bits 32 fun k =>
          let j := k / 8
          let x := byteOf (i.a + 2 ^ 32 * i.b) (i.c / 2 ^ (4 * j) % 8)
          if bitOf i.c (4 * j + 3) then bitOf x 7 else bitOf x (k % 8), {}) }
  , { instr := .shl, fm := f, res := fun i => (if i.w ≤ i.b then 0 else i.a * 2 ^ i.b % 2 ^ i.w, {}) }
  , { instr := .shr, fm := f, res := fun i => (if i.w ≤ i.b then 0 else i.a / 2 ^ i.b, {}) }
  , { instr := .sar, fm := { tys := [1, 3], imm := true, b := .reg }, res := fun i =>
        (bits i.w fun k => if k + i.b < i.w then bitOf i.a (k + i.b) else bitOf i.a (i.w - 1), {}) } ]

/-- Moves and sign operations: MOV copies a (R152); FABS and FNEG change only the sign bit and set no flag (R154). -/
def signs : List AluClaim :=
  let f : Form := { tys := [8, 9], d := .vec }
  [ { instr := .mov, fm := { tys := [0, 2] }, res := fun i => (i.a, {}) }
  , { instr := .fabs, fm := f, res := fun i => (i.a % 2 ^ (i.w - 1), {}) }
  , { instr := .fneg, fm := f, res := fun i => ((i.a + 2 ^ (i.w - 1)) % 2 ^ i.w, {}) } ]

/-- The floating-point operations of R153 whose operands include a NaN (R154): the result is the canonical quiet NaN of the type,
and a signalling NaN sets FIV; for other operands, the one correctly rounded result of Machine/Num.lean. -/
def floats : List AluClaim :=
  let f : Form := { tys := [8, 9], imm := true, rm := true, d := .vec, b := .reg }
  let g : Form := { f with imm := false }
  let noSr (x : AluF) : Bool := x.rm != 5
  let nan (i : AluIn) (xs : List Nat) (r : Nat × FFlags) : Nat × FlagEff :=
    let vs := xs.map i.fmt.decode
    if vs.any FVal.isNan then
      (if i.w = 64 then 0x7FF8000000000000 else 0x7FC00000, { fp := { iv := vs.any FVal.isSnan } })
    else (r.1, { fp := r.2 })
  [ { instr := .fadd, fm := f, ok := noSr, res := fun i => nan i [i.a, i.b] (i.fmt.add i.rm i.ftz i.a i.b) }
  , { instr := .fsub, fm := f, ok := noSr, res := fun i => nan i [i.a, i.b] (i.fmt.sub i.rm i.ftz i.a i.b) }
  , { instr := .fmul, fm := f, ok := noSr, res := fun i => nan i [i.a, i.b] (i.fmt.mul i.rm i.ftz i.a i.b) }
  , { instr := .fdiv, fm := g, ok := noSr, res := fun i => nan i [i.a, i.b] (i.fmt.div i.rm i.ftz i.a i.b) }
  , { instr := .fsqrt, fm := { g with b := .no }, ok := noSr, res := fun i => nan i [i.a] (i.fmt.sqrt i.rm i.ftz i.a) } ]

/-! ### Predicates, lane exchange, special registers -/

/-- An instruction with an encoding check, its registers, and what the spec says of the clause after it, in each acting lane and
as a whole: the state after it, the clause before and after. -/
structure ClauseClaim where
  instr : At → Enc → Instr
  legal : Enc → Bool
  regs : Enc → RegUse := fun _ => {}
  lanes : Enc → Bool := fun _ => true
  order : Enc → Bool := fun _ => false
  /-- what the operands must be for the instruction's own effect -/
  when_ : Enc → Clause → Prop := fun _ _ => True
  post : State → At → Enc → Clause → Clause → Prop

def ClauseClaim.holds (r : ClauseClaim) : Prop :=
  ∀ (s s' : State) (a : At) (e : Enc),
    s.Issues a e { legal := r.legal e, regs := r.regs e, lanes := r.lanes e, statusOrder := r.order e } s' →
    r.when_ e (s'.clause a) → ∃ t, exec (r.instr a e) s = .next t ∧ r.post t a e (s'.clause a) (t.clause a)

/-- Predicate `d` after an instruction: the acting lanes have taken `f`, the others keep theirs. -/
def predIs (e : Enc) (c d : Clause) (f : Nat → Bool) : Prop :=
  ∀ l < 32, ((d.getP (aluFields e).d).getLsbD l) =
    if (c.acting e).getLsbD l then f l else (c.getP (aluFields e).d).getLsbD l

/-- Register `r` after an instruction: the acting lanes hold `f`, the others keep their values. -/
def regIs (e : Enc) (c d : Clause) (r : Nat) (f : Nat → W32) : Prop :=
  r ≠ 255 → ∀ l < 32, d.getV r l = if (c.acting e).getLsbD l then f l else c.getV r l

/-- Where `a cond b` holds of two integers (Table 3.9). -/
def intCond (aux : Nat) (a b : Int) : Bool := match aux with
  | 0 => a == b
  | 1 => a != b
  | 2 => decide (a < b)
  | 3 => decide (a ≤ b)
  | 4 => decide (b < a)
  | _ => decide (b ≤ a)

/-- Where `a cond b` holds of two numbers, or of a NaN (Table 3.9): -0 equals +0, for values are compared. -/
def floatCond (aux : Nat) (x y : FVal) : Bool :=
  let nan := x.isNan || y.isNan
  match aux with
  | 0 => !nan && x.cmp y == .eq
  | 1 => nan || x.cmp y != .eq
  | 2 => !nan && x.cmp y == .lt
  | 3 => !nan && x.cmp y != .gt
  | 4 => !nan && x.cmp y == .gt
  | 5 => !nan && x.cmp y != .lt
  | 6 => !nan
  | 7 => nan
  | 8 => nan || x.cmp y == .lt
  | 9 => nan || x.cmp y != .gt
  | 10 => nan || x.cmp y == .gt
  | 11 => nan || x.cmp y != .lt
  | _ => nan || x.cmp y == .eq

/-- A compare sets FIV: on a signalling NaN, and with LT, LE, GT and GE on any (Table 3.9). -/
def condInvalid (aux : Nat) (x y : FVal) : Bool :=
  x.isSnan || y.isSnan || ((x.isNan || y.isNan) && decide (2 ≤ aux) && decide (aux ≤ 5))

/-- Status words after an instruction: the acting lanes have taken flags, the others keep theirs. -/
def statusIs (e : Enc) (c d : Clause) (f : Nat → FlagEff) : Prop :=
  ∀ l < 32, d.getStatus l = if (c.acting e).getLsbD l then (f l).apply (c.getStatus l) else c.getStatus l

/-- Compares, selects, predicate logic and votes (R146, R147, R149). -/
def predicates : List ClauseClaim :=
  let pp (b : Use) : Form := { d := .pred, a := .pred, b := b }
  let pbit (c : Clause) (f l : Nat) : Bool := (c.getP f).getLsbD l
  let two (i : At → Enc → Instr) (f : Bool → Bool → Bool) : ClauseClaim :=
    { instr := i, legal := (pp .pred).ok
      post := fun _ _ e c d => predIs e c d fun l => f (pbit c (aluFields e).a l) (pbit c (aluFields e).b l) }
  let setp : Form := { tys := [0, 1, 2, 3, 8, 9], d := .pred, b := .reg, aux := 12 }
  let sel : Form := { tys := [0, 2], d := .vec, b := .reg, c := .pred }
  let vote (e : Enc) : Bool := ({ d := .own, a := .pred, aux := 2 } : Form).ok e &&
    (if (aluFields e).aux == 2 then (Opd.of (aluFields e).d).isU && !e.p else decide ((aluFields e).d < 8))
  [ { instr := .setp, legal := fun e => setp.ok e && (decide ((aluFields e).aux < 6) || decide (8 ≤ (aluFields e).ty))
      regs := setp.regs
      post := fun _ _ e c d =>
        let x := aluFields e
        let w := tyBits x.ty
        let num (n : Nat) : Int := intVal w (tySigned x.ty) n
        let val (n : Nat) : FVal := (if x.ty = 9 then fmtF64 else fmtF32).decode n
        (x.ty < 8 → (predIs e c d fun l => intCond x.aux (num (c.opd x.a w l)) (num (c.srcB e l))) ∧ statusIs e c d fun _ => {}) ∧
        (8 ≤ x.ty → (predIs e c d fun l => floatCond x.aux (val (c.opd x.a w l)) (val (c.srcB e l))) ∧
          statusIs e c d fun l => { fp := { iv := condInvalid x.aux (val (c.opd x.a w l)) (val (c.srcB e l)) } }) }
  , { instr := .sel, legal := sel.ok, regs := sel.regs
      post := fun _ _ e c d =>
        let x := aluFields e
        let w := tyBits x.ty
        c.KeepsBut d w x.d (c.acting e) ∧ ∀ l ∈ maskLanes (c.acting e),
          d.holds x.d w l (if pbit c x.c l then c.opd x.a w l else c.opd x.b w l) }
  , two .pand (· && ·), two .por (· || ·), two .pxor (· ^^ ·)
  , { instr := .pnot, legal := (pp .no).ok
      post := fun _ _ e c d => predIs e c d fun l => !pbit c (aluFields e).a l }
  , { instr := .p2u, legal := fun e => ({ d := .uni, a := .pred } : Form).ok e && !e.p
      regs := ({ d := .uni, a := .pred } : Form).regs, lanes := fun _ => false
      post := fun _ _ e c d => d.getU ((aluFields e).d - 256) = (c.getP (aluFields e).a).zeroExtend 64 }
  , { instr := .u2p, legal := ({ d := .pred, a := .uni } : Form).ok, regs := ({ d := .pred, a := .uni } : Form).regs
      post := fun _ _ e c d => predIs e c d fun l => (c.getU ((aluFields e).a - 256)).getLsbD l }
  , { instr := .vote, legal := vote
      regs := fun e => { uw := if (aluFields e).aux == 2 then (Opd.of (aluFields e).d).uregs else [] }
      post := fun _ _ e c d =>
        ((aluFields e).aux = 0 → predIs e c d fun _ => (maskLanes (c.acting e)).any (pbit c (aluFields e).a)) ∧
        ((aluFields e).aux = 1 → predIs e c d fun _ => (maskLanes (c.acting e)).all (pbit c (aluFields e).a)) ∧
        ((aluFields e).aux = 2 → d.getU ((aluFields e).d - 256) = (c.getP (aluFields e).a &&& c.active).zeroExtend 64) } ]

/-- Immediates, lane exchange, and the special registers (R121, R133, R135, R148, R149, R152). -/
def moves : List ClauseClaim :=
  let dst (e : Enc) : Nat := Enc.f e 47 39
  let imm (e : Enc) : Nat := Enc.f e 31 0
  let isU (e : Enc) : Bool := (Opd.of (dst e)).isU
  let shfl : Form := { d := .vec, b := .reg, aux := 3 }
  let v2u : Form := { d := .uni, a := .vec, b := .uni }
  let srd (e : Enc) : Form := { a := .no, b := .own, dw := some (if sregWide (aluFields e).b then 64 else 32) }
  let swr : Form := { d := .no, b := .own }
  [ { instr := .movi, legal := fun e => moviOk e && !(isU e && e.p), lanes := fun e => !isU e
      regs := fun e => { vw := (Opd.of (dst e)).vregs 1, uw := (Opd.of (dst e)).uregs }
      post := fun _ _ e c d => (isU e = true → d.getU (dst e - 256) = BitVec.ofNat 64 (imm e)) ∧
        (isU e = false → regIs e c d (dst e) fun _ => BitVec.ofNat 32 (imm e)) }
  , { instr := .movih, legal := fun e => moviOk e && isU e && !e.p, lanes := fun _ => false
      regs := fun e => { ur := (Opd.of (dst e)).uregs, uw := (Opd.of (dst e)).uregs }
      post := fun _ _ e c d => d.getU (dst e - 256) =
        BitVec.ofNat 64 ((c.getU (dst e - 256)).toNat % 2 ^ 32 + 2 ^ 32 * imm e) }
  , { instr := .shfl, legal := shfl.ok, regs := shfl.regs
      post := fun _ _ e c d => regIs e c d (aluFields e).d fun l =>
        let b : Int := c.opd (aluFields e).b 32 l
        let from_ : Int := match (aluFields e).aux with
          | 0 => b
          | 1 => l - b
          | 2 => l + b
          | _ => (Nat.xor l b.toNat : Nat)
        BitVec.ofNat 32 (c.opd (aluFields e).a 32 (if 0 ≤ from_ ∧ from_ < 32 then from_.toNat else l)) }
  , { instr := .v2u, legal := fun e => v2u.ok e && !e.p, regs := v2u.regs, lanes := fun _ => false
      post := fun _ _ e c d =>
        let l := c.opd (aluFields e).b 32 0
        d.getU ((aluFields e).d - 256) = if l < 32 then (c.getV (aluFields e).a l).zeroExtend 64 else 0 }
  , { instr := .srd
      legal := fun e => (srd e).ok e && sregOk (aluFields e).b && !((Opd.of (aluFields e).d).isU && sregLane (aluFields e).b)
      regs := fun e => { ((srd e).regs e) with ur := [] }, lanes := fun e => !(Opd.of (aluFields e).d).isU
      order := fun e => (aluFields e).b == 0x10 || (aluFields e).b == 0x11
      post := fun t a e c d =>
        let k := t.tileKernel a.tile
        let x := aluFields e
        (x.b = 0x05 → regIs e c d x.d fun l => BitVec.ofNat 32 l) ∧
        (x.b = 0x10 → regIs e c d x.d fun l => c.getStatus l) ∧
        ((Opd.of x.d).isU = true →
          (x.b = 0x00 → d.getU (x.d - 256) = BitVec.ofNat 64 a.tile) ∧
          (x.b = 0x02 → d.getU (x.d - 256) = BitVec.ofNat 64 k.blkCount) ∧
          (x.b = 0x06 → d.getU (x.d - 256) = BitVec.ofNat 64 k.part) ∧
          (x.b = 0x07 → d.getU (x.d - 256) = BitVec.ofNat 64 k.ctx) ∧
          (x.b = 0x08 → d.getU (x.d - 256) = BitVec.ofNat 64 (t.fld (cohEpoch k.part))) ∧
          (x.b = 0x09 → d.getU (x.d - 256) = c.active.zeroExtend 64) ∧
          (x.b = 0x0A → d.getU (x.d - 256) = c.live.zeroExtend 64) ∧
          (x.b = 0x0B → d.getU (x.d - 256) = BitVec.ofNat 64 (t.cycle (frondOf a.tile))) ∧
          (x.b = 0x0C → d.getU (x.d - 256) = BitVec.ofNat 64 t.timeNs) ∧
          (x.b = 0x11 → d.getU (x.d - 256) = c.ustatus.zeroExtend 64) ∧
          (x.b = 0x12 → d.getU (x.d - 256) = c.mode.zeroExtend 64)) }
  , { instr := .swr
      legal := fun e => swr.ok e && ((aluFields e).b == 0x10 || (aluFields e).b == 0x11 || (aluFields e).b == 0x12) &&
        ((aluFields e).b == 0x10 || ((Opd.of (aluFields e).a).isU && !e.p))
      regs := fun e => { (swr.regs e) with vw := [], uw := [] }, lanes := fun e => (aluFields e).b == 0x10
      order := fun e => (aluFields e).b != 0x12
      post := fun _ _ e c d =>
        let x := aluFields e
        let v : W32 := BitVec.ofNat 32 (c.opd x.a 32 0)
        (x.b = 0x10 → ∀ l < 32, d.getStatus l =
          if (c.acting e).getLsbD l then BitVec.ofNat 32 (c.opd x.a 32 l) &&& 0x1F0303 else c.getStatus l) ∧
        (x.b = 0x11 → d.ustatus = v &&& 0x1F0303) ∧
        (x.b = 0x12 → d.mode = if 5 ≤ (v &&& 7).toNat then v &&& 0x18 else v &&& 0x1F) } ]

/-- FCLASS, minima and maxima of numbers with a NaN (R156, R157), CVT between integers (Table 3.10), MASKGEN's modes (R218), and the
completion of the other floating-point and softmax operations (R153, R158, R216). -/
def conversions : List AluClaim :=
  let f : Form := { tys := [8, 9], imm := true, d := .vec, b := .reg }
  let one (i : AluIn) (r : Nat × FFlags) : Nat × FlagEff :=
    let x := i.fmt.decode i.a
    let y := i.fmt.decode i.b
    let iv : FlagEff := { fp := { iv := x.isSnan || y.isSnan } }
    if x.isNan && y.isNan then (if i.w = 64 then 0x7FF8000000000000 else 0x7FC00000, iv) else (r.1, { fp := r.2 })
  [ { instr := .fmin, fm := f, res := fun i => one i (i.fmt.minMax false i.ftz i.a i.b) }
  , { instr := .fmax, fm := f, res := fun i => one i (i.fmt.minMax true i.ftz i.a i.b) }
  , { instr := .ffma, fm := { tys := [8, 9], rm := true, d := .vec, b := .reg, c := .reg }, ok := fun x => x.rm != 5
      res := fun i => ((i.fmt.fma i.rm i.ftz i.a i.b i.c).1, { fp := (i.fmt.fma i.rm i.ftz i.a i.b i.c).2 }) }
  , { instr := .fclass, fm := { tys := [8, 9], dw := some 32, d := .vec }, res := fun i =>
        (match i.fmt.decode i.a with
        | .nan true => 1
        | .nan false => 2
        | .inf true => 4
        | .inf false => 512
        | .fin neg m _ =>
          if m = 0 then (if neg then 32 else 64)
          else if m < 2 ^ i.fmt.mb then (if neg then 16 else 128) else (if neg then 8 else 256), {}) } ]

/-- The special functions (R158): an f32 operand, no second one. -/
def specials : List (AluClaim) :=
  let f : Form := { tys := [8], d := .vec }
  let out (r : Nat × FFlags) : Nat × FlagEff := (r.1, { fp := r.2 })
  let val (i : AluIn) : FVal := fmtF32.operand i.ftz32 i.a
  [ { instr := .exp2, fm := f, res := fun i => match val i with
        | .inf true => (0, {})
        | .inf false => (0x7F800000, {})
        | _ => out (spExp2 i.ftz32 i.a) }
  , { instr := .log2, fm := f, res := fun i => match val i with
        | .fin _ 0 _ => (0xFF800000, { fp := { dz := true } })
        | .inf true | .fin true _ _ => (0x7FC00000, { fp := { iv := true } })
        | _ => out (spLog2 i.ftz32 i.a) }
  , { instr := .rcp, fm := f, res := fun i => match val i with
        | .fin neg 0 _ => (if neg then 0xFF800000 else 0x7F800000, { fp := { dz := true } })
        | _ => out (spRcp i.ftz32 i.a) }
  , { instr := .rsq, fm := f, res := fun i => match val i with
        | .fin neg 0 _ => (if neg then 0xFF800000 else 0x7F800000, { fp := { dz := true } })
        | .inf true | .fin true _ _ => (0x7FC00000, { fp := { iv := true } })
        | _ => out (spRsq i.ftz32 i.a) }
  , { instr := .tanh, fm := f, res := fun i => out (spTanh i.ftz32 i.a) } ]

/-- A value that a row of Table 4.11 passes on: a subnormal is a zero of its sign under ftz32 (R155), and a NaN canonical (R154). -/
def passedOn (ftz : Bool) (x : W32) : W32 := match fmtF32.decode x.toNat with
  | .nan _ => 0x7FC00000
  | .fin neg m _ => if ftz && decide (m < 2 ^ 23) then (if neg then 0x80000000 else 0) else x
  | .inf _ => x

/-- CVT between integers (Table 3.10), SMXSTEP on a score of -infinity (Table 4.11), and MASKGEN (R218). -/
def softmax : List ClauseClaim :=
  let smx : Form := { tys := [8], d := .own, a := .own, b := .no, c := .no, aux := 1 }
  let merge (e : Enc) : Bool := (aluFields e).aux == 1
  let mask : Form := { d := .vec, b := .reg, c := .reg }
  [ { instr := .cvt, legal := fun e => (cvtForm (aluFields e)).ok e && cvtKeyOk (aluFields e)
      lanes := fun e => !(cvtForm (aluFields e)).uniform (aluFields e)
      regs := fun e => { ((cvtForm (aluFields e)).regs e) with
        ur := ((cvtForm (aluFields e)).regs e).ur ++ (if (aluFields e).rm == 5 then (Opd.of (aluFields e).c).uregs else []) }
      post := fun _ _ e c d =>
        let x := aluFields e
        let w := tyBits x.ty
        let i : AluIn := { w := w, sg := tySigned x.ty, sat := x.sat }
        x.ty < 8 → x.aux < 8 → ∀ l ∈ c.resultLanes (cvtForm x) e,
          d.holds x.d w l (fitted i (intVal (tyBits x.aux) (tySigned x.aux) (c.opd x.a (tyBits x.aux) l % 2 ^ tyBits x.aux))) }
  , { instr := .smxstep
      legal := fun e => smx.ok e && (Opd.of (aluFields e).d).isV && (Opd.of (aluFields e).d).aligned 4 &&
        (if merge e then (Opd.of (aluFields e).a).isV && (Opd.of (aluFields e).a).aligned 2 else Opd.of (aluFields e).a != .bad)
      regs := fun e =>
        let d := Opd.of (aluFields e).d
        let a := Opd.of (aluFields e).a
        { vr := d.vregs 2 ++ a.vregs (if merge e then 2 else 1), vw := d.vregs 4, ur := a.uregs }
      post := fun _ _ e c d =>
        let x := aluFields e
        ∀ l ∈ maskLanes (c.acting e), c.opd x.a 32 l = 0xFF800000 → (fmtF32.decode (c.getV x.d l).toNat).isNan = false →
          d.getV x.d l = passedOn (c.mode.getLsbD 3) (c.getV x.d l) ∧
          d.getV (x.d + 1) l = passedOn (c.mode.getLsbD 3) (c.getV (x.d + 1) l) ∧
          (x.d ≠ 252 → d.getV (x.d + 3) l = 0x3F800000) ∧ d.getV (x.d + 2) l = 0 }
  , { instr := .maskgen, legal := mask.ok, regs := mask.regs
      when_ := fun e c => ∀ l ∈ maskLanes (c.acting e), c.opd (aluFields e).c 32 l / 4 % 64 = 0
      post := fun _ _ e c d =>
        let x := aluFields e
        x.d ≠ 255 → ∀ l ∈ maskLanes (c.acting e), ∀ j < 32,
          let q := c.opd x.a 32 l % 2 ^ 24
          let k := c.opd x.b 32 l % 2 ^ 24 + j
          let m := c.opd x.c 32 l
          let w := if m / 256 = 0 then 2 ^ 24 else m / 256
          ((d.getV x.d l).getLsbD j = true ↔ k < 2 ^ 24 ∧ (match m % 4 with
            | 0 => k ≤ q
            | 1 => k ≤ q ∧ q - k < w
            | 2 => k < w ∨ k ≤ q
            | _ => True)) } ]

/-- Every instruction of classes 0x0 to 0x8 that writes a destination field and status words alone. -/
def aluRows : List AluClaim := arithmetic ++ bitwise ++ signs ++ floats ++ conversions ++ specials

/-- The others of classes 0x0 to 0x8. -/
def clauseRows : List ClauseClaim := predicates ++ moves ++ softmax

/-! ### Branches, the reconvergence stack, barrier, fence, exit, wait (R123 to R130, R171 to R174) -/

/-- The target of an offset, and of u[ua]. -/
def branchTo (e : Enc) (c : Clause) : W64 := c.pc + (BitVec.ofNat 32 (Enc.f e 31 0)).signExtend 64 * 8

/-- A stack entry's word: mask, kind, and pc in 8-byte units from the kernel's entry (Table 3.5). -/
def entryWord (mask : W32) (pending : Bool) (units : Nat) : W64 :=
  BitVec.ofNat 64 (mask.toNat * 2 ^ 32 + (if pending then 2 ^ 31 else 0) + units)

/-- An address can be held in an entry: it lies from the kernel's entry on, in fewer than 2^31 units. -/
def unitsTo (k : Kernel) (pc : W64) (units : Nat) : Prop := (pc - k.entry).toNat / 8 = units ∧ units < 2 ^ 31

/-- A control instruction: its fields beyond the kind are 0 where it does not use them; after it, the clause is `d`, the one
thing that has changed. -/
structure BranchClaim where
  instr : At → Enc → Instr
  legal : Enc → Bool
  regs : Enc → RegUse := fun _ => {}
  lanes : Bool := true
  /-- for the kernel, the word, the clause before and the clause after: what holds of them -/
  step : Kernel → Enc → Clause → Clause → Prop

/-- Where `step` relates the clause to a clause `d`, the instruction completes with exactly the change of the clause to `d`. -/
def BranchClaim.holds (r : BranchClaim) : Prop :=
  ∀ (s s' : State) (a : At) (e : Enc) (d : Clause),
    s.Issues a e { legal := r.legal e, regs := r.regs e, lanes := r.lanes } s' →
    r.step (s'.tileKernel a.tile) e (s'.clause a) d →
    exec (r.instr a e) s = .next ((s'.issued a).setClause a d)

def branches : List BranchClaim :=
  let taken (e : Enc) (c : Clause) : W32 := c.acting e
  let other (e : Enc) (c : Clause) : W32 := c.active &&& ~~~(c.acting e)
  let next (c : Clause) : Clause := { c with pc := c.pc + 8 }
  let kind (e : Enc) : Nat := Enc.f e 35 32
  let ua (e : Enc) : Nat := Enc.f e 47 42
  let ul (e : Enc) : Nat := Enc.f e 41 36
  let link (e : Enc) (c d : Clause) (tgt : W64) : Prop :=
    tgt.toNat % 8 = 0 ∧ d = { (c.putU (ul e) (c.pc + 8)) with pc := tgt }
  [ { instr := .br, legal := fun e => bOk e false false true 3
      step := fun k e c d =>
        (kind e = 0 ∧ taken e c = 0 ∧ d = next c) ∨
        (kind e = 0 ∧ taken e c ≠ 0 ∧ other e c = 0 ∧ d = { c with pc := branchTo e c }) ∨
        (kind e = 0 ∧ taken e c ≠ 0 ∧ other e c ≠ 0 ∧ c.stack.length < 32 ∧ ∃ n, unitsTo k (c.pc + 8) n ∧
          d = { c with stack := entryWord (other e c) true n :: c.stack, active := taken e c, pc := branchTo e c }) ∨
        (kind e = 1 ∧ d = if taken e c = 0 then next c else { c with pc := branchTo e c }) ∨
        (kind e = 2 ∧ d = if other e c = 0 then { c with pc := branchTo e c } else next c) }
  , { instr := .brx, legal := fun e => bOk e true false false 1 && !e.p, regs := fun e => { ur := [ua e] }, lanes := false
      step := fun _ e c d => (c.getU (ua e)).toNat % 8 = 0 ∧ d = { c with pc := c.getU (ua e) } }
  , { instr := .call, legal := fun e => bOk e (kind e == 1) true (!(kind e == 1)) 2
      regs := fun e => { ur := if kind e == 1 then [ua e] else [], uw := [ul e] }
      step := fun _ e c d =>
        (e.p = true ∧ taken e c = 0 ∧ d = next c) ∨
        ((e.p = false ∨ taken e c ≠ 0) ∧ kind e = 1 ∧ link e c d (c.getU (ua e))) ∨
        ((e.p = false ∨ taken e c ≠ 0) ∧ kind e ≠ 1 ∧ link e c d (branchTo e c)) }
  , { instr := .split, legal := fun e => bOk e false false true 1 && !e.p
      step := fun k e c d => c.stack.length < 32 ∧ ∃ n, unitsTo k (branchTo e c) n ∧
        d = { c with stack := entryWord c.active false n :: c.stack, pc := c.pc + 8 } }
  , { instr := .join, legal := fun e => bOk e false false false 1 && !e.p
      step := fun k _ c d =>
        (c.stack = [] ∧ d = next c) ∨
        ∃ mask pending units rest, units < 2 ^ 31 ∧ c.stack = entryWord mask pending units :: rest ∧
          d = { c with stack := rest, active := mask
                       pc := k.entry + BitVec.ofNat 64 (units * 8) + (if pending then 0 else 8) } }
  , { instr := .nop, legal := fun e => headerOk e && !e.imm && e.body == 0, step := fun _ _ c d => d = next c }
  , { instr := .exit, legal := fun e => headerOk e && !e.imm && e.body == 0
      step := fun _ e c d =>
        let keep : W64 := (~~~(taken e c)).zeroExtend 64 <<< 32 ||| 0xFFFFFFFF
        c.live &&& ~~~(taken e c) ≠ 0 ∧ other e c ≠ 0 ∧
        d = { c with live := c.live &&& ~~~(taken e c), active := other e c, stack := c.stack.map (· &&& keep), pc := c.pc + 8 } }
  , { instr := .wait, legal := waitOk, lanes := false
      regs := fun e =>
        let mem := Enc.f e 43 40 == 3 || Enc.f e 43 40 == 4 || Enc.f e 43 40 == 5
        { ur := (if mem then [Enc.f e 38 33, Enc.f e 32 27] else []) ++ (if mem || Enc.f e 43 40 == 6 then [Enc.f e 26 21] else []) }
      step := fun _ e c d =>
        (Enc.f e 43 40 = 0 ∨ (Enc.f e 43 40 = 2 ∧ c.ldcnt ≤ Enc.f e 5 0 ∧ c.stcnt ≤ Enc.f e 11 6 ∧ c.mxcnt ≤ Enc.f e 17 12)) ∧
        d = { (if bitOf e.body.toNat 47 then c.putP (Enc.f e 46 44) c.live (~~~0) else c) with pc := c.pc + 8, wait := {} } } ]

/-- FENCE with order release or stronger: no access issues until the earlier ones, at module scope the host writes too, are
performed (R173, R280, R281). -/
def fenced (e : Enc) (c : Clause) : Clause :=
  { c with pc := c.pc + 8, fenceLd := true, fenceSt := c.fenceSt || decide (2 ≤ Enc.f e 17 16)
           fenceHost := c.fenceHost || decide (2 ≤ Enc.f e 17 16 ∧ 3 ≤ Enc.f e 15 13) }

def fenceOk (e : Enc) : Bool :=
  headerOk e && !e.imm && !e.p && Enc.f e 17 16 != 0 && decide (Enc.f e 15 13 ≤ 4) && Enc.f e 47 18 == 0 && Enc.f e 12 0 == 0

/-! ### Loads, stores and atomics (R159 to R170, R271, R277) -/

/-- A memory instruction: its encoding check, its registers, its lanes with their addresses and operands, what it does, and whether
values come back. -/
structure MemClaim where
  instr : At → Enc → Instr
  legal : Enc → Bool
  regs : Enc → RegUse
  lanes : Bool := true
  acc : Clause → Enc → List LaneAcc
  op : MemOp
  returns : Enc → Bool
  kind : Enc → ReqKind → Prop

/-- Each acting lane in ascending order, with its operand. -/
def lanesOf (c : Clause) (e : Enc) (val new : Clause → Nat → Nat) : List LaneAcc :=
  (maskLanes (c.acting e)).map fun l => { lane := l, ea := effAddr c (memFields e) l, val := val c l, new := new c l }

def zeroVal : Clause → Nat → Nat := fun _ _ => 0

def loadRow (i : At → Enc → Instr) (sext : Bool) : MemClaim :=
  { instr := i
    legal := fun e => loadOk e (memFields e) && (Opd.of (memFields e).d).isV &&
      (Opd.of (memFields e).d).aligned (sizeRegs (memFields e).size) && (!sext || decide ((memFields e).size < 2))
    regs := fun e => memRegs (memFields e) [] ((Opd.of (memFields e).d).vregs (sizeRegs (memFields e).size))
    acc := fun c e => lanesOf c e zeroVal zeroVal, op := .load sext, returns := fun _ => true
    kind := fun _ k => k = .rd ∨ k = .rdRo }

def atomRow (i : At → Enc → Instr) (op : Nat) : MemClaim :=
  let cas := op == 0xA9
  let n (e : Enc) : Nat := sizeRegs (memFields e).size
  let k (e : Enc) : Nat := if cas then 2 * n e else n e
  { instr := i
    legal := fun e =>
      let x := memFields e
      memOk e { x with ro := false } && (x.size == 2 || x.size == 3) && (Opd.of x.d).isV && (Opd.of x.d).aligned (k e) &&
        !(x.ro && (cas || op == 0xA8)) && !(x.ro && x.order % 2 == 1)
    regs := fun e =>
      let x := memFields e
      memRegs x ((Opd.of x.d).vregs (k e)) (if x.ro then [] else (Opd.of x.d).vregs (n e))
    acc := fun c e => (maskLanes (c.acting e)).map fun l =>
      { lane := l, ea := effAddr c (memFields e) l, val := vNum c (memFields e).d (n e) l
        new := if cas then vNum c ((memFields e).d + n e) (n e) l else 0 }
    op := .atomic op, returns := fun e => !(memFields e).ro
    kind := fun _ q => q = .atom ∨ q = .red }

def memRows : List MemClaim :=
  [ loadRow .ld false, loadRow .lds true
  , { instr := .ldu, legal := fun e => loadOk e (memFields e) && uniAccessOk e (memFields e), lanes := false
      regs := fun e => { ur := [(memFields e).ub], uw := (Opd.of (memFields e).d).uregs }
      acc := fun c e => [{ lane := 0, ea := effAddr c (memFields e) 0 }], op := .load false, returns := fun _ => true
      kind := fun _ k => k = .rd ∨ k = .rdRo }
  , { instr := .st
      legal := fun e => storeOk e (memFields e) && (match Opd.of (memFields e).d with
        | .v n => n % sizeRegs (memFields e).size == 0
        | .u r => (memFields e).size != 4 || r % 2 == 0
        | .bad => false)
      regs := fun e =>
        let x := memFields e
        let u := memRegs x ((Opd.of x.d).vregs (sizeRegs x.size)) []
        if x.size = 4 then { u with ur := u.ur ++ (Opd.of x.d).uregs.map (· + 1) } else u
      acc := fun c e => (maskLanes (c.acting e)).map fun l =>
        { lane := l, ea := effAddr c (memFields e) l, val := storeVal c (memFields e) l }
      op := .store, returns := fun _ => false, kind := fun _ k => k = .wr }
  , { instr := .stu, legal := fun e => storeOk e (memFields e) && uniAccessOk e (memFields e), lanes := false
      regs := fun e => { ur := [(memFields e).ub] ++ (Opd.of (memFields e).d).uregs }
      acc := fun c e => [{ lane := 0, ea := effAddr c (memFields e) 0, val := storeVal c (memFields e) 0 }]
      op := .store, returns := fun _ => false, kind := fun _ k => k = .wr }
  , atomRow .atomAdd 0xA0, atomRow .atomMinu 0xA1, atomRow .atomMins 0xA2, atomRow .atomMaxu 0xA3, atomRow .atomMaxs 0xA4
  , atomRow .atomAnd 0xA5, atomRow .atomOr 0xA6, atomRow .atomXor 0xA7, atomRow .atomExch 0xA8, atomRow .atomCas 0xA9
  , atomRow .atomFadd 0xAA ]

/-- The access may issue: no lane faults by itself, fences and acquires before it are complete, a release's earlier accesses are
performed, and its counter has room (R75, R280, R670). -/
structure MemClaim.May (r : MemClaim) (s s' : State) (a : At) (e : Enc) : Prop where
  issues : s.Issues a e { legal := r.legal e, regs := r.regs e, lanes := r.lanes } s'
  acts : r.acc (s'.clause a) e ≠ []
  sound : ∀ y ∈ r.acc (s'.clause a) e,
    laneFault (s'.tileKernel a.tile) ((s'.tile a.tile).block (s'.clause a).blk) (s'.vaBits (s'.tileKernel a.tile).ctx)
      (memFields e) r.op y.ea = none
  order : (s'.clause a).mayAccess = true
  release : 2 ≤ (memFields e).order → (s'.clause a).mayRelease (memFields e).scope = true
  room : if r.returns e then (s'.clause a).ldcnt ≠ 63 else (s'.clause a).stcnt ≠ 63

/-- A scratchpad access acts in the tile's SRAM at once, lane after lane from the block's base; its values are on their way. -/
def MemClaim.holdsLocal (r : MemClaim) : Prop :=
  ∀ (s s' : State) (a : At) (e : Enc), r.May s s' a e → (memFields e).space = 1 →
    let c := s'.clause a
    let t0 := s'.tile a.tile
    let run := spmRun t0.spm ((t0.block c.blk).spmBase * 4096) (sizeBytes (memFields e).size) r.op (r.acc c e)
    ∃ t, exec (r.instr a e) s = .next t ∧ (t.tile a.tile).spm = run.1 ∧ (t.clause a).pc = c.pc + 8 ∧
      (t.clause a).ldcnt = (if r.returns e then c.ldcnt + 1 else c.ldcnt) ∧
      (r.returns e = true → ∃ d ∈ (t.clause a).loads, d.vals = run.2 ∧ d.loc = true ∧ d.store = false) ∧
      t.mem = s'.mem ∧ t.host = s'.host ∧ t.regs = s'.regs ∧ t.reqs = s'.reqs ∧ t.hostReqs = s'.hostReqs ∧
      ∀ u, u ≠ a.tile → t.tile u = s'.tile u

/-- A global access of which every lane is translated issues: requests of the instruction's kind go to the homes and to the host,
the counter rises, and no byte of memory has changed yet. -/
def MemClaim.holdsGlobal (r : MemClaim) : Prop :=
  ∀ (s s' s2 : State) (a : At) (e : Enc) (rs : List (Loc ⊕ WalkRes)) (miss : Bool) (locs : List Loc),
    r.May s s' a e → (memFields e).space = 0 →
    (s'.issued a).translateAll ((s'.issued a).whoTile a.tile) (s'.tileKernel a.tile).ctx (match r.op with
      | .load _ => .read
      | .store => .write
      | .atomic _ => .atomic) ((r.acc (s'.clause a) e).map (·.ea)) = (s2, rs, miss) →
    placesOf 5 (fun _ => false) ((r.acc (s'.clause a) e).map (·.ea)) rs = .ok locs → (∀ l ∈ locs, l.host = false) →
    ∃ t qs, exec (r.instr a e) s = .next t ∧ t.reqs = s2.reqs ++ qs ∧
      (∀ q ∈ qs, q.src = .clause a ∧ r.kind e q.kind ∧ ∃ l ∈ locs, q.line = l.addr / 128) ∧
      (t.clause a).pc = (s'.clause a).pc + 8 ∧
      (t.clause a).ldcnt = (if r.returns e then (s'.clause a).ldcnt + 1 else (s'.clause a).ldcnt) ∧
      (t.clause a).stcnt = (if r.returns e then (s'.clause a).stcnt else (s'.clause a).stcnt + 1) ∧
      t.mem = s2.mem ∧ t.host = s2.host ∧ t.regs = s2.regs ∧ t.hostReqs = s2.hostReqs ∧
      ∀ u, u ≠ a.tile → t.tile u = s2.tile u

/-! ### The matrix unit (R75, R188 to R200) -/

/-- A matrix instruction with its encoding check, the registers it reads and writes, and the uniform key it reads. -/
structure MatClaim where
  instr : At → Enc → Instr
  op : Nat
  legal : Enc → Bool
  src : Enc → List Nat := fun _ => []
  dst : Enc → List Nat := fun _ => []
  ur : Enc → List Nat := fun _ => []
  random : Enc → Bool := fun _ => false

def matRows : List MatClaim :=
  let row (e : Enc) : Option Nat := mmaRow (Enc.f e 20 17) (Enc.f e 16 13)
  let scaled (e : Enc) : Bool := row e == some 4 || row e == some 5
  let t (e : Enc) : Nat := Enc.f e 35 32
  let sr (e : Enc) : Bool := Enc.f e 31 29 == 5
  [ { instr := .mma, op := 0xD0
      legal := fun e => (row e).isSome && matBaseOk (Enc.f e 47 39) && matBaseOk (Enc.f e 38 30) && Enc.f e 10 0 == 0 &&
        (if scaled e then decide (Enc.f e 29 21 < 256) && Enc.f e 29 21 % 2 == 0 else Enc.f e 29 21 == 0)
      src := fun e => matGroup (Enc.f e 47 39) (matRegs (Enc.f e 20 17)) ++ matGroup (Enc.f e 38 30) (matRegs (Enc.f e 16 13)) ++
        (if scaled e then matGroup (Enc.f e 29 21) 2 else []) }
  , { instr := .mmas, op := 0xD1
      legal := fun e => (Enc.f e 29 26 == 6 || Enc.f e 29 26 == 8) && matBaseOk (Enc.f e 47 39) && matBaseOk (Enc.f e 38 30) &&
        Enc.f e 24 0 == 0
      src := fun e => matGroup (Enc.f e 47 39) 64 ++ matGroup (Enc.f e 38 30) 64 }
  , { instr := .accld, op := 0xD2
      legal := fun e => decide (t e < 2) && (t e == 0 || Enc.f e 36 36 == 0) && matBaseOk (Enc.f e 47 39) && Enc.f e 31 0 == 0
      src := fun e => matGroup (Enc.f e 47 39) (accRegs (t e)) }
  , { instr := .accst, op := 0xD3
      legal := fun e => decide (t e < 4) && (t e != 1 || Enc.f e 36 36 == 0) && matBaseOk (Enc.f e 47 39) && Enc.f e 19 0 == 0 &&
        (if t e < 2 then Enc.f e 31 29 == 0 else Enc.f e 31 29 != 6) &&
        (if sr e then (Opd.of (Enc.f e 28 20)).isU else Enc.f e 28 20 == 0)
      dst := fun e => matGroup (Enc.f e 47 39) (accRegs (t e))
      ur := fun e => if sr e then (Opd.of (Enc.f e 28 20)).uregs else [], random := sr }
  , { instr := .accz, op := 0xD4, legal := fun e => Enc.f e 47 46 != 0 && Enc.f e 45 0 == 0 } ]

def MatClaim.holds (r : MatClaim) : Prop :=
  ∀ (s s' : State) (a : At) (e : Enc),
    s.Issues a e { legal := r.legal e && headerOk e && !e.p && !e.imm, regs := { vr := r.src e, vw := r.dst e, ur := r.ur e }
                   lanes := false } s' →
    (s.tile a.tile).matq.length < 4 → (s.clause a).mxcnt ≠ 63 →
    ∃ t j, exec (r.instr a e) s = .next t ∧ (t.tile a.tile).matq.map (·.op) = (s'.tile a.tile).matq.map (·.op) ++ [r.op] ∧
      (t.tile a.tile).matq.getLast? = some j ∧ j.entry = a.entry ∧ j.body = e.body ∧ j.srcRegs = r.src e ∧
      (∀ q ∈ r.src e, ∀ l < 32, tabGet wDef j.src (q * 32 + l) = (s'.clause a).getV q l) ∧
      (t.clause a).mxcnt = (s'.clause a).mxcnt + 1 ∧ (t.clause a).pc = (s'.clause a).pc + 8 ∧
      (t.clause a).ctr = (if r.random e then (s'.clause a).ctr + 1 else (s'.clause a).ctr) ∧
      (t.tile a.tile).acc = (s'.tile a.tile).acc ∧ t.mem = s'.mem ∧ t.host = s'.host

/-! ### What the statements about events and set-up commands share -/

/-- At most one tile has changed, and time may have passed. -/
def TileOnly (s t : State) (u : Nat) : Prop :=
  t = { s with now := t.now, tiles := t.tiles } ∧ s.now ≤ t.now ∧ ∀ v, v ≠ u → t.tile v = s.tile v

/-- The clause runs on: READY, or ACTIVE where it still holds an active slot (R68), with its wait over. -/
def RunsOn (s t : State) (a : At) : Prop :=
  (t.clause a).st = (if ((s.tile a.tile).slotOf a.entry).isSome then .active else .ready) ∧ (t.clause a).wait = {} ∧
  (t.clause a).pc = (s.clause a).pc ∧ (t.clause a).v = (s.clause a).v ∧ (t.clause a).u = (s.clause a).u

/-- A wait's outcome in the predicate it names (R172). -/
def Outcome (s t : State) (a : At) (met : Bool) : Prop :=
  ∀ r l, l < 32 → ((t.clause a).getP r).getLsbD l =
    if (s.clause a).wait.pe && r == (s.clause a).wait.pd && (s.clause a).live.getLsbD l then met
    else ((s.clause a).getP r).getLsbD l

/-- What the module's memories and set-up registers hold is as it was. -/
def SameMem (s t : State) : Prop := t.mem = s.mem ∧ t.host = s.host ∧ t.poison = s.poison ∧ t.regs = s.regs

/-- The last answer to access `d` of a clause that has not exited is in: the access is over, and its counter is one lower. -/
def Over (s t : State) (a : At) (d : Access) : Prop :=
  (∀ y ∈ (t.clause a).loads, y.id ≠ d.id) ∧
  (t.clause a).ldcnt = (if d.store then (s.clause a).ldcnt else (s.clause a).ldcnt - 1) ∧
  (t.clause a).stcnt = (if d.store then (s.clause a).stcnt - 1 else (s.clause a).stcnt) ∧
  (t.clause a).pc = (s.clause a).pc

/-- The registers of a load or returning atomic take the values its lanes got; the others stay as they are (R161, R164, R167). -/
def Landed (s t : State) (a : At) (d : Access) (vals : List (Nat × Nat)) : Prop :=
  let val (l : Nat) : Nat := loadExt d.bytes d.sext (((d.vals ++ vals).find? fun x => x.1 == l).elim 0 (·.2))
  (∀ y ∈ d.dst, y.1 < 255 → ∀ l < 32, y.2.getLsbD l = true →
    (t.clause a).getV y.1 l = BitVec.ofNat 32 (val l / 2 ^ (32 * (y.1 - d.dreg)))) ∧
  (∀ r l, l < 32 → (∀ y ∈ d.dst, y.1 = r → y.2.getLsbD l = false) → (t.clause a).getV r l = (s.clause a).getV r l) ∧
  (∀ r, (t.clause a).getU r = if d.udst = some r then BitVec.ofNat 64 (val 0) else (s.clause a).getU r)

/-- Access `acc` of a clause with one answer due, none of the answers so far poisoned. -/
structure Awaits (s : State) (a : At) (acc : Nat) (d : Access) : Prop where
  found : (s.clause a).loads.find? (·.id == acc) = some d
  due : d.due = 1
  good : d.bad = false
  st : (s.clause a).st ≠ .exited
  once : (d.dst.map (·.1)).Nodup

/-- An access of `n` bytes at an address goes to `loc` without a walk, and its home can act on it at once: the host holds no line, and
neither a register nor a fill keeps it waiting; no error stands unmet in a slice, under a frame or in the memory, and no page's key
is gone. -/
structure Reaches (s : State) (ctx : Nat) (acc : Acc) (va : W64) (n : Nat) (loc : Loc) : Prop where
  cached : s.locate ctx va acc = some loc
  page : va.toNat % 4096 + n ≤ 4096
  some_ : 0 < n
  canon : canonical (s.vaBits ctx) va = true
  hosts : s.hosts = []
  free : ∀ w, s.mustWait w (loc.dev n) [] = false
  fills : s.repairs = [] ∧ ∀ k ∈ s.keys, k.2.st ≠ 2
  sound : s.upsets = [] ∧ s.under = [] ∧ s.tierErrs = [] ∧ ∀ p, s.keyless p = false
  fn : (s.ctx ctx).fn < 49

/-- The bytes there, none of them poisoned or in a released page. -/
structure Reads (s : State) (ctx : Nat) (va : W64) (n : Nat) (loc : Loc) (bs : List Byte) : Prop where
  at_ : Reaches s ctx .read va n loc
  bytes : memBytes (if loc.host then s.host else s.mem) loc.addr n = bs
  good : loc.host = false → s.rangeBad loc.addr n = false ∧ s.releasedIn loc.addr n = false
  clean : loc.host = true → s.hostPoisoned loc.addr n = false

/-- The homes can act on any access at once: the host holds no line, no register is in use or held, no fill is held up, no error stands
unmet, and no page's key is gone. -/
structure HomesFree (s : State) : Prop where
  hosts : s.hosts = []
  free : s.tight = false
  sound : s.upsets = [] ∧ s.under = [] ∧ s.tierErrs = [] ∧ ∀ p, s.keyless p = false

/-- A partition of one extent, none of whose pages has moved, and homes that can act on any access at once. -/
def OneExtent (s : State) (p first n : Nat) : Prop :=
  (s.part p).grant = [(first, n)] ∧ s.pages = [] ∧ HomesFree s

/-- A tile has kept everything but the states of its L1's lines, which follow the records of their homes (R296). -/
def TileKept (x y : Tile) : Prop := y = { x with l1 := y.l1 }

/-- The bytes `bs`, as far as they reach, stand in device memory from `a` on. -/
def Stands (t : State) (a n : Nat) (bs : List Byte) : Prop := ∀ i b, i < n → bs[i]? = some b → memByte t.mem (a + i) = b

/-- The context is lost, with the cause and status recorded (R510). -/
def Lost (t : State) (c cause status queue : Nat) (seq : W32) (va : W64) : Prop :=
  (t.ctx c).st = .lost ∧ (t.ctx c).cause = cause ∧ (t.ctx c).status = status ∧ (t.ctx c).queue = queue ∧
  (t.ctx c).seq = seq.toNat ∧ (t.ctx c).faultVa = va ∧ (∀ x ∈ t.xcache, x.ctx ≠ c) ∧ (∀ x ∈ t.pageReqs, x.ctx ≠ c)

/-- Every queue of a context is LOST and holds no command. -/
def QueuesLost (s t : State) (c : Nat) : Prop :=
  ∀ n, (s.queue n).st ≠ .empty → (s.queue n).ctx = c → (t.queue n).st = .lost ∧ (t.queue n).cmds = []

/-- The kernel is over: no tile holds it, its clauses are EMPTY, and its scratchpads stay (R56, R89). -/
def Left (s t : State) (k : Nat) : Prop :=
  t.kernel k = kernelNone k ∧ ∀ u, (s.tile u).kernel = some k →
    (t.tile u).kernel = none ∧ (t.tile u).clauses = [] ∧ (t.tile u).matq = [] ∧ (t.tile u).stopped = false ∧
      (t.tile u).spm = (s.tile u).spm

/-- The kernel is gone by a stop: what its tiles' matrix units had queued is dropped, and their banks stay (R89, R197). -/
def Gone (s t : State) (k : Nat) : Prop := Left s t k ∧ ∀ u, (s.tile u).kernel = some k → (t.tile u).acc = (s.tile u).acc

/-- A record of a status is to be written for a descriptor. -/
def Recorded (t : State) (qn : Nat) (seq : W32) (status : Nat) : Prop :=
  ∃ r ∈ (t.queue qn).records, r.seq = seq ∧ r.status = status ∧ r.write = true

/-- A request of a kind is at its home and next in its source's order; the line is held whole by the home, in a frame of its own, no
register holds it, the host holds no copy, and its page is in use (R365, Table 6.5). -/
structure AtHome (s : State) (kind : ReqKind) (r : Req) (f : Frame) : Prop where
  arrives : s.arriving r.id kind = some r
  frame : s.frame r.line = some f
  valid : f.valid = 15
  alone : f.packed = false
  free : s.miss r.line = none
  host : s.hostOf r.line = none
  rot : s.rot ≠ .rekey
  page : (s.page (r.line / 512)).released = false
  sound : s.upsets = []

/-- An answer of a kind to a request. -/
def Answered (t : State) (r : Req) (kind : RspKind) (p : Rsp → Prop) : Prop := ∃ y ∈ t.rsps, y.kind = kind ∧ y.req = r ∧ p y

/-- The request has left the network. -/
def Taken (t : State) (r : Req) : Prop := ∀ q ∈ t.reqs, q.id ≠ r.id

/-- A message has been handed to the fabric: it left by a port, waits at one, or waits for a port; one for this module stands in its
own inbox. -/
def Posted (t : State) (a : FabMsg) : Prop :=
  (∃ p fs, Sent.fabric p a fs ∈ t.sent) ∨ (∃ p, a ∈ (t.port p).queue) ∨ (∃ x ∈ t.outbox, x.2.1 = a) ∨ (∃ x ∈ t.inbox, x.2 = a)

/-- A message of a member of the cohort is in the inbox, and its partition, not encrypted, takes it (R441). -/
structure Inbound (s : State) (id p : Nat) (m : FabMsg) : Prop where
  there : s.inbox.find? (fun x => x.1 == id) = some (id, m)
  bound : p < 48
  ready : s.ready = true
  free : s.rotating = false
  part : m.dpart = p
  plain : s.encOf p = false
  enc : m.enc = false
  other : m.src ≠ s.modId

/-- It is of the partition's epoch. -/
structure Current (s : State) (id p : Nat) (m : FabMsg) : Prop extends Inbound s id p m where
  on : s.epochOf p ≠ 0
  epoch : m.epoch = s.epochOf p
  fence : s.fenced p = false
  member : s.member p m.src = true

/-- An ACK of a message, with a status (R416). -/
def Acked (t : State) (m : FabMsg) (status : Nat) : Prop :=
  ∃ a, Posted t a ∧ a.type = 5 ∧ a.dst = m.src ∧ a.tag = m.tag ∧ a.seg = m.seg ∧ a.addr = m.addr ∧ a.data = leBytes 8 status

/-- The fabric context of a partition. -/
def FabCtx (s : State) (p c : Nat) : Prop := s.fld (cohCtx p) = c ∧ (s.ctx c).st = .live ∧ (s.ctx c).part = p

/-- Bytes stand in device memory at `loc`, and nothing else of it has changed. -/
def Wrote (s t : State) (loc : Loc) (bs : List Byte) : Prop :=
  memBytes t.mem loc.addr bs.length = bs ∧ ∀ a, a < loc.addr ∨ loc.addr + bs.length ≤ a → memByte t.mem a = memByte s.mem a

/-- A transfer with one open message, of an open segment of its command. -/
structure OneMsg (s : State) (x : Nat) (f : Xfer) (y : XMsg) (c : Cmd) (m : FabMsg) : Prop where
  tag : s.byTag m = some (x, f)
  xfer : s.xfer x = some f
  msgs : f.msgs = [y]
  open_ : y.answered = false
  cmd : (s.queue f.queue).cmd? f.cmd = some c
  seg : c.segs.getD y.seg .done = .open_

/-- The Parser of a running queue can act on the descriptor at its front, which has an opcode, and it is the queue's turn (R463, R471
to R474). -/
structure AtFront (s : State) (qn op : Nat) (d : Desc) : Prop where
  bound : qn < 12288
  running : (s.queue qn).st = .running
  front : (s.queue qn).front = some d
  act : s.canAct qn = true
  turn : s.queueTurn qn = true
  plain : d.marked = false
  known : noRow d.bytes = false
  op_ : descOp d.bytes = op
  dep : descFlag d.bytes 1 = true → (s.queue qn).cmds = []
  settled : s.abortSettle qn = s
  room : isControl op = true ∨ (s.queue qn).cmds.length < 64

/-- Its fields meet every check of R467 to R469, `ok` among them those of its own operands. -/
structure Passes (s : State) (qn op : Nat) (d : Desc) (ok : Bool) : Prop extends AtFront s qn op d where
  checks : s.descCheck (s.queue qn) d.bytes ok = none
  ids : ∀ c ∈ (s.queue qn).cmds, c.id < s.fresh

/-- The command completes: from a state that `P` describes, the round goes on from the queue, what waits to be written is tried and
the front made ready. -/
def Acts (c : Instr) (s : State) (qn : Nat) (P : State → Prop) : Prop :=
  ∃ t : State, exec c s = .next (((t.served qn).flush.settleFront qn).flush) ∧ P t

/-- Commands of a queue have gone on from a state that `P` describes: what waits to be written is tried and the front made ready. -/
def Settles (c : Instr) (s : State) (qn : Nat) (P : State → Prop) : Prop :=
  ∃ t : State, exec c s = .next ((t.flush.settleFront qn).flush) ∧ P t

/-- The descriptor has left the front, and its final status stands in a record (R493, R496): none for a quiet command that COMPLETED. -/
def Ends (s t : State) (qn : Nat) (d : Desc) (status : Nat) : Prop :=
  (t.queue qn).ahead = (s.queue qn).pop.ahead ∧ (t.queue qn).cmds = (s.queue qn).cmds ∧
  (descFlag d.bytes 2 = false ∨ status ≠ 0 → ∃ r, (t.queue qn).records = [r] ∧ r.seq = descSeq d.bytes ∧ r.cookie = descCookie d.bytes ∧
    r.status = status ∧ r.write = true)

/-- A command is in flight for the descriptor; its timer counts from its dispatch, or from the start of a control read that had to wait
(R499). -/
def InFlight (s t : State) (qn : Nat) (d : Desc) (c : Cmd) : Prop :=
  (t.queue qn).cmd? s.fresh = some c ∧ c.raw = d.bytes ∧ c.since = (s.queue qn).frontWait.elim s.now (·.2) ∧ (t.queue qn).ahead = (s.queue qn).pop.ahead ∧
  (t.queue qn).records = []

/-- No earlier command of the context is served by the engines that the descriptor goes to (R533). -/
def Turn (s : State) (qn : Nat) (d : Desc) : Prop :=
  ∀ x ∈ s.queues, x.2.ctx = (s.queue qn).ctx → ∀ c ∈ x.2.cmds, c.engine = engineOf d.bytes → c.segStatus.isSome = true

/-- A function's driver owns a queue and has committed its choice of versions (R457, R641). -/
structure Driver (s : State) (fn : Nat) (w : BitVec 14) (q : Nat) : Prop where
  number : fn < 49
  ready : s.ready = true
  live : s.vfLive fn = true
  named : queueOf fn w.toNat = some q
  owns : s.owns fn (q / 256) = true
  committed : s.committed fn = true

/-- A doorbell page is that of a queue that takes writes. -/
structure Rings (s : State) (fn page qn : Nat) : Prop where
  number : fn < 49
  ready : s.ready = true
  live : s.vfLive fn = true
  named : pageQueue fn page = some qn
  st : (s.queue qn).st ≠ .empty
  part : (s.part (s.queue qn).part).st = .ready
  tdi : (s.tdi (s.queue qn).part).st ≠ 1

/-- A session in which the Trust Controller answers (R553). -/
def InSession (s : State) (n : Nat) (x : Sess) : Prop := s.trust.sessions.find? (·.id == n) = some x ∧ s.hears x.via = true

/-- The Trust Controller has answered, and nothing else has left since. -/
def Answers (s t : State) (via : Transport) (r : SpdmRsp) : Prop := t.sent = .spdm via r :: s.sent

end Sys2Proof.Claims

open Sys2Proof Sys2Proof.Machine Sys2Proof.Claims

/-- R137 to R141: what the integer arithmetic instructions write, in every lane on which they act, and their flags. -/
def Obligations.IntegerArithmeticResults : Prop := ∀ r ∈ arithmetic, r.holds

/-- R141 to R145: what the bitwise, bit-field, byte and shift instructions write; they write no flags. -/
def Obligations.BitwiseResults : Prop := ∀ r ∈ bitwise, r.holds

/-- R152, R153, R154: MOV copies its source; FABS and FNEG change only the sign bit and set no flag; a NaN among the operands of FADD,
FSUB, FMUL, FDIV and FSQRT gives the canonical quiet NaN, and a signalling one sets FIV. -/
def Obligations.MoveSignAndNanResults : Prop := ∀ r ∈ signs ++ floats, r.holds

/-- R156 to R158: minima, maxima and classes; the special functions complete, and give the stated results on special inputs; FFMA
rounds once (Machine/Num.lean). -/
def Obligations.ClassAndSpecialResults : Prop := ∀ r ∈ conversions ++ specials, r.holds

/-- R124 to R130, R171, R172, R174: where a branch, a push, a pop, a link, a partial exit or a wait whose condition is met takes the
clause, and that nothing else changes; and what BR or SPLIT pushed, JOIN pops (R127). -/
def Obligations.BranchResults : Prop :=
  (∀ r ∈ branches, r.holds) ∧
  (∀ (k : Kernel) (c : Clause) (mask : W32) (pending : Bool) (pc : W64) (rest : List W64),
    (pc - k.entry).toNat < 2 ^ 34 → (pc - k.entry).toNat % 8 = 0 →
    ∀ w, stackEntry k.entry mask pending pc = some w →
      Clause.joined { c with stack := w :: rest } k.entry =
        { c with stack := rest, active := mask, pc := if pending then pc else pc + 8 })

/-- R66, R81, R83, R85, R129, R173: an arrival at the barrier that is not the last waits in WAITING for its generation and is counted;
FENCE holds back later accesses; EXIT of the last live lanes sends the clause to EXITED, with no load outstanding to EMPTY. -/
def Obligations.BarrierFenceAndExit : Prop :=
  (∀ (s s' : State) (a : At) (e : Enc),
    s.Issues a e { legal := headerOk e && !e.imm && e.body == 0 && !e.p, lanes := false } s' →
    (s'.clause a).ldcnt = 0 → (s'.clause a).stcnt = 0 →
    let c := s'.clause a
    let b := (s'.tile a.tile).block c.blk
    let n := (s'.tileKernel a.tile).blkClauses
    (b.arrivals + 1 + b.exited ≠ n → ∃ t, exec (.bar a e) s = .next t ∧ (t.clause a).st = .waiting ∧
      (t.clause a).wait.kind = 1 ∧ (t.clause a).wait.gen = b.gen ∧ (t.clause a).wait.rank = b.arrivals ∧
      (t.clause a).pc = c.pc + 8 ∧ (t.tile a.tile).block c.blk = { b with arrivals := b.arrivals + 1 }) ∧
    (b.arrivals + 1 + b.exited = n → b.used = true → ∃ t, exec (.bar a e) s = .next t ∧
      (t.tile a.tile).block c.blk = { b with arrivals := 0, gen := b.gen + 1 } ∧ (t.clause a).pc = c.pc + 8)) ∧
  (∀ (s s' : State) (a : At) (e : Enc), s.Issues a e { legal := fenceOk e, lanes := false } s' →
    ∃ t, exec (.fence a e) s = .next t ∧ s'.ClauseOnly t a ∧ t.clause a = fenced e (s'.clause a)) ∧
  (∀ (s s' : State) (a : At) (e : Enc),
    s.Issues a e { legal := headerOk e && !e.imm && e.body == 0 } s' →
    (s'.clause a).live &&& ~~~((s'.clause a).acting e) = 0 →
    ∃ t, exec (.exit a e) s = .next t ∧
      (t.clause a).st = if (s'.clause a).ldcnt = 0 then .empty else .exited)

/-- R146, R147, R149: compares of integers and of floating-point numbers, selects, predicate logic and votes complete; they write the
acting lanes and leave the others, and a compare sets FIV as Table 3.9 says. -/
def Obligations.PredicateResults : Prop := ∀ r ∈ predicates, r.holds

/-- R121, R133, R135, R148, R149, R152: immediates, lane exchange, and what reads and writes of special registers give. -/
def Obligations.MoveAndSpecialRegisterResults : Prop := ∀ r ∈ moves, r.holds

/-- R150, R217, R218: CVT between integers, SMXSTEP on a score of -infinity, and MASKGEN. -/
def Obligations.ConvertAndSoftmaxResults : Prop := ∀ r ∈ softmax, r.holds

/-- The frame of classes 0x0 to 0x8: an instruction that issues completes, and changes its own clause (and what its tile notes of the issue), and
nothing else of the module: no memory, no register of another clause, no set-up register. Of its clause, an instruction of
`aluRows` changes the program counter, its destination in the acting lanes, and status words. -/
def Obligations.AluFrames : Prop :=
  (∀ r ∈ aluRows, ∀ (s s' : State) (a : At) (e : Enc), s.Issues a e (r.req e) s' →
    ∃ t, exec (r.instr a e) s = .next t ∧ s'.ClauseOnly t a ∧ (s'.clause a).KeepsBut (t.clause a) (r.fm.dWidth (aluFields e)) (aluFields e).d ((s'.clause a).acting e)) ∧
  (∀ r ∈ clauseRows, ∀ (s s' : State) (a : At) (e : Enc),
    s.Issues a e { legal := r.legal e, regs := r.regs e, lanes := r.lanes e, statusOrder := r.order e } s' →
    r.when_ e (s'.clause a) → ∃ t, exec (r.instr a e) s = .next t ∧ s'.ClauseOnly t a ∧ (t.clause a).pc = (s'.clause a).pc + 8)

/-- R89, R90, R109: an illegal encoding stops the clause before it has any effect: it is FAULTED at the instruction, its tile issues
no more, and the kernel's first fault is recorded with cause 0x01. -/
def Obligations.IllegalEncodingFaults : Prop :=
  ∀ r ∈ aluRows, ∀ (s s' : State) (a : At) (e : Enc) (k : Nat),
    s.Fetches a s' → s'.NoHazard a (r.req e) → (r.req e).legal = false → (s'.tile a.tile).kernel = some k →
    (s'.kernel k).fault = none →
    ∃ t, exec (r.instr a e) s = .next t ∧ (t.clause a).st = .faulted ∧ (t.clause a).pc = (s'.clause a).pc ∧
      (t.tile a.tile).stopped = true ∧ (t.kernel k).fault = some (1, a.tile, 0) ∧
      (t.clause a).v = (s'.clause a).v ∧ (t.clause a).u = (s'.clause a).u ∧ (t.clause a).p = (s'.clause a).p ∧
      t.mem = s'.mem ∧ t.host = s'.host ∧ t.regs = s'.regs

/-- R161, R163, R168, R169, R271: loads, stores and atomics of the scratchpad act in the tile's SRAM, in ascending lane order. -/
def Obligations.ScratchpadAccesses : Prop := ∀ r ∈ memRows, r.holdsLocal

/-- R75, R161, R167, R277: loads, stores and atomics of device memory issue as requests to the homes of the lines their lanes name; the
counters count them, and memory is as before until a home acts. -/
def Obligations.GlobalAccesses : Prop := ∀ r ∈ memRows, r.holdsGlobal

/-- R75, R188 to R190: a matrix instruction enters the unit's queue with the registers it has captured, and mxcnt counts it. -/
def Obligations.MatrixIssue : Prop := ∀ r ∈ matRows, r.holds

/-- R190, R198, R199: MATRIX_FINISH makes the instruction at the head of the queue take its effect. ACCZ leaves the banks it names zero
and the others alone; ACCLD puts each of its registers' lanes at the place Table 4.8 gives; both lower the clause's mxcnt by one, and
neither touches memory. -/
def Obligations.MatrixFinish : Prop :=
  ∀ (s : State) (tile : Nat) (j : MatJob) (rest : List MatJob), tile < 1536 → (s.tile tile).matq = j :: rest →
    tabWf wDef (s.tile tile).acc = true →
    ∃ t, exec (.matrixFinish tile) s = .next t ∧ (t.tile tile).matq.length = rest.length ∧
      t.mem = s.mem ∧ t.host = s.host ∧ t.regs = s.regs ∧ (∀ u, u ≠ tile → t.tile u = s.tile u) ∧
      (j.op = 0xD4 → ∀ bank < 2, ∀ row < 64, ∀ col < 64, tabGet wDef (t.tile tile).acc (bankKey bank row col) =
        if bitOf j.body.toNat (46 + bank) then 0 else tabGet wDef (s.tile tile).acc (bankKey bank row col)) ∧
      (j.op = 0xD2 → bitsOf j.body.toNat 35 32 = 0 → ∀ r < 32, ∀ l < 32,
        tabGet wDef (t.tile tile).acc (acc0Key (bitsOf j.body.toNat 36 36) (bitsOf j.body.toNat 38 37) r l) =
          tabGet wDef j.src ((bitsOf j.body.toNat 47 39 + r) * 32 + l)) ∧
      (j.op = 0xD4 ∨ j.op = 0xD2 → ((s.tile tile).clause j.entry).uid = j.uid → ((s.tile tile).clause j.entry).st ≠ .empty →
        ((t.tile tile).clause j.entry).mxcnt = ((s.tile tile).clause j.entry).mxcnt - 1)

/-- R74, R76, R166: a CNT wait whose counters are not down, and SLEEP, send the clause to WAITING past the instruction; PREF reads no
register, counts in no counter and sends only prefetches. -/
def Obligations.WaitAndPrefetch : Prop :=
  (∀ (s s' : State) (a : At) (e : Enc),
    s.Issues a e { legal := waitOk e, regs := { ur := if Enc.f e 43 40 = 6 then [Enc.f e 26 21] else [] }, lanes := false } s' →
    let c := s'.clause a
    (Enc.f e 43 40 = 2 ∧ (Enc.f e 5 0 < c.ldcnt ∨ Enc.f e 11 6 < c.stcnt ∨ Enc.f e 17 12 < c.mxcnt)) ∨
      (Enc.f e 43 40 = 6 ∧ (c.getU (Enc.f e 26 21)).toNat % 2 ^ 32 ≠ 0) →
    ∃ t, exec (.wait a e) s = .next t ∧ (t.clause a).st = .waiting ∧ (t.clause a).wait.kind = Enc.f e 43 40 ∧
      (t.clause a).pc = c.pc + 8 ∧ t.mem = s'.mem ∧ t.host = s'.host ∧ t.reqs = s'.reqs) ∧
  (∀ (s s' : State) (a : At) (e : Enc),
    s.Issues a e { legal := loadOk e (memFields e) && (memFields e).d == 0
                   regs := { memRegs (memFields e) [] [] with ur := [(memFields e).ub] } } s' →
    (s'.clause a).mayAccess = true →
    ∃ t qs, exec (.pref a e) s = .next t ∧ (t.clause a) = { s'.clause a with pc := (s'.clause a).pc + 8 } ∧
      t.reqs = s'.reqs ++ qs ∧ (∀ q ∈ qs, ∃ l1, q.src = .prefetch a l1 ∧ q.mask = 15) ∧
      ((∀ l ∈ maskLanes ((s'.clause a).acting e),
          (s'.locate (s'.tileKernel a.tile).ctx (effAddr (s'.clause a) (memFields e) l) .read).isSome = true) →
        t.mem = s'.mem ∧ t.host = s'.host ∧ t.regs = s'.regs ∧ ∀ u, u ≠ a.tile → t.tile u = s'.tile u))

/-- R68, R69, R71, R73, R74, R76, R79, R92: what the events of a tile's scheduler do to a clause that meets their condition. -/
def Obligations.TileScheduling : Prop :=
  (∀ (s : State) (tile slot e : Nat), tile < 1536 → slot < 8 → tabWf clauseNone (s.tile tile).clauses = true →
    (s.tile tile).stopped = false → (s.tile tile).switching = false →
    ((s.tile tile).slot slot = none ∨ ∃ w, (s.tile tile).slot slot = some w ∧ ((s.tile tile).clause w).st = .waiting) →
    ((s.tile tile).clause e).st = .ready →
    (∀ f, f ≠ e → ((s.tile tile).clause f).st = .ready →
      ((s.tile tile).clause e).readyAt.before ((s.tile tile).clause f).readyAt = true) →
    ∃ t, exec (.promote tile slot) s = .next t ∧ TileOnly s t tile ∧ (t.tile tile).slot slot = some e ∧
      t.clause ⟨tile, e⟩ = { s.clause ⟨tile, e⟩ with st := .active, promotedAt := s.cycle (frondOf tile) } ∧
      ∀ f, f ≠ e → (t.tile tile).clause f = (s.tile tile).clause f) ∧
  (∀ (s : State) (a : At) (d : Access) (f : Nat) (x : LoadStall), atOk a = true → (s.clause a).st = .active →
    (s.tile a.tile).stopped = false → (s.tile a.tile).switching = false → ((s.tile a.tile).clause f).st = .ready →
    (s.tile a.tile).stall a.entry = some x → x.loads.contains d.id = true → d ∈ (s.clause a).loads → d.store = false →
    0 < (s.clk (frondOf a.tile)).mhz →
    ∃ t, exec (.loaddepDemote a d.id) s = .next t ∧ TileOnly s t a.tile ∧ x.since + 64 ≤ t.cycle (frondOf a.tile) ∧
      t.clause a = { s.clause a with st := .waiting, wait := { kind := 7, load := d.id } } ∧
      ((s.tile a.tile).pooled < 64 → ∀ i, (s.tile a.tile).slotOf a.entry = some i → (t.tile a.tile).slot i = none) ∧
      (64 ≤ (s.tile a.tile).pooled → (t.tile a.tile).slots = (s.tile a.tile).slots)) ∧
  (∀ (s : State) (a : At), atOk a = true → s.rotating = false → (s.clause a).st = .waiting → (s.clause a).wait.kind = 6 →
    0 < (s.clk (frondOf a.tile)).mhz →
    ∃ t, exec (.sleepEnd a) s = .next t ∧ RunsOn s t a ∧ Outcome s t a true ∧ SameMem s t ∧
      (s.clause a).wait.since + (s.clause a).wait.limit ≤ t.cycle (frondOf a.tile)) ∧
  (∀ (s : State) (a : At), atOk a = true → s.rotating = false → (s.clause a).st = .waiting →
    ((s.clause a).wait.kind = 3 ∨ (s.clause a).wait.kind = 4 ∨ (s.clause a).wait.kind = 5) → (s.clause a).wait.limit ≠ 0 →
    0 < (s.clk (frondOf a.tile)).mhz →
    let last := (s.clause a).wait.since + (s.clause a).wait.limit
    ∃ t, exec (.waitLimitExpire a) s = .next t ∧ RunsOn s t a ∧
      Outcome s t a (decide (s.cycle (frondOf a.tile) ≤ last) && s.rereadMet a) ∧ SameMem s t ∧
      (s.clause a).wait.since + (s.clause a).wait.limit ≤ t.cycle (frondOf a.tile) ∧
      ((s.clause a).wait.watching = true → ∃ r ∈ t.reqs, r.kind = .unwatch ∧ r.src = .watchRead a ∧ r.line = (s.clause a).wait.pa / 128)) ∧
  (∀ (s : State) (a : At), atOk a = true →
    ¬((s.clause a).memWait = true ∧ (s.clause a).xlat.isSome = true ∧ (s.clause a).wait.reading = false ∧
      (s.clause a).wait.watching = false) →
    ∃ t, exec (.translationWalkDone a) s = .next t ∧ TileOnly s t a.tile ∧ t.clause a = { s.clause a with xlat := none }) ∧
  (∀ (s : State) (a : At) (loc : Loc), atOk a = true → (s.clause a).memWait = true → (s.clause a).xlat.isSome = true →
    (s.clause a).wait.reading = false → (s.clause a).wait.watching = false →
    s.locate (s.tileKernel a.tile).ctx (s.clause a).wait.va .read = some loc →
    ∃ t, exec (.translationWalkDone a) s = .next t ∧ SameMem s t ∧ (t.clause a).xlat = none ∧ (t.clause a).st = .waiting ∧
      (t.clause a).wait.reading = true ∧ (t.clause a).wait.host = loc.host ∧ (t.clause a).wait.pa = loc.addr ∧
      (t.clause a).wait.watching = !loc.host ∧
      (loc.host = true → t.reqs = s.reqs) ∧
      (loc.host = false → ∃ x y, t.reqs = s.reqs ++ [x, y] ∧ x.kind = .watch ∧ y.kind = .rd ∧ y.id = (t.clause a).wait.rdId ∧
        ∀ r ∈ [x, y], r.src = .watchRead a ∧ r.line = loc.addr / 128)) ∧
  (∀ (s : State) (tile : Nat), tile < 1536 →
    ∃ t, exec (.qsc tile) s = .next t ∧ TileOnly s t tile ∧ t.tile tile = { s.tile tile with
      quiet := if s.quiescent tile then some (((s.tile tile).quiet).getD (s.cycle (frondOf tile))) else none })

/-- R76, R77, R79, R300: a watched word that has been read ends its clause's wait when the condition holds; otherwise the clause
goes on waiting, with one more reread where a notification came meanwhile. A word of host memory is read by the host-link agent.
A notification of a written line makes its watcher read the word again. -/
def Obligations.WatchedWords : Prop :=
  let holds (w : Wait) (x : W32) : Bool := if w.kind = 3 then x == w.opnd else if w.kind = 4 then x != w.opnd else decide (w.opnd.toNat ≤ x.toNat)
  let asks (s t : State) (a : At) : Prop := ∃ r ∈ t.reqs, r.kind = .rd ∧ r.src = .watchRead a ∧ r.line = (s.clause a).wait.pa / 128 ∧
    r.id = (t.clause a).wait.rdId ∧ (t.clause a).wait.reading = true
  (∀ (s : State) (a : At) (x : Rsp), atOk a = true → (s.clause a).st = .waiting → s.rereadRsp a = some x →
    let word : W32 := BitVec.ofNat 32 (leNat ((x.data.drop ((s.clause a).wait.pa % 128)).take 4))
    ∃ t, exec (.watchRereadReturn a) s = .next t ∧ (x.poison = 0 → SameMem s t) ∧
      (x.poison = 0 → holds (s.clause a).wait word = true → RunsOn s t a ∧ Outcome s t a true) ∧
      (x.poison = 0 → holds (s.clause a).wait word = false → (s.clause a).wait.notified = false →
        t.clause a = { s.clause a with wait := { (s.clause a).wait with reading := false } } ∧ t.reqs = s.reqs) ∧
      (x.poison = 0 → holds (s.clause a).wait word = false → (s.clause a).wait.notified = true → s.rotating = false → asks s t a) ∧
      (x.poison = 0 → holds (s.clause a).wait word = false → s.rotating = true →
        t.clause a = { s.clause a with wait := { (s.clause a).wait with reading := false } } ∧ t.reqs = s.reqs) ∧
      (x.poison ≠ 0 → (t.clause a).st = .waiting ∧ (t.tile a.tile).stopped = true ∧
        ∀ k, (s.tile a.tile).kernel = some k → (s.kernel k).fault = none →
          (t.kernel k).fault = some (7, a.tile, (s.clause a).wait.va))) ∧
  (∀ (s : State) (a : At), atOk a = true → s.rotating = false → (s.clause a).st = .waiting → (s.clause a).wait.host = true →
    (s.clause a).wait.notified = false → s.hostStoreOut a = false →
    let word : W32 := BitVec.ofNat 32 (memLe s.host (s.clause a).wait.pa 4)
    ∃ t, exec (.hostWatchPoll a) s = .next t ∧ SameMem s t ∧
      (holds (s.clause a).wait word = true → RunsOn s t a ∧ Outcome s t a true) ∧
      (holds (s.clause a).wait word = false → t.clause a = { s.clause a with wait := { (s.clause a).wait with reading := false } })) ∧
  (∀ (s : State) (msg : Nat) (x : Rsp) (a : At), s.rotating = false → s.rsp? msg .notify = some x → x.req.src = .watchRead a →
    (s.clause a).st = .waiting → (s.clause a).wait.watching = true → x.req.line = (s.clause a).wait.pa / 128 →
    ∃ t, exec (.watchNotify msg) s = .next t ∧ SameMem s t ∧ (t.tile a.tile).quiet = none ∧
      ((s.clause a).wait.reading = true → t.clause a = { s.clause a with wait := { (s.clause a).wait with notified := true } }) ∧
      ((s.clause a).wait.reading = false → asks s t a))

/-- R66, R71, R75, R161, R164, R167, R272, R311, Table 6.7: the answers to a clause's accesses. The last answer to a load or
returning atomic writes its registers and lowers ldcnt; the last one to a store lowers stcnt; a poisoned one faults the clause. -/
def Obligations.LoadReturns : Prop :=
  (∀ (s : State) (msg : Nat) (x : Rsp) (a : At) (d : Access), s.rsp? msg .data = some x → x.req.src = .clause a →
    Awaits s a x.req.acc d → d.store = false → x.poison = 0 →
    ∃ t, exec (.dataRsp msg) s = .next t ∧ SameMem s t ∧ Over s t a d ∧
      Landed s t a d (x.req.ops.map fun o => (o.lane, leNat ((x.data.drop o.off).take x.req.bytes)))) ∧
  (∀ (s : State) (msg : Nat) (x : Rsp) (a : At) (d : Access), s.rsp? msg .dataF = some x → x.req.src = .clause a →
    s.timedOut.contains x.req.id = false → Awaits s a x.req.acc d → d.store = false → x.poison = 0 →
    ∃ t, exec (.dataF msg) s = .next t ∧ SameMem s t ∧ Over s t a d ∧
      Landed s t a d (x.req.ops.map fun o => (o.lane, leNat ((x.data.drop o.off).take x.req.bytes)))) ∧
  (∀ (s : State) (msg : Nat) (x : Rsp) (a : At) (d : Access), s.rsp? msg .atomRsp = some x → x.req.src = .clause a →
    Awaits s a x.req.acc d → d.store = false → x.bad = false →
    ∃ t, exec (.atomRsp msg) s = .next t ∧ SameMem s t ∧ Over s t a d ∧ Landed s t a d x.olds) ∧
  (∀ (s : State) (msg : Nat) (x : Rsp) (a : At) (d : Access), s.rsp? msg .ack = some x → x.req.src = .clause a →
    Awaits s a x.req.acc d → d.store = true → x.bad = false →
    ∃ t, exec (.ack msg) s = .next t ∧ SameMem s t ∧ Over s t a d ∧ (t.clause a).v = (s.clause a).v ∧
      (t.clause a).u = (s.clause a).u) ∧
  (∀ (s : State) (msg : Nat) (x : Rsp) (a : At) (d : Access), s.rsp? msg .data = some x → x.req.src = .clause a →
    Awaits s a x.req.acc d → x.poison ≠ 0 → (s.clause a).st = .active →
    ∃ t, exec (.dataRsp msg) s = .next t ∧ (t.clause a).st = .faulted ∧ (t.clause a).v = (s.clause a).v ∧
      (t.tile a.tile).stopped = true ∧
      ∀ k, (s.tile a.tile).kernel = some k → (s.kernel k).fault = none → (t.kernel k).fault = some (7, a.tile, d.va)) ∧
  (∀ (s : State) (a : At) (d : Access), atOk a = true → (s.clause a).loads.find? (fun d' => d'.id == d.id && d'.loc) = some d →
    Awaits s a d.id d → d.store = false →
    ∃ t, exec (.localLoadReturn a d.id false) s = .next t ∧ SameMem s t ∧ Over s t a d ∧ Landed s t a d []) ∧
  (∀ (s : State) (r : HostReq) (a : At) (d : Access), s.hostReqs.find? (·.id == r.id) = some r → r.src = .clause a → r.kind = .rd →
    r.zlr = false → ((s.hostReqs.takeWhile (·.id != r.id)).any fun q => q.before r) = false → Awaits s a r.acc d → d.store = false →
    ∃ t, exec (.hostLinkCompletion r.id false) s = .next t ∧ t.mem = s.mem ∧ t.host = s.host ∧ Over s t a d ∧
      Landed s t a d (r.ops.map fun o => (o.lane, memLe s.host o.off r.bytes)) ∧ ∀ q ∈ t.hostReqs, q.id ≠ r.id) ∧
  (∀ (s : State) (r : HostReq) (a : At) (d : Access), s.hostReqs.find? (·.id == r.id) = some r → r.src = .clause a → r.kind = .wr →
    r.zlr = false → ((s.hostReqs.takeWhile (·.id != r.id)).any fun q => q.before r) = false → s.fld (dlogEn r.part) = 0 → Awaits s a r.acc d → d.store = true →
    ∃ t, exec (.hostLinkCompletion r.id false) s = .next t ∧ t.mem = s.mem ∧ Over s t a d ∧
      t.host = r.ops.foldl (fun m o => memPut m o.off (leBytes r.bytes o.val)) s.host ∧
      (t.clause a).hostWr = (s.clause a).hostWr + 1 ∧ { r with zlr := true } ∈ t.hostReqs) ∧
  (∀ (s : State) (r : HostReq) (a : At), s.hostReqs.find? (·.id == r.id) = some r → r.src = .clause a → r.kind = .wr →
    r.zlr = true → (s.clause a).st ≠ .empty → (s.clause a).uid = r.uid →
    ∃ t, exec (.hostLinkCompletion r.id false) s = .next t ∧ SameMem s t ∧ TileOnly { s with hostReqs := t.hostReqs } t a.tile ∧
      t.clause a = { s.clause a with hostWr := (s.clause a).hostWr - 1 } ∧ ∀ q ∈ t.hostReqs, q.id ≠ r.id) ∧
  (∀ (s : State) (r : HostReq) (a : At) (d : Access), s.hostReqs.find? (·.id == r.id) = some r → r.src = .clause a → r.kind = .rd →
    Awaits s a r.acc d → (s.clause a).st = .active →
    ∃ t, exec (.pcieCompletionTimeout r.id) s = .next t ∧ t.mem = s.mem ∧ t.host = s.host ∧ (t.clause a).st = .faulted ∧
      (t.clause a).v = (s.clause a).v ∧ ∀ q ∈ t.hostReqs, q.id ≠ r.id)

/-- R54 to R61, R534, R535, R543, R669: a free tile goes to the kernel that waits, a block to the lowest tile on which it fits, its
clauses in their first state; the arguments then fill u0 to u15. -/
def Obligations.Placement : Prop :=
  (∀ (s : State) (tile p k : Nat), tile < 1536 → s.groupOwner (tile / 32) = some p → (s.part p).st = .ready →
    (s.tile tile).kernel = none → (s.quarantined.any fun q => q.1 == tile) = false → (s.part p).placing = [k] →
    (s.kernel k).st = .running → (s.kernel k).fault = none → (s.kernel k).nextBlock < (s.kernel k).blkCount →
    ((s.kernel k).tilesMax = 0 ∨ (s.kernel k).tiles.length < (s.kernel k).tilesMax) → (∀ u < tile, s.canGive p u = false) →
    ∃ t, exec (.tileAssign tile) s = .next t ∧ (t.tile tile).kernel = some k ∧ (t.tile tile).lastPart = some p ∧
      (t.tile tile).clauses = [] ∧ (t.tile tile).blocks = [] ∧ (t.tile tile).l1 = [] ∧
      ((s.tile tile).lastPart = some p → (t.tile tile).spm = (s.tile tile).spm ∧ (t.tile tile).acc = (s.tile tile).acc) ∧
      ((s.tile tile).lastPart ≠ some p → (t.tile tile).spm = [] ∧ (t.tile tile).acc = [] ∧ (t.tile tile).store = []) ∧
      tile ∈ (t.kernel k).tiles ∧ (∀ u ∈ (s.kernel k).tiles, u ∈ (t.kernel k).tiles) ∧ (t.part p).rrCtx = (s.kernel k).ctx ∧
      SameMem s t ∧ ∀ u, u ≠ tile → t.tile u = s.tile u) ∧
  (∀ (s : State) (k u : Nat), (s.kernel k).st = .running → (s.kernel k).held = false → (s.kernel k).fault = none →
    (s.kernel k).nextBlock < (s.kernel k).blkCount → u ∈ (s.kernel k).tiles → (s.tile u).fits (s.kernel k) = true →
    (∀ v ∈ (s.kernel k).tiles, v ≠ u → (s.tile v).fits (s.kernel k) = false) → tabWf blockNone (s.tile u).blocks = true →
    ∃ t b, exec (.blockPlace k) s = .next t ∧ ((s.tile u).block b).used = false ∧ b < 72 ∧
      ((t.tile u).block b).used = true ∧ ((t.tile u).block b).index = (s.kernel k).nextBlock ∧ ((t.tile u).block b).arrivals = 0 ∧
      ((t.tile u).block b).spmSize = (s.kernel k).blkSpm ∧ (t.kernel k).nextBlock = (s.kernel k).nextBlock + 1 ∧
      (∀ i e, (((List.range 72).filter fun e => ((s.tile u).clause e).st == .empty).take (s.kernel k).blkClauses)[i]? = some e →
        ((t.tile u).clause e).pc = (s.kernel k).entry ∧ ((t.tile u).clause e).active = ~~~0 ∧
        ((t.tile u).clause e).live = ~~~0 ∧ ((t.tile u).clause e).idx = i ∧ ((t.tile u).clause e).blk = b ∧
        ((s.kernel k).invoke = none → ((t.tile u).clause e).st = .admitted ∧ (∀ q, ((t.tile u).clause e).getU q = 0)) ∧
        (∀ v, (s.kernel k).invoke = some v → ((t.tile u).clause e).getU 0 = v.input ∧ ((t.tile u).clause e).getU 1 = v.output ∧
          ((t.tile u).clause e).getU 2 = BitVec.ofNat 64 v.count ∧ ((t.tile u).clause e).getU 3 = v.param ∧
          ((t.tile u).clause e).getU 4 = v.weights)) ∧
      (∀ e, ((s.tile u).clause e).st ≠ .empty → (t.tile u).clause e = (s.tile u).clause e) ∧
      SameMem s t ∧ (∀ v, v ≠ u → (t.tile v).clauses = (s.tile v).clauses ∧ (t.tile v).spm = (s.tile v).spm ∧
        (t.tile v).acc = (s.tile v).acc ∧ ((s.kernel k).nextBlock + 1 < (s.kernel k).blkCount → t.tile v = s.tile v))) ∧
  (∀ (s : State) (a : At) (loc : Loc) (bs : List Byte), atOk a = true → (s.clause a).st = .admitted →
    (s.tile a.tile).stopped = false → (s.tile a.tile).saved = false → (s.tile a.tile).switching = false → s.rotating = false →
    Reads s (s.tileKernel a.tile).ctx (s.tileKernel a.tile).args 128 loc bs →
    ∃ t, exec (.argumentReadReturn a) s = .next t ∧
      (t.clause a).st = (if ((s.tile a.tile).slotOf a.entry).isSome then .active else .ready) ∧
      (t.clause a).pc = (s.clause a).pc ∧ (t.clause a).argsLeft = [] ∧ (∀ i < 16, (t.clause a).getU i = BitVec.ofNat 64 (leNat ((bs.drop (8 * i)).take 8))) ∧
      (t.clause a).v = (s.clause a).v ∧ t.mem = s.mem ∧ t.host = s.host)

/-- R89, R90, R92 to R96, R510, Table 2.8: a kernel that has faulted is stopped on every tile, its context is lost with the fault's
cause, and its command ends with the cause's status; a kernel all of whose tiles have been quiescent for 65,536 cycles faults with
DEADLOCK. The records that follow are then written as far as they can be. -/
def Obligations.KernelStops : Prop :=
  let status (cause : Nat) : Nat := if cause = 7 then 7 else if cause = 8 then 0xA else 6
  (∀ (s : State) (k u cause : Nat) (va : W64) (c : Cmd), tabWf tileNone s.tiles = true → (s.kernel k).fault = some (cause, u, va) →
    s.accessOut k = false →
    (s.ctx (s.kernel k).ctx).st = .live → (s.queue (s.kernel k).queue).cmd? (s.kernel k).cmd = some c →
    ∃ t0, exec (.stop k) s = .next t0.flush ∧ Gone s t0 k ∧ QueuesLost s t0 (s.kernel k).ctx ∧
      Lost t0 (s.kernel k).ctx cause (status cause) (s.kernel k).queue (BitVec.ofNat 32 (s.kernel k).seq) va ∧
      Recorded t0 (s.kernel k).queue (descSeq c.raw) (status cause)) ∧
  (∀ (s : State) (k : Nat), tabWf tileNone s.tiles = true → (s.kernel k).fault.isSome = true → s.accessOut k = true →
    ∃ t, exec (.stop k) s = .next t ∧ t = { s with tiles := t.tiles } ∧
      ∀ u, t.tile u = if (s.tile u).kernel = some k then { s.tile u with stopped := true } else s.tile u) ∧
  (∀ (s : State) (k : Nat) (c : Cmd), tabWf tileNone s.tiles = true → (s.kernel k).st = .running → (s.kernel k).fault = none →
    (s.kernel k).held = false → (s.kernel k).storesOut = 0 →
    s.rotating = false → (∃ u ∈ (s.kernel k).tiles, (s.tile u).resident ≠ []) →
    (∀ u ∈ (s.kernel k).tiles, (s.tile u).resident ≠ [] → s.quiescent u = true ∧ (s.tile u).quiet.isSome = true ∧ 0 < (s.clk (frondOf u)).mhz) →
    (s.ctx (s.kernel k).ctx).st = .live → (s.queue (s.kernel k).queue).cmd? (s.kernel k).cmd = some c →
    ∃ t0, exec (.deadlockDeclare k) s = .next t0.flush ∧ Gone s t0 k ∧ QueuesLost s t0 (s.kernel k).ctx ∧
      Lost t0 (s.kernel k).ctx 8 0xA (s.kernel k).queue (BitVec.ofNat 32 (s.kernel k).seq) 0 ∧
      Recorded t0 (s.kernel k).queue (descSeq c.raw) 0xA ∧
      ∀ u ∈ (s.kernel k).tiles, (s.tile u).resident ≠ [] → ((s.tile u).quiet).getD 0 + 65536 ≤ t0.cycle (frondOf u))

/-- R97 to R107, R508, R535 to R538, Table 2.9: switching a kernel out. Its tiles stop issuing, drain, and write their records into the
save slot; they are free, and the kernel stands out of the tiles until it is resumed; a record that does not restore loses the
context; a kernel that has waited a quantum switches out one of another context that has run a quantum. -/
def Obligations.SwitchOut : Prop :=
  (∀ (s : State) (u : Nat), u < 1536 → (s.tileKernel u).st = .switching → (s.tile u).stopped = false →
    ∃ t, exec (.switchOutRequest u) s = .next t ∧ TileOnly s t u ∧
      t.tile u = { s.tile u with switching := true, quiet := none }) ∧
  (∀ (s : State) (u k first n : Nat), u < 1536 → (s.tile u).kernel = some k → (s.tile u).switching = true → (s.tile u).saved = false →
    (s.kernel k).st = .switching → (s.kernel k).fault = none → (s.tile u).drained = true → s.hostOut k u = false → s.rotating = false →
    (∀ v ∈ (s.kernel k).tiles, (s.tile v).switching = true ∧ (u < v ∨ (s.tile v).drained = true)) →
    OneExtent s (s.kernel k).part first n →
    let kn := s.kernel k
    let off := ((s.ctx kn.ctx).savePpn + kn.slot * (s.ctx kn.ctx).slotPages) * 65536 + recordAt u (s.recordSizes kn)
    let size := tileBytes (s.tile u).savedEntries.length kn.granules kn.spmSplit
    off + size ≤ n * 65536 →
    ∃ t, exec (.switchOutDrainEnd u) s = .next t ∧ TileKept { s.tile u with saved := true } (t.tile u) ∧
      Stands t (first * 65536 + off) size (tileRecord (s.tile u) u kn (s.cycle (frondOf u))) ∧
      (∀ a, a < first * 65536 + off ∨ first * 65536 + off + size ≤ a → memByte t.mem a = memByte s.mem a) ∧
      ∀ v, v ≠ u → TileKept (s.tile v) (t.tile v)) ∧
  (∀ (s : State) (u k : Nat), u < 1536 → (s.tile u).kernel = some k → (s.tile u).saved = true → u ∈ (s.kernel k).tiles →
    (s.kernel k).fault = none →
    ∃ t, exec (.tileSaved u) s = .next t ∧ (t.tile u).kernel = none ∧ (t.tile u).clauses = [] ∧ (t.tile u).saved = false ∧
      (t.tile u).spm = (s.tile u).spm ∧ (t.kernel k).tiles = (s.kernel k).tiles.filter (· != u) ∧
      (u, tileBytes (s.tile u).savedEntries.length (s.kernel k).granules (s.kernel k).spmSplit) ∈ (t.kernel k).savedTiles ∧
      SameMem s t ∧ ∀ v, v ≠ u → t.tile v = s.tile v) ∧
  (∀ (s : State) (k first n : Nat), (s.kernel k).st = .switching → (s.kernel k).tiles = [] → (s.kernel k).fault = none →
    s.rotating = false → OneExtent s (s.kernel k).part first n → s.noSpare = [] →
    let kn := s.kernel k
    let off := ((s.ctx kn.ctx).savePpn + kn.slot * (s.ctx kn.ctx).slotPages) * 65536
    off + 4096 ≤ n * 65536 →
    ∃ t, exec (.kernelSwitchedOut k) s = .next t ∧ (t.kernel k).st = .out ∧ (t.kernel k).outSince = s.now ∧
      Stands t (first * 65536 + off) 4096 (kernelHeader kn) ∧
      (kn.swCause = 2 → (t.kernel k).eligible = true ∧
        (t.part kn.part).placing = (s.part kn.part).placing.filter (· != k) ++ [k]) ∧
      (kn.swCause ≠ 2 → (s.pageReqs.any fun r => r.kernels.any fun x => x.1 == k) = true →
        (t.kernel k).eligible = false ∧ k ∉ (t.part kn.part).placing)) ∧
  (∀ (s : State) (k : Nat) (bs : List Byte), (s.kernel k).st = .out → (s.kernel k).eligible = true →
    (s.part (s.kernel k).part).placing.head? = some k → s.rotating = false → HomesFree s →
    (∀ x ∈ (s.kernel k).savedTiles, (s.tile x.1).kernel = some k) →
    let kn := s.kernel k
    s.fetchAll (s.partPieces kn.part ((s.ctx kn.ctx).slotAt kn.slot) (kn.savedTiles.foldl (fun n x => n + x.2) 4096)) = (bs, false) →
    let rec_ (x : Nat × Nat) : List Byte := bs.drop (recordAt x.1 kn.savedTiles)
    (headerCheck kn (bs.take 4096) = true → (kn.savedTiles.map (·.1)).Nodup →
      (∀ x ∈ kn.savedTiles, tileCheck kn x.1 (rec_ x) = true) →
      ∃ t, exec (.kernelResume k) s = .next t ∧ (t.kernel k).nextBlock = leNat ((bs.drop 8).take 4) ∧
        (t.kernel k).retired = leNat ((bs.drop 12).take 4) ∧ (t.kernel k).tiles = kn.savedTiles.map (·.1) ∧
        (t.kernel k).savedTiles = [] ∧
        ∀ x ∈ kn.savedTiles, (t.tile x.1).kernel = some k ∧ (t.tile x.1).l1 = [] ∧ (t.tile x.1).saved = false ∧
          ∀ i < 8192, tabGet wDef (t.tile x.1).acc i = BitVec.ofNat 32 (leNat (((rec_ x).drop (0x1000 + 4 * i)).take 4))) ∧
    (headerCheck kn (bs.take 4096) = false → tabWf tileNone s.tiles = true → (s.ctx kn.ctx).st = .live →
      ∃ t0, exec (.kernelResume k) s = .next t0.flush ∧ Gone s t0 k ∧ QueuesLost s t0 kn.ctx ∧
        Lost t0 kn.ctx 0x14 7 kn.queue (BitVec.ofNat 32 kn.seq) 0)) ∧
  (∀ (s : State) (p v w i : Nat), p < 48 → tabWf kernelNone s.kernels = true → (s.part p).quantumUs ≠ 0 → (s.part p).preempt = none →
    (s.part p).st = .ready → (s.waiters p).head? = some w →
    let q := (s.part p).quantumUs * 1000000
    (s.reach ((s.kernel w).waitSince + q + 1)).victim p w = some v → (s.ctx (s.kernel v).ctx).freeSlot = some i →
    ∃ t, exec (.preemptQuantumExpire p) s = .next t ∧ (t.kernel v).st = .switching ∧ (t.kernel v).swCause = 2 ∧
      (t.kernel v).slot = i ∧ (t.part p).preempt = some (w, v) ∧ (s.kernel w).waitSince + q < t.now ∧
      (s.kernel v).st = .running ∧ (s.kernel v).part = p ∧ (s.kernel v).ctx ≠ (s.kernel w).ctx ∧
      q ≤ t.now - (s.kernel v).ranSince ∧ SameMem s t)

/-- R305 to R308, R314, R317, R243, R301 to R304: requests turned away wait with a ticket or back off, and start again; a forward is
served by the forwarder's L1 or by the home; nothing is poisoned by a forward that is late. -/
def Obligations.RetriesAndForwards : Prop :=
  (∀ (s : State) (m : Nat) (x : Rsp), s.rsp? m .retry = some x →
    exec (.retry m) s = .next { s with rsps := s.rsps.filter (·.id != m) }) ∧
  (∀ (s : State) (k : Nat) (r : Req), k < 512 → r ∈ s.reqs → r.st = .ticket → s.sliceOf r.line = k → s.canGrant r = true →
    (∀ q ∈ s.reqs, q ≠ r → q.st = .ticket → s.sliceOf q.line = k → s.canGrant q = true → r.ticket < q.ticket) →
    ∃ t, exec (.grant k) s = .next t ∧ { r with st := .granted, entry := (s.miss r.line).isSome } ∈ t.reqs ∧ Answered t r .grant (fun _ => True) ∧
      SameMem s t ∧ t.misses = s.misses) ∧
  (∀ (s : State) (r : Req), s.reqs.find? (fun q => q.id == r.id && q.st == .granted) = some r →
    ∃ t, exec (.grantHoldExpire r.id) s = .next t ∧ { r with st := .sent, entry := false } ∈ t.reqs ∧
      (∀ y ∈ t.rsps, y.kind = .grant → y.req.id ≠ r.id) ∧ t = { s with reqs := t.reqs, rsps := t.rsps }) ∧
  (∀ (s : State) (m : Nat) (x : Rsp) (r : Req), s.rsp? m .nack = some x → s.reqs.find? (·.id == x.req.id) = some r →
    ∃ t, exec (.nack m) s = .next t ∧ { r with nacks := r.nacks + 1 } ∈ t.reqs ∧ (∀ y ∈ t.rsps, y.id ≠ m) ∧
      t = { s with reqs := t.reqs, rsps := t.rsps }) ∧
  (∀ (s : State) (r : Req), s.reqs.find? (fun q => q.id == r.id && q.st == .backoff) = some r →
    (∀ x ∈ s.rsps, x.kind = .nack → x.req.id ≠ r.id) →
    ∃ t, exec (.nackBackoffExpire r.id) s = .next t ∧ { r with st := .sent } ∈ t.reqs ∧ t = { s with reqs := t.reqs }) ∧
  (∀ (s : State) (m : Nat) (x : Rsp), s.rsp? m .fwd = some x →
    (∀ l, (s.tile x.tile).l1Hit x.req.line x.req.mask = some l →
      ∃ t, exec (.fwd m) s = .next t ∧ Answered t x.req .dataF (fun y => y.data = l.data ∧ y.poison = 0) ∧
        Answered t x.req .fwdAck (fun y => y.tile = x.tile) ∧
        tabGet l1None (t.tile x.tile).l1 x.req.line = some { l with fwd := false } ∧ SameMem s t) ∧
    ((s.tile x.tile).l1Hit x.req.line x.req.mask = none →
      ∃ t, exec (.fwd m) s = .next t ∧ Answered t x.req .fwdMiss (fun y => y.tile = x.tile) ∧ t.tiles = s.tiles ∧ SameMem s t)) ∧
  (∀ (s : State) (m : Nat) (x : Rsp) (y : Miss) (r : Req) (f : Frame), s.rsp? m .fwdAck = some x → s.miss x.req.line = some y →
    y.why = .fwd x.tile → y.waiters = [r] → r.id = x.req.id → s.frame x.req.line = some f →
    ∃ t, exec (.fwdAck m) s = .next t ∧ t.frame x.req.line = some { f with fwd := some x.req.src.tile } ∧
      t.miss x.req.line = none ∧ SameMem s t) ∧
  (∀ (s : State) (m : Nat) (x : Rsp) (y : Miss) (r : Req) (f : Frame), s.rsp? m .fwdMiss = some x → s.miss x.req.line = some y →
    y.why = .fwd x.tile → y.waiters = [r] → r.id = x.req.id → r.line = x.req.line → r.kind = .rdRo →
    s.frame x.req.line = some f → f.valid = 15 → s.hostOf x.req.line ≠ some .em → s.upsets = [] →
    (s.page (r.line / 512)).released = false →
    ∃ t, exec (.fwdMiss m) s = .next t ∧ Answered t r .data (fun z => z.data = memBytes s.mem (r.line * 128) 128) ∧
      t.miss x.req.line = none ∧ t.mem = s.mem ∧ t.poison = s.poison) ∧
  (∀ (s : State) (m : Nat) (x : Rsp), s.rsp? m .fwdAck = some x → s.miss x.req.line = none →
    ∃ t, exec (.fwdAck m) s = .next t ∧ t.frames = s.frames ∧ t.mem = s.mem ∧ t.poison = s.poison ∧
      t.word (0x00A00800 + 8 * 0x12) = s.word (0x00A00800 + 8 * 0x12) + 1) ∧
  (∀ (s : State) (line u : Nat) (r : Req) (y : Miss) (f : Frame), tabWf missNone s.misses = true → s.miss line = some y →
    y.why = .fwd u → y.waiters = [r] → r.line = line → r.kind = .rdRo → s.frame line = some f → f.valid = 15 →
    s.hostOf line ≠ some .em → s.upsets = [] → (s.page (line / 512)).released = false →
    (∀ k z v, k ≠ line → s.miss k = some z → z.why = .fwd v → ∀ q ∈ z.waiters, q.id ≠ r.id) →
    ∃ t, exec (.fwdTimeout r.id) s = .next t ∧
      Answered t (if y.given then { r with had := true } else r) .data (fun z => z.data = memBytes s.mem (line * 128) 128) ∧
      t.miss line = none ∧ t.mem = s.mem ∧ t.poison = s.poison ∧
      t.fld (fieldAt 0x00500300 31 16) = min 65535 (s.fld (fieldAt 0x00500300 31 16) + 1) ∧
      (y.given = false → r.id ∈ t.timedOut) ∧ y.since + s.fld (fieldAt 0x00500300 5 0) * 1000000 ≤ t.now)

/-- R163, R225, R254, R255, R277, R293, R296, R300, R304 to R308, Tables 6.5 and 6.7: what the home of a line does with a request.
A read gets the line; a store, an atomic and a reduction act in memory lane after lane, and their answer follows; a store ends a
forwarder's record; a poisoned operand is refused and nothing is written. An error met in the data array is counted, and poisons its
sector where it was not corrected (R223). -/
def Obligations.HomeRequests : Prop :=
  (∀ (s : State) (r : Req) (f : Frame), AtHome s .rd r f →
    ∃ t, exec (.rd r.id []) s = .next t ∧ Taken t r ∧ t.mem = s.mem ∧ t.poison = s.poison ∧
      Answered t r .data (fun y => y.data = memBytes s.mem (r.line * 128) 128 ∧ y.poison = Nat.land (s.linePoison r.line) r.mask)) ∧
  (∀ (s : State) (r : Req) (f : Frame) (e : ArrayErr), AtHome s .rd r f → e.sector < 4 → bitOf r.mask e.sector = true →
    ∃ t, exec (.rd r.id [e]) s = .next t ∧ Taken t r ∧ t.mem = s.mem ∧
      Answered t r .data (fun y => y.data = memBytes s.mem (r.line * 128) 128 ∧ y.poison = Nat.land (t.linePoison r.line) r.mask) ∧
      (e.correctable = true → t.poison = s.poison ∧ t.word (0x00A00800 + 8 * 0x09) = s.word (0x00A00800 + 8 * 0x09) + 1) ∧
      (e.correctable = false → t.poison = (s.setPoison (4 * r.line + e.sector) true).poison ∧
        t.word (0x00A00800 + 8 * 0x0A) = s.word (0x00A00800 + 8 * 0x0A) + 1)) ∧
  (∀ (s : State) (r : Req) (k : ReqKind) (errs : List ArrayErr), s.arriving r.id k = some r →
    let s' := s.readErrs r errs
    s'.mem = s.mem ∧ (k = .rd → exec (.rd r.id errs) s = exec (.rd r.id []) s') ∧
      (k = .rdRo → exec (.rdRo r.id errs) s = exec (.rdRo r.id []) s') ∧
      (k = .atom → exec (.atom r.id errs) s = exec (.atom r.id []) s') ∧
      (k = .red → exec (.red r.id errs) s = exec (.red r.id []) s')) ∧
  (∀ (s : State) (r : Req) (f : Frame), AtHome s .rdRo r f → Nat.land (s.linePoison r.line) r.mask = 0 →
    ∃ t, exec (.rdRo r.id []) s = .next t ∧ Taken t r ∧ t.mem = s.mem ∧
      (f.fwd = none → Answered t r .data (fun y => y.data = memBytes s.mem (r.line * 128) 128 ∧ y.poison = 0) ∧
        t.frame r.line = some { f with fwd := some r.src.tile }) ∧
      (∀ u, f.fwd = some u → s.missRoom r.line r.tag = true → s.fwdOut u < 8 → Answered t r .fwd (fun y => y.tile = u) ∧
        t.miss r.line = some { why := .fwd u, waiters := [r], tag := r.tag, since := s.now })) ∧
  (∀ (s : State) (r : Req) (f : Frame), AtHome s .wr r f →
    ∃ t g, exec (.wr r.id) s = .next t ∧ Taken t r ∧ Answered t r .ack (fun y => y.bad = false) ∧
      t.mem = r.ops.foldl (fun m o => memPut m (r.line * 128 + o.off) (leBytes r.bytes o.val)) s.mem ∧
      t.frame r.line = some g ∧ g.fwd = none ∧ (∀ i < 4, bitOf r.touched i = true → bitOf g.dirty i = true) ∧
      (∀ i < 4, tabGet (fun _ => false) t.poison (4 * r.line + i) =
        (tabGet (fun _ => false) s.poison (4 * r.line + i) && !bitOf (fullMask r.bytes r.ops) i))) ∧
  (∀ (s : State) (r : Req) (f : Frame), AtHome s .atom r f → Nat.land (s.linePoison r.line) r.touched = 0 →
    ∃ t g, exec (.atom r.id []) s = .next t ∧ Taken t r ∧ t.mem = (atomRun r.op r.bytes (r.line * 128) s.mem r.ops).1 ∧
      t.frame r.line = some g ∧ g.fwd = none ∧
      (r.nr = false → Answered t r .atomRsp (fun y => y.olds = (atomRun r.op r.bytes (r.line * 128) s.mem r.ops).2 ∧ y.bad = false)) ∧
      (r.nr = true → Answered t r .ack (fun y => y.bad = false))) ∧
  (∀ (s : State) (r : Req) (f : Frame), AtHome s .atom r f → Nat.land (s.linePoison r.line) r.touched ≠ 0 →
    ∃ t, exec (.atom r.id []) s = .next t ∧ Taken t r ∧ t.mem = s.mem ∧
      Answered t r (if r.nr then .ack else .atomRsp) (fun y => y.bad = true)) ∧
  (∀ (s : State) (r : Req) (f : Frame), AtHome s .red r f → s.foldable r = [] →
    ∃ t, exec (.red r.id []) s = .next t ∧ Taken t r ∧
      (Nat.land (s.linePoison r.line) r.touched = 0 → t.mem = (redRun r.fmt (r.line * 128) r.ops (s.mem, 0)).1 ∧
        Answered t r .ack (fun y => y.bad = false)) ∧
      (Nat.land (s.linePoison r.line) r.touched ≠ 0 → t.mem = s.mem ∧ Answered t r .ack (fun y => y.bad = true))) ∧
  (∀ (s : State) (r : Req), s.arriving r.id .watch = some r →
    ∃ t, exec (.watch r.id) s = .next t ∧ Taken t r ∧ (r.line, r.src) ∈ t.watches ∧ (∀ w ∈ s.watches, w ∈ t.watches) ∧
      t = { s with reqs := t.reqs, watches := t.watches }) ∧
  (∀ (s : State) (r : Req), s.arriving r.id .unwatch = some r →
    ∃ t, exec (.unwatch r.id) s = .next t ∧ Taken t r ∧ t.watches = s.watches.filter (· != (r.line, r.src)) ∧
      t = { s with reqs := t.reqs, watches := t.watches })

/-- R232 to R235, R305 to R307, Table 6.5: a read that its home cannot answer at once. With sectors missing it takes a register, which
waits for a fill; with a copy EM at the host a snoop goes out; behind a register it waits in turn; with no room it gets a ticket at
BL2, and at BL1 it backs off. -/
def Obligations.HomeWaits : Prop :=
  (∀ (s : State) (r : Req), s.arriving r.id .rd = some r → s.rot ≠ .rekey → (s.page (r.line / 512)).released = false →
    s.miss r.line = none → Nat.land (s.linePoison r.line) r.mask = 0 → s.missRoom r.line r.tag = true →
    s.wayRoom r.line r.tag = true →
    let same (t : State) (r : Req) : Prop := t.mem = s.mem ∧ t.host = s.host ∧ t.poison = s.poison ∧
      (s.queueHeld r.line = [] → t.regs = s.regs)
    (s.hostOf r.line ≠ some .em → s.frame r.line = none → r.mask % 16 ≠ 0 →
      ∃ t m, exec (.rd r.id []) s = .next t ∧ Taken t r ∧ t.miss r.line = some m ∧ m.why = .fill ∧ m.waiters = [r] ∧
        (∀ i < 4, bitOf r.mask i = true → bitOf m.need i = true) ∧ same t r ∧ ∀ y ∈ t.rsps, y ∈ s.rsps) ∧
    (s.hostOf r.line = some .em → s.silent = false →
      ∃ t, exec (.rd r.id []) s = .next t ∧ Taken t r ∧
        t.miss r.line = some { why := .snoopData, waiters := [r], tag := r.tag, since := s.now } ∧
        t.sent = .snoop r.line false :: s.sent ∧ same t r)) ∧
  (∀ (s : State) (r : Req) (m : Miss), s.arriving r.id .rd = some r → s.rot ≠ .rekey → (s.page (r.line / 512)).released = false →
    s.miss r.line = some m →
    let same (t : State) (r : Req) : Prop := t.mem = s.mem ∧ t.host = s.host ∧ t.poison = s.poison ∧
      (s.queueHeld r.line = [] → t.regs = s.regs)
    (s.waiterRoom r.line r.tag = true →
      ∃ t n, exec (.rd r.id []) s = .next t ∧ Taken t r ∧ t.miss r.line = some n ∧ n.waiters = m.waiters ++ [r] ∧ same t r) ∧
    (s.waiterRoom r.line r.tag = false → r.st = .sent → r.bl1 = false →
      (s.reqs.any fun q => q.st == .ticket && q.src.tile == r.src.tile && s.sameSlice q.line r.line) = false →
      ∃ t, exec (.rd r.id []) s = .next t ∧ { r with st := .ticket, ticket := s.fresh } ∈ t.reqs ∧ Answered t r .retry (fun _ => True) ∧ SameMem s t) ∧
    (s.waiterRoom r.line r.tag = false → r.st = .sent → r.bl1 = true →
      ∃ t, exec (.rd r.id []) s = .next t ∧ { r with st := .backoff } ∈ t.reqs ∧ Answered t r .nack (fun _ => True) ∧ t.mem = s.mem))

/-- R299, R302, R312, R315 to R317, R370, Tables 6.3, 6.5 and 6.6: the host's reads get the line and are recorded; its write-backs and
modified answers are written with the poison the host marks; a host that does not answer loses an EM line to poison. -/
def Obligations.HostCoherence : Prop :=
  (∀ (s : State) (line : Nat) (f : Frame), lineExists s line = true → s.rotating = false → s.silent = false →
    s.lockedPage (line / 512) = none → s.miss line = none → s.hosts.length < 4096 → s.hostFull line = false →
    s.frame line = some f → f.valid = 15 → (s.page (line / 512)).released = false → s.upsets = [] →
    let given (i : Instr) (excl : Bool) (st : HostSt) : Prop := ∃ t, exec i s = .next t ∧
      t.sent = .hostData line excl (memBytes s.mem (line * 128) 128) (s.linePoison line) :: s.sent ∧
      t.hostOf line = some st ∧ t.mem = s.mem ∧ t.poison = s.poison
    given (.hostReadShared line) false .s ∧ given (.hostReadExclusive line) true .em) ∧
  (∀ (s : State) (line : Nat), lineExists s line = true → s.rotating = false →
    (s.silent = true ∨ (s.lockedPage (line / 512)).isSome = true) →
    let poisoned (excl : Bool) : State := { s with sent := .hostData line excl (memBytes s.mem (line * 128) 128) 15 :: s.sent }
    exec (.hostReadShared line) s = .next (poisoned false) ∧ exec (.hostReadExclusive line) s = .next (poisoned true)) ∧
  (∀ (s : State) (line : Nat) (keepS : Bool) (d : LineData), lineExists s line = true → d.bytes.length = 128 →
    s.keyless (line / 512) = false → (s.page (line / 512)).released = false → s.hostOf line = some .em →
    ∃ t, exec (.hostWriteBack line keepS d) s = .next t ∧ memBytes t.mem (line * 128) 128 = d.bytes ∧
      t.hostOf line = (if keepS then some .s else none) ∧
      (∀ i < 4, tabGet (fun _ => false) t.poison (4 * line + i) = d.poison.getLsbD i) ∧
      (∀ g, t.frame line = some g → g.fwd = (s.frame line).bind (·.fwd)) ∧
      ∀ a, a / 128 ≠ line → memByte t.mem a = memByte s.mem a) ∧
  (∀ (s : State) (line : Nat) (keepS : Bool) (d : LineData), lineExists s line = true → d.bytes.length = 128 →
    s.hostOf line ≠ some .em →
    ∃ t, exec (.hostWriteBack line keepS d) s = .next t ∧ t = { s with regs := t.regs } ∧
      t.word (0x00A00800 + 8 * 0x12) = s.word (0x00A00800 + 8 * 0x12) + 1) ∧
  (∀ (s : State) (line : Nat) (m : Miss) (d : Option LineData), lineExists s line = true →
    (∀ x, d = some x → x.bytes.length = 128) → s.keyless (line / 512) = false → (s.page (line / 512)).released = false →
    s.miss line = some m → (m.why = .snoopData ∨ m.why = .snoopInv) → m.waiters = [] →
    (∀ e ∈ s.misses, ∀ z, e.2 = some z → z.why ≠ .recall line) →
    let answered (i : Instr) (st : Option HostSt) : Prop := ∃ t, exec i s = .next t ∧ t.hostOf line = st ∧
      t.miss line = none ∧ (∀ x, d = some x → memBytes t.mem (line * 128) 128 = x.bytes ∧
        ∀ i < 4, tabGet (fun _ => false) t.poison (4 * line + i) = x.poison.getLsbD i) ∧
      (d = none → t.mem = s.mem ∧ t.poison = s.poison)
    answered (.birsps line d) (some .s) ∧ answered (.birspi line d) none) ∧
  (∀ (s : State) (line : Nat) (m : Miss), lineExists s line = true → s.miss line = some m →
    (m.why = .snoopData ∨ m.why = .snoopInv) → m.waiters = [] → (∀ e ∈ s.misses, ∀ z, e.2 = some z → z.why ≠ .recall line) →
    ∃ t, exec (.bisnpTimeout line) s = .next t ∧ t.hostOf line = none ∧ t.miss line = none ∧ t.mem = s.mem ∧
      m.since + s.fld (fieldAt 0x00500300 5 0) * 1000000 ≤ t.now ∧
      t.fld (fieldAt 0x00500300 31 16) = min 65535 (s.fld (fieldAt 0x00500300 31 16) + 1) ∧
      (s.hostOf line = some .em → t.silent = true ∧ (∀ i < 4, tabGet (fun _ => false) t.poison (4 * line + i) = true) ∧
        t.word (0x00A00800 + 8 * 0x11) = s.word (0x00A00800 + 8 * 0x11) + 1) ∧
      (s.hostOf line ≠ some .em → t.silent = s.silent ∧ t.poison = s.poison)) ∧
  (∀ (s : State) (line : Nat), exec (.h2dSnoop line) s = .next { s with sent := .rspIHitI line :: s.sent })

/-- R234, R246, R260 to R262, R309, R350, R388, R395, R396, Table 6.6: a fill that returns completes its line and serves what waited,
its uncorrectable sectors poisoned; a slice enters and leaves the hot state by its thresholds; staged case-tag registers are applied
as a whole or not at all. -/
def Obligations.FillsAndSlices : Prop :=
  (∀ (s : State) (line : Nat) (errs : List MemErr) (arr : List ArrayErr) (m : Miss) (r : Req) (f : Frame), lineExists s line = true →
    s.miss line = some m → m.why = .fill → m.waiters = [r] → r.line = line → r.kind = .rd →
    s.repairs = [] → s.upsets = [] → s.tierErrs = [] → (s.page (line / 512)).released = false → s.memSlot (line / 512) = none → s.hostOf line ≠ some .em → s.frame line = some f → f.packed = false →
    Nat.lor f.valid m.need = 15 →
    ∃ t g, exec (.fillReturn line errs arr) s = .next t ∧ t.miss line = none ∧ t.mem = s.mem ∧
      Answered t r .data (fun y => y.data = memBytes s.mem (line * 128) 128 ∧ y.poison = Nat.land (t.linePoison line) r.mask) ∧
      t.frame line = some g ∧ g.valid = 15 ∧ (errs = [] → arr = [] → t.poison = s.poison) ∧
      (∀ e ∈ arr, e.correctable = false → e.sector < 4 → bitOf f.valid e.sector = true → bitOf m.need e.sector = false →
        tabGet (fun _ => false) t.poison (4 * line + e.sector) = true) ∧
      (∀ e ∈ errs, e.correctable = false → e.sector < 4 → bitOf m.need e.sector = true →
        tabGet (fun _ => false) t.poison (4 * line + e.sector) = true)) ∧
  (∀ (s : State) (slice : Nat) (w : HotWindow), slice < 512 → s.hot.contains slice = false → s.fld (fieldAt 0x00500200 7 0) ≤ w.average →
    ∃ t, exec (.hotWindowEnd slice w) s = .next t ∧ slice ∈ t.hot ∧ t.mem = s.mem ∧
      (s.fld (fieldAt 0x00500200 16 16) = 1 → s.hotSeen.contains slice = false →
        t.fld (fieldAt 0x00500208 15 0) = (s.fld (fieldAt 0x00500208 15 0) + 1) % 65536 ∧ slice ∈ t.hotSeen ∧
        t.word (0x00A00800 + 8 * 0x10) = s.word (0x00A00800 + 8 * 0x10) + 1)) ∧
  (∀ (s : State) (slice : Nat) (w : HotWindow), slice < 512 → slice ∈ s.hot → w.average < s.fld (fieldAt 0x00500200 7 0) - 32 →
    ∃ t, exec (.hotWindowEnd slice w) s = .next t ∧ slice ∉ t.hot ∧ t = { s with hot := t.hot, regs := t.regs } ∧
      (s.fld (fieldAt 0x00500200 16 16) = 1 →
        t.fld (fieldAt 0x00500208 15 0) = (s.fld (fieldAt 0x00500208 15 0) + 1) % 65536)) ∧
  (∀ (s : State), s.ready = true →
    ∃ t, exec .ucRegApply s = .next t ∧ t = { s with regs := t.regs } ∧ t.fld (fieldAt 0x00500500 0 0) = 0 ∧
      t.fld (fieldAt 0x00500500 1 1) = 1 ∧ t.fld (fieldAt 0x00500500 7 4) = s.applyStatus ∧
      ∀ k ∈ ucStaged, t.word (appliedKey k) = if s.applyStatus = 0 then s.word k else s.word (appliedKey k))

/-- R265 to R267, R330, R608 to R610, Table 5.11: a hash-key rotation holds every requester, empties the cache and takes a fresh key; a
telemetry epoch ends with every live counter at 0 and the pages' heat renewed. -/
def Obligations.RotationAndEpochs : Prop :=
  (∀ (s : State), s.ready = true → s.rot = .idle → (∀ x ∈ s.parts, x.2.st ≠ .resetting) →
    ∃ t, exec .hashRotRequest s = .next t ∧ t.rot = .draining ∧ t.rotAt = s.now ∧ t.fld (rotReg 0 0) = 1 ∧
      t = { s with regs := t.regs, rot := t.rot, rotAt := t.rotAt, rotCycles := t.rotCycles }) ∧
  (∀ (s : State), s.ready = true → s.rot = .idle → (∃ x ∈ s.parts, x.2.st = .resetting) →
    ∃ t, exec .hashRotRequest s = .next t ∧ t.rot = .waiting ∧ t = { s with regs := t.regs, rot := t.rot }) ∧
  (∀ (s : State), s.rot = .draining → s.netIdle = true → s.hosts = [] → tabWf tileNone s.tiles = true →
    tabWf (fun _ => none) s.frames = true →
    ∃ t, exec .hashRotDrained s = .next t ∧ t.rot = .rekey ∧ t.mem = s.mem ∧ (∀ line, t.frame line = none) ∧
      ∀ u, (t.tile u).l1 = [] ∧ (t.tile u).clauses = (s.tile u).clauses ∧ (t.tile u).spm = (s.tile u).spm) ∧
  (∀ (s : State), s.rot = .draining → s.netIdle = true → s.hosts ≠ [] → s.silent = false →
    2 * s.hosts.length + s.missOff.length < 48 →
    ∃ t, exec .hashRotDrained s = .next t ∧ t.rot = .draining ∧ SameMem s t ∧
      ∀ h ∈ s.hosts, (t.miss h.1).isSome = true ∧ Sent.snoop h.1 true ∈ t.sent) ∧
  (∀ (s : State) (us : Nat), s.rot = .rekey → s.queues = [] → s.events = [] → s.flrs = [] → s.models = [] → s.prefetches = [] → s.watches = [] →
    s.xfers = [] → s.prtHeld = none → (∀ x ∈ s.parts, x.2.tdiStop = false) →
    ∃ t, exec (.hashRotDone us) s = .next t ∧ t.rot = .idle ∧ t.hashKey = BitVec.ofNat 128 (Config.free s.freeCtr) ∧
      t.freeCtr = s.freeCtr + 1 ∧ s.rotAt + us * 10 ^ 6 ≤ t.now ∧ t.mem = s.mem ∧ t.fld (rotReg 0 0) = 0 ∧ t.fld (rotReg 1 1) = 1 ∧
      t.fld (rotReg 31 16) = min 65535 us) ∧
  (∀ (s : State), s.up = true → s.fld ⟨0x00C00008, 31, 0⟩ % 2 = 0 → tabWf regReset s.regs = true →
    tabWf (basePage s.bad) s.pages = true →
    ∃ t, exec .telemetryEpoch s = .next t ∧ t.epoch = s.epoch + 1 ∧ t.epochStart = s.epochStart + 1000 * s.pwr.epochUs ∧
      s.t0 + 1000 * t.epochStart ≤ t.now ∧ t.word 0x00C00040 = BitVec.ofNat 64 s.epoch ∧
      t.word 0x00C00048 = BitVec.ofNat 64 s.epochStart ∧ t.word 0x00C00050 = BitVec.ofNat 64 t.epochStart ∧
      (∀ off, off < 2 ^ 60 → off ≠ 0x00C000D0 → off ≠ 0x00C000D8 → t.word (liveKey off) = 0) ∧
      (∀ n, t.page n = { s.page n with
        heat := min 65535 ((s.page n).heat / 2 + (s.page n).count), count := 0, freeze := (s.page n).freeze - 1 }) ∧
      t.mem = s.mem ∧ t.tileCe = []) ∧
  (∀ (s : State), s.fld ⟨0x00C00008, 31, 0⟩ % 2 = 1 →
    ∃ t, exec .telemetryLatchEnd s = .next t ∧ t = { s with regs := t.regs } ∧
      t.fld ⟨0x00C00008, 31, 0⟩ = (s.fld ⟨0x00C00008, 31, 0⟩ + 1) % 2 ^ 32)

/-- R339 to R344, R355, R359, Tables 7.10 and 7.11: the ops of TIER_CMD. Each page of a range takes its pin state, or is released; the op
ends at once, or, where pages of the range move, with the last of them (Obligations.TierEvents); a channel mapped out starts to drain; a
range that is empty is refused with status 2; while go reads 1 a write starts nothing. -/
def Obligations.TierCommands : Prop :=
  let first (s : State) : Nat := s.fld ⟨0x00400020, 31, 0⟩
  let count (s : State) : Nat := s.fld ⟨0x00400020, 63, 32⟩
  let inRange (s : State) (n : Nat) : Prop := first s ≤ n ∧ n < first s + count s
  let go (s : State) : Nat := s.fld (fieldAt 0x00400028 31 31)
  let done (t : State) (op st : Nat) : Prop := t.fld (fieldAt 0x00400028 2 0) = op ∧ t.fld (fieldAt 0x00400028 11 8) = st ∧ go t = 0
  let goes (s t : State) (op : Nat) : Prop := ((∀ n, inRange s n → s.moving n = false) → done t op 0) ∧
    ((∃ n, inRange s n ∧ s.moving n = true) → t.fld (fieldAt 0x00400028 2 0) = op ∧ go t = 1 ∧
      ∀ n, n ∈ t.tierWaits ↔ inRange s n ∧ s.moving n = true)
  let legal (s : State) : Prop := s.ready = true ∧ go s = 0 ∧ count s ≠ 0 ∧ first s + count s ≤ s.pageCount ∧
    ∀ n, (s.page n).late ≠ some 3
  let free (s : State) (n op : Nat) : Prop := op = 1 ∨ (s.saved n = false ∧ s.weight n = false)
  let pins (i : Instr) (op : Nat) : Prop := ∀ s : State, legal s → (op = 1 → s.pinRefused ((List.range (count s)).map (first s + ·)) = false) →
    ∃ t, exec i s = .next t ∧ goes s t op ∧ t.mem = s.mem ∧
      (∀ n, inRange s n → (s.page n).released = false → s.moving n = false → free s n op → (t.page n).pin = op ∧ (t.page n).at_ = (s.page n).at_) ∧
      (∀ n, inRange s n → (s.page n).released = false → s.moving n = true → free s n op → (t.page n).late = some op) ∧
      (∀ n, inRange s n → ¬ free s n op → t.page n = s.page n) ∧
      (∀ n, ¬ inRange s n → t.page n = s.page n) ∧
      (∀ n, inRange s n → (s.page n).released = false → s.moving n = false → free s n op →
        (op = 1 ∧ (s.page n).at_.fast = false) ∨ (op = 2 ∧ (s.page n).at_.fast = true) → ∃ m ∈ t.todo, m.page = n)
  let maps (i : Instr) (op : Nat) (fast : Bool) : Prop := ∀ s : State, s.ready = true → go s = 0 → first s < tierCh fast →
    (s.chan fast (first s)).st = 0 →
    ∃ t, exec i s = .next t ∧ done t op 0 ∧ (t.chan fast (first s)).st = 1 ∧ t.mem = s.mem ∧ (∀ n, t.page n = s.page n) ∧
      ∀ k < tierSlots fast, ∀ p, s.pageAt ⟨fast, k * tierCh fast + first s⟩ = some p → ∃ m ∈ t.todo, m.page = p
  pins .tierManage 0 ∧ pins .tierPinFast 1 ∧ pins .tierPinCap 2 ∧
  (∀ s : State, legal s → ((List.range (count s)).any fun i => (s.lockedPage (first s + i)).isSome) = false →
    (∀ n, inRange s n → s.saved n = false) →
    ∃ t, exec .tierRelease s = .next t ∧ goes s t 3 ∧ t.mem = s.mem ∧
      (∀ n, inRange s n → s.moving n = false → (t.page n).released = true ∧ ((s.page n).released = false → ∀ line, line / 512 = n → t.frame line = none)) ∧
      (∀ n, inRange s n → (s.page n).released = false → s.moving n = true → (t.page n).late = some 3)) ∧
  maps .tierMapoutFast 4 true ∧ maps .tierMapoutCap 5 false ∧
  (∀ i ∈ [(Instr.tierManage, 0), (.tierPinFast, 1), (.tierPinCap, 2), (.tierRelease, 3)], ∀ s : State, s.ready = true →
    (go s = 0 → count s = 0 → ∃ t, exec i.1 s = .next t ∧ done t i.2 2 ∧ t = { s with regs := t.regs }) ∧
    (go s = 1 → exec i.1 s = .next (s.setFld (fieldAt 0x00400028 2 0) i.2)))

/-- R322, R328, R334 to R337, R345 to R356: moves, map copies, temperatures, scrub and channels of the tiers. -/
def Obligations.TierEvents : Prop :=
  (∀ (s : State) (m : Move) (f : FrameNo), m.page < s.pageCount → s.rot = .idle → s.moves.length < 64 → s.otherStarts < 1024 →
    (s.todo.find? fun x => x.page == m.page && s.canStart x) = some m → s.target m = some f →
    ∃ t, exec (.pageMoveStart m.page) s = .next t ∧ t.moves = s.moves ++ [{ m with dest := f }] ∧
      (∀ x ∈ t.todo, x.page ≠ m.page) ∧ t.otherStarts = s.otherStarts + 1 ∧ t.mem = s.mem ∧ t.pages = s.pages) ∧
  (∀ (s : State) (page : Nat) (bad : List Nat) (m : Move), page < s.pageCount → s.moves.find? (·.page == page) = some m →
    (s.page page).late = none → (s.page page).pin = 0 → s.repairs = [] →
    (∀ line f, line / 512 = page → s.frame line = some f → f.packed = false) →
    let bad_ (t : State) (i : Nat) : Prop := if bitOf (s.validAt (512 * page + i / 4)) (i % 4) then 2048 * page + i ∈ t.under
      else tabGet (fun _ => false) t.poison (2048 * page + i) = true
    ∃ t, exec (.pageMoveDone page bad) s = .next t ∧
      t.page page = { s.page page with at_ := m.dest, freeze := s.fld (fieldAt 0x00400000 19 12), late := none } ∧
      (∀ x ∈ t.moves, x.page ≠ page) ∧ t.mem = s.mem ∧ (∀ n, n ≠ page → t.page n = s.page n) ∧
      (∀ i ∈ bad, i < 2048 → bad_ t i) ∧ (m.whole = false → bad = [] → t.poison = s.poison) ∧ (m.whole = true → ∀ i < 2048, bad_ t i) ∧
      (page ∈ s.tierWaits → (∀ q ∈ s.tierWaits, q = page) → t.fld (fieldAt 0x00400028 31 31) = 0 ∧
        t.fld (fieldAt 0x00400028 11 8) = 0)) ∧
  (∀ (s : State) (c : Nat), c < 32 → c ∈ s.rebuilding →
    ∃ t, exec (.mapRebuildDone c) s = .next t ∧ c ∉ t.rebuilding ∧ (∀ f ∈ t.mapFrames, f ∉ s.mapFrames → f.fast = false ∧ f.ch % 16 / 8 = c % 16 / 8 ∧ f.ch % 16 ≠ c % 16) ∧
      t.pages = s.pages ∧ SameMem s t) ∧
  (∀ (s : State) (k : Nat) (temp : Int) (x : StackTemp), k < 16 → tabGet tempNone s.stackTemps k = x → x.invalid = false →
    ∃ t y, exec (.stackTempSample k temp) s = .next t ∧ tabGet tempNone t.stackTemps k = y ∧ t.mem = s.mem ∧
      (∀ i < 32, (t.chan true (16 * i + k)).refr = y.refr) ∧
      (-40 ≤ temp ∧ temp ≤ 150 → (temp ≤ 85 → 0 ≤ y.refr) ∧ (85 < temp → 1 ≤ y.refr) ∧ (95 < temp → 2 ≤ y.refr) ∧
        (100 ≤ temp → 3 ≤ y.refr) ∧ (x.last.length < 9 → x.refr ≤ y.refr) ∧ y.invalid = false ∧ t.regs = s.regs) ∧
      (temp < -40 ∨ 150 < temp → 2 ≤ y.refr ∧ y.invalid = true ∧
        t.word (0x00A00800 + 8 * 0x13) = s.word (0x00A00800 + 8 * 0x13) + 1)) ∧
  (∀ (s : State) (k : Nat), k < 16 → (tabGet tempNone s.capTemps k).invalid = false →
    ∃ t, exec (.tempReadingTimeout false k) s = .next t ∧ (tabGet tempNone t.capTemps k).refr = 2 ∧
      (tabGet tempNone t.capTemps k).invalid = true ∧ t.word (0x00A00800 + 8 * 0x13) = s.word (0x00A00800 + 8 * 0x13) + 1) ∧
  (∀ (s : State) (k : Nat) (refr : BitVec 2) (temp : Int), k < 16 → (tabGet tempNone s.capTemps k).invalid = false →
    -40 ≤ temp → temp ≤ 150 →
    ∃ t, exec (.capTempReport k refr temp) s = .next t ∧ t = { s with capTemps := t.capTemps, capCh := t.capCh } ∧
      (∀ i < 2, (t.chan false (16 * i + k)).refr = (tabGet tempNone t.capTemps k).refr) ∧
      (tabGet tempNone t.capTemps k).refr = if 100 ≤ temp then 3 else min 2 refr.toNat) ∧
  (∀ (s : State) (fast : Bool) (n p : Nat) (e : MemErr), n < tierCh fast * tierSlots fast → s.fld (fieldAt 0x00400030 16 16) = 1 →
    s.rotating = false → s.scrubNext fast = some n → s.rewriting ⟨fast, n⟩ = false → s.moves = [] → s.upsets = [] → e.sector < 2048 →
    s.pageAt ⟨fast, n⟩ = some p → (s.page p).at_ = ⟨fast, n⟩ →
    ∃ t, exec (.scrubRead fast n [e]) s = .next t ∧ t.mem = s.mem ∧ (t.scrub fast).pos = n + 1 ∧ s.scrubTime fast n ≤ t.now ∧
      (e.correctable = true → t.poison = s.poison ∧ t.word (0x00A00800 + 8 * 0x0B) = s.word (0x00A00800 + 8 * 0x0B) + 1) ∧
      (e.correctable = false → s.frame (p * 512 + e.sector / 4) = none →
        tabGet (fun _ => false) t.poison (2048 * p + e.sector) = true) ∧
      (∀ f, e.correctable = false → s.frame (p * 512 + e.sector / 4) = some f → bitOf f.valid (e.sector % 4) = true → t.poison = s.poison)) ∧
  (∀ (s : State) (fast : Bool), s.fld (fieldAt 0x00400030 16 16) = 1 → s.scrubNext fast = none →
    ∃ t, exec (.scrubPassEnd fast) s = .next t ∧ t.scrub fast = { start := t.now } ∧ t.scrub (!fast) = s.scrub (!fast) ∧
    (s.scrub fast).start + s.fld (if fast then fieldAt 0x00400030 7 0 else fieldAt 0x00400030 15 8) * 3600000000000000 ≤ t.now ∧ (∀ k ∈ t.cells, k.fast ≠ fast) ∧
    (∀ k ∈ s.cells, k.fast ≠ fast → k ∈ t.cells) ∧ (∀ k ∈ s.cells, k.fast = fast → k.rows.length < 4 → ∀ r ∈ k.rows, (k, r) ∈ t.lastCells) ∧
    t = { s with cells := t.cells, lastCells := t.lastCells, badRows := t.badRows, now := t.now, scrubFast := t.scrubFast
                 scrubCap := t.scrubCap }) ∧
  (∀ (s : State) (c : Nat), c < 512 →
    (∀ r, s.repairs.find? (·.1 == c) = some r → exec (.columnRepairDone c) s = .next { s with repairs := s.repairs.erase r }) ∧
    (s.repairs.find? (·.1 == c) = none → exec (.columnRepairDone c) s = .next s)) ∧
  (∀ (s : State) (fast : Bool) (c : Nat), c < tierCh fast → (s.chan fast c).st = 0 →
    ∃ t, exec (.channelNoAnswer fast c) s = .next t ∧ (t.chan fast c).st = 1 ∧ (t.chan fast c).dead = true ∧ t.mem = s.mem ∧
      ∀ m ∈ t.todo, (s.page m.page).at_.fast = fast → (s.page m.page).at_.ch = c → m.whole = true) ∧
  (∀ (s : State) (fast : Bool) (c : Nat), c < tierCh fast → (s.chan fast c).st = 1 → c ∉ s.rebuilding →
    (∀ k < tierSlots fast, s.pageAt ⟨fast, k * tierCh fast + c⟩ = none ∧ s.comesTo ⟨fast, k * tierCh fast + c⟩ = false) →
    ∃ t, exec (.channelMappedOut fast c) s = .next t ∧ (t.chan fast c).st = 2 ∧ t.mem = s.mem ∧
      t.word (0x00A00800 + 8 * 0x0E) = s.word (0x00A00800 + 8 * 0x0E) + 1)

/-- R403 to R405, R411 to R413, Tables 9.2, 9.4 and 9.9: a port trains step by step, falls to DARK when a step fails or the link is lost,
and takes flits in order. -/
def Obligations.PortTraining : Prop :=
  (∀ (s : State) (p : Nat), p < 32 → s.ready = true → s.portState p = 0 → s.fld (portCtl p 0 0) = 1 → s.lit p = true →
    (s.port p).waitUntil ≤ s.now →
    ∃ t, exec (.portLightOn p) s = .next t ∧ t.portState p = 1 ∧ (t.port p).light = true ∧ (t.port p).since = s.now ∧
      t = { s with regs := t.regs, ports := t.ports }) ∧
  (∀ (s : State) (p : Nat) (i : TrainInfo), p < 32 → s.ready = true →
    let need := if s.fld (portCtl p 2 2) = 1 then 4 else 8
    let n := (waves i.good).length
    (s.portState p = 1 → need ≤ i.bothReport → need ≤ n → ∃ t, exec (.portTrainStepDone p i) s = .next t ∧ t.portState p = 2 ∧
      t.fld (portStat p 12 4) = i.good.toNat) ∧
    (s.portState p = 2 → need ≤ n → ∃ t, exec (.portTrainStepDone p i) s = .next t ∧ t.portState p = 3 ∧
      (waves (t.port p).lanes).length = (if 8 ≤ n then 8 else 4) ∧ (∀ k ∈ waves (t.port p).lanes, k ∈ waves i.good)) ∧
    (s.portState p = 3 → ∃ t, exec (.portTrainStepDone p i) s = .next t ∧ t.portState p = 4) ∧
    (s.portState p = 4 → s.idValid = true → s.outbox = [] →
      let v := commonVer (s.fld (fabId 19 16)) (s.fld (fabId 23 20)) i.verMin i.verMax
      (v ≠ 0 → ∃ t, exec (.portTrainStepDone p i) s = .next t ∧ t.fld (portStat p 45 32) = i.peer.toNat ∧
        t.portState p = if (waves (s.port p).lanes).length = 8 then 5 else 6) ∧
      (v = 0 → ∃ t, exec (.portTrainStepDone p i) s = .next t ∧ t.portState p = 0 ∧ (t.port p).waitUntil = s.now + 10 ^ 11))) ∧
  (∀ (s : State) (p : Nat), p < 32 → s.ready = true → 1 ≤ s.portState p → s.portState p ≤ 4 → (s.portState p = 4 → s.idValid = true) →
    ∃ t, exec (.portTrainTimeout p) s = .next t ∧ t.portState p = 0 ∧ (t.port p).waitUntil = t.now + 10 ^ 11 ∧
      t.fld (portStat p 31 20) = min 4095 (s.fld (portStat p 31 20) + 1) ∧
      (s.port p).since + (if s.portState p = 2 then 5 * 10 ^ 9 else if s.portState p = 3 then 10 ^ 9 else 10 ^ 8) ≤ t.now) ∧
  (∀ (s : State) (p : Nat), p < 32 → s.ready = true → s.portState p = 0 → s.fld (portCtl p 0 0) = 1 → s.lit p = true →
    (s.port p).light = true →
    ∃ t, exec (.portRetryWaitEnd p) s = .next t ∧ t.portState p = 1 ∧ (s.port p).waitUntil ≤ t.now) ∧
  (∀ (s : State) (p : Nat) (h : Held), p < 32 → s.ready = true → (s.portState p = 5 ∨ s.portState p = 6) → (s.port p).held = [h] →
    h.link = false → (s.port p).queue = [] → (∀ o, o < 32 → o ≠ p → s.portState o ≠ 5) → h.msg.src = s.modId →
    ∀ light, ∃ t x, exec (.portDown ⟨p, light⟩) s = .next t ∧ t.portState p = 0 ∧ (t.port p).held = [] ∧
      (t.port p).light = ((s.port p).light && !light) ∧ x ∈ t.inbox ∧
      x.2.type = 5 ∧ x.2.tag = h.msg.tag ∧ x.2.seg = h.msg.seg ∧ t.mem = s.mem) ∧
  (∀ (s : State) (p : Nat), p < 32 → s.ready = true → s.portState p < 5 →
    (∃ t, exec (.portDown ⟨p, true⟩) s = .next t ∧ t.portState p = 0 ∧ (t.port p).light = false ∧ t.inbox = s.inbox ∧ t.mem = s.mem) ∧
    exec (.portDown ⟨p, false⟩) s = .next s) ∧
  (∀ (s : State) (p : Nat), p < 32 → s.ready = true →
    ∃ t, exec (.portRetrain p) s = .next t ∧ t.portState p = 0 ∧ t.fld (portCtl p 1 1) = 1 ∧ (t.port p).held = [] ∧ t.mem = s.mem) ∧
  (∀ (s : State) (v : W32), s.ready = true →
    (s.idValid = false → v.getLsbD 31 = true → ∃ t, exec (.fabIdSet v) s = .next t ∧ t.modId = v.toNat % 2 ^ 14 ∧ t.idValid = true ∧
      t = { s with regs := t.regs }) ∧
    (s.idValid = true → exec (.fabIdSet v) s = .next s)) ∧
  (∀ (s : State) (p : Nat) (f : Flit), p < 32 → s.ready = true → (s.portState p = 5 ∨ s.portState p = 6) → flitOk f = true →
    (s.port p).held = [] → (s.port p).queue = [] → f.kind = 1 → f.vc.toNat < 8 → f.seq = (s.port p).rxNext →
    let b := f.body.take 248
    let m := parseMsg b
    48 + m.dataLen ≤ b.length → m.channel = f.vc.toNat → m.legal = true → m.dst = s.modId → m.dpart < 48 → m.isHypha = false →
    ∃ t, exec (.flitReceive p f) s = .next t ∧ t.inbox = s.inbox ++ [(s.fresh, { m with data := m.data.take m.dataLen })] ∧
      (t.port p).rxNext = (s.port p).rxNext + 1 ∧ (t.port p).asked = false ∧ SameMem s t) ∧
  (∀ (s : State) (p : Nat) (f : Flit), p < 32 → s.ready = true → (s.portState p = 5 ∨ s.portState p = 6) → flitOk f = false →
    (s.port p).asks < 32 → (s.port p).heldFlits < 2048 →
    ∃ t, exec (.flitReceive p f) s = .next t ∧ t.sent = .link p (s.port p).rxNext (s.port p).txNext :: s.sent ∧
      (t.port p).asked = true ∧ (t.port p).txNext = (s.port p).txNext + 1 ∧ (t.port p).heldFlits = (s.port p).heldFlits + 1 ∧
      t.inbox = s.inbox ∧ SameMem s t) ∧
  (∀ (s : State) (p : Nat) (q : BitVec 12) (h : Held), p < 32 → s.ready = true → (s.portState p = 5 ∨ s.portState p = 6) →
    h ∈ (s.port p).held → (q - h.first).toNat < h.n → ((s.port p).replaySeq = q → (s.port p).replays < 32) →
    ∃ t, exec (.replayRequest p q) s = .next t ∧ t.sent = .resend p q :: s.sent ∧ (t.port p).replaySeq = q ∧
      (t.port p).held = (s.port p).held ∧ SameMem s t)

/-- R28, R36, R37, R406 to R410, Tables 9.3 and 9.11: wavelengths that fail are swapped for the spare, or the port narrows or goes dark;
the two laser sources of a pair stand in for each other. -/
def Obligations.WavelengthsAndLasers : Prop :=
  (∀ (r : SerRead) (thr k : Nat) (lanes : BitVec 9), k < 9 → (badWaves r thr lanes).getLsbD k =
    (r.dark.getLsbD k || (lanes.getLsbD k && decide (r.symbols < r.errs.getD k 0 * 10 ^ thr)))) ∧
  (∀ (s : State) (p : Nat) (r : SerRead), p < 32 → s.ready = true → (s.portState p = 5 ∨ s.portState p = 6) →
    let bad := badWaves r (s.fld (portCtl p 11 8)) (s.port p).lanes
    let good : BitVec 9 := BitVec.ofNat 9 (s.fld (portStat p 12 4)) &&& ~~~bad
    let spare := s.fld (portStat p 16 13)
    (waves (bad &&& (s.port p).lanes) = [] → ∃ t, exec (.wavelengthSerCheck p r) s = .next t ∧
      t = { s with regs := t.regs } ∧ t.fld (portStat p 12 4) = good.toNat) ∧
    (∀ k ks, waves (bad &&& (s.port p).lanes) = k :: ks → (s.port p).swapping = none → spare < 9 → good.getLsbD spare = true →
      ∃ t, exec (.wavelengthSerCheck p r) s = .next t ∧ (t.port p).swapping = some k ∧ (t.port p).lanes = (s.port p).lanes) ∧
    (waves (bad &&& (s.port p).lanes) ≠ [] → (s.port p).swapping = none → 9 ≤ spare → (waves good).length < 4 →
      ∃ t, exec (.wavelengthSerCheck p r) s = .next t ∧ t.portState p = 0)) ∧
  (∀ (s : State) (p k : Nat), p < 32 → s.ready = true → (s.portState p = 5 ∨ s.portState p = 6) → (s.port p).swapping = some k →
    s.fld (portStat p 16 13) < 9 → (s.port p).lanes.getLsbD (s.fld (portStat p 16 13)) = false →
    ∃ t, exec (.wavelengthSwap p) s = .next t ∧ (t.port p).swapping = none ∧ t.fld (portStat p 16 13) = 15 ∧
      ∀ j, j < 9 → ((t.port p).lanes.getLsbD j = true ↔
        ((s.port p).lanes.getLsbD j = true ∧ j ≠ k) ∨ j = s.fld (portStat p 16 13))) ∧
  (∀ (s : State) (p : Nat) (pass : BitVec 9), p < 32 → s.ready = true →
    let good : BitVec 9 := BitVec.ofNat 9 (s.fld (portStat p 12 4)) ||| pass
    (s.portState p = 5 → ∃ t, exec (.wavelengthRetest p pass) s = .next t ∧ t.portState p = 5 ∧
      t.fld (portStat p 12 4) = good.toNat ∧ t = { s with regs := t.regs }) ∧
    (s.portState p = 6 → 8 ≤ (waves good).length → ∃ t, exec (.wavelengthRetest p pass) s = .next t ∧ t.portState p = 0)) ∧
  (∀ (s : State) (i : Nat), i < 4 → s.ready = true → s.elsSt i = .on → s.elsSt (elsPartner i) = .on →
    ∃ t, exec (.elsSvc i) s = .next t ∧ t.elsSt i = .off ∧ t.elsSt (elsPartner i) = .on ∧ t.fld (elsReg i 15 8) = 0 ∧
      t.fld (elsReg (elsPartner i) 15 8) = 100 ∧ t.fld (elsReg i 3 3) = 1 ∧ t = { s with regs := t.regs, els := t.els }) ∧
  (∀ (s : State) (i : Nat) (failed : Bool), i < 4 → s.pwr.supply ≠ 0 → s.fld (elsReg i 0 0) = 1 → s.elsSt (elsPartner i) = .on →
    ∃ t, exec (.elsRemoved ⟨i, failed⟩) s = .next t ∧ t.elsSt i = .off ∧ t.fld (elsReg i 0 0) = (if failed then 1 else 0) ∧
      t.fld (elsReg i 15 8) = 0 ∧ t.fld (elsReg (elsPartner i) 15 8) = 100 ∧ (∀ p < 32, t.portState p = s.portState p) ∧
      (failed = false → t.word (0x00A00800 + 8 * 0x1A) = s.word (0x00A00800 + 8 * 0x1A) + 1)) ∧
  (∀ (s : State) (i : Nat) (failed : Bool), i < 4 → s.pwr.supply ≠ 0 → s.fld (elsReg i 0 0) = 1 → s.elsSt i = .on →
    s.elsSt (elsPartner i) ≠ .on →
    ∃ t, exec (.elsRemoved ⟨i, failed⟩) s = .next t ∧ t.elsSt i = .off ∧ ∀ p < 32, p / 16 = i / 2 → t.portState p = 0 ∧ t.lit p = false) ∧
  (∀ (s : State) (i : Nat), i < 4 → s.pwr.supply = 2 → s.fld (elsReg i 0 0) = 0 →
    ∃ t, exec (.elsInserted i) s = .next t ∧ t.elsSt i = .locking s.now ∧ t.fld (elsReg i 0 0) = 1 ∧
      t.word (0x00A00800 + 8 * 0x1A) = s.word (0x00A00800 + 8 * 0x1A) + 1) ∧
  (∀ (s : State) (i at0 : Nat), i < 4 → s.elsSt i = .locking at0 →
    ∃ t, exec (.elsCombLock i) s = .next t ∧ t.elsSt i = .on ∧ t.fld (elsReg i 1 1) = 1 ∧
      (s.elsSt (elsPartner i) = .on → t.fld (elsReg i 15 8) = 50 ∧ t.fld (elsReg (elsPartner i) 15 8) = 50) ∧
      (s.elsSt (elsPartner i) ≠ .on → t.fld (elsReg i 15 8) = 100)) ∧
  (∀ (s : State) (i at0 : Nat), i < 4 → s.elsSt i = .locking at0 →
    ∃ t, exec (.elsLockTimeout i) s = .next t ∧ t.elsSt i = .off ∧ t.fld (elsReg i 15 8) = 0 ∧ at0 + 60 * 10 ^ 12 ≤ t.now)

/-- R271, R413, R416, R425 to R428, R441, Table 9.7: what messages of transfers do. Data is written and acknowledged, a request for
data is answered, an answer completes its segment, a refusal ends its command, and a message that a NAK names is sent once more. -/
def Obligations.TransferMessages : Prop :=
  (∀ (s : State) (id p c : Nat) (m : FabMsg) (loc : Loc), Current s id p m → m.type = 1 → FabCtx s p c →
    Reaches s c .write m.addr m.data.length loc → loc.host = false → s.releasedIn loc.addr m.data.length = false →
    ∃ t, exec (.putData id) s = .next t ∧ Wrote s t loc m.data ∧ Acked t m 0 ∧ (∀ x ∈ t.inbox, x.1 ≠ id) ∧
      (m.poison = true → ∀ k, loc.addr / 32 ≤ k → k * 32 < loc.addr + m.data.length → tabGet (fun _ => false) t.poison k = true)) ∧
  (∀ (s : State) (id p c : Nat) (m : FabMsg) (loc : Loc), Current s id p m → m.type = 2 → FabCtx s p c → m.data.length = 8 →
    Reaches s c .write m.addr 8 loc → loc.host = false → s.releasedIn loc.addr 8 = false →
    ∃ t, exec (.putFlag id) s = .next t ∧ Wrote s t loc m.data ∧ Acked t m 0 ∧ ∀ x ∈ t.inbox, x.1 ≠ id) ∧
  (∀ (s : State) (id p c : Nat) (m : FabMsg) (loc : Loc) (bs : List Byte), Current s id p m → m.type = 3 → FabCtx s p c →
    Reads s c m.addr m.len loc bs → s.moves = [] →
    ∃ t a, exec (.getReq id) s = .next t ∧ Posted t a ∧ a.type = 4 ∧ a.dst = m.src ∧ a.tag = m.tag ∧ a.data = bs ∧ a.poison = false ∧
      a.addr = BitVec.ofNat 64 (Config.free s.freeCtr % 2 ^ 40) ∧ t.mem = s.mem ∧ t.host = s.host) ∧
  (∀ (s : State) (id p c : Nat) (m : FabMsg), Current s id p m → m.type = 1 → s.fld (cohCtx p) = c → (s.ctx c).st ≠ .live →
    ∃ t, exec (.putData id) s = .next t ∧ Acked t m 6 ∧ t.mem = s.mem ∧ t.host = s.host) ∧
  (∀ (s : State) (id p x : Nat) (m : FabMsg) (f : Xfer) (y : XMsg) (c : Cmd) (loc : Loc), Inbound s id p m → m.type = 4 →
    f.kind = .get → f.part = p → OneMsg s x f y c m → y.off = m.addr.toNat % 2 ^ 40 → y.len = m.len → m.data.length = m.len →
    y.off = y.seg * f.segSz → y.len = min f.segSz (f.len - y.off) → f.contrib = [] → m.poison = false →
    f.loc.toNat + y.off < 2 ^ 64 →
    Reaches s f.ctx .write (BitVec.ofNat 64 (f.loc.toNat + y.off)) m.len loc → loc.host = false → s.releasedIn loc.addr m.len = false →
    ∃ t0 : State, exec (.getData id) s = .next (t0.settleAll.dropIn id) ∧ Wrote s t0 loc m.data ∧
      ((t0.queue f.queue).cmd? f.cmd).map (·.segs) = some (c.segs.set y.seg .done)) ∧
  (∀ (s : State) (id p x : Nat) (m : FabMsg) (f : Xfer) (y : XMsg) (c : Cmd), Inbound s id p m → m.type = 5 → f.kind = .put →
    f.part = p → OneMsg s x f y c m → ackNames m y = true → m.data = leBytes 8 0 →
    ∃ t0 : State, exec (.fabricAck id) s = .next (t0.settleAll.dropIn id) ∧ t0.mem = s.mem ∧
      ((t0.queue f.queue).cmd? f.cmd).map (·.segs) = some (c.segs.set y.seg .done)) ∧
  (∀ (s : State) (id p x st : Nat) (m : FabMsg) (f : Xfer) (y : XMsg) (c : Cmd), Inbound s id p m → m.type = 5 → f.part = p →
    OneMsg s x f y c m → ackNames m y = true → st ∈ [5, 0x0C, 0x0F] → m.data = leBytes 8 st →
    ∃ t0 : State, exec (.fabricAck id) s = .next (t0.settleAll.dropIn id) ∧ Recorded t0 f.queue (descSeq c.raw) st ∧
      (t0.queue f.queue).cmd? f.cmd = none) ∧
  (∀ (s : State) (id p x : Nat) (m : FabMsg) (f : Xfer) (y : XMsg) (c : Cmd) (loc : Loc), Inbound s id p m → m.type = 5 →
    f.kind = .get → f.part = p → OneMsg s x f y c m → ackNames m y = true → m.data = leBytes 8 7 →
    y.off = y.seg * f.segSz → y.len = min f.segSz (f.len - y.off) → f.contrib = [] → f.loc.toNat + y.off < 2 ^ 64 →
    Reaches s f.ctx .write (BitVec.ofNat 64 (f.loc.toNat + y.off)) y.len loc → loc.host = false → s.releasedIn loc.addr y.len = false →
    ∃ t0 : State, exec (.fabricAck id) s = .next (t0.settleAll.dropIn id) ∧
      ((t0.queue f.queue).cmd? f.cmd).map (·.segs) = some (c.segs.set y.seg .failed) ∧
      (∀ k, loc.addr / 32 ≤ k → k * 32 < loc.addr + y.len → tabGet (fun _ => false) t0.poison k = true) ∧
      ∀ a, a < loc.addr ∨ loc.addr + y.len ≤ a → memByte t0.mem a = memByte s.mem a) ∧
  (∀ (s : State) (id p : Nat) (m y : FabMsg) (counter : W32), Inbound s id p m → m.type = 5 →
    m.data = leBytes 8 (256 + counter.toNat * 65536) → s.lostMsg p m = some y → y.dst ≠ s.modId → s.exactOf y = none →
    (y.addr = m.addr ∧ y.seg = m.seg ∧ y.tag = m.tag ∧ y.epoch = m.epoch ∧ y.spart = p ∧ y.counter = counter) ∧
    ∃ t, exec (.routeLostNak id) s = .next t ∧ Posted t y ∧ t.mem = s.mem ∧ t.xfers = s.xfers ∧ ∀ z ∈ t.inbox, z.1 ≠ id) ∧
  (∀ (s : State) (x p : Nat) (m : FabMsg) (f : Xfer) (z : XMsg) (counter : W32), m.data = leBytes 8 (256 + counter.toNat * 65536) →
    s.xfer x = some f → z ∈ f.msgs → z.since.isSome = true → z.answered = false → z.msg.addr = m.addr → z.msg.seg = m.seg →
    z.msg.tag = m.tag → z.msg.epoch = m.epoch → z.msg.spart = p → z.msg.counter = counter → (s.lostMsg p m).isSome = true)

/-- R433 to R439: data of a collective or a ring is taken where it is awaited, and its engine goes on; a step whose data does not come
is probed; a credit of the successor makes room. -/
def Obligations.CollectiveMessages : Prop :=
  (∀ (s : State) (id p x j off c : Nat) (m : FabMsg) (f : Xfer), Current s id p m → m.type = 6 →
    s.collFor p m = some (x, f, j, off) → m.addr.toNat / 2 ^ 40 % 256 = 1 → FabCtx s p c →
    (∀ a n, f.coll.workAt j off m.len = some (a, n) → ∃ loc, Reaches s c .write (f.coll.work + BitVec.ofNat 64 a) n loc) →
    ∃ (t1 : State) (g : Xfer), exec (.collData id) s = .next ((t1.collGo x).settleAll.dropIn id) ∧ Acked t1 m 0 ∧ t1.xfer x = some g ∧
      g.contrib = f.contrib ++ [(j, off, m.data.map fun b => (b, m.poison))] ∧ g.timer = s.now ∧ t1.mem = s.mem) ∧
  (∀ (s : State) (id p x j off c : Nat) (m : FabMsg) (f : Xfer) (loc : Loc), Current s id p m → m.type = 6 →
    s.collFor p m = some (x, f, j, off) → s.xfer x = some f → m.addr.toNat / 2 ^ 40 % 256 = 2 → m.poison = false → FabCtx s p c →
    Reaches s c .write (f.coll.out + BitVec.ofNat 64 off) m.data.length loc → loc.host = false →
    s.releasedIn loc.addr m.data.length = false →
    ∃ (t0 : State) (g : Xfer), exec (.collData id) s = .next ((t0.collGo x).settleAll.dropIn id) ∧ Wrote s t0 loc m.data ∧
      Acked t0 m 0 ∧ t0.xfer x = some g ∧ (off, m.len) ∈ g.final) ∧
  (∀ (s : State) (id p x j off c : Nat) (m : FabMsg) (f : Xfer), Current s id p m → m.type = 6 →
    s.collFor p m = some (x, f, j, off) → m.addr.toNat / 2 ^ 40 % 256 = 1 → s.fld (cohCtx p) = c → (s.ctx c).st ≠ .live →
    ∃ (t1 : State) (g : Xfer), exec (.collData id) s = .next ((t1.collGo x).settleAll.dropIn id) ∧ Acked t1 m 6 ∧ t1.xfer x = some g ∧
      g.denied = (off, m.len) :: f.denied ∧ t1.mem = s.mem) ∧
  (∀ (s : State) (id p x c : Nat) (m : FabMsg) (f : Xfer) (loc : Loc), Current s id p m → m.type = 7 → FabCtx s p c →
    let step := m.addr.toNat / 2 ^ 40
    let off := m.addr.toNat % 2 ^ 40
    s.xfersOf p = [(x, f)] → s.xfer x = some f → f.kind = .ring →
    f.coll.members[(f.coll.rank + f.coll.g - 1) % f.coll.g]? = some (m.src, m.spart) → f.stepDone < step → step ≤ f.coll.n →
    off + m.len ≤ f.len → f.got = [] → m.poison = false →
    Reaches s c .write (BitVec.ofNat 64 (ringBuf f step + off)) m.data.length loc → loc.host = false →
    s.releasedIn loc.addr m.data.length = false →
    ∃ (t1 : State) (g : Xfer), exec (.kvData id) s = .next ((t1.ringGo x).settleAll.dropIn id) ∧ Wrote s t1 loc m.data ∧ Acked t1 m 0 ∧
      t1.xfer x = some g ∧ g.got = [(step, off, m.len)] ∧ g.peerTag = some m.tag) ∧
  (∀ (s : State) (id p x : Nat) (m : FabMsg) (f : Xfer), Inbound s id p m → m.type = 8 → f.part = p → s.byTag m = some (x, f) →
    f.kind = .ring →
    ∃ t1 : State, exec (.kvCredit id) s = .next ((t1.ringGo x).settleAll.dropIn id) ∧
      t1.xfer x = some { f with credit := max f.credit (m.addr.toNat % 2 ^ 24) } ∧ t1.mem = s.mem) ∧
  (∀ (s : State) (x d dp : Nat) (t0 : Xfer) (tag : W32) (loc : Loc) (bs : List Byte), s.ready = true → s.rotating = false →
    s.xfer x = some t0 → t0.kind = .ring → s.encOf t0.part = false → t0.peerTag = some tag →
    t0.coll.members.getD ((t0.coll.rank + t0.coll.g - 1) % t0.coll.g) (0, 0) = (d, dp) → d ≠ s.modId →
    Reads s t0.ctx (t0.coll.work + 8) 8 loc bs → t0.consumed < leNat bs →
    ∃ t a, exec (.kvConsumedRise x) s = .next t ∧ t.mem = s.mem ∧ t.xfer x = some { t0 with consumed := leNat bs } ∧ Posted t a ∧
      a.type = 8 ∧ a.dst = d ∧ a.dpart = dp ∧ a.tag = tag ∧ a.addr = BitVec.ofNat 64 (leNat bs % 2 ^ 24)) ∧
  (∀ (s : State) (x : Nat) (f : Xfer), s.ready = true → s.xfer x = some f → (f.kind = .coll ∨ f.kind = .ring) → f.lacks ≠ [] →
    f.probed = [] → s.encOf f.part = false →
    ∃ t g, exec (.collStepTimeout x) s = .next t ∧ s.passes f.part f.timer s.collPs ≤ t.now ∧ t.xfer x = some g ∧
      (∀ j ∈ f.lacks, ((f.coll.members.getD j (0, 0)).1, t.now) ∈ g.probed ∧
        ∃ a, Posted t a ∧ a.type = 0x13 ∧ a.dst = (f.coll.members.getD j (0, 0)).1) ∧
      t.mem = s.mem)

/-- R423, R440 to R451, Tables 9.6 and 9.15: heartbeats, PACE, probes, fences, the loss of a member, and epochs. -/
def Obligations.Cohorts : Prop :=
  let pings (s t : State) (p type : Nat) (ds : List Nat) : Prop := ∀ d ∈ ds, d ≠ s.modId →
    ∃ a, Posted t a ∧ a.type = type ∧ a.dst = d ∧ a.dpart = p ∧ a.epoch = s.epochOf p
  (∀ (s : State) (id p : Nat) (m : FabMsg), Inbound s id p m → m.type = 0x10 → s.hyphaTurn id = true → s.epochOf p ≠ 0 →
    m.epoch = s.epochOf p → ∃ t, exec (.hb id) s = .next t ∧ SameMem s t ∧
      (t.cohort p).hbSeen = (s.cohort p).hbSeen.map fun x => if x.1 = m.src then (m.src, s.now) else x) ∧
  (∀ (s : State) (id p : Nat) (m : FabMsg), Inbound s id p m → m.type = 0x11 → s.hyphaTurn id = true → p < 48 → s.epochOf p ≠ 0 →
    m.epoch = s.epochOf p → s.member p m.src = true → s.paces = [] → m.addr.toNat % 256 ≠ 0 →
    ∃ t, exec (.pace id) s = .next t ∧ t.paces = [{ src := m.src, b := m.addr.toNat % 256, at_ := s.now }] ∧
      t.fld (cohStat p 15 8) = m.addr.toNat % 256 ∧ t.mem = s.mem) ∧
  (∀ (s : State) (id p : Nat) (m : FabMsg), Inbound s id p m → m.type = 0x12 → s.epochOf p ≠ 0 → m.epoch = s.epochOf p →
    ∃ t0 : State, exec (.cohortFenceMsg id) s = .next (t0.settleAll.dropIn id) ∧ t0.fenced p = true) ∧
  (∀ (s : State) (id p : Nat) (m : FabMsg), Inbound s id p m → m.type = 0x13 →
    ∃ t a, exec (.probe id) s = .next t ∧ SameMem s t ∧ Posted t a ∧ a.type = 0x14 ∧ a.dst = m.src ∧ a.dpart = m.spart ∧
      a.addr = m.addr ∧ a.epoch = s.epochOf p) ∧
  (∀ (s : State) (id p n : Nat) (m : FabMsg), Inbound s id p m → m.type = 0x14 → (s.cohort p).sweep = some n →
    m.addr.toNat = (s.cohort p).probeNo → s.member p m.src = true → m.src ∉ (s.cohort p).answered →
    ∃ t, exec (.probeRsp id) s = .next t ∧ SameMem s t ∧ (t.cohort p).answered = (s.cohort p).answered ++ [m.src]) ∧
  (∀ (s : State) (p : Nat), p < 48 → s.ready = true → s.epochOf p ≠ 0 → s.encOf p = false →
    ∃ t, exec (.hbSend p) s = .next t ∧ (s.cohort p).hbSent + s.hbPs ≤ t.now ∧ (t.cohort p).hbSent = t.now ∧ SameMem s t ∧
      pings s t p 0x10 (s.watched p)) ∧
  (∀ (s : State), s.ready = true → (s.pwr.paceB + 8 ≤ s.paceB ∨ (s.paceB = 0 ∧ s.pwr.paceB ≠ 0)) →
    ∃ t, exec .paceSend s = .next t ∧ t.pwr.paceB = s.paceB ∧ t.pwr.paceAt = s.now ∧ t.mem = s.mem ∧
      ∀ p < 48, s.epochOf p ≠ 0 → s.encOf p = false → pings s t p 0x11 (s.members p)) ∧
  (∀ (s : State) (x : Pace), s.ready = true → s.paces.find? (·.src == x.src) = some x →
    ∃ t, exec (.paceHoldExpire x.src) s = .next t ∧ x.at_ + s.holdPs ≤ t.now ∧ (∀ y ∈ t.paces, y.src ≠ x.src) ∧ t.mem = s.mem) ∧
  (∀ (s : State) (id t1 : Nat) (m : FabMsg), s.ready = true → s.outbox.find? (·.1 == id) = some (id, m, t1) → m.src ≠ s.modId →
    ∃ t a, exec (.routeWaitTimeout id) s = .next t ∧ t1 + s.peerPs ≤ t.now ∧ Posted t a ∧ a.type = 5 ∧ a.dst = m.src ∧ a.tag = m.tag ∧
      t.mem = s.mem) ∧
  (∀ (s : State) (id t1 : Nat) (m : FabMsg), s.ready = true → s.outbox.find? (·.1 == id) = some (id, m, t1) → m.src = s.modId →
    s.member m.spart m.dst = true → m.isNak = false → m.spart < 48 → m.dst ≠ s.modId → s.epochOf m.spart ≠ 0 →
    m.dst ∉ (s.cohort m.spart).lost →
    ∃ t0 : State, exec (.routeWaitTimeout id) s = .next t0.settleAll ∧ m.dst ∈ (t0.cohort m.spart).lost ∧ t0.fenced m.spart = true) ∧
  (∀ (s : State) (id t1 : Nat) (m : FabMsg), s.ready = true → s.outbox.find? (·.1 == id) = some (id, m, t1) → m.src = s.modId →
    (s.member m.spart m.dst = false ∨ m.isNak = true) →
    ∃ t, exec (.routeWaitTimeout id) s = .next t ∧ s.passes m.spart t1 s.peerPs ≤ t.now ∧
      t = { s with now := t.now, outbox := s.outbox.filter (·.1 != id) }) ∧
  (∀ (s : State) (p d t1 : Nat) (why : LossWhy), p < 48 → s.ready = true → s.peerTimer p d why = some t1 → s.epochOf p ≠ 0 →
    d ∉ (s.cohort p).lost → d ≠ s.modId →
    ∃ t0 : State, exec (.peerTimeout p d why) s = .next t0.settleAll ∧ d ∈ (t0.cohort p).lost ∧ t0.fenced p = true ∧
      s.passes p t1 s.peerPs ≤ t0.now) ∧
  (∀ (s : State) (p t1 : Nat), p < 48 → s.ready = true → (s.cohort p).sweep = some t1 → s.fenced p = true →
    ∃ t : State, exec (.sweepEnd p) s = .next t.settleAll ∧ (t.cohort p).sweep = none ∧ t.fld (cohStat p 1 1) = 1 ∧
      s.passes p t1 s.peerPs ≤ t.now ∧
      (s.epochOf p ≠ 0 → ∀ d ∈ s.peers p, d ∉ (s.cohort p).answered → d ∈ (t.cohort p).lost) ∧
      ((s.cohort p).answered.Nodup → ∀ d < 16384, (t.fld ⟨0x00660000 + 2048 * p + 8 * (d / 64), d % 64, d % 64⟩ = 1 ↔ d ∈ (s.cohort p).answered)) ∧
      ((∀ d ∈ s.peers p, d ∈ (s.cohort p).answered) → t.mem = s.mem)) ∧
  (∀ (s : State) (p : Nat), p < 48 → s.ready = true → s.fenced p = false → s.encOf p = false → s.xfers = [] → s.queues = [] →
    ∃ t0 : State, exec (.cohFenceSet p) s = .next t0.settleAll ∧ t0.fenced p = true ∧ t0.fld (cohFence p) = 1 ∧
      (t0.cohort p).sweep = some s.now ∧ (t0.cohort p).answered = [s.modId] ∧ pings s t0 p 0x12 (s.members p) ∧
      pings s t0 p 0x13 (s.members p)) ∧
  (∀ (s : State) (p : Nat) (e : W32), p < 48 → s.ready = true → e ≠ s.epochOf p → (e ≠ 0 → s.epochOk p = true) →
    ∃ t0 : State, exec (.epochWrite p e) s = .next (t0.paceChanged.settleAll) ∧ t0.epochOf p = e ∧ t0.fenced p = false ∧
      (t0.cohort p).counter = 0 ∧ (t0.cohort p).lost = [] ∧ (t0.cohort p).sweep = none)

/-- R454, R457 to R459, Tables 10.4 to 10.7: the commit of a choice, and the commands that create, start, stop and destroy queues. -/
def Obligations.NegotiationAndQueues : Prop :=
  let cmd (t : State) (fn op st : Nat) : Prop :=
    t.fld (queCmd fn 2 0) = op ∧ t.fld (queCmd fn 27 24) = st ∧ t.fld (queCmd fn 31 31) = 0
  (∀ (s : State) (fn : Nat), fn < 49 → s.ready = true → s.vfLive fn = true → s.cfgLocked fn = false → s.committed fn = false →
    ∃ t, exec (.negCommit fn) s = .next t ∧ t.fld (negStatus fn) = s.negCheck fn ∧ (t.committed fn = true ↔ s.negCheck fn = 0) ∧
      t.fld (negCommit fn) = 0) ∧
  (∀ (s : State) (fn : Nat), fn < 49 → s.vfLive fn = true → s.cfgLocked fn = false → s.committed fn = true →
    exec (.negCommit fn) s = .next s) ∧
  (∀ (s : State) (fn : Nat), fn < 49 → s.ready = true → s.vfLive fn = true → s.cfgLocked fn = true →
    ∃ t : State, exec (.negCommit fn) s = .next t.settleAll ∧ (t.tdi (fn - 1)).st = 3 ∧ (t.tdi (fn - 1)).err = 1) ∧
  (∀ (s : State) (fn q : Nat) (w : BitVec 14), Driver s fn w q → (s.part (q / 256)).st = .ready → (s.queue q).st = .empty →
    let d := s.staged fn 0x00200000 16
    rawLe d 0 1 = s.fld (negSel fn 19 16) → queDescOk s (q / 256) d = true →
    ∃ t, exec (.queCreate fn w) s = .next t ∧ t.queue q = queOf fn (q / 256) d ∧ cmd t fn 1 0 ∧ ∀ n, n ≠ q → t.queue n = s.queue n) ∧
  (∀ (s : State) (fn q : Nat) (w : BitVec 14), Driver s fn w q → (s.queue q).st = .stopped →
    ∃ t, exec (.queStart fn w) s = .next t ∧ t.queue q = { s.queue q with st := .running } ∧ cmd t fn 2 0 ∧ ∀ n, n ≠ q → t.queue n = s.queue n) ∧
  (∀ (s : State) (fn q : Nat) (w : BitVec 14), Driver s fn w q → (s.queue q).st = .running →
    ∃ t, exec (.queStop fn w) s = .next t ∧ t.queue q = { s.queue q with st := .stopped } ∧ cmd t fn 3 0 ∧ ∀ n, n ≠ q → t.queue n = s.queue n) ∧
  (∀ (s : State) (fn q : Nat) (w : BitVec 14), Driver s fn w q → ((s.queue q).st = .stopped ∨ (s.queue q).st = .lost) →
    (s.queue q).cmds = [] → (s.queue q).records = [] →
    ∃ t, exec (.queDestroy fn w) s = .next t ∧ t.queue q = {} ∧ cmd t fn 4 0 ∧ ∀ n, n ≠ q → t.queue n = s.queue n) ∧
  (∀ (s : State) (fn q : Nat) (w : BitVec 14), fn < 49 → s.ready = true → s.vfLive fn = true → queueOf fn w.toNat = some q →
    s.owns fn (q / 256) = false →
    ∀ c ∈ [(Instr.queCreate fn w, 1), (.queStart fn w, 2), (.queStop fn w, 3), (.queDestroy fn w, 4)],
      ∃ t, exec c.1 s = .next t ∧ t.queues = s.queues ∧ cmd t fn c.2 4)

/-- R461 to R464, R500 to R504, Table 10.8: what the doorbells of a queue and the reading of descriptors do. -/
def Obligations.DoorbellsAndFetch : Prop :=
  (∀ (s : State) (fn page qn : Nat) (v : W32), Rings s fn page qn →
    let q := s.queue qn
    exec (.sqTail fn page v) s = .next (s.setQueue qn (
      if (v - q.sqHead).toNat ≤ 2 ^ q.sqLog2 ∧ (v - q.sqTail).toNat < 2 ^ 31 then { q with sqTail := v }
      else { q with dbErr := min 65535 (q.dbErr + 1) }))) ∧
  (∀ (s : State) (fn page qn : Nat) (v : W32), Rings s fn page qn →
    let q := s.queue qn
    exec (.cqHead fn page v) s = .next (
      if (q.cqTail - v).toNat ≤ 2 ^ q.cqLog2 ∧ (v - q.cqHead).toNat < 2 ^ 31 then (s.setQueue qn { q with cqHead := v }).flush
      else s.setQueue qn { q with dbErr := min 65535 (q.dbErr + 1) })) ∧
  (∀ (s : State) (fn page qn : Nat) (v : W32) (r : Rec) (loc : Loc), Rings s fn page qn →
    let q := s.queue qn
    s.rotating = false → s.queues = [(qn, q)] → q.records = [r] → r.write = true → r.event = false → s.events = [] → q.wbWaits = false →
    (q.cqTail - v).toNat < 2 ^ q.cqLog2 → (v - q.cqHead).toNat < 2 ^ 31 →
    Reaches s q.ctx .write (q.cqBase + BitVec.ofNat 64 (32 * (q.cqTail.toNat % 2 ^ q.cqLog2))) 32 loc → loc.host = false →
    s.releasedIn loc.addr 32 = false →
    ∃ t, exec (.cqHead fn page v) s = .next t ∧ Wrote s t loc (recBytes r q.ctx (b2n q.phase)) ∧ (t.queue qn).records = [] ∧
      (t.queue qn).cqTail = q.cqTail + 1 ∧
      (t.queue qn).phase = (if (q.cqTail + 1).toNat % 2 ^ q.cqLog2 = 0 then !q.phase else q.phase)) ∧
  (∀ (s : State) (fn page qn : Nat) (seq : W32) (c : Cmd), Rings s fn page qn → (s.queue qn).abort.result ≠ 1 →
    (s.queue qn).cmds.find? (fun x => descSeq x.raw == seq) = some c → (s.queue qn).cmd? c.id = some c → s.expired qn c = false →
    Settles (.abort fn page seq) s qn fun t => Recorded t qn seq 2 ∧ (t.queue qn).cmd? c.id = none ∧ (t.queue qn).abort.result = 2 ∧
      (t.queue qn).abort.seq = seq) ∧
  (∀ (s : State) (fn page qn : Nat) (seq : W32), Rings s fn page qn → (s.queue qn).abort.result ≠ 1 →
    let q := s.queue qn
    let found (k : Option W32) : Abort := match k with
      | some k => { seq := seq, result := 1, upTo := some k }
      | none => match q.records.find? (·.seq == seq) with
        | some r => { seq := seq, result := 3, status := r.status }
        | none => { seq := seq, result := 4 }
    q.cmds.find? (fun x => descSeq x.raw == seq) = none →
    (∀ q', (q.markFirst fun d => descSeq d.bytes == seq) = some q' →
      exec (.abort fn page seq) s = .next ((s.setQueue qn { q' with abort := { seq := seq, result := 1 } }).settleFront qn).flush) ∧
    ((q.markFirst fun d => descSeq d.bytes == seq) = none →
      (q.unread ≠ [] → s.rotating = true → exec (.abort fn page seq) s = .next s) ∧
      (q.unread = [] ∨ s.rotating = false →
        (∀ (s1 : State) (k : Option W32), s.findInRing qn seq q.unread = (s1, .inl k) →
          exec (.abort fn page seq) s = .next (s1.setQueue qn { q with abort := found k })) ∧
        (∀ (loc : Loc) (bs : List Byte), q.sqTail = q.sqHead + 1 →
          Reads s q.ctx (q.sqBase + BitVec.ofNat 64 (64 * (q.sqHead.toNat % 2 ^ q.sqLog2))) 64 loc bs →
          ∃ t, exec (.abort fn page seq) s = .next t ∧ t.mem = s.mem ∧
            t.queue qn = { q with abort := found (if descSeq bs = seq then some q.sqHead else none) })))) ∧
  (∀ (s : State) (fn page qn : Nat), Rings s fn page qn → (s.queue qn).abort.result ≠ 1 → ((s.queue qn).cmds.map (·.id)).Nodup →
    (∀ c ∈ (s.queue qn).cmds, s.byNow (c.due (s.queue qn)) = false) →
    ∃ t : State, exec (.abortAll fn page) s = .next (((t.flush.abortSettle qn).settleFront qn).flush) ∧ (t.queue qn).cmds = [] ∧
      (t.queue qn).calls = [] ∧ (t.queue qn).abort.all = true ∧ (t.queue qn).abort.upTo = some (s.queue qn).sqTail ∧
      (∀ d ∈ (t.queue qn).ahead, d.marked = true) ∧ (t.queue qn).ahead.length = (s.queue qn).ahead.length ∧
      ∀ c ∈ (s.queue qn).cmds, Recorded t qn (descSeq c.raw) 2) ∧
  (∀ (s : State) (qn : Nat) (loc : Loc) (bs : List Byte) (bad : Bool), qn < 12288 →
    let q := s.queue qn
    let va : W64 := q.sqBase + BitVec.ofNat 64 (64 * (q.sqHead.toNat % 2 ^ q.sqLog2))
    q.st = .running → s.ready = true → s.rotating = false → (s.part q.part).st = .ready → (s.tdi q.part).st ≠ 3 →
    (∀ c ∈ q.cmds, c.blocking = false) → q.ahead = [] → q.calls = [] → q.sqTail = q.sqHead + 1 →
    q.fetchBad.contains (va.toNat / 4096) = false → s.abortSettle qn = s →
    Reaches s q.ctx .read va 64 loc → memBytes (if loc.host then s.host else s.mem) loc.addr 64 = bs →
    bad = (if loc.host then s.hostPoisoned loc.addr 64 else s.rangeBad loc.addr 64 || s.releasedIn loc.addr 64) → (s.ctx q.ctx).st = .live →
    ∃ t : State, exec (.descriptorFetch qn) s = .next (((t.writeHead qn).flush.settleFront qn).flush) ∧ (t.queue qn).sqHead = q.sqTail ∧
      (bad = false → (t.queue qn).ahead = [{ bytes := bs, idx := q.sqHead.toNat, marked := q.abort.marks q.sqHead }] ∧
        t.mem = s.mem ∧ t.ctxs = s.ctxs) ∧
      (bad = true → Recorded t qn q.sqHead 7 ∧ Lost t q.ctx 0x12 7 qn q.sqHead va))

/-- R467 to R469, R471, R483 to R487, R491, R498, R537: the control commands and the commands that act in the Parser. A descriptor that
fails a check completes with the check's status; a queue whose turn it is not is not served. -/
def Obligations.ControlCommands : Prop :=
  let clear (q : Queue) : Queue := { q with readPage := none, readBad := none, frontWait := none }
  (∀ (s : State) (qn op st : Nat) (d : Desc) (c : Instr) (ok : List Byte → Bool),
    (c, op, ok) ∈ [(Instr.eventOp qn, 0x05, noOperands), (.cmdNop qn, 0x3F, noOperands), (.preemptPoint qn, 0x11, noOperands),
      (.launch qn, 0x01, launchOk), (.cmdWait qn, 0x04, cmdWaitOk), (.cond qn, 0x06, condOk), (.endloop qn, 0x08, noOperands),
      (.returnOp qn, 0x0A, noOperands)] →
    AtFront s qn op d → s.descCheck (s.queue qn) d.bytes (ok d.bytes) = some st → Acts c s qn fun t => Ends s t qn d st ∧
      (op ∈ [0x08, 0x0A] → (t.queue qn).calls = [])) ∧
  (∀ (s : State) (qn : Nat) (d : Desc) (loc : Loc) (bs : List Byte), Passes s qn 0x06 d (condOk d.bytes) →
    (s.queue qn).readBad = none → Reads s (s.queue qn).ctx (BitVec.ofNat 64 (rawLe d.bytes 0x10 8)) 8 loc bs →
    Acts (.cond qn) s qn fun t => t.queue qn = (let q := clear (s.queue qn).pop
      if testHolds d.bytes (leNat bs) = true then q
      else match q.calls with
        | c :: cs => { q with calls := { c with skip := rawLe d.bytes 0x2A 2 } :: cs }
        | [] => { q with skip := rawLe d.bytes 0x2A 2 })) ∧
  (∀ (s : State) (qn : Nat) (d : Desc) (c : Call) (cs : List Call), Passes s qn 0x07 d (allZero d.bytes 0x14 44) →
    (s.queue qn).calls = c :: cs → ((s.queue qn).calls.foldl (fun n c => n + c.loops.length) 0) < 4 →
    let n := rawLe d.bytes 0x10 4
    Acts (.loopOp qn) s qn fun t => t = s.setQueue qn { s.queue qn with
      calls := { c with ahead := c.ahead.drop 1, out := if n = 0 then 1 else 0
                        loops := { start := d.idx + 1, left := n - 1, seq := descSeq d.bytes, cookie := descCookie d.bytes } :: c.loops } :: cs }) ∧
  (∀ (s : State) (qn : Nat) (d : Desc) (c : Call) (cs : List Call) (l : Loop) (ls : List Loop), Passes s qn 0x08 d (noOperands d.bytes) →
    (s.queue qn).calls = c :: cs → c.loops = l :: ls →
    Acts (.endloop qn) s qn fun t => t = s.setQueue qn { s.queue qn with
      calls := (if l.left = 0 then { c with loops := ls, ahead := c.ahead.drop 1 }
                else { c with loops := { l with left := l.left - 1 } :: ls, next := l.start, ahead := [] }) :: cs }) ∧
  (∀ (s : State) (qn : Nat) (d : Desc),
    Passes s qn 0x09 d (rawLe d.bytes 0x10 8 % 64 == 0 && inLen (2 ^ 20) (rawLe d.bytes 0x18 4) && allZero d.bytes 0x1C 36) →
    (s.queue qn).calls.length < 8 →
    Acts (.cmdCall qn) s qn fun t => t = s.setQueue qn { (s.queue qn).pop with
      calls := { base := BitVec.ofNat 64 (rawLe d.bytes 0x10 8), count := rawLe d.bytes 0x18 4 } :: (s.queue qn).pop.calls }) ∧
  (∀ (s : State) (qn : Nat) (d : Desc) (c : Call) (cs : List Call), Passes s qn 0x0A d (noOperands d.bytes) →
    (s.queue qn).calls = c :: cs → c.loops = [] →
    Acts (.returnOp qn) s qn fun t => t = s.setQueue qn { s.queue qn with calls := cs }) ∧
  (∀ (s : State) (qn : Nat) (d : Desc) (c : Instr) (op : Nat) (ok : Bool),
    (c, op, ok) ∈ [(Instr.loopOp qn, 0x07, allZero d.bytes 0x14 44), (.endloop qn, 0x08, noOperands d.bytes), (.returnOp qn, 0x0A, noOperands d.bytes)] →
    Passes s qn op d ok → (s.queue qn).calls = [] → Acts c s qn (Ends s · qn d 0x0B)) ∧
  (∀ (s : State) (qn : Nat) (d : Desc), Passes s qn 0x0B d (decide (rawLe d.bytes 0x10 1 < 3) && allZero d.bytes 0x11 47) →
    Acts (.cmdFence qn) s qn fun t => match s.fenceScope qn (rawLe d.bytes 0x10 1) with
      | [] => Ends s t qn d 0
      | before => ∃ c, InFlight s t qn d c ∧ c.work = .fence before ∧ c.blocking = true) ∧
  (∀ (s : State) (qn : Nat) (d : Desc), Passes s qn 0x05 d (noOperands d.bytes) →
    Acts (.eventOp qn) s qn fun t => Ends s t qn d 0 ∧ ∃ r ∈ (t.queue qn).records, r.event = true ∧ r.seq = descSeq d.bytes) ∧
  (∀ (s : State) (qn : Nat) (d : Desc), Passes s qn 0x11 d (noOperands d.bytes) →
    Acts (.preemptPoint qn) s qn fun t => if s.preempting (s.queue qn).part = true then t = s else Ends s t qn d 0) ∧
  (∀ (s : State) (qn : Nat) (d : Desc), Passes s qn 0x3F d (noOperands d.bytes) →
    Acts (.cmdNop qn) s qn fun t => Ends s t qn d 0 ∧ t.mem = s.mem ∧ t.regs = s.regs) ∧
  (∀ (s : State) (qn : Nat), qn < 12288 → s.settleFront qn = s → s.queueTurn qn = false →
    ∀ c ∈ [Instr.eventOp qn, .cmdNop qn, .preemptPoint qn, .launch qn, .cmdWait qn, .cond qn, .loopOp qn, .endloop qn, .cmdCall qn,
      .returnOp qn, .cmdFence qn, .invoke qn, .moveCopy qn], exec c s = .next s)

/-- R49 to R52, R475 to R482, R490 to R495: what the commands for the tiles, the mover and the Parser's word do, on ranges that lie in
one page; a transfer here is one segment. -/
def Obligations.EngineCommands : Prop :=
  let le (d : Desc) (off n : Nat) : Nat := rawLe d.bytes off n
  let va (d : Desc) (off : Nat) : W64 := BitVec.ofNat 64 (rawLe d.bytes off 8)
  let put (s t : State) (loc : Loc) (bs : List Byte) : Prop :=
    loc.host = false → s.releasedIn loc.addr bs.length = false → Wrote s t loc bs
  (∀ (s : State) (qn : Nat) (d : Desc) (regs : Option (List (Nat × Nat) × List (Nat × Nat × W32))), Passes s qn 0x01 d (launchOk d.bytes) →
    let k := launchFields d.bytes {}
    let p := (s.queue qn).part
    if s.launchFits p k.blkClauses k.granules k.spmSplit k.blkSpm = false then Acts (.launch qn) s qn (Ends s · qn d 0x0D)
    else (if le d 0x20 8 = 0 then regs = some ([], [])
      else (s.queue qn).readBad = none ∧ ∃ loc bs, Reads s (s.queue qn).ctx (va d 0x20) 64 loc bs ∧ s.regionTable (s.queue qn).ctx bs = regs) →
    let pages : List Nat := regs.elim [] fun r => windowPages r.2
    (∀ g ∈ pages, (s.locate (s.queue qn).ctx (BitVec.ofNat 64 (4096 * g)) .read).isSome = true) →
    Acts (.launch qn) s qn fun t => match regs with
      | none => Ends s t qn d 0x0B
      | some (ro, win) =>
        if (pages.any fun g => (s.locate (s.queue qn).ctx (BitVec.ofNat 64 (4096 * g)) .read).elim false (·.host)) = true then Ends s t qn d 0x0B
        else if k.blkCount = 0 then Ends s t qn d 0
        else ∃ c, InFlight s t qn d c ∧ c.work = .kernel (s.fresh + 1) ∧
          t.kernel (s.fresh + 1) = { k with
            ctx := (s.queue qn).ctx, part := p, queue := qn, seq := (descSeq d.bytes).toNat, cmd := s.fresh, tag := (s.queue qn).tag
            waitSince := s.now, ro := ro, win := win } ∧
          (t.part p).placing = (s.part p).placing ++ [s.fresh + 1]) ∧
  (∀ (s : State) (qn : Nat) (d : Desc) (m : Model), Passes s qn 0x0F d (invokeOk d.bytes) → s.model (le d 0x10 2) = m →
    if m.registered = false ∨ m.ctx ≠ (s.queue qn).ctx then Acts (.invoke qn) s qn (Ends s · qn d 0x0B)
    else if le d 0x14 4 = 0 then Acts (.invoke qn) s qn (Ends s · qn d 0)
    else Acts (.invoke qn) s qn fun t => ∃ c, InFlight s t qn d c ∧
      if m.resident = false then c.work = .model (le d 0x10 2)
      else c.work = .kernel (s.fresh + 1) ∧ (t.kernel (s.fresh + 1)).entry = m.entry ∧
        (t.kernel (s.fresh + 1)).blkCount = (le d 0x14 4 + m.items - 1) / m.items ∧
        (t.kernel (s.fresh + 1)).invoke = some { handle := le d 0x10 2, input := va d 0x18, output := va d 0x20, count := le d 0x14 4
                                                 param := va d 0x28, weights := m.weights }) ∧
  (∀ (s : State) (qn n : Nat) (d : Desc) (loc to_ : Loc) (bs : List Byte), Passes s qn 0x02 d (copyOk d.bytes) → le d 0x10 1 = 0 →
    Turn s qn d → HomesFree s → n = le d 0x28 8 → Reads s (s.queue qn).ctx (va d 0x18) n loc bs → Reaches s (s.queue qn).ctx .write (va d 0x20) n to_ →
    (le d 0x18 8 + n ≤ le d 0x20 8 ∨ le d 0x20 8 + n ≤ le d 0x18 8) → s.releasedIn to_.addr n = false →
    Acts (.moveCopy qn) s qn fun t => ∃ c, InFlight s t qn d c ∧ c.segs = [.done] ∧ put s t to_ bs) ∧
  (∀ (s : State) (qn n : Nat) (d : Desc) (to_ : Loc), Passes s qn 0x02 d (fillOk d.bytes) → le d 0x10 1 = 1 → Turn s qn d →
    n = le d 0x28 8 →
    Reaches s (s.queue qn).ctx .write (va d 0x20) n to_ → s.releasedIn to_.addr n = false →
    Acts (.moveFill qn) s qn fun t => ∃ c, InFlight s t qn d c ∧ c.segs = [.done] ∧
      put s t to_ ((List.range n).map fun i => (d.bytes.drop 0x30).getD ((le d 0x20 8 + i) % 8) 0)) ∧
  (∀ (s : State) (qn es : Nat) (d : Desc) (at_ loc to_ : Loc) (ix bs : List Byte), Passes s qn 0x02 d (gatherOk d.bytes) →
    le d 0x10 1 = 2 → Turn s qn d → HomesFree s → le d 0x28 8 = 1 → es = le d 0x38 2 → Reads s (s.queue qn).ctx (va d 0x30) 4 at_ ix →
    le d 0x18 8 + leNat ix * es < 2 ^ 64 → Reads s (s.queue qn).ctx (BitVec.ofNat 64 (le d 0x18 8 + leNat ix * es)) es loc bs →
    Reaches s (s.queue qn).ctx .write (va d 0x20) es to_ → s.releasedIn to_.addr es = false →
    Acts (.moveGather qn) s qn fun t => ∃ c, InFlight s t qn d c ∧ c.segs = [.done] ∧ put s t to_ bs) ∧
  (∀ (s : State) (qn : Nat) (d : Desc) (f : W32) (loc to_ : Loc) (bs : List Byte),
    Passes s qn 0x02 d (reduceOk (s.ctx (s.queue qn).ctx).bl1 d.bytes) → le d 0x10 1 = 3 → f = BitVec.ofNat 32 (le d 0x14 4) →
    Turn s qn d → HomesFree s → le d 0x28 8 = 1 → Reads s (s.queue qn).ctx (va d 0x18) (etypeBytes (redEtype f)) loc bs →
    Reaches s (s.queue qn).ctx .atomic (va d 0x20) (accWidth f) to_ → to_.host = false → s.rangeBad to_.addr (accWidth f) = false →
    s.releasedIn to_.addr (accWidth f) = false →
    Acts (.moveReduce qn) s qn fun t => ∃ c, InFlight s t qn d c ∧ c.segs = [.done] ∧
      put s t to_ (leBytes (accWidth f) (redAdd f (leNat (memBytes s.mem to_.addr (accWidth f))) (leNat bs)))) ∧
  (∀ (s : State) (qn n : Nat) (d : Desc) (loc : Nat → Loc), Passes s qn 0x02 d (tierOk d.bytes) → le d 0x10 1 = 4 →
    n = le d 0x28 8 / 4096 → le d 0x20 8 + le d 0x28 8 ≤ 2 ^ 64 →
    (∀ i < n, canonical (s.vaBits (s.queue qn).ctx) (BitVec.ofNat 64 (le d 0x20 8 + 4096 * i)) = true ∧
      s.locate (s.queue qn).ctx (BitVec.ofNat 64 (le d 0x20 8 + 4096 * i)) .write = some (loc i) ∧ (loc i).host = false) →
    let ps := ((List.range n).map fun i => (loc i).addr / 65536).eraseDups
    let pin := le d 0x30 8
    if pin = 1 ∧ s.pinRefused ps = true then Acts (.moveTier qn) s qn fun t => t.mem = s.mem ∧ t.pages = s.pages ∧ Ends s t qn d 0x0D
    else Acts (.moveTier qn) s qn fun t => t.mem = s.mem ∧
      (∀ p ∈ ps, (s.page p).released = false → (s.page p).late ≠ some 3 → (pin = 1 ∨ (s.saved p = false ∧ s.weight p = false)) →
        if s.moving p = true then (t.page p).late = some pin else (t.page p).pin = pin) ∧
      if (ps.any fun p => (t.page p).late == some pin) = true then
        ∃ c, InFlight s t qn d c ∧ c.work = .tier (ps.filter fun p => (t.page p).late == some pin)
      else Ends s t qn d 0) ∧
  (∀ (s : State) (qn : Nat) (d : Desc) (loc : Loc),
    Passes s qn 0x03 d (le d 0x10 8 % 8 == 0 && decide (le d 0x20 1 < 2) && allZero d.bytes 0x21 31) →
    Reaches s (s.queue qn).ctx (if le d 0x20 1 = 1 then .atomic else .write) (va d 0x10) 8 loc → loc.host = false →
    s.rangeBad loc.addr 8 = false → s.releasedIn loc.addr 8 = false →
    Acts (.signalOp qn) s qn fun t => Ends s t qn d 0 ∧
      put s t loc (leBytes 8 ((if le d 0x20 1 = 1 then leNat (memBytes s.mem loc.addr 8) else 0) + le d 0x18 8))) ∧
  (∀ (s : State) (qn : Nat) (d : Desc) (loc : Loc), Passes s qn 0x10 d (le d 0x10 8 % 8 == 0 && allZero d.bytes 0x18 40) →
    Reaches s (s.queue qn).ctx .write (va d 0x10) 8 loc → loc.host = false → s.releasedIn loc.addr 8 = false →
    Acts (.timestampOp qn) s qn fun t => Ends s t qn d 0 ∧
      put s t loc (leBytes 8 (((s.queue qn).frontWait.elim s.now (·.2) - s.t0) / 5000 * 5))) ∧
  (∀ (s : State) (qn : Nat) (d : Desc), Passes s qn 0x04 d (cmdWaitOk d.bytes) → le d 0x29 1 = 1 → s.epochOf (s.queue qn).part = 0 →
    Acts (.cmdWait qn) s qn (Ends s · qn d 5)) ∧
  (∀ (s : State) (qn : Nat) (d : Desc) (loc : Loc) (bs : List Byte), Passes s qn 0x04 d (cmdWaitOk d.bytes) →
    (le d 0x29 1 = 1 → s.epochOf (s.queue qn).part ≠ 0) → Reads s (s.queue qn).ctx (va d 0x10) 8 loc bs →
    Acts (.cmdWait qn) s qn fun t =>
      if testHolds d.bytes (leNat bs) = true then Ends s t qn d 0
      else ∃ c, InFlight s t qn d c ∧ c.work = .wait loc.host loc.addr ∧ c.blocking = true ∧
        (loc.host = false → (loc.addr / 128, Src.parser qn s.fresh) ∈ t.watches)) ∧
  (∀ (s : State) (qn pa : Nat) (c : Cmd), qn < 12288 → s.rotating = false →
    ((s.queue qn).cmds.find? fun c => match c.work with
      | .wait true _ => true
      | _ => false) = some c →
    c.work = .wait true pa → (s.queue qn).cmd? c.id = some c → s.hostPoisoned pa 8 = false →
    Settles (.parserHostPoll qn) s qn fun t =>
      if testHolds c.raw (leNat (memBytes s.host pa 8)) = true then (t.queue qn).cmd? c.id = none ∧
        (descFlag c.raw 2 = false → Recorded t qn (descSeq c.raw) 0)
      else t.queue qn = s.queue qn)

/-- R426, R428, R432 to R436, R488, R489, Table 9.7: the fabric commands. A PUT or GET here is one segment in one page. -/
def Obligations.FabricCommands : Prop :=
  let le (d : Desc) (off n : Nat) : Nat := rawLe d.bytes off n
  let va (d : Desc) (off : Nat) : W64 := BitVec.ofNat 64 (rawLe d.bytes off 8)
  let putOk (d : Desc) : Bool := xferRsv d.bytes && inLen (2 ^ 40) (le d 0x20 8) && le d 0x30 8 == 0
  let flagOk (d : Desc) : Bool := xferRsv d.bytes && le d 0x10 8 == 0 && le d 0x18 8 % 8 == 0 && le d 0x20 8 == 0
  let getOk (d : Desc) : Bool := xferRsv d.bytes && inLen (2 ^ 40) (le d 0x20 8) && le d 0x2B 1 == 0 && le d 0x30 8 == 0
  let on (s : State) (qn : Nat) : Prop := (s.queue qn).part < 48 ∧ s.epochOf (s.queue qn).part ≠ 0 ∧ s.fenced (s.queue qn).part = false
  let peer (s : State) (qn : Nat) (d : Desc) : Prop := on s qn ∧ s.encOf (s.queue qn).part = false ∧ xferPeer d.bytes ≠ s.modId ∧
    xferPeer d.bytes ∉ (s.cohort (s.queue qn).part).lost
  let names (s : State) (qn : Nat) (d : Desc) (a : FabMsg) (type : Nat) : Prop :=
    a.type = type ∧ a.dst = xferPeer d.bytes ∧ a.dpart = xferPeerPart d.bytes ∧ a.spart = (s.queue qn).part ∧ a.src = s.modId ∧
    a.epoch = s.epochOf (s.queue qn).part ∧ a.tag = BitVec.ofNat 32 (s.fresh + 1)
  (∀ (s : State) (qn n : Nat) (d : Desc) (loc : Loc) (bs : List Byte), Passes s qn 0x0C d (putOk d) → le d 0x2B 1 = 0 → peer s qn d →
    n = le d 0x20 8 → n ≤ 4096 → Reads s (s.queue qn).ctx (va d 0x10) n loc bs →
    Acts (.putOp qn) s qn fun t => ∃ c a, InFlight s t qn d c ∧ c.work = .xfer (s.fresh + 1) ∧ c.segs = [.open_] ∧ Posted t a ∧
      names s qn d a 1 ∧ a.addr = va d 0x18 ∧ a.len = n ∧ a.seg = 0 ∧ a.data = bs ∧ a.poison = false) ∧
  (∀ (s : State) (qn : Nat) (d : Desc), Passes s qn 0x0C d (flagOk d) → le d 0x2B 1 = 1 → peer s qn d → s.xfers = [] →
    (∀ y ∈ s.putsOut, y.1 ≠ qn) →
    Acts (.putKindFlag qn) s qn fun t => ∃ c a, InFlight s t qn d c ∧ c.work = .xfer (s.fresh + 1) ∧ Posted t a ∧ names s qn d a 2 ∧
      a.addr = va d 0x18 ∧ a.data = leBytes 8 (le d 0x30 8)) ∧
  (∀ (s : State) (qn n : Nat) (d : Desc) (loc : Loc), Passes s qn 0x0D d (getOk d) → peer s qn d → n = le d 0x20 8 → n ≤ 4096 →
    Reaches s (s.queue qn).ctx .write (va d 0x18) n loc →
    Acts (.getOp qn) s qn fun t => ∃ c a, InFlight s t qn d c ∧ c.work = .xfer (s.fresh + 1) ∧ c.segs = [.open_] ∧ Posted t a ∧
      names s qn d a 3 ∧ a.addr = va d 0x10 ∧ a.len = n ∧ a.seg = 0) ∧
  (∀ (s : State) (qn op st : Nat) (d : Desc) (c : Instr) (ok : Bool),
    (c, op, ok) ∈ [(Instr.putOp qn, 0x0C, putOk d && le d 0x2B 1 == 0), (.putKindFlag qn, 0x0C, flagOk d && le d 0x2B 1 == 1), (.getOp qn, 0x0D, getOk d)] →
    ok = true → Passes s qn op d true → s.xferRefused (s.queue qn).part d.bytes = some st → Acts c s qn (Ends s · qn d st)) ∧
  (∀ (s : State) (qn kind : Nat) (d : Desc) (c : Instr),
    (c, kind) ∈ [(Instr.allReduce qn, 0), (.reduceScatter qn, 1), (.allGather qn, 2), (.broadcastOp qn, 3), (.reduceOp qn, 4)] →
    Passes s qn 0x0E d (collFieldsOk kind (s.ctx (s.queue qn).ctx).bl1 d.bytes) → le d 0x10 1 = kind →
    (s.epochOf (s.queue qn).part = 0 → Acts c s qn (Ends s · qn d 5)) ∧
    (∀ (loc : Loc) (h : List Byte), s.epochOf (s.queue qn).part ≠ 0 → (s.queue qn).readBad = none → Reads s (s.queue qn).ctx (va d 0x30) 16 loc h →
      rawLe h 0 1 ≠ s.fld (negSel (s.queue qn).fn 27 24) → Acts c s qn (Ends s · qn d 0x0C)) ∧
    ∀ (loc at_ : Loc) (b : List Byte) (g o : CollOp), on s qn → (s.queue qn).readBad = none → HomesFree s →
      Reads s (s.queue qn).ctx (va d 0x30) (16 + 4 * rawLe b 2 2) loc b → loc.host = false →
      rawLe b 0 1 = s.fld (negSel (s.queue qn).fn 27 24) → s.groupOf (s.queue qn).part kind b = some g →
      (∀ m ∈ g.members, m.1 ∉ (s.cohort (s.queue qn).part).lost) →
      o = { g with kind := kind, op := le d 0x11 1, fmt := BitVec.ofNat 32 (le d 0x14 4), n := le d 0x38 8
                   inp := va d 0x18, out := va d 0x20, work := va d 0x28 } →
      if o.combines = true ∧ fmtExact o.fmt = true ∧ ∃ m ∈ o.members, s.overV1 m.1 = true then Acts c s qn (Ends s · qn d 0x0C)
      else (o.workNeed = 0 ∨ Reaches s (s.queue qn).ctx .write o.work o.workNeed at_) →
      Acts c s qn fun t => ∃ (t1 : State) (x : Cmd) (f : Xfer), t = (t1.collGo (s.fresh + 1)).endOldLinks ∧ InFlight s t1 qn d x ∧
        x.work = .xfer (s.fresh + 1) ∧ x.total = o.total ∧ t1.xfer (s.fresh + 1) = some f ∧ f.kind = .coll ∧ f.coll = o ∧
        f.queue = qn ∧ f.cmd = s.fresh ∧ f.timer = s.now) ∧
  (∀ (s : State) (qn : Nat) (d : Desc) (loc at_ : Loc) (b word : List Byte) (g : CollOp),
    Passes s qn 0x0E d (allZero d.bytes 0x11 7 && le d 0x30 8 % 64 == 0 && inLen (2 ^ 26) (le d 0x38 4) && le d 0x38 4 % 4096 == 0 &&
      decide (1 ≤ le d 0x3C 3) && le d 0x3F 1 == 0) → le d 0x10 1 = 5 → on s qn → (s.queue qn).readBad = none → HomesFree s →
    Reads s (s.queue qn).ctx (va d 0x30) (16 + 4 * rawLe b 2 2) loc b → loc.host = false →
    rawLe b 0 1 = s.fld (negSel (s.queue qn).fn 27 24) → s.groupOf (s.queue qn).part 5 b = some g →
    (∀ m ∈ g.members, m.1 ∉ (s.cohort (s.queue qn).part).lost) →
    if g.g ≤ le d 0x3C 3 then Acts (.kvRing qn) s qn (Ends s · qn d 0x0B)
    else s.xfers = [] → Reads s (s.queue qn).ctx (va d 0x28 + 8) 8 at_ word → Acts (.kvRing qn) s qn fun t => ∃ (t1 : State) (x : Cmd) (f : Xfer), t = t1.ringGo (s.fresh + 1) ∧
      InFlight s t1 qn d x ∧ x.work = .xfer (s.fresh + 1) ∧ x.segs = List.replicate (le d 0x3C 3) .open_ ∧
      t1.xfer (s.fresh + 1) = some f ∧ f.kind = .ring ∧ f.len = le d 0x38 4 ∧ f.loc = va d 0x18 ∧ f.consumed = leNat word ∧
      f.coll = { g with kind := 5, n := le d 0x3C 3, inp := va d 0x18, out := va d 0x20, work := va d 0x28 })

/-- R487, R493, R498, R499, R503, R508: how commands end, and the registers of the event log (Table 10.20). -/
def Obligations.CommandEnds : Prop :=
  let live (s : State) (qn : Nat) : Prop :=
    qn < 12288 ∧ s.ready = true ∧ s.rotating = false ∧ (s.part (s.queue qn).part).st = .ready ∧
    ∀ x f, s.xfer x = some f → f.oldLink = false
  let ended (t : State) (qn id : Nat) (c : Cmd) (st : Nat) : Prop := (t.queue qn).cmd? id = none ∧
    (descFlag c.raw 2 = false ∨ st ≠ 0 → ∃ r ∈ (t.queue qn).records, r.seq = descSeq c.raw ∧ r.cookie = descCookie c.raw ∧
      r.status = st ∧ r.write = true ∧ ((t.ctx (t.queue qn).ctx).bl1 = false → r.bitmap = c.bitmap))
  (∀ (s : State) (qn id k : Nat) (c : Cmd), live s qn → (s.queue qn).cmd? id = some c → c.work = .kernel k →
    (s.kernel k).isOver = true → (∀ r ∈ s.hostReqs, r.kernel ≠ k) → (s.kernel k).tiles.Nodup →
    (∀ u, (s.tile u).kernel = some k ↔ u ∈ (s.kernel k).tiles) →
    ∃ t : State, exec (.commandComplete qn id) s = .next t.settleAll ∧ Left s t k ∧ ended t qn id c 0 ∧
      ∀ u ∈ (s.kernel k).tiles, (t.tile u).acc = ((s.tile u).matDrain (s.cycle (frondOf u))).acc) ∧
  (∀ (s : State) (qn id k : Nat) (c : Cmd), live s qn → (s.queue qn).cmd? id = some c → c.work = .kernel k →
    ((s.kernel k).isOver = false ∨ ∃ r ∈ s.hostReqs, r.kernel = k) →
    exec (.commandComplete qn id) s = .next s.settleAll) ∧
  (∀ (s : State) (qn id : Nat) (c : Cmd) (ps : List Nat), live s qn → (s.queue qn).cmd? id = some c → c.work = .tier ps →
    (∀ p ∈ ps, (s.page p).late = none) →
    ∃ t : State, exec (.commandComplete qn id) s = .next t.settleAll ∧ t.mem = s.mem ∧ ended t qn id c 0) ∧
  (∀ (s : State) (qn id : Nat) (c : Cmd), live s qn → (s.queue qn).cmd? id = some c → c.work = .mover →
    (∀ x ∈ c.segs, x = .done ∨ x = .failed) →
    ∃ t : State, exec (.commandComplete qn id) s = .next t.settleAll ∧ t.mem = s.mem ∧
      ended t qn id c (if .failed ∈ c.segs then 1 else 0)) ∧
  (∀ (s : State) (qn id : Nat) (c : Cmd) (before : List (Nat × Nat)), live s qn → (s.queue qn).cmd? id = some c →
    c.work = .fence before → (∀ b ∈ before, (s.queue b.1).cmd? b.2 = none) →
    ∃ t : State, exec (.commandComplete qn id) s = .next t.settleAll ∧ t.mem = s.mem ∧ ended t qn id c 0) ∧
  (∀ (s : State) (qn id due : Nat) (seq : W32), qn < 12288 → s.ready = true → (s.part (s.queue qn).part).st = .ready →
    (s.queue qn).st ≠ .empty → (s.ctx (s.queue qn).ctx).st = .live → (∀ x ∈ s.timers, due ≤ x.2) →
    ((∃ c, (s.queue qn).cmd? id = some c ∧ seq = descSeq c.raw ∧ due = c.since + c.notCounted + (s.queue qn).tmoUs * 1000000 ∧
        (∀ k, c.work = .kernel k → ¬ ((s.kernel k).st = .out ∧ (s.kernel k).swCause = 2))) ∨
      (∃ d since, (s.queue qn).cmd? id = none ∧ (s.queue qn).frontWait = some (id, since) ∧ (s.queue qn).front = some d ∧
        seq = descSeq d.bytes ∧ due = since + (s.queue qn).tmoUs * 1000000)) →
    ∃ t : State, exec (.commandTimeout qn id) s = .next ((t.flush.settleFront qn).settleAll) ∧ due ≤ t.now ∧
      Recorded t qn seq 3 ∧ Lost t (s.queue qn).ctx 0x10 3 qn seq 0 ∧ QueuesLost s t (s.queue qn).ctx) ∧
  (∀ (s : State) (qn id : Nat), qn < 12288 → s.ready = true →
    (∀ x ∈ s.timers, x.1 = (qn, id) → ∃ y ∈ s.timers, y.2 < x.2) → exec (.commandTimeout qn id) s = .next s) ∧
  (∀ (s : State) (fn p : Nat) (f : EvlogField) (v : W64), fn < 49 → p < 48 → s.ready = true → s.vfLive fn = true → s.owns fn p = true →
    (∀ x ∈ s.queues, x.2.part = p → x.2.st ≠ .running) →
    ∃ t, exec (.evlogConfigWrite fn p f v) s = .next t ∧ t.fld (evlogHead p) = 0 ∧ t.fld (evlogTail p) = 0 ∧ t.fld (evlogOver p) = 0 ∧
      t.word (evlog p) = (if f = .base then v else s.word (evlog p)) ∧
      t.fld (evlogCtx p) = (if f = .ctx then v.toNat % 4096 else s.fld (evlogCtx p)) ∧
      t.fld (evlogLog2 p) = (if f = .log2 then min 16 (max 6 (v.toNat % 32)) else s.fld (evlogLog2 p))) ∧
  (∀ (s : State) (fn p : Nat) (v : W32), fn < 49 → p < 48 → s.ready = true → s.vfLive fn = true → s.owns fn p = true →
    let h := BitVec.ofNat 32 (s.fld (evlogHead p))
    let e := BitVec.ofNat 32 (s.fld (evlogTail p))
    ∃ t, exec (.evlogHeadWrite fn p v) s = .next t ∧
      t.fld (evlogHead p) = (if (v - h).toNat ≤ (e - h).toNat then v.toNat else s.fld (evlogHead p)) ∧
      t.fld (evlogTail p) = s.fld (evlogTail p))

/-- R506 to R511, R517, R518, R520, R521, Tables 11.2 to 11.7: contexts, the invalidation of translations, and the host's answers to
page requests. -/
def Obligations.Contexts : Prop :=
  let may (s : State) (fn : Nat) : Prop := fn < 49 ∧ s.ready = true ∧ s.vfLive fn = true ∧ s.committed fn = true
  let cmd (t : State) (fn op st : Nat) : Prop :=
    t.fld (ctxCmd fn 2 0) = op ∧ t.fld (ctxCmd fn 27 24) = st ∧ t.fld (ctxCmd fn 31 31) = 0
  (∀ (s : State) (fn c : Nat), may s fn →
    let d := s.staged fn 0x00202000 32
    let x := s.ctxDesc fn d
    rawLe d 0 1 = s.fld (negSel fn 23 20) → ctxDescOk d = true → (fn = 0 ∨ x.part = fn - 1) → s.owns fn x.part = true → c < 4096 →
    (s.ctx c).st = .free → (∀ b < c, (s.ctx b).st ≠ .free) → (s.part x.part).st = .ready →
    (s.ctxs.filter fun y => y.2.st != .free && y.2.part == x.part).length < (s.part x.part).ctxMax →
    x.savePpn + x.saveSlots * x.slotPages ≤ grantPages (s.part x.part).grant → s.pinRefused (s.saveArea x) = false →
    ∃ t, exec (.ctxCreate fn) s = .next t ∧ t.ctx c = x ∧ cmd t fn 1 0 ∧ t.fld (ctxCmd fn 19 8) = c ∧ t.mem = s.mem ∧
      ∀ b, b ≠ c → t.ctx b = s.ctx b) ∧
  (∀ (s : State) (fn : Nat) (w : BitVec 12), may s fn → s.ctxOwned fn w.toNat = true →
    (∀ x ∈ s.queues, x.2.st ≠ .empty → x.2.ctx ≠ w.toNat) →
    (∀ p < 48, s.epochOf p ≠ 0 → s.fld (cohCtx p) ≠ w.toNat) →
    ∃ t, exec (.ctxDestroy fn w) s = .next t ∧ t.ctx w.toNat = {} ∧ cmd t fn 2 0 ∧ t.fld (ctxCmd fn 19 8) = w.toNat ∧
      (∀ x ∈ t.xcache, x.ctx ≠ w.toNat) ∧ ∀ r ∈ t.pageReqs, r.ctx ≠ w.toNat) ∧
  (∀ (s : State) (fn : Nat) (w : BitVec 12), may s fn → ((s.ctx w.toNat).st = .free ∨ s.owns fn (s.ctx w.toNat).part = true) →
    let x := s.ctx w.toNat
    ∃ t, exec (.ctxQuery fn w) s = .next t ∧ cmd t fn 3 0 ∧
      t.word (ctxInfo fn 0) = BitVec.ofNat 64 ((match x.st with
        | .free => 0
        | .live => 1
        | .lost => 2) + 2 ^ 8 * x.cause + 2 ^ 16 * x.status + 2 ^ 32 * x.seq) ∧
      t.word (ctxInfo fn 1) = x.faultVa ∧ t.word (ctxInfo fn 2) = BitVec.ofNat 64 x.queue ∧ t.word (ctxInfo fn 3) = x.launched ∧
      t.word (ctxInfo fn 4) = x.completed ∧ t.ctxs = s.ctxs) ∧
  (∀ (s : State) (fn : Nat) (w : BitVec 12), may s fn → s.ctxOwned fn w.toNat = true → (s.ctx w.toNat).st = .live →
    ∃ t : State, exec (.ctxKill fn w) s = .next (t.flush.cmdDone (ctxCmd fn) 4 0) ∧ Lost t w.toNat 0x16 8 0 0 0 ∧ QueuesLost s t w.toNat) ∧
  (∀ (s : State) (fn : Nat) (w : BitVec 12) (n : W32), fn < 49 → s.ready = true → s.vfLive fn = true → s.fld (inv1 fn 63 63) = 0 →
    (s.ctx w.toNat).st = .live → s.owns fn (s.ctx w.toNat).part = true → tabWf tileNone s.tiles = true →
    let v := (s.word (invVa fn)).toNat / 4096
    ∃ t, exec (.ctxInv fn n w) s = .next t ∧ t.fld (inv1 fn 63 63) = 1 ∧ t.fld (inv1 fn 47 44) = 0 ∧ t.invs = s.invs ++ [(fn, w.toNat, s.fresh)] ∧
      (∀ x ∈ t.xcache, x.ctx = w.toNat → n ≠ 0 ∧ ¬ (x.vpn < v + n.toNat ∧ v < x.vpn + x.pages)) ∧
      (∀ u k, (s.tile u).kernel = some k → (s.kernel k).ctx = w.toNat → (t.tile u).l1 = [])) ∧
  (∀ (s : State) (fn c n : Nat), fn < 49 → s.invs.find? (·.1 == fn) = some (fn, c, n) → s.outstanding c n = false →
    ∃ t, exec (.ctxInvDone fn) s = .next t ∧ t.fld (inv1 fn 63 63) = 0 ∧ t.fld (inv1 fn 62 62) = 1 ∧ (∀ x ∈ t.invs, x.1 ≠ fn) ∧
      t.xcache = s.xcache) ∧
  (∀ (s : State) (fn n : Nat) (a : W64), 0 < fn → fn < 49 → s.hostReqs = [] →
    let lo := a.toNat / 4096 * 4096
    ∃ t, exec (.atsInvalidate fn a n) s = .next t ∧ Sent.atsDone fn ∈ t.sent ∧
      (∀ x ∈ t.xcache, x ∈ s.xcache ∧ ¬ (x.host = true ∧ (s.ctx x.ctx).fn = fn ∧ (s.ctx x.ctx).st ≠ .free ∧ x.off < lo + 4096 * n ∧
        lo < x.off + 4096 * x.pages)) ∧
      (∀ x ∈ s.xcache, x.host = false → x ∈ t.xcache) ∧ t.mem = s.mem) ∧
  (∀ (s : State) (r : PageReq) (k : Nat) (acc : Acc) (code : PrCode), s.ready = true → s.rotating = false →
    s.pageReqs.find? (fun x => x.ctx == r.ctx && x.page == r.page && x.write == r.write && x.sent) = some r →
    r.kernels = [(k, acc)] → r.cmds = [] → r.fetches = [] → r.reads = [] → (∀ x ∈ s.pageReqs, (∃ y ∈ x.kernels, y.1 = k) → x = r) →
    let kn := s.kernel k
    let va : W64 := if kn.faultVa.toNat / 4096 = r.page then kn.faultVa else BitVec.ofNat 64 (r.page * 4096)
    if code = .success then
      ∀ loc, s.locate r.ctx (BitVec.ofNat 64 (r.page * 4096)) acc = some loc → kn.st = .out → kn.swCause = 1 → kn.eligible = false →
      ∃ t : State, exec (.pageResponse r.ctx r.page r.write code) s = .next t.settleAll ∧ (t.kernel k).eligible = true ∧
        ∀ x ∈ t.pageReqs, ¬ (x.ctx = r.ctx ∧ x.page = r.page ∧ x.write = r.write)
    else kn.st ≠ .done → (s.ctx kn.ctx).st = .live → tabWf tileNone s.tiles = true →
      ∃ t : State, exec (.pageResponse r.ctx r.page r.write code) s = .next t.settleAll ∧ Gone s t k ∧
        Lost t kn.ctx 0x13 6 kn.queue (BitVec.ofNat 32 kn.seq) va) ∧
  (∀ (s : State) (r : PageReq) (qn : Nat) (code : PrCode), s.ready = true → s.rotating = false →
    s.pageReqs.find? (fun x => x.ctx == r.ctx && x.page == r.page && x.write == r.write && x.sent) = some r →
    r.kernels = [] → r.cmds = [] → r.fetches = [qn] → r.reads = [] → code ≠ .success →
    ∃ t : State, exec (.pageResponse r.ctx r.page r.write code) s = .next t.settleAll ∧ (t.queue qn).fetchBad.contains r.page = true ∧
      ∀ x ∈ t.pageReqs, ¬ (x.ctx = r.ctx ∧ x.page = r.page ∧ x.write = r.write)) ∧
  (∀ (s : State) (ctx page : Nat) (write : Bool) (code : PrCode),
    (∀ x ∈ s.pageReqs, ¬ (x.ctx = ctx ∧ x.page = page ∧ x.write = write ∧ x.sent = true)) ∨ s.rotating = true →
    exec (.pageResponse ctx page write code) s = .next s)

/-- R523 to R528, R562, R574, Tables 11.9 to 11.11, 14.3: the life of partitions, and Function Level Resets. -/
def Obligations.Partitions : Prop :=
  let cmd (t : State) (op st go : Nat) : Prop := t.fld (prtCmd 2 0) = op ∧ t.fld (prtCmd 19 16) = st ∧ t.fld (prtCmd 31 31) = go
  let may (s : State) : Prop := s.ready = true ∧ s.fld (prtCmd 31 31) = 0
  let plain (s : State) (p : Nat) : Prop := (s.tdi p).st ≠ 1 ∧ (s.tdi p).st ≠ 2
  (∀ (s : State) (w : BitVec 6), s.ready = true →
    ∀ c ∈ [(Instr.prtCreate w, 1), (.prtDestroy w, 2), (.prtReset w, 3), (.prtAssign w, 4), (.prtUnassign w, 5), (.prtGrow w, 6)],
      (s.fld (prtCmd 31 31) = 1 → ∃ t, exec c.1 s = .next t ∧ t.parts = s.parts ∧ t.mem = s.mem ∧ t.fld (prtCmd 2 0) = c.2 ∧
        t.fld (prtCmd 13 8) = w.toNat ∧ t.fld (prtCmd 31 31) = 1) ∧
      (s.fld (prtCmd 31 31) = 0 → 48 ≤ w.toNat → ∃ t, exec c.1 s = .next t ∧ cmd t c.2 1 0 ∧ t.parts = s.parts)) ∧
  (∀ (s : State) (w : BitVec 6), may s → w.toNat < 48 → s.rot = .idle → (∀ x ∈ s.parts, x.2.byCmd = false) →
    (s.part w.toNat).st = .free →
    let d := s.staged 0 0x00100000 16
    s.prtRefused w.toNat d = none →
    ∃ t, exec (.prtCreate w) s = .next t ∧ cmd t 1 0 0 ∧ (∀ q, q ≠ w.toNat → t.part q = s.part q) ∧
      t.part w.toNat = { st := .ready, herb := bitOf (rawLe d 1 1) 0, key := rawLe d 2 1 % 128, enc := bitOf (rawLe d 2 1) 7
                         ctxMax := rawLe d 4 2, groups := rawLe d 8 8, quantumUs := rawLe d 0x10 4, drainMs := rawLe d 0x14 1
                         grant := prtExtents d }) ∧
  (∀ (s : State) (w : BitVec 6) (destroy : Bool), may s → w.toNat < 48 → s.rot = .idle → (∀ x ∈ s.parts, x.2.byCmd = false) →
    (s.part w.toNat).st = .ready → plain s w.toNat →
    ∃ t : State, exec (if destroy then .prtDestroy w else .prtReset w) s = .next t.settleAll ∧ (t.part w.toNat).st = .resetting ∧
      (t.part w.toNat).resetAt = s.now ∧ (t.part w.toNat).byCmd = true ∧ (t.part w.toNat).destroyAfter = destroy ∧
      t.fld (prtCmd 31 31) = 1 ∧ (∀ k, (s.kernel k).part = w.toNat → t.kernel k = kernelNone k) ∧
      (s.epochOf w.toNat ≠ 0 → t.fenced w.toNat = true)) ∧
  (∀ (s : State) (p : Nat), p < 48 → (s.part p).st = .resetting → s.partBusy p = false → (s.part p).tdiStop = false →
    (s.part p).byCmd = true →
    ∃ t : State, exec (.prtResetDrainEnd p) s = .next (t.rotBegin.settleAll) ∧ t.fld (prtCmd 19 16) = 0 ∧ t.fld (prtCmd 31 31) = 0 ∧
      (t.part p).st = (if (s.part p).destroyAfter = true then .destroying else .ready) ∧
      (∀ n, (s.queue n).st ≠ .empty → (s.queue n).part = p → t.queue n = {}) ∧
      (∀ c, (s.ctx c).st ≠ .free → (s.ctx c).part = p → t.ctx c = {}) ∧
      ((s.part p).destroyAfter = true → ∀ u ∈ (s.part p).tiles, t.tile u = {})) ∧
  (∀ (s : State) (p : Nat), p < 48 → (s.part p).st = .destroying → s.rotating = false → HomesFree s → memWf s.mem = true →
    let mine (a : Nat) : Prop := ∃ g ∈ (s.part p).grant, g.1 ≤ a / 65536 ∧ a / 65536 < g.1 + g.2 ∧ (s.page (a / 65536)).released = false
    ∃ t, exec (.prtZeroDone p) s = .next t ∧ t.part p = {} ∧ (∀ q, q ≠ p → t.part q = s.part q) ∧
      (∀ a, mine a → memByte t.mem a = 0) ∧ ∀ a, ¬ mine a → memByte t.mem a = memByte s.mem a) ∧
  (∀ (s : State) (w : BitVec 6), may s → w.toNat < 48 → (s.part w.toNat).st = .ready → (s.part w.toNat).vf = false →
    w.toNat + 1 ≤ s.vfs → s.queuesOf w.toNat = [] →
    ∃ t, exec (.prtAssign w) s = .next t ∧ cmd t 4 0 0 ∧ t.part w.toNat = { s.part w.toNat with vf := true } ∧
      (∀ c, (s.ctx c).st ≠ .free → (s.ctx c).part = w.toNat → (t.ctx c).fn = w.toNat + 1) ∧ t.tdi w.toNat = {} ∧ t.committed (w.toNat + 1) = false ∧ t.mem = s.mem) ∧
  (∀ (s : State) (w : BitVec 6), may s → w.toNat < 48 → (s.part w.toNat).st = .ready → (s.part w.toNat).vf = true →
    plain s w.toNat → s.queuesOf w.toNat = [] →
    ∃ t, exec (.prtUnassign w) s = .next t ∧ cmd t 5 0 0 ∧ t.part w.toNat = { s.part w.toNat with vf := false } ∧
      (∀ c, (s.ctx c).st ≠ .free → (s.ctx c).part = w.toNat → (t.ctx c).fn = 0) ∧ t.tdi w.toNat = {} ∧ t.committed (w.toNat + 1) = false ∧ t.mem = s.mem) ∧
  (∀ (s : State) (w : BitVec 6), may s → w.toNat < 48 → (s.part w.toNat).st = .ready → plain s w.toNat →
    let d := s.staged 0 0x00100000 16
    s.prtRefused w.toNat d = none →
    ∃ t, exec (.prtGrow w) s = .next t ∧ cmd t 6 0 0 ∧
      t.part w.toNat = { s.part w.toNat with grant := (s.part w.toNat).grant ++ prtExtents d }) ∧
  (∀ (s : State) (fn : Nat), 0 < fn → fn < 49 → s.ready = true → fn ≤ s.vfs → s.rot = .idle → (s.part (fn - 1)).vf = true →
    (s.part (fn - 1)).st = .ready → tabWf regReset s.regs = true →
    ∃ t : State, exec (.functionLevelReset fn) s = .next t.settleAll ∧ (t.part (fn - 1)).st = .resetting ∧
      (t.part (fn - 1)).byFn = true ∧ t.committed fn = false ∧
      (∀ k, (s.kernel k).part = fn - 1 → t.kernel k = kernelNone k) ∧ ∀ x ∈ t.raised, x.1 ≠ fn)

/-- R382, R530 to R532, R646, Table 11.12: the migration log's controls, and MSI-X messages. -/
def Obligations.MigrationLogAndMsix : Prop :=
  (∀ (s : State) (p : Nat) (v : W64), p < 48 → s.ready = true → s.fld (dlogEn p) = 0 → v.getLsbD 8 = true →
    ∃ t, exec (.dlogEnable p v) s = .next t ∧ t.fld (dlogEn p) = 1 ∧ t.fld (dlogLog2 p) = min 20 (max 8 (v.toNat % 32)) ∧
      t.fld (dlogHead p) = 0 ∧ t.fld (dlogTail p) = 0 ∧ t.fld (dlogRounds p) = (s.fld (dlogRounds p) + 1) % 2 ^ 32 ∧
      (t.part p).dlogged = [] ∧ t.fld (dlogOverflow p) = (if v.getLsbD 10 = true then 0 else s.fld (dlogOverflow p))) ∧
  (∀ (s : State) (p : Nat) (v : W64), p < 48 → s.ready = true → s.fld (dlogEn p) = 1 → v.getLsbD 8 = false → v.getLsbD 9 = false →
    ∃ t, exec (.dlogEnable p v) s = .next t ∧ t.fld (dlogEn p) = 0 ∧ t.fld (dlogLog2 p) = s.fld (dlogLog2 p) ∧
      t.fld (dlogHead p) = s.fld (dlogHead p) ∧ t.fld (dlogTail p) = s.fld (dlogTail p) ∧ t.parts = s.parts) ∧
  (∀ (s : State) (p : Nat), p < 48 → s.ready = true →
    ∃ t, exec (.dlogRound p) s = .next t ∧ (t.part p).dlogged = [] ∧ t.fld (dlogRounds p) = (s.fld (dlogRounds p) + 1) % 2 ^ 32 ∧
      (∀ q, q ≠ p → t.part q = s.part q) ∧ t.mem = s.mem ∧ t.host = s.host) ∧
  (∀ (s : State) (p : Nat) (v : W32), p < 48 → s.ready = true →
    let h := BitVec.ofNat 32 (s.fld (dlogHead p))
    let e := BitVec.ofNat 32 (s.fld (dlogTail p))
    ∃ t, exec (.dlogHeadWrite p v) s = .next t ∧
      t.fld (dlogHead p) = (if (v - h).toNat ≤ (e - h).toNat then v.toNat else s.fld (dlogHead p)) ∧
      t.fld (dlogTail p) = s.fld (dlogTail p)) ∧
  (∀ (s : State) (fn v : Nat), fn < 49 → v < 2048 → s.answers = true → (fn, v) ∈ s.raised →
    ∃ t, exec (.msixSend fn v) s = .next t ∧ t.raised = s.raised.erase (fn, v) ∧
      if s.fld (msixMask fn v) = 1 then t.fld (pbaBit fn v) = 1 ∧ t.sent = s.sent
      else t.sent = .msix fn v (s.word (msixWord fn v 0)) (BitVec.ofNat 32 (s.word (msixWord fn v 1)).toNat) :: s.sent ∧ t.regs = s.regs) ∧
  (∀ (s : State) (fn v : Nat), fn < 49 → v < 2048 → s.ready = true → s.vfLive fn = true →
    ∃ t, exec (.msixUnmask fn v) s = .next t ∧ t.fld (msixMask fn v) = 0 ∧ t.fld (pbaBit fn v) = 0 ∧ t.raised = s.raised ∧
      t.sent = (if s.fld (pbaBit fn v) = 1 then
        .msix fn v (s.word (msixWord fn v 0)) (BitVec.ofNat 32 (s.word (msixWord fn v 1)).toNat) :: s.sent else s.sent))

/-- R538 to R545, Tables 11.13, 11.15: the models of the Herbarium. -/
def Obligations.Herbarium : Prop :=
  let may (s : State) (fn : Nat) : Prop :=
    fn < 49 ∧ s.ready = true ∧ s.vfLive fn = true ∧ s.fld (herbCmd fn 31 31) = 0 ∧ s.herbOwned fn = true
  let cmd (t : State) (fn op st go : Nat) : Prop :=
    t.fld (herbCmd fn 2 0) = op ∧ t.fld (herbCmd fn 27 24) = st ∧ t.fld (herbCmd fn 31 31) = go
  (∀ (s : State) (fn : Nat) (w : BitVec 10), fn < 49 → s.ready = true → s.vfLive fn = true → s.fld (herbCmd fn 31 31) = 0 →
    s.herbOwned fn = false →
    ∀ c ∈ [(Instr.herbRegister fn, 1), (.herbUnregister fn w, 2), (.herbPin fn w, 3), (.herbUnpin fn w, 4), (.herbPrefetch fn w, 5)],
      ∃ t, exec c.1 s = .next t ∧ cmd t fn c.2 5 0 ∧ t.models = s.models) ∧
  (∀ (s : State) (fn : Nat) (m : Model), may s fn → tabWf regReset s.regs = true →
    let d := s.staged fn 0x00300100 8
    (s.herbCheck (s.herbPart.getD 0) d).2 = some (.inl m) →
    ∃ t, exec (.herbRegister fn) s = .next t ∧ cmd t fn 1 0 0 ∧ t.model (rawLe d 2 2) = m ∧
      ∀ h, h ≠ rawLe d 2 2 → t.model h = s.model h) ∧
  (∀ (s : State) (fn st : Nat), may s fn → tabWf regReset s.regs = true → HomesFree s →
    (s.herbCheck (s.herbPart.getD 0) (s.staged fn 0x00300100 8)).2 = some (.inr st) → st < 16 →
    ∃ t, exec (.herbRegister fn) s = .next t ∧ cmd t fn 1 st 0 ∧ t.models = s.models ∧ ∀ p, (t.page p).pin = (s.page p).pin) ∧
  (∀ (s : State) (fn : Nat) (w : BitVec 10), may s fn → (s.model w.toNat).registered = true →
    if s.inUse w.toNat = true then ∃ t, exec (.herbUnregister fn w) s = .next t ∧ cmd t fn 2 3 0 ∧ t.models = s.models
    else ∃ t, exec (.herbUnregister fn w) s = .next t ∧ cmd t fn 2 0 0 ∧ t.model w.toNat = modelNone w.toNat ∧
      ∀ x ∈ t.prefetches, x.2 ≠ w.toNat) ∧
  (∀ (s : State) (fn : Nat) (w : BitVec 10), may s fn → (s.model w.toNat).registered = true →
    if s.herbPinRefused w.toNat (s.model w.toNat) = true then
      ∃ t, exec (.herbPin fn w) s = .next t ∧ cmd t fn 3 4 0 ∧ t.models = s.models
    else ∃ t, exec (.herbPin fn w) s = .next t ∧ cmd t fn 3 0 0 ∧ t.model w.toNat = { s.model w.toNat with pinned := true }) ∧
  (∀ (s : State) (fn : Nat) (w : BitVec 10), may s fn → (s.model w.toNat).registered = true →
    ∃ t, exec (.herbUnpin fn w) s = .next t ∧ cmd t fn 4 0 0 ∧ (t.model w.toNat).pinned = false ∧ (t.model w.toNat).registered = true) ∧
  (∀ (s : State) (fn : Nat) (w : BitVec 10), may s fn → (s.model w.toNat).registered = true →
    if (s.model w.toNat).resident = true then ∃ t, exec (.herbPrefetch fn w) s = .next t ∧ cmd t fn 5 0 0 ∧ t.prefetches = s.prefetches
    else ∃ t, exec (.herbPrefetch fn w) s = .next t ∧ cmd t fn 5 0 1 ∧ t.prefetches = s.prefetches ++ [(fn, w.toNat)] ∧
      (s.herbFits (s.model w.toNat) = true → (t.model w.toNat).filling = true)) ∧
  (∀ (s : State) (h p : Nat), h < 1024 → (s.model h).filling = true → (s.model h).refill = false → s.rotating = false →
    s.herbPart = some p → (s.part p).st = .ready → (s.model h).registered = true → HomesFree s →
    ∃ t, exec (.herbFillDone h) s = .next t ∧ (t.model h).resident = true ∧ (t.model h).filling = false ∧
      (∀ g < 48, (s.part p).groups / 2 ^ g % 2 = 1 → ∀ i < 32, h ∈ (t.tile (32 * g + i)).store) ∧
      (∀ x ∈ t.prefetches, x.2 ≠ h) ∧
      ∀ qn id c, (s.queue qn).cmd? id = some c → c.work = .model h → ∃ c' k, (t.queue qn).cmd? id = some c' ∧ c'.work = .kernel k)

/-- R555 to R562, Tables 12.9 to 12.11: what the mailbox does to key slots. -/
def Obligations.KeySlots : Prop :=
  let may (s : State) : Prop := s.answers = true ∧ s.fld (mbCmd 31 31) = 0
  let free (s : State) (n : Nat) : Prop := s.slotBusy n = false ∧ (s.keySlot n).st ≠ 2
  let put (s : State) (n type key : Nat) : KeySlot :=
    { st := 1, type := type, key := key, usersSeen := (s.keySlot n).usersSeen, installs := ((s.keySlot n).installs + 1) % 65536 }
  let ends (c : Instr) (s : State) (P : State → Prop) : Prop := ∃ t : State, exec c s = .next t.settleAll ∧ (∀ i < 8, t.word (0x00900140 + 8 * i) = 0) ∧ P t
  let done (t : State) (st : Nat) : Prop := t.fld (mbStat 7 0) = st ∧ t.fld (mbCmd 31 31) = 0
  let text (s : State) : Nat := ((List.range 8).map fun i => (s.word (0x00900140 + 8 * i)).toNat * 2 ^ (64 * i)).foldl (· + ·) 0
  (∀ (s : State) (c : MbCmd), may s → free s c.slot.toNat → c.type.toNat = 1 ∨ c.type.toNat = 2 →
    ends (.mbGenerate c) s fun t => done t 0 ∧ t.keySlot c.slot.toNat = put s c.slot.toNat c.type.toNat (keyOf c.type.toNat (Config.free s.freeCtr))) ∧
  (∀ (s : State) (c : MbCmd), may s → free s c.slot.toNat → c.type.toNat = 1 ∨ c.type.toNat = 2 → s.fld tcNoPlain = 0 →
    (c.type.toNat = 2 → text s < 2 ^ 256) →
    ends (.mbSetPlain c) s fun t => done t 0 ∧ t.keySlot c.slot.toNat = put s c.slot.toNat c.type.toNat (text s)) ∧
  (∀ (s : State) (c : MbCmd), may s → s.fld tcNoPlain = 1 → (s.keySlot c.slot.toNat).st ≠ 2 → ends (.mbSetPlain c) s fun t => done t 0x0B ∧ t.keys = s.keys) ∧
  (∀ (s : State) (c : MbCmd), may s → (c.type.toNat = 0 ∨ c.type.toNat = 3) → (s.keySlot c.slot.toNat).st ≠ 2 →
    ends (.mbGenerate c) s fun t => done t 0x0B ∧ t.keys = s.keys) ∧
  (∀ (s : State) (c : MbCmd), may s → s.slotBusy c.slot.toNat = true → c.force = false → (s.keySlot c.slot.toNat).st = 1 →
    c.type.toNat = (s.keySlot c.slot.toNat).type → (c.type.toNat = 1 ∨ c.type.toNat = 2) →
    (ends (.mbGenerate c) s fun t => done t 0x0E ∧ t.keys = s.keys) ∧ ends (.mbErase c) s fun t => done t 0x0E ∧ t.keys = s.keys) ∧
  (∀ (s : State) (c : MbCmd), may s → s.slotBusy c.slot.toNat = true → c.force = true → (s.keySlot c.slot.toNat).st = 1 →
    c.type.toNat = (s.keySlot c.slot.toNat).type → (c.type.toNat = 1 ∨ c.type.toNat = 2) → s.lockedOn c.slot.toNat = [] →
    ends (.mbGenerate c) s fun t => t.fld (mbCmd 31 31) = 1 ∧ t.fld (mbStat 8 8) = 1 ∧
      t.keySlot c.slot.toNat = { s.keySlot c.slot.toNat with
        st := 2, next := keyOf c.type.toNat (Config.free s.freeCtr), viaMb := true, users := s.slotUsers c.slot.toNat }) ∧
  (∀ (s : State) (c : MbCmd), may s → s.slotBusy c.slot.toNat = false → (s.keySlot c.slot.toNat).viaMb = false →
    ends (.mbErase c) s fun t => done t 0 ∧
      t.keySlot c.slot.toNat = { usersSeen := (s.keySlot c.slot.toNat).usersSeen, installs := (s.keySlot c.slot.toNat).installs }) ∧
  (∀ (s : State) (c : MbCmd), may s → (s.keySlot c.slot.toNat).st ≠ 2 →
    ends (.mbQuery c) s fun t => done t 0 ∧
      t.keySlot c.slot.toNat = { s.keySlot c.slot.toNat with usersSeen := min 65535 (s.slotUsers c.slot.toNat).length }) ∧
  (∀ (s : State) (n : Nat), n < 128 → (s.keySlot n).st = 2 → (s.keySlot n).users = [] →
    ∃ t : State, exec (.keyRetireDone n) s = .next t.settleAll ∧ t.keySlot n = put s n (s.keySlot n).type (keyOf (s.keySlot n).type (s.keySlot n).next) ∧
      ((s.keySlot n).viaMb = true → done t 0 ∧ t.fld (mbStat 8 8) = 0))

/-- R552 to R554, Tables 12.1, 12.2: what the Trust Controller answers outside sessions, and the life of a session. -/
def Obligations.SpdmMessages : Prop :=
  let conn (s : State) (via : Transport) (n : Nat) : Prop := s.hears via = true ∧ n ≤ s.conn via
  (∀ (s : State) (via : Transport) (algs : SpdmAlgs) (i : Nat) (r : MeasReq), s.hears via = true →
    ∀ c ∈ [(Instr.getCapabilities via, 1), (.negotiateAlgorithms via algs, 2), (.getDigests via, 3), (.getCertificate via i, 3),
        (.spdmChallenge via i, 3), (.getMeasurements via r, 3), (.keyExchange via, 3)],
      s.conn via < c.2 → exec c.1 s = .next { s with sent := .spdm via (.error .unexpectedRequest) :: s.sent }) ∧
  (∀ (s : State) (via : Transport), s.hears via = true →
    ∃ t, exec (.getVersion via) s = .next t ∧ t.conn via = 1 ∧ Answers s t via (.version [0x12, 0x13]) ∧ t.trust.sessions = s.trust.sessions) ∧
  (∀ (s : State) (via : Transport), conn s via 1 →
    ∃ t, exec (.getCapabilities via) s = .next t ∧ t.conn via = max 2 (s.conn via) ∧ Answers s t via .capabilities) ∧
  (∀ (s : State) (via : Transport) (a : SpdmAlgs), conn s via 2 →
    let ok := a.p384 = true ∧ a.sha384 = true ∧ a.ecdhe384 = true ∧ a.aes256gcm = true
    ∃ t, exec (.negotiateAlgorithms via a) s = .next t ∧ (ok → t.conn via = 3 ∧ Answers s t via .algorithms) ∧
      (¬ ok → t.conn via = s.conn via ∧ Answers s t via (.error .unsupportedRequest))) ∧
  (∀ (s : State) (via : Transport), conn s via 3 →
    exec (.getDigests via) s = .next { s with sent := .spdm via (.digests (Config.sha384 s.chain)) :: s.sent }) ∧
  (∀ (s : State) (via : Transport) (i : Nat), conn s via 3 →
    exec (.getCertificate via i) s =
      .next { s with sent := .spdm via (if i = 0 then .certificate s.chain else .error .invalidRequest) :: s.sent }) ∧
  (∀ (s : State) (via : Transport), conn s via 3 →
    let n := Config.spdmNonce s.trust.nonceSeed s.trust.nonces % 2 ^ 256
    ∃ t, exec (.spdmChallenge via 0) s = .next t ∧ t.trust.nonces = s.trust.nonces + 1 ∧ t.trust.challenges = (n, s.now) :: s.trust.challenges ∧
      Answers s t via (.challengeAuth n)) ∧
  (∀ (s : State) (via : Transport) (r : MeasReq), conn s via 3 →
    let blocks (ks : List Nat) : SpdmRsp :=
      .measurements (ks.map fun k => (k, s.measure k)) (s.signed r (ks.map fun k => (k, s.measure k)))
    exec (.getMeasurements via r) s = .next { s with sent := .spdm via (
      if r.index = 0 then .count 10 (s.signed r [])
      else if r.index = 255 then blocks [1, 2, 3, 4, 5, 6, 7, 8, 9, 10]
      else if r.index ≤ 10 then blocks [r.index] else .error .invalidRequest) :: s.sent }) ∧
  (∀ (s : State) (r : MeasReq) (bs : List (Nat × Nat)), (s.signed r bs).isSome = r.signed) ∧
  (∀ (s : State) (via : Transport) (n : Nat), conn s via 3 → n < 8 → (∀ x ∈ s.trust.sessions, x.id ≠ n) →
    (∀ k < n, ∃ x ∈ s.trust.sessions, x.id = k) →
    ∃ t, exec (.keyExchange via) s = .next t ∧ t.trust.sessions = s.trust.sessions ++ [{ id := n, via := via }] ∧
      Answers s t via (.keyExchange n) ∧ t.fld tcSessions = (s.trust.sessions.length + 1) % 256) ∧
  (∀ (s : State) (n : Nat) (x : Sess) (a : SpdmAuth), InSession s n x → x.open_ = false →
    if a.ok = true then ∃ t, exec (.spdmFinish n a) s = .next t ∧ Answers s t x.via .finish ∧ t.trust.sessions.find? (·.id == n) =
        some { x with open_ := true, mutual_ := a.mutualAuth, root := a.rootHash.toNat }
    else ∃ t, exec (.spdmFinish n a) s = .next t ∧ Answers s t x.via (.error .decryptError) ∧ ∀ y ∈ t.trust.sessions, y.id ≠ n) ∧
  (∀ (s : State) (n : Nat) (x : Sess), InSession s n x → x.open_ = true →
    exec (.keyUpdate n) s = .next { s with sent := .spdm x.via .keyUpdateAck :: s.sent } ∧
    exec (.spdmHeartbeat n) s = .next { s with sent := .spdm x.via .heartbeatAck :: s.sent } ∧
    ∃ t, exec (.endSession n) s = .next t ∧ Answers s t x.via .endSessionAck ∧ ∀ y ∈ t.trust.sessions, y.id ≠ n)

/-- R546, R558, R573 to R581, R630, Tables 12.5, 12.12, 14.11: keys and TDIs through a session, the loss of a TDI, the unlock, and
firmware. -/
def Obligations.TrustAndFirmware : Prop :=
  let sess (s : State) (n : Nat) (x : Sess) : Prop := InSession s n x ∧ x.open_ = true
  (∀ (s : State) (n : Nat) (x : Sess) (slot : BitVec 7) (type : BitVec 2) (f : Bool) (key : BitVec 512), sess s n x →
    let ok := x.mutual_ = true ∧ s.authRoot ≠ 0 ∧ x.root = s.authRoot ∧ s.fld tcUnlocked = 0
    (¬ ok → exec (.kzKeySet n slot type f key) s = .next { s with sent := .spdm x.via (.error .unauthorized) :: s.sent }) ∧
    (ok → (type = 1 ∨ type = 2 ∧ key.toNat < 2 ^ 256) → s.slotBusy slot.toNat = false → (s.keySlot slot.toNat).st ≠ 2 →
      ∃ t : State, exec (.kzKeySet n slot type f key) s = .next t.settleAll ∧ Sent.spdm x.via (.vendor 0) ∈ t.sent ∧
        (t.keySlot slot.toNat).st = 1 ∧ (t.keySlot slot.toNat).type = type.toNat ∧ (t.keySlot slot.toNat).key = key.toNat)) ∧
  (∀ (s : State) (n : Nat) (x : Sess) (op : IdeKm), sess s n x → op.sub ≠ 3 → op.stream < 256 → s.trust.ide = [] → op.go = false →
    ∃ t, exec (.ideKm n op) s = .next t ∧ Answers s t x.via .ideAck ∧
      t.trust.ide = [{ stream := op.stream, kind := op.kind, tx := op.tx, sub := op.sub.toNat, kbit := op.kbit, key := op.key.toNat }]) ∧
  (∀ (s : State) (n : Nat) (x : Sess) (op : IdeKm) (k : IdeKey), sess s n x → op.sub ≠ 3 → op.stream < 256 → s.trust.ide = [k] →
    op.go = true → k.stream = op.stream → k.kind = op.kind → k.tx = op.tx → k.sub = op.sub.toNat → k.kbit = op.kbit →
    ∃ t, exec (.ideKm n op) s = .next t ∧ Answers s t x.via .ideAck ∧ t.trust.ide = [{ k with active := true }]) ∧
  (∀ (s : State) (stream : Nat), s.answers = true →
    ∃ t : State, exec (.ideIntegrityFail stream) s = .next t.settleAll ∧ (∀ k ∈ t.trust.ide, k.kind = .selective → k.stream ≠ stream) ∧
      ∀ p < 48, (s.tdi p).stream = stream → ((s.tdi p).st = 1 ∨ (s.tdi p).st = 2) → (t.tdi p).st = 3 ∧ (t.tdi p).err = 3) ∧
  (∀ (s : State) (n p stream : Nat) (x : Sess), sess s n x → p < 48 → s.lockRefused p stream = false → s.hosts = [] →
    ∃ t, exec (.lockInterface n p stream) s = .next t ∧ Sent.spdm x.via .tdispAck ∈ t.sent ∧ (t.tdi p).st = 1 ∧ (t.tdi p).stream = stream ∧
      (t.keySlot (s.part p).key).st = 1 ∧ (t.keySlot (s.part p).key).type = 1) ∧
  (∀ (s : State) (n p stream : Nat) (x : Sess), sess s n x → p < 48 → s.lockRefused p stream = true →
    exec (.lockInterface n p stream) s = .next { s with sent := .spdm x.via (.error .invalidRequest) :: s.sent }) ∧
  (∀ (s : State) (n p : Nat) (x : Sess), sess s n x → p < 48 → (s.tdi p).st = 1 →
    ∃ t : State, exec (.startInterface n p) s = .next t.settleAll ∧ Answers s t x.via .tdispAck ∧ t.tdi p = { s.tdi p with st := 2 }) ∧
  (∀ (s : State) (n p : Nat) (x : Sess), sess s n x → p < 48 → (s.tdi p).st ≠ 0 → (s.part p).st = .ready → s.rot = .idle →
    ∃ t : State, exec (.stopInterface n p) s = .next t.settleAll ∧ (t.part p).st = .resetting ∧ (t.part p).tdiStop = true ∧
      (t.part p).tdiSess = some n) ∧
  (∀ (s : State) (n p : Nat) (x : Sess), sess s n x → p < 48 → (s.tdi p).st ≠ 0 → (s.part p).st = .ready → s.rot ≠ .idle →
    exec (.stopInterface n p) s = .next (s.setPart p { s.part p with tdiStop := true, tdiSess := some n })) ∧
  (∀ (s : State) (n p : Nat) (x : Sess), sess s n x → p < 48 →
    exec (.getDeviceInterfaceReport n p) s = .next { s with sent := .spdm x.via (
      if (s.tdi p).st = 1 ∨ (s.tdi p).st = 2 then
        .report (s.part p).groups (s.part p).grant (s.part p).key 65536 (2 ^ 20) (s.bar4Of (p + 1))
      else .error .invalidRequest) :: s.sent }) ∧
  (∀ (s : State) (p : Nat) (w : BitVec 8), p < 48 → s.answers = true → 1 ≤ w.toNat → w.toNat ≤ 3 → ((s.tdi p).st = 1 ∨ (s.tdi p).st = 2) →
    ∃ t : State, exec (.tdiError p w) s = .next t.settleAll ∧ (t.tdi p).st = 3 ∧ (t.tdi p).err = w.toNat ∧
      (t.keySlot (s.part p).key).st = 0 ∧ ∀ c, (s.ctx c).st = .live → (s.ctx c).part = p → (t.ctx c).st = .lost) ∧
  (∀ (s : State) (via : Transport) (n : Option Nat) (r : UnlockReq), s.hears via = true → s.conn via = 3 →
    (r.serial ≠ Config.serial ∨ r.sigOk = false →
      ∃ t, exec (.kzUnlock via n r) s = .next t ∧ Answers s t via (.error .unauthorized) ∧ t.keys = s.keys ∧ t.fuses = s.fuses ∧ t.mem = s.mem) ∧
    ∀ at_, r.serial = Config.serial → r.sigOk = true → (r.challenge.toNat, at_) ∈ s.trust.challenges → s.now ≤ at_ + 60 * 10 ^ 12 →
      (∀ x ∈ s.parts, x.2.st = .free) → s.fuses.unlocks < 255 →
      ∃ t, exec (.kzUnlock via n r) s = .next t ∧ Answers s t via (.vendor 0) ∧ t.keys = [] ∧ t.trust.ide = [] ∧ t.trust.memKey = 0 ∧
        t.fuses.unlocks = s.fuses.unlocks + 1 ∧ t.fld tcUnlocked = 1 ∧ t.fld tcUnlocks = s.fuses.unlocks + 1 ∧
        t.trust.m3 = extend s.trust.m3 t.policy) ∧
  (∀ (s : State) (c : Nat) (i : Image), c ∈ [2, 4, 5, 6, 7] → s.hears .i3c = true →
    ∃ t, exec (.firmwareUpdate c i) s = .next t ∧ Answers s t .i3c (.pldm true) ∧ (t.fwOf c).run = (s.fwOf c).run ∧
      (if (s.fwOf c).runB = true then (t.fwOf c).a = i ∧ (t.fwOf c).b = (s.fwOf c).b else (t.fwOf c).b = i ∧ (t.fwOf c).a = (s.fwOf c).a)) ∧
  (∀ (s : State) (c : Nat) (i : Image), c ∈ [2, 4, 5, 6, 7] → s.hears .i3c = true →
    i = (if (s.fwOf c).runB = true then (s.fwOf c).a else (s.fwOf c).b) →
    if s.accepts c i = false then
      exec (.activateFirmware c) s = .next { s with sent := .spdm .i3c (.pldm false) :: s.sent }
    else ∃ t, exec (.activateFirmware c) s = .next t ∧ Sent.spdm .i3c (.pldm true) ∈ t.sent ∧
      (t.fwOf c).bFirst = !(s.fwOf c).runB ∧
      (if c = 2 then (t.fwOf c).run = (s.fwOf c).run
       else (t.fwOf c).run = i ∧ t.trust.m10 = extend s.trust.m10 i.hash.toNat ∧ (c = 5 → t.pwr.holdTill = s.now + 5 * 10 ^ 7)))

/-- R585 to R601, R607, R613, Tables 13.2, 13.3, 13.6: samples and the cap loop, the lowest state, temperatures, and tile clocks. -/
def Obligations.PowerAndClocks : Prop :=
  let low (s : State) : Prop := s.fld pwrLowest = 1
  let entered (s t : State) (bit : Nat) : Prop := low t ∧ t.fld (pwrEvt bit) = 1 ∧ t.mem = s.mem ∧
    (¬ low s → t.fld pwrB = 224 ∧ ∀ f < 12, t.fld (tclkReg f 28 28) = 1 ∧ (t.clk f).mhz = 600)
  (∀ (s : State) (r : PowerSample), s.pwr.supply ≠ 0 →
    ∃ t, exec (.powerSample r) s = .next t ∧ s.pwr.sampleAt + 10 ^ 7 ≤ t.now ∧ t.pwr.sampleAt = t.now ∧ t.mem = s.mem ∧
      (∀ f < 12, t.fld (tclkReg f 47 40) = shown (t.frondTemp f) ∧
        t.fld (tclkReg f 39 32) = nextBt (s.fld (tclkReg f 39 32)) (t.frondTemp f / 8) (s.fld (pwrCtl 23 16))) ∧
      (∀ p l : Nat, r.pIn = some (p : Int) → r.pLoad = some (l : Int) → p ≤ 5000 → l ≤ 5000 → s.pwr.bad = false →
        s.pwr.holdTill ≤ t.now →
        t.fld (pwrStat 11 0) = min 4095 l ∧ t.fld (pwrStat 59 48) = min 4095 p ∧
        (¬ low s → t.fld pwrB = loopB (s.fld pwrB) p (s.fld (pwrCap 11 0)) (s.fld (pwrCtl 7 0)))) ∧
      (∀ p l : Int, r.pIn = some p → r.pLoad = some l → (p < 0 ∨ 5000 < p) → s.pwr.holdTill ≤ t.now →
        t.pwr.bad = true ∧ t.fld pwrB = max (s.fld pwrB) 128) ∧
      (t.now < s.pwr.holdTill → t.fld pwrB = s.fld pwrB)) ∧
  (∀ (s : State) (n : Nat), s.pwr.overSince = some n → s.pwr.capFail = false → n + 10 ^ 9 ≤ s.pwr.sampleAt →
    ∃ t, exec .capFail s = .next t ∧ entered s t 2 ∧ t.pwr.capFail = true) ∧
  (∀ (s : State) (ns : Nat), s.pwr.supply ≠ 0 → 100 ≤ ns → s.fld (pwrStat 20 20) = 0 →
    ∃ t, exec (.brakeAssert ns) s = .next t ∧ entered s t 0 ∧ t.fld (pwrStat 20 20) = 1) ∧
  (∀ (s : State) (ns : Nat) (w : W64), s.pwr.supply ≠ 0 → 200 ≤ ns → s.fld (pwrStat 21 21) = 0 →
    ∃ t, exec (.converterAlert ns w) s = .next t ∧ entered s t 1 ∧ t.fld (pwrStat 21 21) = 1) ∧
  (∀ (s : State) (ns : Nat), low s → s.fld (pwrStat 20 20) = 1 → 10000 ≤ ns →
    ∃ t, exec (.brakeRelease ns) s = .next t ∧ t.fld (pwrStat 20 20) = 0 ∧ t.fld pwrB = s.fld pwrB ∧
      (low t ↔ s.fld (pwrStat 21 21) = 1 ∨ s.pwr.capFail = true)) ∧
  (∀ (s : State) (ns : Nat), low s → s.fld (pwrStat 21 21) = 1 → 10 ^ 6 ≤ ns →
    ∃ t, exec (.alertRelease ns) s = .next t ∧ t.fld (pwrStat 21 21) = 0 ∧ t.fld pwrB = s.fld pwrB ∧
      (low t ↔ s.fld (pwrStat 20 20) = 1 ∨ s.pwr.capFail = true) ∧
      (¬ low t → ∀ f < 12, t.fld (tclkReg f 28 28) = (if f ∈ s.pwr.therm then 1 else 0))) ∧
  (∀ (s : State), s.pwr.supply ≠ 0 →
    ∃ t, exec (.sensorTimeout .power) s = .next t ∧ s.pwr.seen + 10 ^ 8 ≤ t.now ∧ t.pwr.bad = true ∧ t.fld pwrB = max (s.fld pwrB) 128 ∧
      (s.pwr.bad = false → t.fld (pwrEvt 4) = 1)) ∧
  (∀ (s : State), s.pwr.supply ≠ 0 →
    ∃ t, exec (.sensorTimeout .pmbus) s = .next t ∧ s.pwr.pmbusAt + 5 * 10 ^ 9 ≤ t.now ∧ t.pwr.bad = true ∧
      t.fld pwrB = max (s.fld pwrB) 128 ∧ (s.pwr.bad = false → t.fld (pwrEvt 4) = 1)) ∧
  (∀ (s : State) (f : Nat), f < 12 → s.pwr.supply ≠ 0 →
    ∃ t, exec (.sensorTimeout (.frond f)) s = .next t ∧
      (∀ i < 20, (s.reading (20 * f + i)).seen + 10 ^ 8 ≤ t.now → (t.reading (20 * f + i)).invalid = true) ∧
      ∃ i < 20, (t.reading (20 * f + i)).invalid = true) ∧
  (∀ (s : State) (f : Nat) (v : W64), f < 12 → s.answers = true →
    ∃ t, exec (.tclkSet f v) s = .next t ∧ t.fld (tclkReg f 10 0) = min 1800 (max 600 (v.toNat % 2048)) / 25 * 25 ∧ t.clks = s.clks) ∧
  (∀ (s : State) (f : Nat), f < 12 → s.up = true →
    ∃ t, exec (.tclkSwitch f) s = .next t ∧ (t.clk f).mhz = s.tclkGoal f ∧ t.cycle f = s.cycle f ∧ t.now = s.now ∧
      t.fld (tclkReg f 27 27) = (if s.followB f = 0 then 0 else 1)) ∧
  (∀ (s : State) (v : W32), s.answers = true →
    ∃ t, exec (.pwrCapWrite v) s = .next t ∧
      t.fld (pwrCap 11 0) = min (s.fld (pwrCap 27 16)) (max 2400 (v.toNat % 4096)) ∧ t.fld (pwrCap 27 16) = s.fld (pwrCap 27 16)) ∧
  (∀ (s : State) (r : Pmbus), s.pwr.supply ≠ 0 → 30000 ≤ r.vin → r.vin ≤ 70000 →
    ∃ t, exec (.pmbusPoll r) s = .next t ∧ t.pwr.pmbus = some r ∧ t.pwr.pmbusAt = s.now ∧ t.fld (pwrStat 47 32) = r.vin / 10)

/-- R546 to R549, R603, R614 to R620, R627, R634, R653, R659, Tables 14.1 to 14.3: from power to ready, and what resets and trips leave. -/
def Obligations.BootAndResets : Prop :=
  let stage (s : State) : Nat := s.fld bootStage
  let cold (s t : State) : Prop := stage t = 0 ∧ t.mem = [] ∧ t.queues = [] ∧ t.kernels = [] ∧ t.parts = [] ∧ t.ctxs = [] ∧ t.keys = [] ∧
    t.frames = [] ∧ t.host = s.host ∧ t.fuses = s.fuses ∧ t.svc = s.svc
  let booted (s t : State) (x : Straps) : Prop := stage t = 1 ∧ t.pwr.supply = 2 ∧ t.pwr.perst = false ∧ t.t0 = s.now ∧ t.mem = [] ∧
    t.fld bootCompat = b2n (majority x.compat) ∧ t.fld bootSlot = majoritySlot x.slot ∧
    t.hashKey = BitVec.ofNat 128 (Config.free s.freeCtr)
  (∀ (s : State) (mv : Nat) (w : BitVec 4), 40000 ≤ mv → mv ≤ 60000 → s.pwr.inRange = false → s.pwr.supply ≠ 3 →
    ∃ t, exec (.inputInRange mv w) s = .next t ∧ cold s t ∧ t.pwr.supply = 1 ∧ t.pwr.inRange = true ∧ t.pwr.perst = true ∧
      ∀ i < 4, t.fld (elsReg i 0 0) = b2n (w.getLsbD i)) ∧
  (∀ (s : State) (mv : Nat), mv < 36000 → s.pwr.supply ≠ 0 →
    ∃ t, exec (.inputBelowRange mv) s = .next t ∧ cold s t ∧ t.pwr.supply = 0 ∧ t.unsaved = {}) ∧
  (∀ (s : State) (mv : Nat), 36000 ≤ mv → mv < 40000 → (s.pwr.supply = 1 ∨ s.pwr.supply = 2) →
    ∃ t, exec (.inputBelowRange mv) s = .next t ∧ cold s t ∧ t.pwr.supply = 1 ∧ t.pwr.inRange = false) ∧
  (∀ (s : State), s.pwr.supply = 1 → s.pwr.inRange = true →
    ∃ t, exec .railsUp s = .next t ∧ (s.pwr.early = none → t.pwr = { s.pwr with supply := 2 } ∧ t.regs = s.regs) ∧
      ∀ x, s.pwr.early = some x → booted s t x) ∧
  (∀ (s : State) (x : Straps), s.pwr.perst = true →
    (s.pwr.supply = 2 → ∃ t, exec (.perstDeassert x) s = .next t ∧ booted s t x) ∧
    (s.pwr.supply = 1 ∨ s.pwr.supply = 3 →
      exec (.perstDeassert x) s = .next { s with pwr := { s.pwr with early := some x } })) ∧
  (∀ (s : State) (ns : Nat), s.pwr.supply ≠ 0 → 100000 ≤ ns → s.pwr.perst = false →
    ∃ t, exec (.perstAssert ns) s = .next t ∧ cold s t ∧ t.fld tcSvnCommit = s.fld tcSvnCommit ∧ t.pwr.supply = s.pwr.supply ∧ t.pwr.perst = true) ∧
  (∀ (s : State), s.up = true → stage s = 1 →
    let f := s.fwOf 2
    ∃ t, exec .trustStageDone s = .next t ∧
      stage t = (if s.accepts 2 f.a = true ∨ s.accepts 2 f.b = true then 2 else 6) ∧
      (s.accepts 2 (if f.bFirst = true then f.b else f.a) = true → (t.fwOf 2).run = (if f.bFirst = true then f.b else f.a))) ∧
  (∀ (s : State), s.up = true → stage s = 2 →
    ∃ t, exec .imagesStageDone s = .next t ∧
      stage t = (if [4, 5, 6, 7].all (fun c => s.accepts c (s.fwOf c).a || s.accepts c (s.fwOf c).b) = true then 3 else 6)) ∧
  (∀ (s : State) (r : SelfTest), s.up = true → stage s = 3 → (∀ t ∈ r.badTiles, t < 1536) →
    (∀ x ∈ r.badSpares, x.1 < 12 ∧ 128 ≤ x.2 ∧ x.2 < 136) → (∀ x ∈ r.badWays, x.1 < 512 ∧ x.2 < 16) → (∀ x ∈ r.badMissRegs, x.1 < 512) →
    (∀ x ∈ r.badSpines, x.1 < 4 ∧ x.2 < 16) →
    ∃ t, exec (.selftestStageDone r) s = .next t ∧
      stage t = (if r.badSlice = true ∨ r.badCore = true ∨ 2 < mostOf r.badWays ∨ 32 < mostOf r.badMissRegs then 7 else 4)) ∧
  (∀ (s : State) (r : MemTrain) (ms : Nat), s.up = true → stage s = 4 → (∀ c ∈ r.badFast, c < 512) → (∀ c ∈ r.badCap, c < 32) →
    ∃ t, exec (.memoryStageDone r ms) s = .next t ∧ stage t = 5 ∧ t.fld bootMs = ms % 65536 ∧ t.pages = []) ∧
  (∀ (s : State), s.up = true → ∃ t, exec .hostLinkTrained s = .next t ∧ t.silent = false ∧ t.mem = s.mem) ∧
  (∀ (s : State), s.ready = true → s.rot = .idle →
    ∃ t, exec .hotReset s = .next t ∧ t.vfs = 0 ∧ ∀ p < 48, (s.part p).st = .ready → (t.part p).st = .resetting ∧ (t.part p).byFn = true) ∧
  (∀ (s : State) (c : TripCause) (u n : Nat), u < tripUnits c → s.pwr.supply = 2 →
    s.pwr.hotSince.find? (fun x => x.1 == tripNo c && x.2.1 == u) = some (tripNo c, u, n) → n + 10 ^ 8 ≤ s.pwr.sampleAt →
    ∃ t, exec (.trip c u) s = .next t ∧ cold s t ∧ t.pwr.supply = 3 ∧ t.unsaved.trips = s.unsaved.trips ++ [(tripNo c, u)]) ∧
  (∀ (s : State), s.pwr.supply = 3 → s.pwr.inRange = true →
    exec .tripClear s = .next { s with pwr := { s.pwr with supply := 1 } })

/-- R366, R620 to R635, R660, R661, Tables 14.4 to 14.8: fatal errors, tile errors and spares, self-test, and the service record. -/
def Obligations.ErrorsAndService : Prop :=
  (∀ (s : State) (w : W64), s.up = true → s.fld bootStage ≠ 0 → s.fld bootStage ≠ 8 →
    ∃ t, exec (.fatalError w) s = .next t ∧ t.fld bootStage = 8 ∧ (∀ k, t.kernel k = kernelNone k) ∧
      t.unsaved.fatals = s.unsaved.fatals ++ [w] ∧ Sent.aerFatal ∈ t.sent ∧
      (∀ c, (s.ctx c).st = .live → (t.ctx c).st = .lost ∧ (t.ctx c).cause = 0x16 ∧ (t.ctx c).status = 8) ∧
      ((∀ q ∈ s.queues, q.2.cmds = []) → t.mem = s.mem)) ∧
  (∀ (s : State) (l : Nat), s.up = true →
    (exec (.stipeFlitReplay l true) s = .next { s with links := tabSet (fun _ => 0) s.links l 0 }) ∧
    (tabGet (fun _ => 0) s.links l + 1 < 32 →
      exec (.stipeFlitReplay l false) s = .next { s with links := tabSet (fun _ => 0) s.links l (tabGet (fun _ => 0) s.links l + 1) }) ∧
    (31 ≤ tabGet (fun _ => 0) s.links l → s.fld bootStage = 5 →
      ∃ t, exec (.stipeFlitReplay l false) s = .next t ∧ t.fld bootStage = 8)) ∧
  (∀ (s : State) (u : Nat) (y : BitVec 64), u < 1536 → s.up = true →
    (s.fld rasAuto = 0 ∨ s.fld rasCeThr = 0 ∨ tabGet (fun _ => 0) s.tileCe u + 1 ≤ s.fld rasCeThr) →
    ∃ t, exec (.tileErrorReport u (.corrected y)) s = .next t ∧ tabGet (fun _ => 0) t.tileCe u = tabGet (fun _ => 0) s.tileCe u + 1 ∧
      t.quarantined = s.quarantined ∧ t.tiles = s.tiles) ∧
  (∀ (s : State) (u : Nat) (e : TileErr), u < 1536 → s.up = true → (∀ y, e ≠ .corrected y) → (∀ x ∈ s.quarantined, x.1 ≠ u) →
    ∃ t, exec (.tileErrorReport u e) s = .next t ∧ (u, false) ∈ t.quarantined) ∧
  (∀ (s : State) (w : BitVec 11), s.answers = true → s.fld (spareCmd 31 31) = 0 → w.toNat < 1536 →
    (∀ x ∈ s.quarantined, x.1 ≠ w.toNat) → s.waitSpare (frondOf w.toNat) = [] → s.spares (frondOf w.toNat) ≠ [] → w.toNat ∉ s.noSpare →
    ∃ t, exec (.spareQuarantine w) s = .next t ∧ t.quarantined = s.quarantined ++ [(w.toNat, true)] ∧ t.fld (spareCmd 31 31) = 1 ∧
      t.fld (spareCmd 10 0) = w.toNat) ∧
  (∀ (s : State) (w : BitVec 11), s.answers = true → w.toNat < 1536 → (w.toNat, true) ∈ s.quarantined → w.toNat ∉ s.noSpare →
    (s.tile w.toNat).kernel ≠ none →
    ∃ t, exec (.spareCancel w) s = .next t ∧ (∀ x ∈ t.quarantined, x.1 ≠ w.toNat) ∧ t.fld (spareCmd 27 24) = 0 ∧
      t.fld (spareCmd 31 31) = 0 ∧ t.tmap = s.tmap) ∧
  (∀ (s : State) (w : BitVec 11), s.answers = true → w.toNat < 1536 → (w.toNat, true) ∈ s.quarantined → w.toNat ∉ s.noSpare →
    (s.tile w.toNat).kernel = none →
    ∃ t, exec (.spareCancel w) s = .next t ∧ t.quarantined = s.quarantined ∧ t.fld (spareCmd 27 24) = 4 ∧ t.tmap = s.tmap) ∧
  (∀ (s : State) (u : Nat), u < 1536 → s.ready = true → s.rot = .idle → (s.tile u).kernel = none → (∃ x ∈ s.quarantined, x.1 = u) →
    s.addressed u = false → u ∉ s.noSpare → s.spares (frondOf u) ≠ [] →
    ∃ t, exec (.tileSubstitute u) s = .next t ∧ (∀ x ∈ t.quarantined, x.1 ≠ u) ∧ physOf t u ∈ s.spares (frondOf u) ∧
      (frondOf u, physOf s u) ∈ t.failedPhys ∧ t.tile u = { store := (s.tile u).store }) ∧
  (∀ (s : State) (w : BitVec 9) (seed : W16), s.answers = true → s.fld (bistCmd 63 63) = 0 →
    ∀ c ∈ [(Instr.bistTileGroup w seed, 1), (.bistSpares w seed, 2), (.bistFastChannel w seed, 3), (.bistCapChannel w seed, 4),
        (.bistPort w seed, 5)],
      if bistUnits c.2 ≤ w.toNat then ∃ t, exec c.1 s = .next t ∧ t.fld (bistRes 3 0) = 3 ∧ t.bist = s.bist
      else if s.bistReady c.2 w.toNat = false then ∃ t, exec c.1 s = .next t ∧ t.fld (bistRes 3 0) = 2 ∧ t.bist = s.bist
      else ∃ t, exec c.1 s = .next t ∧ t.fld (bistCmd 63 63) = 1 ∧ t.bist = some (c.2, w.toNat, seed, s.now)) ∧
  (∀ (s : State) (r : BistResult) (kind u t0 : Nat) (seed : W16), s.bist = some (kind, u, seed, t0) →
    ∃ t, exec (.bistDone r) s = .next t ∧ t.bist = none ∧ t0 + r.ms.toNat * 10 ^ 9 ≤ t.now ∧ t.fld (bistCmd 63 63) = 0 ∧
      t.fld (bistRes 3 0) = (if r.sig = Config.bistSig kind seed then 0 else 1) ∧ t.word 0x00A00110 = r.sig ∧
      t.word 0x00A00118 = Config.bistSig kind seed) ∧
  (∀ (s : State), s.pwr.supply ≠ 0 →
    ∃ t, exec .serviceRecordWrite s = .next t ∧ t.unsaved = {} ∧ t.svc.tmap = s.tmap ∧ t.svc.retired = s.retired ∧
      t.svc.trips = s.svc.trips ++ s.unsaved.trips ∧ t.svc.fatals = s.svc.fatals ++ s.unsaved.fatals ∧ t.regs = s.regs) ∧
  (∀ (s : State), s.pwr.supply ≠ 0 → exec .svcRead s = .next { s with sent := .svcRecord s.svc :: s.sent }) ∧
  (∀ (s : State) (fast : Bool) (c : Nat) (x : Int), c < (if fast then 512 else 32) → s.ready = true → s.fld ⟨0x00A00020, 16, 16⟩ = 1 →
    ∃ t, exec (.channelRecal fast c x) s = .next t ∧ tabGet (fun _ => none) t.recals (if fast then c else 512 + c) = some (x, t.now) ∧
      s.now ≤ t.now ∧ t.mem = s.mem) ∧
  (∀ (s : State) (a : BitVec 7), s.pwr.supply ≠ 0 → exec (.i3cEntdaa a) s = .next { s with i3c := some a }) ∧
  (∀ (s : State), s.pwr.supply ≠ 0 →
    ∃ t, exec .i3cStallTimeout s = .next t ∧ t.word (0x00A00800 + 8 * 0x1D) = s.word (0x00A00800 + 8 * 0x1D) + 1 ∧ t.i3c = s.i3c) ∧
  (∀ (s : State) (w : W32), s.pwr.supply ≠ 0 →
    exec (.boundaryScanInstruction w) s = .next { s with tap := if s.fld bootStage = 0 ∨ 6 ≤ s.fld bootStage then some w else none })

/-- R22, R461, R576, R591, R608, R636 to R648, Table 15.9: writes of registers and doorbells by a function, and accesses through BAR4. -/
def Obligations.RegisterWritesAndBar4 : Prop :=
  let place (s : State) (fn : Nat) (a : Bar4) (n d : Nat) : Prop :=
    s.ready = true ∧ s.rotating = false ∧ fn < 49 ∧ fn ≤ s.vfs ∧ s.vfLive fn = true ∧ a.atomic = false ∧ 0 < n ∧
    a.offset % 65536 + n ≤ 65536 ∧ a.offset + n ≤ s.bar4Of fn ∧ s.bar4Byte fn a.offset = some d ∧ s.tdiAllows fn a (d / 65536) = true ∧
    HomesFree s
  (∀ (s : State) (v : W64), s.answers = true →
    exec (.registerWrite 0 0 0x00800000 4 v) s = exec (.pwrCapWrite (BitVec.ofNat 32 v.toNat)) s) ∧
  (∀ (s : State) (page : Nat) (v : W64), s.ready = true → page < 12288 →
    exec (.registerWrite 0 2 (4096 * page) 4 v) s = exec (.sqTail 0 page (BitVec.ofNat 32 v.toNat)) s) ∧
  (∀ (s : State) (v : W64), s.answers = true →
    (0x00900040 ∉ s.locks → ∃ t, exec (.registerWrite 0 0 0x00900040 8 v) s = .next t ∧ t.word 0x00900040 = v ∧ 0x00900040 ∈ t.locks) ∧
    (0x00900040 ∈ s.locks → exec (.registerWrite 0 0 0x00900040 8 v) s = .next s)) ∧
  (∀ (s : State) (v : W64), s.ready = true →
    ∃ t, exec (.registerWrite 0 0 0x00C00000 4 v) s = .next t ∧
      t.fld telEpochUs = min 1000000 (max 100 (v.toNat % 2 ^ 20)) ∧ t.pwr = s.pwr) ∧
  (∀ (s : State) (fn offset bytes : Nat) (v : W64), s.answers = true → fn < 49 → fn ≤ s.vfs → offset < barSize fn 0 →
    ¬ ((bytes = 4 ∨ bytes = 8) ∧ offset % bytes = 0) →
    ∃ t, exec (.registerWrite fn 0 offset bytes v) s = .next t ∧ t = s.rejectInput) ∧
  (∀ (s : State) (fn offset : Nat) (v : W64), s.answers = true → 0 < fn → fn < 49 → fn ≤ s.vfs → s.vfLive fn = true → offset % 8 = 0 →
    offset < 2 ^ 16 → vfOffset (fn - 1) offset = none → exec (.registerWrite fn 0 offset 8 v) s = .next s) ∧
  (∀ (s : State) (fn d : Nat) (a : Bar4), place s fn a a.size d → a.write = none → s.silent = false → s.rangeBad d a.size = false → s.releasedIn d a.size = false →
    ∃ t, exec (.bar4Access fn a) s = .next t ∧ t.sent = .bar4Data fn a.offset (memBytes s.mem d a.size) false :: s.sent ∧
      t.mem = s.mem ∧ t.host = s.host) ∧
  (∀ (s : State) (fn d : Nat) (a : Bar4), place s fn a a.size d → a.write = none → s.silent = true →
    exec (.bar4Access fn a) s = .next { s with sent := .bar4Data fn a.offset (List.replicate a.size 0) true :: s.sent }) ∧
  (∀ (s : State) (fn d : Nat) (a : Bar4) (bs : List Byte), place s fn a bs.length d → a.write = some bs → s.releasedIn d bs.length = false →
    ∃ t, exec (.bar4Access fn a) s = .next t ∧ Wrote s t ⟨false, d⟩ bs ∧ t.sent = s.sent) ∧
  (∀ (s : State) (fn n : Nat) (a : Bar4), s.ready = true → s.rotating = false → fn < 49 → fn ≤ s.vfs → a.atomic = true →
    n = (a.write.map (·.length)).getD a.size → 0 < n →
    exec (.bar4Access fn a) s = .next { s with sent := .unsupported fn a.offset :: s.sent })

/-- The block takes the command at the front of its queue and runs it on the rest; with no command it idles for one ACLK cycle (R603;
log 2). -/
def Obligations.StepRunsTheFrontCommand : Prop :=
  (∀ (c : Instr) (cs : List Instr) (s : State), s.pending = c :: cs → step s = exec c { s with pending := cs }) ∧
  (∀ (s : State), s.pending = [] → step s = .next { s with now := s.now + 5000 })

/-- What power-on leaves: the queue empty, the module off, no partition, context, queue, kernel or key, nothing cached, and the registers
at the values of the field maps (Tables 5.7, 5.9, 6.8, 7.7, 7.8, 7.12, 7.13, 8.7, 9.10, 9.12, 9.15, 10.2, 13.2, 13.3, 13.6, 13.7). -/
def Obligations.ResetState : Prop :=
  let s := State.reset
  s.pending = [] ∧ s.mem = [] ∧ s.frames = [] ∧ s.pwr.supply = 0 ∧ s.pwr.perst = true ∧ s.fld bootStage = 0 ∧ s.sent = [] ∧
  (∀ u, s.tile u = {}) ∧ (∀ q, (s.queue q).st = .empty) ∧ (∀ c, (s.ctx c).st = .free) ∧ (∀ p, (s.part p).st = .free) ∧
  (∀ k, (s.keySlot k).st = 0) ∧ (∀ k, s.kernel k = kernelNone k) ∧ (∀ f, s.cycle f = 0) ∧
  (∀ x ∈ [(0x00010000, 0x0200040406040604), (0x00400000, 0x10261), (0x00400008, 0x0000080000100040), (0x00400030, 0x1180C),
      (0x00500010, 0x0000FFFFFFFFFFFF), (0x00500200, 0x106C0), (0x00500300, 0x32), (0x00500400, 0x0F800401FF40),
      (0x00500410, 0x0F800401FF00), (0x005004F0, 0x0F800401BF00), (0x00600010, 0x00000400140C80C8), (0x00601000, 0x505),
      (0x00602010, 1), (0x00800000, 0xE100E10), (0x00800008, 0x64001C), (0x00800100, 0x6400640), (0x00C00000, 0x3E8)],
    s.word x.1 = BitVec.ofNat 64 x.2) ∧
  ∀ p < 48, s.fld (quotaOf p) = 0xFFFFFF ∧ s.epochOf p = 0 ∧ s.encOf p = true

/-- The invariant of Safety holds at power-on: memories and registers are in canonical form. -/
def Obligations.ResetMeetsInvariant : Prop := State.reset.Inv

/-- Every step keeps the invariant, from every state that meets it. -/
def Obligations.InvariantKept : Prop := ∀ s t : State, s.Inv → step s = .next t → t.Inv

/-- A command whose operands name what the module has completes in every state; no command is refused (log 1). -/
def Obligations.EveryCommandCompletes : Prop :=
  (∀ (i : Instr) (s : State), i.wf = true → s.hasPages i = true → ∃ t, exec i s = .next t) ∧
  (∀ (i : Instr) (s : State) (r : Refusal), exec i s ≠ .refused r)

/-- No command touches the queue of commands or takes back what has left the module; time, the count of free values and the identifiers
only go up. -/
def Obligations.OutputsAndTimeOnlyGrow : Prop :=
  ∀ (i : Instr) (s t : State), exec i s = .next t →
    t.pending = s.pending ∧ s.now ≤ t.now ∧ s.freeCtr ≤ t.freeCtr ∧ s.fresh ≤ t.fresh ∧ ∃ l, t.sent = l ++ s.sent

/-- R555 to R561, R577: a key slot takes a key, or loses one, only by the mailbox, a session, the failure or end of a TDI (a write of a
locked configuration among its causes), an unlock, or a reset that clears the whole module. -/
def Obligations.KeysChangeOnlyByTheTrustController : Prop :=
  let mayKey : Instr → Bool
    | .negCommit _ | .mbGenerate _ | .mbSetPlain _ | .mbErase _ | .keyRetireDone _ | .kzKeySet .. | .lockInterface .. | .kzUnlock .. | .tdiError ..
    | .ideIntegrityFail _ | .prtResetDrainEnd _ | .registerWrite .. | .inputInRange .. | .inputBelowRange _ | .railsUp
    | .perstDeassert _ | .perstAssert _ | .trip .. => true
    | _ => false
  ∀ (i : Instr) (s t : State), exec i s = .next t → mayKey i = false → ∀ n,
    (t.keySlot n).st = (s.keySlot n).st ∧ (t.keySlot n).type = (s.keySlot n).type ∧ (t.keySlot n).key = (s.keySlot n).key ∧
      (t.keySlot n).next = (s.keySlot n).next

/-- What the commands of the supervisor, the power controller, the Trust Controller's messages and the sideband leave alone: memory and
its poison, tiles and their clauses, kernels, contexts, the cache and the host's copies. -/
def Obligations.ControlFrames : Prop :=
  ∀ (c : Instr) (s t : State) (n m : Nat) (v : W64) (w : W32) (via : Transport) (b : BitVec 9) (h : W16) (p : Pmbus)
    (r : MeasReq),
    c ∈ [.capFail, .brakeAssert n, .brakeRelease n, .converterAlert n v, .alertRelease n, .sensorTimeout .power, .tclkSet n v, .tclkSwitch n,
      .pwrCapWrite w, .pmbusPoll p, .tripClear, .getVersion via, .getCapabilities via, .getDigests via, .getCertificate via n,
      .spdmChallenge via n, .getMeasurements via r, .keyExchange via, .keyUpdate n, .spdmHeartbeat n, .endSession n,
      .getDeviceInterfaceReport n m, .bistSpares b h, .bistFastChannel b h, .bistCapChannel b h, .bistPort b h, .serviceRecordWrite,
      .svcRead, .i3cStallTimeout, .boundaryScanInstruction w, .msixSend n m, .msixUnmask n m, .sqTail n m w, .dlogEnable n v, .dlogRound n,
      .dlogHeadWrite n w, .evlogHeadWrite n m w] →
    exec c s = .next t →
    t.mem = s.mem ∧ t.host = s.host ∧ t.poison = s.poison ∧ t.tiles = s.tiles ∧ t.kernels = s.kernels ∧ t.ctxs = s.ctxs ∧
      t.frames = s.frames ∧ t.hosts = s.hosts ∧ t.keys = s.keys ∧ t.xfers = s.xfers
end

