-- ==== Sys2Proof/Laws/Bits.lean ====
section
/-! SUPPORT. The laws of bit fields: a field written reads back, modulo its width, and every bit outside it is as it was. -/

namespace Sys2Proof

theorem bitsOf_testBit (w hi lo i : Nat) : (bitsOf w hi lo).testBit i = (decide (i < hi + 1 - lo) && w.testBit (i + lo)) := by
  simp [bitsOf, Nat.testBit_mod_two_pow, Nat.testBit_div_two_pow]

theorem bitsOf_lt (w hi lo : Nat) : bitsOf w hi lo < 2 ^ (hi + 1 - lo) := Nat.mod_lt _ (Nat.two_pow_pos _)

/-- A number after a write of a field: what stands above it, the field, what stands below it. -/
theorem bitsPut_eq (w hi lo v : Nat) :
    bitsPut w hi lo v = 2 ^ lo * (2 ^ (hi + 1 - lo) * (w / 2 ^ lo / 2 ^ (hi + 1 - lo)) + v % 2 ^ (hi + 1 - lo)) + w % 2 ^ lo := by
  unfold bitsPut bitsOf
  have h2 := Nat.div_add_mod (w / 2 ^ lo) (2 ^ (hi + 1 - lo))
  have h1 := Nat.div_add_mod w (2 ^ lo)
  have e : w = 2 ^ lo * (2 ^ (hi + 1 - lo) * (w / 2 ^ lo / 2 ^ (hi + 1 - lo))) + 2 ^ lo * (w / 2 ^ lo % 2 ^ (hi + 1 - lo)) + w % 2 ^ lo := by
    rw [← Nat.mul_add, h2, h1]
  rw [Nat.mul_add, Nat.mul_comm (w / 2 ^ lo % _) (2 ^ lo), Nat.mul_comm (v % _) (2 ^ lo)]
  omega

theorem bitsPut_testBit (w hi lo v i : Nat) : (bitsPut w hi lo v).testBit i =
    if lo ≤ i ∧ i ≤ hi then v.testBit (i - lo) else w.testBit i := by
  rw [bitsPut_eq, Nat.testBit_two_pow_mul_add _ (Nat.mod_lt _ (Nat.two_pow_pos _)), Nat.testBit_two_pow_mul_add _ (Nat.mod_lt _ (Nat.two_pow_pos _))]
  simp only [Nat.testBit_mod_two_pow, Nat.testBit_div_two_pow]
  by_cases h1 : i < lo
  · rw [if_pos h1, if_neg (by omega)]; simp [h1]
  · rw [if_neg h1]
    by_cases h2 : i - lo < hi + 1 - lo
    · rw [if_pos h2, if_pos (by omega)]; simp [h2]
    · rw [if_neg h2, if_neg (by omega)]
      congr 1; omega

/-- A field written reads back, modulo its width. -/
theorem bitsOf_put (w hi lo v : Nat) : bitsOf (bitsPut w hi lo v) hi lo = v % 2 ^ (hi + 1 - lo) := by
  apply Nat.eq_of_testBit_eq
  intro i
  rw [bitsOf_testBit, bitsPut_testBit, Nat.testBit_mod_two_pow]
  by_cases h : i < hi + 1 - lo
  · rw [if_pos (by omega), show i + lo - lo = i by omega]
  · simp [h]

/-- A field that shares no bit with the one written reads as before. -/
theorem bitsOf_put_of_disjoint (w v : Nat) {hi lo hj lj : Nat} (h : hj < lo ∨ hi < lj) : bitsOf (bitsPut w hi lo v) hj lj = bitsOf w hj lj := by
  apply Nat.eq_of_testBit_eq
  intro i
  rw [bitsOf_testBit, bitsOf_testBit, bitsPut_testBit]
  by_cases hi' : i < hj + 1 - lj
  · rw [if_neg (by omega)]
  · simp [hi']

theorem bitsPut_lt {w hi lo : Nat} (v n : Nat) (hw : w < 2 ^ n) (h : hi < n) : bitsPut w hi lo v < 2 ^ n := by
  apply Nat.lt_pow_two_of_testBit
  intro i hi'
  rw [bitsPut_testBit, if_neg (by omega)]
  exact Nat.testBit_lt_two_pow (Nat.lt_of_lt_of_le hw (Nat.pow_le_pow_right (by omega) hi'))

end Sys2Proof
end

