-- ==== Sys2Proof/Laws/Tab.lean ====
section
/-! SUPPORT. The laws of sparse tables: a read after a write, a write leaves every other key alone, and every operation on a
table in canonical form leaves it so. The same laws for memories, byte by byte. -/

namespace Sys2Proof.Machine

variable {α : Type}

@[simp] theorem tabGet_nil (d : Nat → α) (k : Nat) : tabGet d [] k = d k := rfl

theorem tabGet_cons (d : Nat → α) (j : Nat) (v : α) (t : Tab α) (k : Nat) :
    tabGet d ((j, v) :: t) k = if k < j then d k else if k = j then v else tabGet d t k := rfl

theorem tabGet_one (d : Nat → α) (j : Nat) (v : α) (k : Nat) : tabGet d [(j, v)] k = if k = j then v else d k := by
  simp only [tabGet]
  split
  · rw [if_neg (by omega)]
  · rfl

theorem tabGet_one_of_ne (d : Nat → α) {j k : Nat} (v : α) (h : k ≠ j) : tabGet d [(j, v)] k = d k := by
  rw [tabGet_one, if_neg h]

/-- What `tabSkip k` leaves reads as unlisted up to `k`, and as before above it. -/
theorem tabGet_skip (d : Nat → α) (k : Nat) (t : Tab α) (j : Nat) : tabGet d (tabSkip k t) j = if j ≤ k then d j else tabGet d t j := by
  induction t with
  | nil => simp [tabSkip]
  | cons e t ih =>
    obtain ⟨i, w⟩ := e
    simp only [tabSkip]
    by_cases hi : i ≤ k
    · rw [if_pos hi, ih]
      split
      · rfl
      · simp only [tabGet, if_neg (show ¬ j < i by omega), if_neg (show ¬ j = i by omega)]
    · rw [if_neg hi]
      by_cases hj : j ≤ k
      · rw [if_pos hj]; simp only [tabGet, if_pos (show j < i by omega)]
      · rw [if_neg hj]

/-! ### Canonical form -/

variable [DecidableEq α]

theorem tabWfFrom_mono {d : Nat → α} {lo lo' : Nat} {t : Tab α} (h : tabWfFrom d lo t = true) (hl : lo' ≤ lo) :
    tabWfFrom d lo' t = true := by
  cases t with
  | nil => rfl
  | cons e t =>
    simp only [tabWfFrom, Bool.and_eq_true, decide_eq_true_eq] at h ⊢
    exact ⟨⟨by omega, h.1.2⟩, h.2⟩

/-- Below its first key, a table in canonical form reads as unlisted. -/
theorem tabGet_below {d : Nat → α} {lo k : Nat} {t : Tab α} (h : tabWfFrom d lo t = true) (hk : k < lo) : tabGet d t k = d k := by
  cases t with
  | nil => rfl
  | cons e t =>
    simp only [tabWfFrom, Bool.and_eq_true, decide_eq_true_eq] at h
    simp only [tabGet, if_pos (show k < e.1 by omega)]

theorem tabSkip_of_wf {d : Nat → α} {k : Nat} {t : Tab α} (h : tabWfFrom d (k + 1) t = true) : tabSkip k t = t := by
  cases t with
  | nil => rfl
  | cons e t =>
    simp only [tabWfFrom, Bool.and_eq_true, decide_eq_true_eq] at h
    simp only [tabSkip, if_neg (show ¬ e.1 ≤ k by omega)]

/-- A write keeps the canonical form. -/
theorem tabSet_wf {d : Nat → α} {lo k : Nat} {t : Tab α} (v : α) (h : tabWfFrom d lo t = true) (hk : lo ≤ k) :
    tabWfFrom d lo (tabSet d t k v) = true := by
  induction t generalizing lo with
  | nil =>
    simp only [tabSet]
    split
    · rfl
    · simp [tabWfFrom, *]
  | cons e t ih =>
    simp only [tabWfFrom, Bool.and_eq_true, decide_eq_true_eq] at h
    obtain ⟨⟨h1, h2⟩, h3⟩ := h
    simp only [tabSet]
    split
    · split
      · simp [tabWfFrom, *]
      · simp only [tabWfFrom, Bool.and_eq_true, decide_eq_true_eq]
        exact ⟨⟨hk, ‹_›⟩, ⟨by omega, h2⟩, h3⟩
    · split
      · subst k
        split
        · rw [tabSkip_of_wf h3]
          exact tabWfFrom_mono h3 (by omega)
        · simp [tabWfFrom, *]
      · simp only [tabWfFrom, Bool.and_eq_true, decide_eq_true_eq]
        exact ⟨⟨h1, h2⟩, ih h3 (by omega)⟩

/-- A read after a write gives the value written at its key, and every other key reads as before: of any table. -/
theorem tabGet_set (d : Nat → α) (t : Tab α) (k : Nat) (v : α) (j : Nat) :
    tabGet d (tabSet d t k v) j = if j = k then v else tabGet d t j := by
  induction t with
  | nil =>
    simp only [tabSet]
    split
    · simp only [tabGet]; split <;> simp_all
    · rw [tabGet_one]; rfl
  | cons e t ih =>
    obtain ⟨i, w⟩ := e
    simp only [tabSet]
    by_cases h1 : k < i
    · rw [if_pos h1]
      by_cases hv : v = d k
      · rw [if_pos hv]
        by_cases hj : j = k
        · subst j; rw [if_pos rfl, hv]; simp only [tabGet, if_pos h1]
        · rw [if_neg hj]
      · rw [if_neg hv]
        by_cases hj : j = k
        · subst j; simp [tabGet]
        · simp only [tabGet, if_neg hj]
          by_cases hlt : j < k
          · rw [if_pos hlt, if_pos (show j < i by omega)]
          · rw [if_neg hlt]
    · rw [if_neg h1]
      by_cases h2 : k = i
      · subst i
        rw [if_pos rfl]
        by_cases hv : v = d k
        · rw [if_pos hv, tabGet_skip]
          by_cases hj : j = k
          · subst j; rw [if_pos (Nat.le_refl _), if_pos rfl, hv]
          · rw [if_neg hj]
            simp only [tabGet, if_neg hj]
            by_cases hlt : j < k
            · rw [if_pos (show j ≤ k by omega), if_pos hlt]
            · rw [if_neg (show ¬ j ≤ k by omega), if_neg hlt]
        · rw [if_neg hv]
          by_cases hj : j = k
          · subst j; simp [tabGet]
          · simp only [tabGet, if_neg hj]
      · rw [if_neg h2]
        simp only [tabGet, ih]
        by_cases hj : j = k
        · subst j; rw [if_neg h1, if_neg h2, if_pos rfl, if_pos rfl]
        · simp [hj]

@[simp] theorem tabWf_nil (d : Nat → α) : tabWf d [] = true := rfl

theorem tabWf_set {d : Nat → α} {t : Tab α} (k : Nat) (v : α) (h : tabWf d t = true) : tabWf d (tabSet d t k v) = true :=
  tabSet_wf v h (Nat.zero_le k)

/-- Two tables in canonical form that read alike are equal. -/
theorem tab_ext {d : Nat → α} {lo : Nat} {t u : Tab α} (ht : tabWfFrom d lo t = true) (hu : tabWfFrom d lo u = true)
    (h : ∀ k, tabGet d t k = tabGet d u k) : t = u := by
  induction t generalizing lo u with
  | nil =>
    cases u with
    | nil => rfl
    | cons e u =>
      simp only [tabWfFrom, Bool.and_eq_true, decide_eq_true_eq] at hu
      have := h e.1
      simp only [tabGet, Nat.lt_irrefl, if_false, if_true] at this
      exact absurd this.symm hu.1.2
  | cons e t ih =>
    obtain ⟨i, v⟩ := e
    have ht' := ht
    simp only [tabWfFrom, Bool.and_eq_true, decide_eq_true_eq] at ht
    cases u with
    | nil =>
      have := h i
      simp only [tabGet, Nat.lt_irrefl, if_false, if_true] at this
      exact absurd this ht.1.2
    | cons f u =>
      obtain ⟨j, w⟩ := f
      have hu' := hu
      simp only [tabWfFrom, Bool.and_eq_true, decide_eq_true_eq] at hu
      have hij : i = j := by
        rcases Nat.lt_trichotomy i j with hlt | heq | hgt
        · have := h i
          simp only [tabGet, Nat.lt_irrefl, if_false, if_true, if_pos hlt] at this
          exact absurd this ht.1.2
        · exact heq
        · have := h j
          simp only [tabGet, Nat.lt_irrefl, if_false, if_true, if_pos hgt] at this
          exact absurd this.symm hu.1.2
      subst j
      have hvw : v = w := by
        have := h i
        simpa only [tabGet, Nat.lt_irrefl, if_false, if_true] using this
      subst w
      rw [ih ht.2 hu.2]
      intro k
      by_cases hk : k < i + 1
      · rw [tabGet_below ht.2 hk, tabGet_below hu.2 hk]
      · have := h k
        simpa only [tabGet, if_neg (show ¬ k < i by omega), if_neg (show ¬ k = i by omega)] using this

theorem tabPut_wf {d : Nat → α} {t : Tab α} {k : Nat} (vs : List α) (h : tabWf d t = true) : tabWf d (tabPut d t k vs) = true := by
  induction vs generalizing t k with
  | nil => exact h
  | cons v vs ih => exact ih (tabWf_set k v h)

/-- Outside the keys written, a table reads as before. -/
theorem tabGet_put_of_lt {d : Nat → α} {t : Tab α} {k j : Nat} (vs : List α) (hj : j < k ∨ k + vs.length ≤ j) :
    tabGet d (tabPut d t k vs) j = tabGet d t j := by
  induction vs generalizing t k with
  | nil => rfl
  | cons v vs ih =>
    simp only [List.length_cons] at hj
    rw [tabPut, ih (by omega), tabGet_set, if_neg (by omega)]

/-- A key that was written reads as the value written there. -/
theorem tabGet_put {d : Nat → α} {t : Tab α} {k i : Nat} (vs : List α) (hi : i < vs.length) :
    tabGet d (tabPut d t k vs) (k + i) = vs[i] := by
  induction vs generalizing t k i with
  | nil => simp at hi
  | cons v vs ih =>
    cases i with
    | zero => rw [tabPut, tabGet_put_of_lt vs (by omega), tabGet_set]; simp
    | succ i =>
      simp only [List.length_cons] at hi
      have := ih (t := tabSet d t k v) (k := k + 1) (i := i) (by omega)
      simpa [tabPut, Nat.add_assoc, Nat.add_comm 1 i] using this

/-- A filter of a table keeps the canonical form. -/
theorem tabWfFrom_filter {d : Nat → α} {lo : Nat} {t : Tab α} (p : Nat × α → Bool) (h : tabWfFrom d lo t = true) :
    tabWfFrom d lo (t.filter p) = true := by
  induction t generalizing lo with
  | nil => rfl
  | cons e t ih =>
    simp only [tabWfFrom, Bool.and_eq_true, decide_eq_true_eq] at h
    rw [List.filter_cons]
    split
    · simp only [tabWfFrom, Bool.and_eq_true, decide_eq_true_eq]
      exact ⟨h.1, ih h.2⟩
    · exact tabWfFrom_mono (ih h.2) (by omega)

theorem tabWf_filter {d : Nat → α} {t : Tab α} (p : Nat × α → Bool) (h : tabWf d t = true) : tabWf d (t.filter p) = true :=
  tabWfFrom_filter p h

/-- A table read after a filter: of a table in canonical form, an entry kept reads as before, and every other key as unlisted. -/
theorem tabGet_filter {d : Nat → α} {lo : Nat} {t : Tab α} (p : Nat × α → Bool) (h : tabWfFrom d lo t = true) (k : Nat) :
    tabGet d (t.filter p) k = if p (k, tabGet d t k) then tabGet d t k else d k := by
  induction t generalizing lo with
  | nil => rw [List.filter_nil, tabGet_nil]; split <;> rfl
  | cons e t ih =>
    obtain ⟨i, w⟩ := e
    simp only [tabWfFrom, Bool.and_eq_true, decide_eq_true_eq] at h
    have hb := tabWfFrom_filter p h.2
    rw [List.filter_cons]
    by_cases hk : k < i
    · rw [tabGet_cons, if_pos hk, ite_self]
      split
      · rw [tabGet_cons, if_pos hk]
      · exact tabGet_below hb (by omega)
    · by_cases hi : k = i
      · subst i
        rw [tabGet_cons, if_neg hk, if_pos rfl]
        split
        · rw [tabGet_cons, if_neg hk, if_pos rfl]
        · exact tabGet_below hb (by omega)
      · rw [tabGet_cons, if_neg hk, if_neg hi]
        split
        · rw [tabGet_cons, if_neg hk, if_neg hi, ih h.2]
        · exact ih h.2

theorem tabWfFrom_map {d : Nat → α} {lo : Nat} {t : Tab α} (f : Nat → α → α) (h : tabWfFrom d lo t = true) :
    tabWfFrom d lo (tabMap d f t) = true := by
  induction t generalizing lo with
  | nil => rfl
  | cons e t ih =>
    simp only [tabWfFrom, Bool.and_eq_true, decide_eq_true_eq] at h
    have ih := ih h.2
    simp only [tabMap, List.map_cons, List.filter_cons, decide_eq_true_eq] at ih ⊢
    split
    · simp only [tabWfFrom, Bool.and_eq_true, decide_eq_true_eq]
      exact ⟨⟨h.1.1, ‹_›⟩, ih⟩
    · exact tabWfFrom_mono ih (by omega)

theorem tabWf_map {d : Nat → α} {t : Tab α} (f : Nat → α → α) (h : tabWf d t = true) : tabWf d (tabMap d f t) = true := tabWfFrom_map f h

/-- A change of every entry that leaves unlisted values alone changes what every key reads as. -/
theorem tabGet_map {d : Nat → α} {lo : Nat} {t : Tab α} (f : Nat → α → α) (hf : ∀ k, f k (d k) = d k) (h : tabWfFrom d lo t = true) (k : Nat) :
    tabGet d (tabMap d f t) k = f k (tabGet d t k) := by
  induction t generalizing lo with
  | nil => simp [tabMap, hf]
  | cons e t ih =>
    obtain ⟨i, w⟩ := e
    simp only [tabWfFrom, Bool.and_eq_true, decide_eq_true_eq] at h
    have hb := tabWfFrom_map f h.2
    have ih := ih h.2
    simp only [tabMap, List.map_cons, List.filter_cons, decide_eq_true_eq] at ih hb ⊢
    by_cases hk : k < i
    · rw [tabGet_cons, if_pos hk, hf]
      split
      · rw [tabGet_cons, if_pos hk]
      · exact tabGet_below hb (by omega)
    · by_cases hi : k = i
      · subst i
        rw [tabGet_cons, if_neg hk, if_pos rfl]
        by_cases hz : f k w = d k
        · rw [if_neg (by simpa using hz), hz]
          exact tabGet_below hb (by omega)
        · rw [if_pos (by simpa using hz), tabGet_cons, if_neg hk, if_pos rfl]
      · rw [tabGet_cons, if_neg hk, if_neg hi]
        split
        · rw [tabGet_cons, if_neg hk, if_neg hi]; exact ih
        · exact ih

/-! ### Memories -/

@[simp] theorem memByte_nil (a : Nat) : memByte [] a = 0 := rfl

theorem memWf_setByte {m : Mem} (a : Nat) (b : Byte) (h : memWf m = true) : memWf (memSetByte m a b) = true := tabWf_set a b h

theorem memWf_put {m : Mem} (a : Nat) (bs : List Byte) (h : memWf m = true) : memWf (memPut m a bs) = true := tabPut_wf bs h

theorem memWf_putLe {m : Mem} (a n v : Nat) (h : memWf m = true) : memWf (memPutLe m a n v) = true := memWf_put a _ h

theorem memByte_setByte (m : Mem) (a : Nat) (b : Byte) (x : Nat) :
    memByte (memSetByte m a b) x = if x = a then b else memByte m x := tabGet_set memDef m a b x

/-- A write leaves every byte outside it alone. -/
theorem memByte_put_of_outside {m : Mem} {a x : Nat} (bs : List Byte) (hx : x < a ∨ a + bs.length ≤ x) :
    memByte (memPut m a bs) x = memByte m x := tabGet_put_of_lt bs hx

/-- A byte that was written reads as written. -/
theorem memByte_put {m : Mem} {a i : Nat} (bs : List Byte) (hi : i < bs.length) :
    memByte (memPut m a bs) (a + i) = bs[i] := tabGet_put bs hi

/-- What has been written reads back. -/
theorem memBytes_put (m : Mem) (a : Nat) (bs : List Byte) : memBytes (memPut m a bs) a bs.length = bs := by
  apply List.ext_getElem
  · simp [memBytes, tabRange]
  · intro i h1 h2
    have := memByte_put (m := m) (a := a) bs h2
    simpa [memBytes, tabRange, memByte] using this

@[simp] theorem memBytes_length (m : Mem) (a n : Nat) : (memBytes m a n).length = n := by simp [memBytes, tabRange]

@[simp] theorem leBytes_length (n v : Nat) : (leBytes n v).length = n := by
  induction n generalizing v with
  | zero => rfl
  | succ n ih => simp [leBytes, ih]

/-- The bytes of a number spell it, modulo their width. -/
theorem leNat_leBytes (n v : Nat) : leNat (leBytes n v) = v % 256 ^ n := by
  induction n generalizing v with
  | zero => simp [leBytes, leNat, Nat.mod_one]
  | succ n ih =>
    simp only [leBytes, leNat, ih, BitVec.toNat_ofNat]
    rw [show 256 ^ (n + 1) = 256 * 256 ^ n from Nat.pow_succ', Nat.mod_mul]

/-- Equal memories are equal data. -/
theorem mem_ext {m n : Mem} (hm : memWf m = true) (hn : memWf n = true) (h : ∀ a, memByte m a = memByte n a) : m = n := tab_ext hm hn h

end Sys2Proof.Machine
end

