-- ==== Sys2Proof/Laws/State.lean ====
section
/-! SUPPORT. What each update of the state leaves alone, field by field and accessor by accessor; and what it writes, read back. -/

namespace Sys2Proof.Machine

variable (s : State)

@[simp] theorem State.reach_frame (ps : Nat) :
    (s.reach ps).pending = s.pending ∧ (s.reach ps).freeCtr = s.freeCtr ∧ (s.reach ps).fresh = s.fresh ∧ (s.reach ps).t0 = s.t0 ∧
    (s.reach ps).clks = s.clks ∧ (s.reach ps).regs = s.regs ∧ (s.reach ps).tiles = s.tiles ∧ (s.reach ps).kernels = s.kernels ∧
    (s.reach ps).ctxs = s.ctxs ∧ (s.reach ps).parts = s.parts ∧ (s.reach ps).xcache = s.xcache ∧ (s.reach ps).pageReqs = s.pageReqs ∧
    (s.reach ps).invs = s.invs ∧ (s.reach ps).mem = s.mem ∧ (s.reach ps).poison = s.poison ∧ (s.reach ps).host = s.host ∧
    (s.reach ps).hostAtomics = s.hostAtomics ∧ (s.reach ps).rot = s.rot ∧ (s.reach ps).rotAt = s.rotAt ∧ (s.reach ps).raised = s.raised ∧
    (s.reach ps).sent = s.sent ∧ (s.reach ps).reqs = s.reqs ∧ (s.reach ps).rsps = s.rsps ∧ (s.reach ps).hostReqs = s.hostReqs ∧
    (s.reach ps).frames = s.frames ∧ (s.reach ps).misses = s.misses ∧ (s.reach ps).hosts = s.hosts ∧ (s.reach ps).hostUse = s.hostUse ∧
    (s.reach ps).hostTick = s.hostTick ∧ (s.reach ps).silent = s.silent ∧ (s.reach ps).plru = s.plru ∧ (s.reach ps).watches = s.watches ∧
    (s.reach ps).queues = s.queues ∧ (s.reach ps).events = s.events ∧ (s.reach ps).ports = s.ports ∧ (s.reach ps).els = s.els ∧
    (s.reach ps).xfers = s.xfers ∧ (s.reach ps).cohorts = s.cohorts ∧ (s.reach ps).paces = s.paces ∧ (s.reach ps).inbox = s.inbox ∧
    (s.reach ps).outbox = s.outbox ∧ (s.reach ps).waysOff = s.waysOff ∧ (s.reach ps).missOff = s.missOff ∧ (s.reach ps).bad = s.bad ∧
    (s.reach ps).pageCount = s.pageCount ∧ (s.reach ps).pages = s.pages ∧ (s.reach ps).freed = s.freed ∧ (s.reach ps).taken = s.taken ∧
    (s.reach ps).retired = s.retired ∧ (s.reach ps).retiring = s.retiring ∧ (s.reach ps).fastCh = s.fastCh ∧ (s.reach ps).capCh = s.capCh ∧
    (s.reach ps).rebuilding = s.rebuilding ∧ (s.reach ps).mapFrames = s.mapFrames ∧ (s.reach ps).moves = s.moves ∧
    (s.reach ps).todo = s.todo ∧ (s.reach ps).plan = s.plan ∧ (s.reach ps).policyStarts = s.policyStarts ∧
    (s.reach ps).otherStarts = s.otherStarts ∧ (s.reach ps).sampled = s.sampled ∧ (s.reach ps).cells = s.cells ∧
    (s.reach ps).lastCells = s.lastCells ∧ (s.reach ps).badRows = s.badRows ∧ (s.reach ps).repairs = s.repairs ∧
    (s.reach ps).stackTemps = s.stackTemps ∧ (s.reach ps).capTemps = s.capTemps ∧ (s.reach ps).models = s.models ∧
    (s.reach ps).herbTick = s.herbTick ∧ (s.reach ps).prefetches = s.prefetches ∧ (s.reach ps).hot = s.hot ∧
    (s.reach ps).hotSeen = s.hotSeen ∧ (s.reach ps).epoch = s.epoch ∧ (s.reach ps).epochStart = s.epochStart ∧
    (s.reach ps).quarantined = s.quarantined ∧ (s.reach ps).noSpare = s.noSpare ∧ (s.reach ps).spent = s.spent ∧ (s.reach ps).occ = s.occ ∧
    (s.reach ps).tileCe = s.tileCe ∧ (s.reach ps).keys = s.keys ∧ (s.reach ps).stalled = s.stalled ∧ (s.reach ps).hashKey = s.hashKey ∧
    (s.reach ps).rotCycles = s.rotCycles ∧ (s.reach ps).vfs = s.vfs ∧ (s.reach ps).bar4 = s.bar4 ∧ (s.reach ps).flrs = s.flrs ∧
    (s.reach ps).tdis = s.tdis ∧ (s.reach ps).pwr = s.pwr ∧ (s.reach ps).trust = s.trust ∧ (s.reach ps).fuses = s.fuses ∧
    (s.reach ps).fw = s.fw ∧ (s.reach ps).svc = s.svc ∧ (s.reach ps).tmap = s.tmap ∧ (s.reach ps).failedPhys = s.failedPhys ∧
    (s.reach ps).unsaved = s.unsaved ∧ (s.reach ps).bist = s.bist ∧ (s.reach ps).recals = s.recals ∧ (s.reach ps).links = s.links ∧
    (s.reach ps).i3c = s.i3c ∧ (s.reach ps).tap = s.tap ∧ (s.reach ps).locks = s.locks ∧ (∀ i, (s.reach ps).tile i = s.tile i) ∧
    (∀ at_, (s.reach ps).clause at_ = s.clause at_) ∧ (∀ i, (s.reach ps).kernel i = s.kernel i) ∧ (∀ i, (s.reach ps).ctx i = s.ctx i) ∧
    (∀ q, (s.reach ps).part q = s.part q) ∧ (∀ i, (s.reach ps).word i = s.word i) ∧ (∀ fl, (s.reach ps).fld fl = s.fld fl) ∧
    (∀ i, (s.reach ps).frame i = s.frame i) ∧ (∀ i, (s.reach ps).miss i = s.miss i) ∧ (∀ i, (s.reach ps).hostOf i = s.hostOf i) ∧
    (∀ i, (s.reach ps).page i = s.page i) ∧ (∀ i, (s.reach ps).queue i = s.queue i) ∧ (∀ i, (s.reach ps).model i = s.model i) ∧
    (∀ i, (s.reach ps).port i = s.port i) ∧ (∀ i, (s.reach ps).cohort i = s.cohort i) ∧ (∀ y, (s.reach ps).xfer y = s.xfer y) ∧
    (∀ i, (s.reach ps).keySlot i = s.keySlot i) ∧ (∀ i, (s.reach ps).tdi i = s.tdi i) ∧ (∀ i, (s.reach ps).clk i = s.clk i) ∧
    (s.reach ps).ready = s.ready ∧ (s.reach ps).answers = s.answers ∧ (s.reach ps).rotating = s.rotating ∧
    (∀ c va ac, (s.reach ps).locate c va ac = s.locate c va ac) :=
  ⟨rfl, rfl, rfl, rfl, rfl, rfl, rfl, rfl, rfl, rfl, rfl, rfl, rfl, rfl, rfl, rfl, rfl, rfl, rfl, rfl, rfl, rfl, rfl, rfl, rfl, rfl, rfl,
    rfl, rfl, rfl, rfl, rfl, rfl, rfl, rfl, rfl, rfl, rfl, rfl, rfl, rfl, rfl, rfl, rfl, rfl, rfl, rfl, rfl, rfl, rfl, rfl, rfl, rfl, rfl,
    rfl, rfl, rfl, rfl, rfl, rfl, rfl, rfl, rfl, rfl, rfl, rfl, rfl, rfl, rfl, rfl, rfl, rfl, rfl, rfl, rfl, rfl, rfl, rfl, rfl, rfl, rfl,
    rfl, rfl, rfl, rfl, rfl, rfl, rfl, rfl, rfl, rfl, rfl, rfl, rfl, rfl, rfl, rfl, rfl, rfl, rfl, fun _ => rfl, fun _ => rfl,
    fun _ => rfl, fun _ => rfl, fun _ => rfl, fun _ => rfl, fun _ => rfl, fun _ => rfl, fun _ => rfl, fun _ => rfl, fun _ => rfl,
    fun _ => rfl, fun _ => rfl, fun _ => rfl, fun _ => rfl, fun _ => rfl, fun _ => rfl, fun _ => rfl, fun _ => rfl, rfl, rfl, rfl,
    fun _ _ _ => rfl⟩

@[simp] theorem State.setWord_frame (j : Nat) (v : W64) :
    (s.setWord j v).pending = s.pending ∧ (s.setWord j v).freeCtr = s.freeCtr ∧ (s.setWord j v).fresh = s.fresh ∧
    (s.setWord j v).now = s.now ∧ (s.setWord j v).t0 = s.t0 ∧ (s.setWord j v).clks = s.clks ∧ (s.setWord j v).tiles = s.tiles ∧
    (s.setWord j v).kernels = s.kernels ∧ (s.setWord j v).ctxs = s.ctxs ∧ (s.setWord j v).parts = s.parts ∧
    (s.setWord j v).xcache = s.xcache ∧ (s.setWord j v).pageReqs = s.pageReqs ∧ (s.setWord j v).invs = s.invs ∧ (s.setWord j v).mem = s.mem ∧
    (s.setWord j v).poison = s.poison ∧ (s.setWord j v).host = s.host ∧ (s.setWord j v).hostAtomics = s.hostAtomics ∧
    (s.setWord j v).rot = s.rot ∧ (s.setWord j v).rotAt = s.rotAt ∧ (s.setWord j v).raised = s.raised ∧ (s.setWord j v).sent = s.sent ∧
    (s.setWord j v).reqs = s.reqs ∧ (s.setWord j v).rsps = s.rsps ∧ (s.setWord j v).hostReqs = s.hostReqs ∧
    (s.setWord j v).frames = s.frames ∧ (s.setWord j v).misses = s.misses ∧ (s.setWord j v).hosts = s.hosts ∧
    (s.setWord j v).hostUse = s.hostUse ∧ (s.setWord j v).hostTick = s.hostTick ∧ (s.setWord j v).silent = s.silent ∧
    (s.setWord j v).plru = s.plru ∧ (s.setWord j v).watches = s.watches ∧ (s.setWord j v).queues = s.queues ∧
    (s.setWord j v).events = s.events ∧ (s.setWord j v).ports = s.ports ∧ (s.setWord j v).els = s.els ∧ (s.setWord j v).xfers = s.xfers ∧
    (s.setWord j v).cohorts = s.cohorts ∧ (s.setWord j v).paces = s.paces ∧ (s.setWord j v).inbox = s.inbox ∧
    (s.setWord j v).outbox = s.outbox ∧ (s.setWord j v).waysOff = s.waysOff ∧ (s.setWord j v).missOff = s.missOff ∧
    (s.setWord j v).bad = s.bad ∧ (s.setWord j v).pageCount = s.pageCount ∧ (s.setWord j v).pages = s.pages ∧
    (s.setWord j v).freed = s.freed ∧ (s.setWord j v).taken = s.taken ∧ (s.setWord j v).retired = s.retired ∧
    (s.setWord j v).retiring = s.retiring ∧ (s.setWord j v).fastCh = s.fastCh ∧ (s.setWord j v).capCh = s.capCh ∧
    (s.setWord j v).rebuilding = s.rebuilding ∧ (s.setWord j v).mapFrames = s.mapFrames ∧ (s.setWord j v).moves = s.moves ∧
    (s.setWord j v).todo = s.todo ∧ (s.setWord j v).plan = s.plan ∧ (s.setWord j v).policyStarts = s.policyStarts ∧
    (s.setWord j v).otherStarts = s.otherStarts ∧ (s.setWord j v).sampled = s.sampled ∧ (s.setWord j v).cells = s.cells ∧
    (s.setWord j v).lastCells = s.lastCells ∧ (s.setWord j v).badRows = s.badRows ∧ (s.setWord j v).repairs = s.repairs ∧
    (s.setWord j v).stackTemps = s.stackTemps ∧ (s.setWord j v).capTemps = s.capTemps ∧ (s.setWord j v).models = s.models ∧
    (s.setWord j v).herbTick = s.herbTick ∧ (s.setWord j v).prefetches = s.prefetches ∧ (s.setWord j v).hot = s.hot ∧
    (s.setWord j v).hotSeen = s.hotSeen ∧ (s.setWord j v).epoch = s.epoch ∧ (s.setWord j v).epochStart = s.epochStart ∧
    (s.setWord j v).quarantined = s.quarantined ∧ (s.setWord j v).noSpare = s.noSpare ∧ (s.setWord j v).spent = s.spent ∧
    (s.setWord j v).occ = s.occ ∧ (s.setWord j v).tileCe = s.tileCe ∧ (s.setWord j v).keys = s.keys ∧ (s.setWord j v).stalled = s.stalled ∧
    (s.setWord j v).hashKey = s.hashKey ∧ (s.setWord j v).rotCycles = s.rotCycles ∧ (s.setWord j v).vfs = s.vfs ∧
    (s.setWord j v).bar4 = s.bar4 ∧ (s.setWord j v).flrs = s.flrs ∧ (s.setWord j v).tdis = s.tdis ∧ (s.setWord j v).pwr = s.pwr ∧
    (s.setWord j v).trust = s.trust ∧ (s.setWord j v).fuses = s.fuses ∧ (s.setWord j v).fw = s.fw ∧ (s.setWord j v).svc = s.svc ∧
    (s.setWord j v).tmap = s.tmap ∧ (s.setWord j v).failedPhys = s.failedPhys ∧ (s.setWord j v).unsaved = s.unsaved ∧
    (s.setWord j v).bist = s.bist ∧ (s.setWord j v).recals = s.recals ∧ (s.setWord j v).links = s.links ∧ (s.setWord j v).i3c = s.i3c ∧
    (s.setWord j v).tap = s.tap ∧ (s.setWord j v).locks = s.locks ∧ (∀ i, (s.setWord j v).tile i = s.tile i) ∧
    (∀ at_, (s.setWord j v).clause at_ = s.clause at_) ∧ (∀ i, (s.setWord j v).kernel i = s.kernel i) ∧
    (∀ i, (s.setWord j v).ctx i = s.ctx i) ∧ (∀ q, (s.setWord j v).part q = s.part q) ∧ (∀ i, (s.setWord j v).frame i = s.frame i) ∧
    (∀ i, (s.setWord j v).miss i = s.miss i) ∧ (∀ i, (s.setWord j v).hostOf i = s.hostOf i) ∧ (∀ i, (s.setWord j v).page i = s.page i) ∧
    (∀ i, (s.setWord j v).queue i = s.queue i) ∧ (∀ i, (s.setWord j v).model i = s.model i) ∧ (∀ i, (s.setWord j v).port i = s.port i) ∧
    (∀ i, (s.setWord j v).cohort i = s.cohort i) ∧ (∀ y, (s.setWord j v).xfer y = s.xfer y) ∧ (∀ i, (s.setWord j v).keySlot i = s.keySlot i) ∧
    (∀ i, (s.setWord j v).tdi i = s.tdi i) ∧ (∀ i, (s.setWord j v).clk i = s.clk i) ∧ (∀ i, (s.setWord j v).cycle i = s.cycle i) ∧
    (s.setWord j v).rotating = s.rotating ∧ (∀ c va ac, (s.setWord j v).locate c va ac = s.locate c va ac) :=
  ⟨rfl, rfl, rfl, rfl, rfl, rfl, rfl, rfl, rfl, rfl, rfl, rfl, rfl, rfl, rfl, rfl, rfl, rfl, rfl, rfl, rfl, rfl, rfl, rfl, rfl, rfl, rfl,
    rfl, rfl, rfl, rfl, rfl, rfl, rfl, rfl, rfl, rfl, rfl, rfl, rfl, rfl, rfl, rfl, rfl, rfl, rfl, rfl, rfl, rfl, rfl, rfl, rfl, rfl, rfl,
    rfl, rfl, rfl, rfl, rfl, rfl, rfl, rfl, rfl, rfl, rfl, rfl, rfl, rfl, rfl, rfl, rfl, rfl, rfl, rfl, rfl, rfl, rfl, rfl, rfl, rfl, rfl,
    rfl, rfl, rfl, rfl, rfl, rfl, rfl, rfl, rfl, rfl, rfl, rfl, rfl, rfl, rfl, rfl, rfl, rfl, rfl, fun _ => rfl, fun _ => rfl,
    fun _ => rfl, fun _ => rfl, fun _ => rfl, fun _ => rfl, fun _ => rfl, fun _ => rfl, fun _ => rfl, fun _ => rfl, fun _ => rfl,
    fun _ => rfl, fun _ => rfl, fun _ => rfl, fun _ => rfl, fun _ => rfl, fun _ => rfl, fun _ => rfl, rfl, fun _ _ _ => rfl⟩

@[simp] theorem State.setFld_frame (g : Field) (v : Nat) :
    (s.setFld g v).pending = s.pending ∧ (s.setFld g v).freeCtr = s.freeCtr ∧ (s.setFld g v).fresh = s.fresh ∧ (s.setFld g v).now = s.now ∧
    (s.setFld g v).t0 = s.t0 ∧ (s.setFld g v).clks = s.clks ∧ (s.setFld g v).tiles = s.tiles ∧ (s.setFld g v).kernels = s.kernels ∧
    (s.setFld g v).ctxs = s.ctxs ∧ (s.setFld g v).parts = s.parts ∧ (s.setFld g v).xcache = s.xcache ∧ (s.setFld g v).pageReqs = s.pageReqs ∧
    (s.setFld g v).invs = s.invs ∧ (s.setFld g v).mem = s.mem ∧ (s.setFld g v).poison = s.poison ∧ (s.setFld g v).host = s.host ∧
    (s.setFld g v).hostAtomics = s.hostAtomics ∧ (s.setFld g v).rot = s.rot ∧ (s.setFld g v).rotAt = s.rotAt ∧
    (s.setFld g v).raised = s.raised ∧ (s.setFld g v).sent = s.sent ∧ (s.setFld g v).reqs = s.reqs ∧ (s.setFld g v).rsps = s.rsps ∧
    (s.setFld g v).hostReqs = s.hostReqs ∧ (s.setFld g v).frames = s.frames ∧ (s.setFld g v).misses = s.misses ∧
    (s.setFld g v).hosts = s.hosts ∧ (s.setFld g v).hostUse = s.hostUse ∧ (s.setFld g v).hostTick = s.hostTick ∧
    (s.setFld g v).silent = s.silent ∧ (s.setFld g v).plru = s.plru ∧ (s.setFld g v).watches = s.watches ∧ (s.setFld g v).queues = s.queues ∧
    (s.setFld g v).events = s.events ∧ (s.setFld g v).ports = s.ports ∧ (s.setFld g v).els = s.els ∧ (s.setFld g v).xfers = s.xfers ∧
    (s.setFld g v).cohorts = s.cohorts ∧ (s.setFld g v).paces = s.paces ∧ (s.setFld g v).inbox = s.inbox ∧ (s.setFld g v).outbox = s.outbox ∧
    (s.setFld g v).waysOff = s.waysOff ∧ (s.setFld g v).missOff = s.missOff ∧ (s.setFld g v).bad = s.bad ∧
    (s.setFld g v).pageCount = s.pageCount ∧ (s.setFld g v).pages = s.pages ∧ (s.setFld g v).freed = s.freed ∧
    (s.setFld g v).taken = s.taken ∧ (s.setFld g v).retired = s.retired ∧ (s.setFld g v).retiring = s.retiring ∧
    (s.setFld g v).fastCh = s.fastCh ∧ (s.setFld g v).capCh = s.capCh ∧ (s.setFld g v).rebuilding = s.rebuilding ∧
    (s.setFld g v).mapFrames = s.mapFrames ∧ (s.setFld g v).moves = s.moves ∧ (s.setFld g v).todo = s.todo ∧ (s.setFld g v).plan = s.plan ∧
    (s.setFld g v).policyStarts = s.policyStarts ∧ (s.setFld g v).otherStarts = s.otherStarts ∧ (s.setFld g v).sampled = s.sampled ∧
    (s.setFld g v).cells = s.cells ∧ (s.setFld g v).lastCells = s.lastCells ∧ (s.setFld g v).badRows = s.badRows ∧
    (s.setFld g v).repairs = s.repairs ∧ (s.setFld g v).stackTemps = s.stackTemps ∧ (s.setFld g v).capTemps = s.capTemps ∧
    (s.setFld g v).models = s.models ∧ (s.setFld g v).herbTick = s.herbTick ∧ (s.setFld g v).prefetches = s.prefetches ∧
    (s.setFld g v).hot = s.hot ∧ (s.setFld g v).hotSeen = s.hotSeen ∧ (s.setFld g v).epoch = s.epoch ∧
    (s.setFld g v).epochStart = s.epochStart ∧ (s.setFld g v).quarantined = s.quarantined ∧ (s.setFld g v).noSpare = s.noSpare ∧
    (s.setFld g v).spent = s.spent ∧ (s.setFld g v).occ = s.occ ∧ (s.setFld g v).tileCe = s.tileCe ∧ (s.setFld g v).keys = s.keys ∧
    (s.setFld g v).stalled = s.stalled ∧ (s.setFld g v).hashKey = s.hashKey ∧ (s.setFld g v).rotCycles = s.rotCycles ∧
    (s.setFld g v).vfs = s.vfs ∧ (s.setFld g v).bar4 = s.bar4 ∧ (s.setFld g v).flrs = s.flrs ∧ (s.setFld g v).tdis = s.tdis ∧
    (s.setFld g v).pwr = s.pwr ∧ (s.setFld g v).trust = s.trust ∧ (s.setFld g v).fuses = s.fuses ∧ (s.setFld g v).fw = s.fw ∧
    (s.setFld g v).svc = s.svc ∧ (s.setFld g v).tmap = s.tmap ∧ (s.setFld g v).failedPhys = s.failedPhys ∧
    (s.setFld g v).unsaved = s.unsaved ∧ (s.setFld g v).bist = s.bist ∧ (s.setFld g v).recals = s.recals ∧ (s.setFld g v).links = s.links ∧
    (s.setFld g v).i3c = s.i3c ∧ (s.setFld g v).tap = s.tap ∧ (s.setFld g v).locks = s.locks ∧ (∀ i, (s.setFld g v).tile i = s.tile i) ∧
    (∀ at_, (s.setFld g v).clause at_ = s.clause at_) ∧ (∀ i, (s.setFld g v).kernel i = s.kernel i) ∧ (∀ i, (s.setFld g v).ctx i = s.ctx i) ∧
    (∀ q, (s.setFld g v).part q = s.part q) ∧ (∀ i, (s.setFld g v).frame i = s.frame i) ∧ (∀ i, (s.setFld g v).miss i = s.miss i) ∧
    (∀ i, (s.setFld g v).hostOf i = s.hostOf i) ∧ (∀ i, (s.setFld g v).page i = s.page i) ∧ (∀ i, (s.setFld g v).queue i = s.queue i) ∧
    (∀ i, (s.setFld g v).model i = s.model i) ∧ (∀ i, (s.setFld g v).port i = s.port i) ∧ (∀ i, (s.setFld g v).cohort i = s.cohort i) ∧
    (∀ y, (s.setFld g v).xfer y = s.xfer y) ∧ (∀ i, (s.setFld g v).keySlot i = s.keySlot i) ∧ (∀ i, (s.setFld g v).tdi i = s.tdi i) ∧
    (∀ i, (s.setFld g v).clk i = s.clk i) ∧ (∀ i, (s.setFld g v).cycle i = s.cycle i) ∧ (s.setFld g v).rotating = s.rotating ∧
    (∀ c va ac, (s.setFld g v).locate c va ac = s.locate c va ac) :=
  ⟨rfl, rfl, rfl, rfl, rfl, rfl, rfl, rfl, rfl, rfl, rfl, rfl, rfl, rfl, rfl, rfl, rfl, rfl, rfl, rfl, rfl, rfl, rfl, rfl, rfl, rfl, rfl,
    rfl, rfl, rfl, rfl, rfl, rfl, rfl, rfl, rfl, rfl, rfl, rfl, rfl, rfl, rfl, rfl, rfl, rfl, rfl, rfl, rfl, rfl, rfl, rfl, rfl, rfl, rfl,
    rfl, rfl, rfl, rfl, rfl, rfl, rfl, rfl, rfl, rfl, rfl, rfl, rfl, rfl, rfl, rfl, rfl, rfl, rfl, rfl, rfl, rfl, rfl, rfl, rfl, rfl, rfl,
    rfl, rfl, rfl, rfl, rfl, rfl, rfl, rfl, rfl, rfl, rfl, rfl, rfl, rfl, rfl, rfl, rfl, rfl, rfl, fun _ => rfl, fun _ => rfl,
    fun _ => rfl, fun _ => rfl, fun _ => rfl, fun _ => rfl, fun _ => rfl, fun _ => rfl, fun _ => rfl, fun _ => rfl, fun _ => rfl,
    fun _ => rfl, fun _ => rfl, fun _ => rfl, fun _ => rfl, fun _ => rfl, fun _ => rfl, fun _ => rfl, rfl, fun _ _ _ => rfl⟩

@[simp] theorem State.bump_frame (j n : Nat) :
    (s.bump j n).pending = s.pending ∧ (s.bump j n).freeCtr = s.freeCtr ∧ (s.bump j n).fresh = s.fresh ∧ (s.bump j n).now = s.now ∧
    (s.bump j n).t0 = s.t0 ∧ (s.bump j n).clks = s.clks ∧ (s.bump j n).tiles = s.tiles ∧ (s.bump j n).kernels = s.kernels ∧
    (s.bump j n).ctxs = s.ctxs ∧ (s.bump j n).parts = s.parts ∧ (s.bump j n).xcache = s.xcache ∧ (s.bump j n).pageReqs = s.pageReqs ∧
    (s.bump j n).invs = s.invs ∧ (s.bump j n).mem = s.mem ∧ (s.bump j n).poison = s.poison ∧ (s.bump j n).host = s.host ∧
    (s.bump j n).hostAtomics = s.hostAtomics ∧ (s.bump j n).rot = s.rot ∧ (s.bump j n).rotAt = s.rotAt ∧ (s.bump j n).raised = s.raised ∧
    (s.bump j n).sent = s.sent ∧ (s.bump j n).reqs = s.reqs ∧ (s.bump j n).rsps = s.rsps ∧ (s.bump j n).hostReqs = s.hostReqs ∧
    (s.bump j n).frames = s.frames ∧ (s.bump j n).misses = s.misses ∧ (s.bump j n).hosts = s.hosts ∧ (s.bump j n).hostUse = s.hostUse ∧
    (s.bump j n).hostTick = s.hostTick ∧ (s.bump j n).silent = s.silent ∧ (s.bump j n).plru = s.plru ∧ (s.bump j n).watches = s.watches ∧
    (s.bump j n).queues = s.queues ∧ (s.bump j n).events = s.events ∧ (s.bump j n).ports = s.ports ∧ (s.bump j n).els = s.els ∧
    (s.bump j n).xfers = s.xfers ∧ (s.bump j n).cohorts = s.cohorts ∧ (s.bump j n).paces = s.paces ∧ (s.bump j n).inbox = s.inbox ∧
    (s.bump j n).outbox = s.outbox ∧ (s.bump j n).waysOff = s.waysOff ∧ (s.bump j n).missOff = s.missOff ∧ (s.bump j n).bad = s.bad ∧
    (s.bump j n).pageCount = s.pageCount ∧ (s.bump j n).pages = s.pages ∧ (s.bump j n).freed = s.freed ∧ (s.bump j n).taken = s.taken ∧
    (s.bump j n).retired = s.retired ∧ (s.bump j n).retiring = s.retiring ∧ (s.bump j n).fastCh = s.fastCh ∧ (s.bump j n).capCh = s.capCh ∧
    (s.bump j n).rebuilding = s.rebuilding ∧ (s.bump j n).mapFrames = s.mapFrames ∧ (s.bump j n).moves = s.moves ∧
    (s.bump j n).todo = s.todo ∧ (s.bump j n).plan = s.plan ∧ (s.bump j n).policyStarts = s.policyStarts ∧
    (s.bump j n).otherStarts = s.otherStarts ∧ (s.bump j n).sampled = s.sampled ∧ (s.bump j n).cells = s.cells ∧
    (s.bump j n).lastCells = s.lastCells ∧ (s.bump j n).badRows = s.badRows ∧ (s.bump j n).repairs = s.repairs ∧
    (s.bump j n).stackTemps = s.stackTemps ∧ (s.bump j n).capTemps = s.capTemps ∧ (s.bump j n).models = s.models ∧
    (s.bump j n).herbTick = s.herbTick ∧ (s.bump j n).prefetches = s.prefetches ∧ (s.bump j n).hot = s.hot ∧
    (s.bump j n).hotSeen = s.hotSeen ∧ (s.bump j n).epoch = s.epoch ∧ (s.bump j n).epochStart = s.epochStart ∧
    (s.bump j n).quarantined = s.quarantined ∧ (s.bump j n).noSpare = s.noSpare ∧ (s.bump j n).spent = s.spent ∧ (s.bump j n).occ = s.occ ∧
    (s.bump j n).tileCe = s.tileCe ∧ (s.bump j n).keys = s.keys ∧ (s.bump j n).stalled = s.stalled ∧ (s.bump j n).hashKey = s.hashKey ∧
    (s.bump j n).rotCycles = s.rotCycles ∧ (s.bump j n).vfs = s.vfs ∧ (s.bump j n).bar4 = s.bar4 ∧ (s.bump j n).flrs = s.flrs ∧
    (s.bump j n).tdis = s.tdis ∧ (s.bump j n).pwr = s.pwr ∧ (s.bump j n).trust = s.trust ∧ (s.bump j n).fuses = s.fuses ∧
    (s.bump j n).fw = s.fw ∧ (s.bump j n).svc = s.svc ∧ (s.bump j n).tmap = s.tmap ∧ (s.bump j n).failedPhys = s.failedPhys ∧
    (s.bump j n).unsaved = s.unsaved ∧ (s.bump j n).bist = s.bist ∧ (s.bump j n).recals = s.recals ∧ (s.bump j n).links = s.links ∧
    (s.bump j n).i3c = s.i3c ∧ (s.bump j n).tap = s.tap ∧ (s.bump j n).locks = s.locks ∧ (∀ i, (s.bump j n).tile i = s.tile i) ∧
    (∀ at_, (s.bump j n).clause at_ = s.clause at_) ∧ (∀ i, (s.bump j n).kernel i = s.kernel i) ∧ (∀ i, (s.bump j n).ctx i = s.ctx i) ∧
    (∀ q, (s.bump j n).part q = s.part q) ∧ (∀ i, (s.bump j n).frame i = s.frame i) ∧ (∀ i, (s.bump j n).miss i = s.miss i) ∧
    (∀ i, (s.bump j n).hostOf i = s.hostOf i) ∧ (∀ i, (s.bump j n).page i = s.page i) ∧ (∀ i, (s.bump j n).queue i = s.queue i) ∧
    (∀ i, (s.bump j n).model i = s.model i) ∧ (∀ i, (s.bump j n).port i = s.port i) ∧ (∀ i, (s.bump j n).cohort i = s.cohort i) ∧
    (∀ y, (s.bump j n).xfer y = s.xfer y) ∧ (∀ i, (s.bump j n).keySlot i = s.keySlot i) ∧ (∀ i, (s.bump j n).tdi i = s.tdi i) ∧
    (∀ i, (s.bump j n).clk i = s.clk i) ∧ (∀ i, (s.bump j n).cycle i = s.cycle i) ∧ (s.bump j n).rotating = s.rotating ∧
    (∀ c va ac, (s.bump j n).locate c va ac = s.locate c va ac) :=
  ⟨rfl, rfl, rfl, rfl, rfl, rfl, rfl, rfl, rfl, rfl, rfl, rfl, rfl, rfl, rfl, rfl, rfl, rfl, rfl, rfl, rfl, rfl, rfl, rfl, rfl, rfl, rfl,
    rfl, rfl, rfl, rfl, rfl, rfl, rfl, rfl, rfl, rfl, rfl, rfl, rfl, rfl, rfl, rfl, rfl, rfl, rfl, rfl, rfl, rfl, rfl, rfl, rfl, rfl, rfl,
    rfl, rfl, rfl, rfl, rfl, rfl, rfl, rfl, rfl, rfl, rfl, rfl, rfl, rfl, rfl, rfl, rfl, rfl, rfl, rfl, rfl, rfl, rfl, rfl, rfl, rfl, rfl,
    rfl, rfl, rfl, rfl, rfl, rfl, rfl, rfl, rfl, rfl, rfl, rfl, rfl, rfl, rfl, rfl, rfl, rfl, rfl, fun _ => rfl, fun _ => rfl,
    fun _ => rfl, fun _ => rfl, fun _ => rfl, fun _ => rfl, fun _ => rfl, fun _ => rfl, fun _ => rfl, fun _ => rfl, fun _ => rfl,
    fun _ => rfl, fun _ => rfl, fun _ => rfl, fun _ => rfl, fun _ => rfl, fun _ => rfl, fun _ => rfl, rfl, fun _ _ _ => rfl⟩

@[simp] theorem State.rasCount_frame (code n : Nat) :
    (s.rasCount code n).pending = s.pending ∧ (s.rasCount code n).freeCtr = s.freeCtr ∧ (s.rasCount code n).fresh = s.fresh ∧
    (s.rasCount code n).now = s.now ∧ (s.rasCount code n).t0 = s.t0 ∧ (s.rasCount code n).clks = s.clks ∧
    (s.rasCount code n).tiles = s.tiles ∧ (s.rasCount code n).kernels = s.kernels ∧ (s.rasCount code n).ctxs = s.ctxs ∧
    (s.rasCount code n).parts = s.parts ∧ (s.rasCount code n).xcache = s.xcache ∧ (s.rasCount code n).pageReqs = s.pageReqs ∧
    (s.rasCount code n).invs = s.invs ∧ (s.rasCount code n).mem = s.mem ∧ (s.rasCount code n).poison = s.poison ∧
    (s.rasCount code n).host = s.host ∧ (s.rasCount code n).hostAtomics = s.hostAtomics ∧ (s.rasCount code n).rot = s.rot ∧
    (s.rasCount code n).rotAt = s.rotAt ∧ (s.rasCount code n).raised = s.raised ∧ (s.rasCount code n).sent = s.sent ∧
    (s.rasCount code n).reqs = s.reqs ∧ (s.rasCount code n).rsps = s.rsps ∧ (s.rasCount code n).hostReqs = s.hostReqs ∧
    (s.rasCount code n).frames = s.frames ∧ (s.rasCount code n).misses = s.misses ∧ (s.rasCount code n).hosts = s.hosts ∧
    (s.rasCount code n).hostUse = s.hostUse ∧ (s.rasCount code n).hostTick = s.hostTick ∧ (s.rasCount code n).silent = s.silent ∧
    (s.rasCount code n).plru = s.plru ∧ (s.rasCount code n).watches = s.watches ∧ (s.rasCount code n).queues = s.queues ∧
    (s.rasCount code n).events = s.events ∧ (s.rasCount code n).ports = s.ports ∧ (s.rasCount code n).els = s.els ∧
    (s.rasCount code n).xfers = s.xfers ∧ (s.rasCount code n).cohorts = s.cohorts ∧ (s.rasCount code n).paces = s.paces ∧
    (s.rasCount code n).inbox = s.inbox ∧ (s.rasCount code n).outbox = s.outbox ∧ (s.rasCount code n).waysOff = s.waysOff ∧
    (s.rasCount code n).missOff = s.missOff ∧ (s.rasCount code n).bad = s.bad ∧ (s.rasCount code n).pageCount = s.pageCount ∧
    (s.rasCount code n).pages = s.pages ∧ (s.rasCount code n).freed = s.freed ∧ (s.rasCount code n).taken = s.taken ∧
    (s.rasCount code n).retired = s.retired ∧ (s.rasCount code n).retiring = s.retiring ∧ (s.rasCount code n).fastCh = s.fastCh ∧
    (s.rasCount code n).capCh = s.capCh ∧ (s.rasCount code n).rebuilding = s.rebuilding ∧ (s.rasCount code n).mapFrames = s.mapFrames ∧
    (s.rasCount code n).moves = s.moves ∧ (s.rasCount code n).todo = s.todo ∧ (s.rasCount code n).plan = s.plan ∧
    (s.rasCount code n).policyStarts = s.policyStarts ∧ (s.rasCount code n).otherStarts = s.otherStarts ∧
    (s.rasCount code n).sampled = s.sampled ∧ (s.rasCount code n).cells = s.cells ∧ (s.rasCount code n).lastCells = s.lastCells ∧
    (s.rasCount code n).badRows = s.badRows ∧ (s.rasCount code n).repairs = s.repairs ∧ (s.rasCount code n).stackTemps = s.stackTemps ∧
    (s.rasCount code n).capTemps = s.capTemps ∧ (s.rasCount code n).models = s.models ∧ (s.rasCount code n).herbTick = s.herbTick ∧
    (s.rasCount code n).prefetches = s.prefetches ∧ (s.rasCount code n).hot = s.hot ∧ (s.rasCount code n).hotSeen = s.hotSeen ∧
    (s.rasCount code n).epoch = s.epoch ∧ (s.rasCount code n).epochStart = s.epochStart ∧ (s.rasCount code n).quarantined = s.quarantined ∧
    (s.rasCount code n).noSpare = s.noSpare ∧ (s.rasCount code n).spent = s.spent ∧ (s.rasCount code n).occ = s.occ ∧
    (s.rasCount code n).tileCe = s.tileCe ∧ (s.rasCount code n).keys = s.keys ∧ (s.rasCount code n).stalled = s.stalled ∧
    (s.rasCount code n).hashKey = s.hashKey ∧ (s.rasCount code n).rotCycles = s.rotCycles ∧ (s.rasCount code n).vfs = s.vfs ∧
    (s.rasCount code n).bar4 = s.bar4 ∧ (s.rasCount code n).flrs = s.flrs ∧ (s.rasCount code n).tdis = s.tdis ∧
    (s.rasCount code n).pwr = s.pwr ∧ (s.rasCount code n).trust = s.trust ∧ (s.rasCount code n).fuses = s.fuses ∧
    (s.rasCount code n).fw = s.fw ∧ (s.rasCount code n).svc = s.svc ∧ (s.rasCount code n).tmap = s.tmap ∧
    (s.rasCount code n).failedPhys = s.failedPhys ∧ (s.rasCount code n).unsaved = s.unsaved ∧ (s.rasCount code n).bist = s.bist ∧
    (s.rasCount code n).recals = s.recals ∧ (s.rasCount code n).links = s.links ∧ (s.rasCount code n).i3c = s.i3c ∧
    (s.rasCount code n).tap = s.tap ∧ (s.rasCount code n).locks = s.locks ∧ (∀ i, (s.rasCount code n).tile i = s.tile i) ∧
    (∀ at_, (s.rasCount code n).clause at_ = s.clause at_) ∧ (∀ i, (s.rasCount code n).kernel i = s.kernel i) ∧
    (∀ i, (s.rasCount code n).ctx i = s.ctx i) ∧ (∀ q, (s.rasCount code n).part q = s.part q) ∧
    (∀ i, (s.rasCount code n).frame i = s.frame i) ∧ (∀ i, (s.rasCount code n).miss i = s.miss i) ∧
    (∀ i, (s.rasCount code n).hostOf i = s.hostOf i) ∧ (∀ i, (s.rasCount code n).page i = s.page i) ∧
    (∀ i, (s.rasCount code n).queue i = s.queue i) ∧ (∀ i, (s.rasCount code n).model i = s.model i) ∧
    (∀ i, (s.rasCount code n).port i = s.port i) ∧ (∀ i, (s.rasCount code n).cohort i = s.cohort i) ∧
    (∀ y, (s.rasCount code n).xfer y = s.xfer y) ∧ (∀ i, (s.rasCount code n).keySlot i = s.keySlot i) ∧
    (∀ i, (s.rasCount code n).tdi i = s.tdi i) ∧ (∀ i, (s.rasCount code n).clk i = s.clk i) ∧ (∀ i, (s.rasCount code n).cycle i = s.cycle i) ∧
    (s.rasCount code n).rotating = s.rotating ∧ (∀ c va ac, (s.rasCount code n).locate c va ac = s.locate c va ac) :=
  ⟨rfl, rfl, rfl, rfl, rfl, rfl, rfl, rfl, rfl, rfl, rfl, rfl, rfl, rfl, rfl, rfl, rfl, rfl, rfl, rfl, rfl, rfl, rfl, rfl, rfl, rfl, rfl,
    rfl, rfl, rfl, rfl, rfl, rfl, rfl, rfl, rfl, rfl, rfl, rfl, rfl, rfl, rfl, rfl, rfl, rfl, rfl, rfl, rfl, rfl, rfl, rfl, rfl, rfl, rfl,
    rfl, rfl, rfl, rfl, rfl, rfl, rfl, rfl, rfl, rfl, rfl, rfl, rfl, rfl, rfl, rfl, rfl, rfl, rfl, rfl, rfl, rfl, rfl, rfl, rfl, rfl, rfl,
    rfl, rfl, rfl, rfl, rfl, rfl, rfl, rfl, rfl, rfl, rfl, rfl, rfl, rfl, rfl, rfl, rfl, rfl, rfl, fun _ => rfl, fun _ => rfl,
    fun _ => rfl, fun _ => rfl, fun _ => rfl, fun _ => rfl, fun _ => rfl, fun _ => rfl, fun _ => rfl, fun _ => rfl, fun _ => rfl,
    fun _ => rfl, fun _ => rfl, fun _ => rfl, fun _ => rfl, fun _ => rfl, fun _ => rfl, fun _ => rfl, rfl, fun _ _ _ => rfl⟩

@[simp] theorem State.rejectInput_frame :
    (s.rejectInput).pending = s.pending ∧ (s.rejectInput).freeCtr = s.freeCtr ∧ (s.rejectInput).fresh = s.fresh ∧
    (s.rejectInput).now = s.now ∧ (s.rejectInput).t0 = s.t0 ∧ (s.rejectInput).clks = s.clks ∧ (s.rejectInput).tiles = s.tiles ∧
    (s.rejectInput).kernels = s.kernels ∧ (s.rejectInput).ctxs = s.ctxs ∧ (s.rejectInput).parts = s.parts ∧
    (s.rejectInput).xcache = s.xcache ∧ (s.rejectInput).pageReqs = s.pageReqs ∧ (s.rejectInput).invs = s.invs ∧ (s.rejectInput).mem = s.mem ∧
    (s.rejectInput).poison = s.poison ∧ (s.rejectInput).host = s.host ∧ (s.rejectInput).hostAtomics = s.hostAtomics ∧
    (s.rejectInput).rot = s.rot ∧ (s.rejectInput).rotAt = s.rotAt ∧ (s.rejectInput).raised = s.raised ∧ (s.rejectInput).sent = s.sent ∧
    (s.rejectInput).reqs = s.reqs ∧ (s.rejectInput).rsps = s.rsps ∧ (s.rejectInput).hostReqs = s.hostReqs ∧
    (s.rejectInput).frames = s.frames ∧ (s.rejectInput).misses = s.misses ∧ (s.rejectInput).hosts = s.hosts ∧
    (s.rejectInput).hostUse = s.hostUse ∧ (s.rejectInput).hostTick = s.hostTick ∧ (s.rejectInput).silent = s.silent ∧
    (s.rejectInput).plru = s.plru ∧ (s.rejectInput).watches = s.watches ∧ (s.rejectInput).queues = s.queues ∧
    (s.rejectInput).events = s.events ∧ (s.rejectInput).ports = s.ports ∧ (s.rejectInput).els = s.els ∧ (s.rejectInput).xfers = s.xfers ∧
    (s.rejectInput).cohorts = s.cohorts ∧ (s.rejectInput).paces = s.paces ∧ (s.rejectInput).inbox = s.inbox ∧
    (s.rejectInput).outbox = s.outbox ∧ (s.rejectInput).waysOff = s.waysOff ∧ (s.rejectInput).missOff = s.missOff ∧
    (s.rejectInput).bad = s.bad ∧ (s.rejectInput).pageCount = s.pageCount ∧ (s.rejectInput).pages = s.pages ∧
    (s.rejectInput).freed = s.freed ∧ (s.rejectInput).taken = s.taken ∧ (s.rejectInput).retired = s.retired ∧
    (s.rejectInput).retiring = s.retiring ∧ (s.rejectInput).fastCh = s.fastCh ∧ (s.rejectInput).capCh = s.capCh ∧
    (s.rejectInput).rebuilding = s.rebuilding ∧ (s.rejectInput).mapFrames = s.mapFrames ∧ (s.rejectInput).moves = s.moves ∧
    (s.rejectInput).todo = s.todo ∧ (s.rejectInput).plan = s.plan ∧ (s.rejectInput).policyStarts = s.policyStarts ∧
    (s.rejectInput).otherStarts = s.otherStarts ∧ (s.rejectInput).sampled = s.sampled ∧ (s.rejectInput).cells = s.cells ∧
    (s.rejectInput).lastCells = s.lastCells ∧ (s.rejectInput).badRows = s.badRows ∧ (s.rejectInput).repairs = s.repairs ∧
    (s.rejectInput).stackTemps = s.stackTemps ∧ (s.rejectInput).capTemps = s.capTemps ∧ (s.rejectInput).models = s.models ∧
    (s.rejectInput).herbTick = s.herbTick ∧ (s.rejectInput).prefetches = s.prefetches ∧ (s.rejectInput).hot = s.hot ∧
    (s.rejectInput).hotSeen = s.hotSeen ∧ (s.rejectInput).epoch = s.epoch ∧ (s.rejectInput).epochStart = s.epochStart ∧
    (s.rejectInput).quarantined = s.quarantined ∧ (s.rejectInput).noSpare = s.noSpare ∧ (s.rejectInput).spent = s.spent ∧
    (s.rejectInput).occ = s.occ ∧ (s.rejectInput).tileCe = s.tileCe ∧ (s.rejectInput).keys = s.keys ∧ (s.rejectInput).stalled = s.stalled ∧
    (s.rejectInput).hashKey = s.hashKey ∧ (s.rejectInput).rotCycles = s.rotCycles ∧ (s.rejectInput).vfs = s.vfs ∧
    (s.rejectInput).bar4 = s.bar4 ∧ (s.rejectInput).flrs = s.flrs ∧ (s.rejectInput).tdis = s.tdis ∧ (s.rejectInput).pwr = s.pwr ∧
    (s.rejectInput).trust = s.trust ∧ (s.rejectInput).fuses = s.fuses ∧ (s.rejectInput).fw = s.fw ∧ (s.rejectInput).svc = s.svc ∧
    (s.rejectInput).tmap = s.tmap ∧ (s.rejectInput).failedPhys = s.failedPhys ∧ (s.rejectInput).unsaved = s.unsaved ∧
    (s.rejectInput).bist = s.bist ∧ (s.rejectInput).recals = s.recals ∧ (s.rejectInput).links = s.links ∧ (s.rejectInput).i3c = s.i3c ∧
    (s.rejectInput).tap = s.tap ∧ (s.rejectInput).locks = s.locks ∧ (∀ i, (s.rejectInput).tile i = s.tile i) ∧
    (∀ at_, (s.rejectInput).clause at_ = s.clause at_) ∧ (∀ i, (s.rejectInput).kernel i = s.kernel i) ∧
    (∀ i, (s.rejectInput).ctx i = s.ctx i) ∧ (∀ q, (s.rejectInput).part q = s.part q) ∧ (∀ i, (s.rejectInput).frame i = s.frame i) ∧
    (∀ i, (s.rejectInput).miss i = s.miss i) ∧ (∀ i, (s.rejectInput).hostOf i = s.hostOf i) ∧ (∀ i, (s.rejectInput).page i = s.page i) ∧
    (∀ i, (s.rejectInput).queue i = s.queue i) ∧ (∀ i, (s.rejectInput).model i = s.model i) ∧ (∀ i, (s.rejectInput).port i = s.port i) ∧
    (∀ i, (s.rejectInput).cohort i = s.cohort i) ∧ (∀ y, (s.rejectInput).xfer y = s.xfer y) ∧ (∀ i, (s.rejectInput).keySlot i = s.keySlot i) ∧
    (∀ i, (s.rejectInput).tdi i = s.tdi i) ∧ (∀ i, (s.rejectInput).clk i = s.clk i) ∧ (∀ i, (s.rejectInput).cycle i = s.cycle i) ∧
    (s.rejectInput).rotating = s.rotating ∧ (∀ c va ac, (s.rejectInput).locate c va ac = s.locate c va ac) :=
  ⟨rfl, rfl, rfl, rfl, rfl, rfl, rfl, rfl, rfl, rfl, rfl, rfl, rfl, rfl, rfl, rfl, rfl, rfl, rfl, rfl, rfl, rfl, rfl, rfl, rfl, rfl, rfl,
    rfl, rfl, rfl, rfl, rfl, rfl, rfl, rfl, rfl, rfl, rfl, rfl, rfl, rfl, rfl, rfl, rfl, rfl, rfl, rfl, rfl, rfl, rfl, rfl, rfl, rfl, rfl,
    rfl, rfl, rfl, rfl, rfl, rfl, rfl, rfl, rfl, rfl, rfl, rfl, rfl, rfl, rfl, rfl, rfl, rfl, rfl, rfl, rfl, rfl, rfl, rfl, rfl, rfl, rfl,
    rfl, rfl, rfl, rfl, rfl, rfl, rfl, rfl, rfl, rfl, rfl, rfl, rfl, rfl, rfl, rfl, rfl, rfl, rfl, fun _ => rfl, fun _ => rfl,
    fun _ => rfl, fun _ => rfl, fun _ => rfl, fun _ => rfl, fun _ => rfl, fun _ => rfl, fun _ => rfl, fun _ => rfl, fun _ => rfl,
    fun _ => rfl, fun _ => rfl, fun _ => rfl, fun _ => rfl, fun _ => rfl, fun _ => rfl, fun _ => rfl, rfl, fun _ _ _ => rfl⟩

@[simp] theorem State.raiseVec_frame (fn v : Nat) :
    (s.raiseVec fn v).pending = s.pending ∧ (s.raiseVec fn v).freeCtr = s.freeCtr ∧ (s.raiseVec fn v).fresh = s.fresh ∧
    (s.raiseVec fn v).now = s.now ∧ (s.raiseVec fn v).t0 = s.t0 ∧ (s.raiseVec fn v).clks = s.clks ∧ (s.raiseVec fn v).regs = s.regs ∧
    (s.raiseVec fn v).tiles = s.tiles ∧ (s.raiseVec fn v).kernels = s.kernels ∧ (s.raiseVec fn v).ctxs = s.ctxs ∧
    (s.raiseVec fn v).parts = s.parts ∧ (s.raiseVec fn v).xcache = s.xcache ∧ (s.raiseVec fn v).pageReqs = s.pageReqs ∧
    (s.raiseVec fn v).invs = s.invs ∧ (s.raiseVec fn v).mem = s.mem ∧ (s.raiseVec fn v).poison = s.poison ∧ (s.raiseVec fn v).host = s.host ∧
    (s.raiseVec fn v).hostAtomics = s.hostAtomics ∧ (s.raiseVec fn v).rot = s.rot ∧ (s.raiseVec fn v).rotAt = s.rotAt ∧
    (s.raiseVec fn v).sent = s.sent ∧ (s.raiseVec fn v).reqs = s.reqs ∧ (s.raiseVec fn v).rsps = s.rsps ∧
    (s.raiseVec fn v).hostReqs = s.hostReqs ∧ (s.raiseVec fn v).frames = s.frames ∧ (s.raiseVec fn v).misses = s.misses ∧
    (s.raiseVec fn v).hosts = s.hosts ∧ (s.raiseVec fn v).hostUse = s.hostUse ∧ (s.raiseVec fn v).hostTick = s.hostTick ∧
    (s.raiseVec fn v).silent = s.silent ∧ (s.raiseVec fn v).plru = s.plru ∧ (s.raiseVec fn v).watches = s.watches ∧
    (s.raiseVec fn v).queues = s.queues ∧ (s.raiseVec fn v).events = s.events ∧ (s.raiseVec fn v).ports = s.ports ∧
    (s.raiseVec fn v).els = s.els ∧ (s.raiseVec fn v).xfers = s.xfers ∧ (s.raiseVec fn v).cohorts = s.cohorts ∧
    (s.raiseVec fn v).paces = s.paces ∧ (s.raiseVec fn v).inbox = s.inbox ∧ (s.raiseVec fn v).outbox = s.outbox ∧
    (s.raiseVec fn v).waysOff = s.waysOff ∧ (s.raiseVec fn v).missOff = s.missOff ∧ (s.raiseVec fn v).bad = s.bad ∧
    (s.raiseVec fn v).pageCount = s.pageCount ∧ (s.raiseVec fn v).pages = s.pages ∧ (s.raiseVec fn v).freed = s.freed ∧
    (s.raiseVec fn v).taken = s.taken ∧ (s.raiseVec fn v).retired = s.retired ∧ (s.raiseVec fn v).retiring = s.retiring ∧
    (s.raiseVec fn v).fastCh = s.fastCh ∧ (s.raiseVec fn v).capCh = s.capCh ∧ (s.raiseVec fn v).rebuilding = s.rebuilding ∧
    (s.raiseVec fn v).mapFrames = s.mapFrames ∧ (s.raiseVec fn v).moves = s.moves ∧ (s.raiseVec fn v).todo = s.todo ∧
    (s.raiseVec fn v).plan = s.plan ∧ (s.raiseVec fn v).policyStarts = s.policyStarts ∧ (s.raiseVec fn v).otherStarts = s.otherStarts ∧
    (s.raiseVec fn v).sampled = s.sampled ∧ (s.raiseVec fn v).cells = s.cells ∧ (s.raiseVec fn v).lastCells = s.lastCells ∧
    (s.raiseVec fn v).badRows = s.badRows ∧ (s.raiseVec fn v).repairs = s.repairs ∧ (s.raiseVec fn v).stackTemps = s.stackTemps ∧
    (s.raiseVec fn v).capTemps = s.capTemps ∧ (s.raiseVec fn v).models = s.models ∧ (s.raiseVec fn v).herbTick = s.herbTick ∧
    (s.raiseVec fn v).prefetches = s.prefetches ∧ (s.raiseVec fn v).hot = s.hot ∧ (s.raiseVec fn v).hotSeen = s.hotSeen ∧
    (s.raiseVec fn v).epoch = s.epoch ∧ (s.raiseVec fn v).epochStart = s.epochStart ∧ (s.raiseVec fn v).quarantined = s.quarantined ∧
    (s.raiseVec fn v).noSpare = s.noSpare ∧ (s.raiseVec fn v).spent = s.spent ∧ (s.raiseVec fn v).occ = s.occ ∧
    (s.raiseVec fn v).tileCe = s.tileCe ∧ (s.raiseVec fn v).keys = s.keys ∧ (s.raiseVec fn v).stalled = s.stalled ∧
    (s.raiseVec fn v).hashKey = s.hashKey ∧ (s.raiseVec fn v).rotCycles = s.rotCycles ∧ (s.raiseVec fn v).vfs = s.vfs ∧
    (s.raiseVec fn v).bar4 = s.bar4 ∧ (s.raiseVec fn v).flrs = s.flrs ∧ (s.raiseVec fn v).tdis = s.tdis ∧ (s.raiseVec fn v).pwr = s.pwr ∧
    (s.raiseVec fn v).trust = s.trust ∧ (s.raiseVec fn v).fuses = s.fuses ∧ (s.raiseVec fn v).fw = s.fw ∧ (s.raiseVec fn v).svc = s.svc ∧
    (s.raiseVec fn v).tmap = s.tmap ∧ (s.raiseVec fn v).failedPhys = s.failedPhys ∧ (s.raiseVec fn v).unsaved = s.unsaved ∧
    (s.raiseVec fn v).bist = s.bist ∧ (s.raiseVec fn v).recals = s.recals ∧ (s.raiseVec fn v).links = s.links ∧
    (s.raiseVec fn v).i3c = s.i3c ∧ (s.raiseVec fn v).tap = s.tap ∧ (s.raiseVec fn v).locks = s.locks ∧
    (∀ i, (s.raiseVec fn v).tile i = s.tile i) ∧ (∀ at_, (s.raiseVec fn v).clause at_ = s.clause at_) ∧
    (∀ i, (s.raiseVec fn v).kernel i = s.kernel i) ∧ (∀ i, (s.raiseVec fn v).ctx i = s.ctx i) ∧ (∀ q, (s.raiseVec fn v).part q = s.part q) ∧
    (∀ i, (s.raiseVec fn v).word i = s.word i) ∧ (∀ fl, (s.raiseVec fn v).fld fl = s.fld fl) ∧ (∀ i, (s.raiseVec fn v).frame i = s.frame i) ∧
    (∀ i, (s.raiseVec fn v).miss i = s.miss i) ∧ (∀ i, (s.raiseVec fn v).hostOf i = s.hostOf i) ∧ (∀ i, (s.raiseVec fn v).page i = s.page i) ∧
    (∀ i, (s.raiseVec fn v).queue i = s.queue i) ∧ (∀ i, (s.raiseVec fn v).model i = s.model i) ∧ (∀ i, (s.raiseVec fn v).port i = s.port i) ∧
    (∀ i, (s.raiseVec fn v).cohort i = s.cohort i) ∧ (∀ y, (s.raiseVec fn v).xfer y = s.xfer y) ∧
    (∀ i, (s.raiseVec fn v).keySlot i = s.keySlot i) ∧ (∀ i, (s.raiseVec fn v).tdi i = s.tdi i) ∧ (∀ i, (s.raiseVec fn v).clk i = s.clk i) ∧
    (∀ i, (s.raiseVec fn v).cycle i = s.cycle i) ∧ (s.raiseVec fn v).ready = s.ready ∧ (s.raiseVec fn v).answers = s.answers ∧
    (s.raiseVec fn v).rotating = s.rotating ∧ (∀ c va ac, (s.raiseVec fn v).locate c va ac = s.locate c va ac) :=
  ⟨rfl, rfl, rfl, rfl, rfl, rfl, rfl, rfl, rfl, rfl, rfl, rfl, rfl, rfl, rfl, rfl, rfl, rfl, rfl, rfl, rfl, rfl, rfl, rfl, rfl, rfl, rfl,
    rfl, rfl, rfl, rfl, rfl, rfl, rfl, rfl, rfl, rfl, rfl, rfl, rfl, rfl, rfl, rfl, rfl, rfl, rfl, rfl, rfl, rfl, rfl, rfl, rfl, rfl, rfl,
    rfl, rfl, rfl, rfl, rfl, rfl, rfl, rfl, rfl, rfl, rfl, rfl, rfl, rfl, rfl, rfl, rfl, rfl, rfl, rfl, rfl, rfl, rfl, rfl, rfl, rfl, rfl,
    rfl, rfl, rfl, rfl, rfl, rfl, rfl, rfl, rfl, rfl, rfl, rfl, rfl, rfl, rfl, rfl, rfl, rfl, rfl, fun _ => rfl, fun _ => rfl,
    fun _ => rfl, fun _ => rfl, fun _ => rfl, fun _ => rfl, fun _ => rfl, fun _ => rfl, fun _ => rfl, fun _ => rfl, fun _ => rfl,
    fun _ => rfl, fun _ => rfl, fun _ => rfl, fun _ => rfl, fun _ => rfl, fun _ => rfl, fun _ => rfl, fun _ => rfl, fun _ => rfl, rfl, rfl,
    rfl, fun _ _ _ => rfl⟩

@[simp] theorem State.setTile_frame (t : Nat) (x : Tile) :
    (s.setTile t x).pending = s.pending ∧ (s.setTile t x).freeCtr = s.freeCtr ∧ (s.setTile t x).fresh = s.fresh ∧
    (s.setTile t x).now = s.now ∧ (s.setTile t x).t0 = s.t0 ∧ (s.setTile t x).clks = s.clks ∧ (s.setTile t x).regs = s.regs ∧
    (s.setTile t x).kernels = s.kernels ∧ (s.setTile t x).ctxs = s.ctxs ∧ (s.setTile t x).parts = s.parts ∧
    (s.setTile t x).xcache = s.xcache ∧ (s.setTile t x).pageReqs = s.pageReqs ∧ (s.setTile t x).invs = s.invs ∧ (s.setTile t x).mem = s.mem ∧
    (s.setTile t x).poison = s.poison ∧ (s.setTile t x).host = s.host ∧ (s.setTile t x).hostAtomics = s.hostAtomics ∧
    (s.setTile t x).rot = s.rot ∧ (s.setTile t x).rotAt = s.rotAt ∧ (s.setTile t x).raised = s.raised ∧ (s.setTile t x).sent = s.sent ∧
    (s.setTile t x).reqs = s.reqs ∧ (s.setTile t x).rsps = s.rsps ∧ (s.setTile t x).hostReqs = s.hostReqs ∧
    (s.setTile t x).frames = s.frames ∧ (s.setTile t x).misses = s.misses ∧ (s.setTile t x).hosts = s.hosts ∧
    (s.setTile t x).hostUse = s.hostUse ∧ (s.setTile t x).hostTick = s.hostTick ∧ (s.setTile t x).silent = s.silent ∧
    (s.setTile t x).plru = s.plru ∧ (s.setTile t x).watches = s.watches ∧ (s.setTile t x).queues = s.queues ∧
    (s.setTile t x).events = s.events ∧ (s.setTile t x).ports = s.ports ∧ (s.setTile t x).els = s.els ∧ (s.setTile t x).xfers = s.xfers ∧
    (s.setTile t x).cohorts = s.cohorts ∧ (s.setTile t x).paces = s.paces ∧ (s.setTile t x).inbox = s.inbox ∧
    (s.setTile t x).outbox = s.outbox ∧ (s.setTile t x).waysOff = s.waysOff ∧ (s.setTile t x).missOff = s.missOff ∧
    (s.setTile t x).bad = s.bad ∧ (s.setTile t x).pageCount = s.pageCount ∧ (s.setTile t x).pages = s.pages ∧
    (s.setTile t x).freed = s.freed ∧ (s.setTile t x).taken = s.taken ∧ (s.setTile t x).retired = s.retired ∧
    (s.setTile t x).retiring = s.retiring ∧ (s.setTile t x).fastCh = s.fastCh ∧ (s.setTile t x).capCh = s.capCh ∧
    (s.setTile t x).rebuilding = s.rebuilding ∧ (s.setTile t x).mapFrames = s.mapFrames ∧ (s.setTile t x).moves = s.moves ∧
    (s.setTile t x).todo = s.todo ∧ (s.setTile t x).plan = s.plan ∧ (s.setTile t x).policyStarts = s.policyStarts ∧
    (s.setTile t x).otherStarts = s.otherStarts ∧ (s.setTile t x).sampled = s.sampled ∧ (s.setTile t x).cells = s.cells ∧
    (s.setTile t x).lastCells = s.lastCells ∧ (s.setTile t x).badRows = s.badRows ∧ (s.setTile t x).repairs = s.repairs ∧
    (s.setTile t x).stackTemps = s.stackTemps ∧ (s.setTile t x).capTemps = s.capTemps ∧ (s.setTile t x).models = s.models ∧
    (s.setTile t x).herbTick = s.herbTick ∧ (s.setTile t x).prefetches = s.prefetches ∧ (s.setTile t x).hot = s.hot ∧
    (s.setTile t x).hotSeen = s.hotSeen ∧ (s.setTile t x).epoch = s.epoch ∧ (s.setTile t x).epochStart = s.epochStart ∧
    (s.setTile t x).quarantined = s.quarantined ∧ (s.setTile t x).noSpare = s.noSpare ∧ (s.setTile t x).spent = s.spent ∧
    (s.setTile t x).occ = s.occ ∧ (s.setTile t x).tileCe = s.tileCe ∧ (s.setTile t x).keys = s.keys ∧ (s.setTile t x).stalled = s.stalled ∧
    (s.setTile t x).hashKey = s.hashKey ∧ (s.setTile t x).rotCycles = s.rotCycles ∧ (s.setTile t x).vfs = s.vfs ∧
    (s.setTile t x).bar4 = s.bar4 ∧ (s.setTile t x).flrs = s.flrs ∧ (s.setTile t x).tdis = s.tdis ∧ (s.setTile t x).pwr = s.pwr ∧
    (s.setTile t x).trust = s.trust ∧ (s.setTile t x).fuses = s.fuses ∧ (s.setTile t x).fw = s.fw ∧ (s.setTile t x).svc = s.svc ∧
    (s.setTile t x).tmap = s.tmap ∧ (s.setTile t x).failedPhys = s.failedPhys ∧ (s.setTile t x).unsaved = s.unsaved ∧
    (s.setTile t x).bist = s.bist ∧ (s.setTile t x).recals = s.recals ∧ (s.setTile t x).links = s.links ∧ (s.setTile t x).i3c = s.i3c ∧
    (s.setTile t x).tap = s.tap ∧ (s.setTile t x).locks = s.locks ∧ (∀ i, (s.setTile t x).kernel i = s.kernel i) ∧
    (∀ i, (s.setTile t x).ctx i = s.ctx i) ∧ (∀ q, (s.setTile t x).part q = s.part q) ∧ (∀ i, (s.setTile t x).word i = s.word i) ∧
    (∀ fl, (s.setTile t x).fld fl = s.fld fl) ∧ (∀ i, (s.setTile t x).frame i = s.frame i) ∧ (∀ i, (s.setTile t x).miss i = s.miss i) ∧
    (∀ i, (s.setTile t x).hostOf i = s.hostOf i) ∧ (∀ i, (s.setTile t x).page i = s.page i) ∧ (∀ i, (s.setTile t x).queue i = s.queue i) ∧
    (∀ i, (s.setTile t x).model i = s.model i) ∧ (∀ i, (s.setTile t x).port i = s.port i) ∧ (∀ i, (s.setTile t x).cohort i = s.cohort i) ∧
    (∀ y, (s.setTile t x).xfer y = s.xfer y) ∧ (∀ i, (s.setTile t x).keySlot i = s.keySlot i) ∧ (∀ i, (s.setTile t x).tdi i = s.tdi i) ∧
    (∀ i, (s.setTile t x).clk i = s.clk i) ∧ (∀ i, (s.setTile t x).cycle i = s.cycle i) ∧ (s.setTile t x).ready = s.ready ∧
    (s.setTile t x).answers = s.answers ∧ (s.setTile t x).rotating = s.rotating ∧
    (∀ c va ac, (s.setTile t x).locate c va ac = s.locate c va ac) :=
  ⟨rfl, rfl, rfl, rfl, rfl, rfl, rfl, rfl, rfl, rfl, rfl, rfl, rfl, rfl, rfl, rfl, rfl, rfl, rfl, rfl, rfl, rfl, rfl, rfl, rfl, rfl, rfl,
    rfl, rfl, rfl, rfl, rfl, rfl, rfl, rfl, rfl, rfl, rfl, rfl, rfl, rfl, rfl, rfl, rfl, rfl, rfl, rfl, rfl, rfl, rfl, rfl, rfl, rfl, rfl,
    rfl, rfl, rfl, rfl, rfl, rfl, rfl, rfl, rfl, rfl, rfl, rfl, rfl, rfl, rfl, rfl, rfl, rfl, rfl, rfl, rfl, rfl, rfl, rfl, rfl, rfl, rfl,
    rfl, rfl, rfl, rfl, rfl, rfl, rfl, rfl, rfl, rfl, rfl, rfl, rfl, rfl, rfl, rfl, rfl, rfl, rfl, fun _ => rfl, fun _ => rfl,
    fun _ => rfl, fun _ => rfl, fun _ => rfl, fun _ => rfl, fun _ => rfl, fun _ => rfl, fun _ => rfl, fun _ => rfl, fun _ => rfl,
    fun _ => rfl, fun _ => rfl, fun _ => rfl, fun _ => rfl, fun _ => rfl, fun _ => rfl, fun _ => rfl, rfl, rfl, rfl, fun _ _ _ => rfl⟩

@[simp] theorem State.setClause_frame (b : At) (x : Clause) :
    (s.setClause b x).pending = s.pending ∧ (s.setClause b x).freeCtr = s.freeCtr ∧ (s.setClause b x).fresh = s.fresh ∧
    (s.setClause b x).now = s.now ∧ (s.setClause b x).t0 = s.t0 ∧ (s.setClause b x).clks = s.clks ∧ (s.setClause b x).regs = s.regs ∧
    (s.setClause b x).kernels = s.kernels ∧ (s.setClause b x).ctxs = s.ctxs ∧ (s.setClause b x).parts = s.parts ∧
    (s.setClause b x).xcache = s.xcache ∧ (s.setClause b x).pageReqs = s.pageReqs ∧ (s.setClause b x).invs = s.invs ∧
    (s.setClause b x).mem = s.mem ∧ (s.setClause b x).poison = s.poison ∧ (s.setClause b x).host = s.host ∧
    (s.setClause b x).hostAtomics = s.hostAtomics ∧ (s.setClause b x).rot = s.rot ∧ (s.setClause b x).rotAt = s.rotAt ∧
    (s.setClause b x).raised = s.raised ∧ (s.setClause b x).sent = s.sent ∧ (s.setClause b x).reqs = s.reqs ∧
    (s.setClause b x).rsps = s.rsps ∧ (s.setClause b x).hostReqs = s.hostReqs ∧ (s.setClause b x).frames = s.frames ∧
    (s.setClause b x).misses = s.misses ∧ (s.setClause b x).hosts = s.hosts ∧ (s.setClause b x).hostUse = s.hostUse ∧
    (s.setClause b x).hostTick = s.hostTick ∧ (s.setClause b x).silent = s.silent ∧ (s.setClause b x).plru = s.plru ∧
    (s.setClause b x).watches = s.watches ∧ (s.setClause b x).queues = s.queues ∧ (s.setClause b x).events = s.events ∧
    (s.setClause b x).ports = s.ports ∧ (s.setClause b x).els = s.els ∧ (s.setClause b x).xfers = s.xfers ∧
    (s.setClause b x).cohorts = s.cohorts ∧ (s.setClause b x).paces = s.paces ∧ (s.setClause b x).inbox = s.inbox ∧
    (s.setClause b x).outbox = s.outbox ∧ (s.setClause b x).waysOff = s.waysOff ∧ (s.setClause b x).missOff = s.missOff ∧
    (s.setClause b x).bad = s.bad ∧ (s.setClause b x).pageCount = s.pageCount ∧ (s.setClause b x).pages = s.pages ∧
    (s.setClause b x).freed = s.freed ∧ (s.setClause b x).taken = s.taken ∧ (s.setClause b x).retired = s.retired ∧
    (s.setClause b x).retiring = s.retiring ∧ (s.setClause b x).fastCh = s.fastCh ∧ (s.setClause b x).capCh = s.capCh ∧
    (s.setClause b x).rebuilding = s.rebuilding ∧ (s.setClause b x).mapFrames = s.mapFrames ∧ (s.setClause b x).moves = s.moves ∧
    (s.setClause b x).todo = s.todo ∧ (s.setClause b x).plan = s.plan ∧ (s.setClause b x).policyStarts = s.policyStarts ∧
    (s.setClause b x).otherStarts = s.otherStarts ∧ (s.setClause b x).sampled = s.sampled ∧ (s.setClause b x).cells = s.cells ∧
    (s.setClause b x).lastCells = s.lastCells ∧ (s.setClause b x).badRows = s.badRows ∧ (s.setClause b x).repairs = s.repairs ∧
    (s.setClause b x).stackTemps = s.stackTemps ∧ (s.setClause b x).capTemps = s.capTemps ∧ (s.setClause b x).models = s.models ∧
    (s.setClause b x).herbTick = s.herbTick ∧ (s.setClause b x).prefetches = s.prefetches ∧ (s.setClause b x).hot = s.hot ∧
    (s.setClause b x).hotSeen = s.hotSeen ∧ (s.setClause b x).epoch = s.epoch ∧ (s.setClause b x).epochStart = s.epochStart ∧
    (s.setClause b x).quarantined = s.quarantined ∧ (s.setClause b x).noSpare = s.noSpare ∧ (s.setClause b x).spent = s.spent ∧
    (s.setClause b x).occ = s.occ ∧ (s.setClause b x).tileCe = s.tileCe ∧ (s.setClause b x).keys = s.keys ∧
    (s.setClause b x).stalled = s.stalled ∧ (s.setClause b x).hashKey = s.hashKey ∧ (s.setClause b x).rotCycles = s.rotCycles ∧
    (s.setClause b x).vfs = s.vfs ∧ (s.setClause b x).bar4 = s.bar4 ∧ (s.setClause b x).flrs = s.flrs ∧ (s.setClause b x).tdis = s.tdis ∧
    (s.setClause b x).pwr = s.pwr ∧ (s.setClause b x).trust = s.trust ∧ (s.setClause b x).fuses = s.fuses ∧ (s.setClause b x).fw = s.fw ∧
    (s.setClause b x).svc = s.svc ∧ (s.setClause b x).tmap = s.tmap ∧ (s.setClause b x).failedPhys = s.failedPhys ∧
    (s.setClause b x).unsaved = s.unsaved ∧ (s.setClause b x).bist = s.bist ∧ (s.setClause b x).recals = s.recals ∧
    (s.setClause b x).links = s.links ∧ (s.setClause b x).i3c = s.i3c ∧ (s.setClause b x).tap = s.tap ∧ (s.setClause b x).locks = s.locks ∧
    (∀ i, (s.setClause b x).kernel i = s.kernel i) ∧ (∀ i, (s.setClause b x).ctx i = s.ctx i) ∧ (∀ q, (s.setClause b x).part q = s.part q) ∧
    (∀ i, (s.setClause b x).word i = s.word i) ∧ (∀ fl, (s.setClause b x).fld fl = s.fld fl) ∧ (∀ i, (s.setClause b x).frame i = s.frame i) ∧
    (∀ i, (s.setClause b x).miss i = s.miss i) ∧ (∀ i, (s.setClause b x).hostOf i = s.hostOf i) ∧ (∀ i, (s.setClause b x).page i = s.page i) ∧
    (∀ i, (s.setClause b x).queue i = s.queue i) ∧ (∀ i, (s.setClause b x).model i = s.model i) ∧ (∀ i, (s.setClause b x).port i = s.port i) ∧
    (∀ i, (s.setClause b x).cohort i = s.cohort i) ∧ (∀ y, (s.setClause b x).xfer y = s.xfer y) ∧
    (∀ i, (s.setClause b x).keySlot i = s.keySlot i) ∧ (∀ i, (s.setClause b x).tdi i = s.tdi i) ∧ (∀ i, (s.setClause b x).clk i = s.clk i) ∧
    (∀ i, (s.setClause b x).cycle i = s.cycle i) ∧ (s.setClause b x).ready = s.ready ∧ (s.setClause b x).answers = s.answers ∧
    (s.setClause b x).rotating = s.rotating ∧ (∀ c va ac, (s.setClause b x).locate c va ac = s.locate c va ac) :=
  ⟨rfl, rfl, rfl, rfl, rfl, rfl, rfl, rfl, rfl, rfl, rfl, rfl, rfl, rfl, rfl, rfl, rfl, rfl, rfl, rfl, rfl, rfl, rfl, rfl, rfl, rfl, rfl,
    rfl, rfl, rfl, rfl, rfl, rfl, rfl, rfl, rfl, rfl, rfl, rfl, rfl, rfl, rfl, rfl, rfl, rfl, rfl, rfl, rfl, rfl, rfl, rfl, rfl, rfl, rfl,
    rfl, rfl, rfl, rfl, rfl, rfl, rfl, rfl, rfl, rfl, rfl, rfl, rfl, rfl, rfl, rfl, rfl, rfl, rfl, rfl, rfl, rfl, rfl, rfl, rfl, rfl, rfl,
    rfl, rfl, rfl, rfl, rfl, rfl, rfl, rfl, rfl, rfl, rfl, rfl, rfl, rfl, rfl, rfl, rfl, rfl, rfl, fun _ => rfl, fun _ => rfl,
    fun _ => rfl, fun _ => rfl, fun _ => rfl, fun _ => rfl, fun _ => rfl, fun _ => rfl, fun _ => rfl, fun _ => rfl, fun _ => rfl,
    fun _ => rfl, fun _ => rfl, fun _ => rfl, fun _ => rfl, fun _ => rfl, fun _ => rfl, fun _ => rfl, rfl, rfl, rfl, fun _ _ _ => rfl⟩

@[simp] theorem State.setKernel_frame (j : Nat) (x : Kernel) :
    (s.setKernel j x).pending = s.pending ∧ (s.setKernel j x).freeCtr = s.freeCtr ∧ (s.setKernel j x).fresh = s.fresh ∧
    (s.setKernel j x).now = s.now ∧ (s.setKernel j x).t0 = s.t0 ∧ (s.setKernel j x).clks = s.clks ∧ (s.setKernel j x).regs = s.regs ∧
    (s.setKernel j x).tiles = s.tiles ∧ (s.setKernel j x).ctxs = s.ctxs ∧ (s.setKernel j x).parts = s.parts ∧
    (s.setKernel j x).xcache = s.xcache ∧ (s.setKernel j x).pageReqs = s.pageReqs ∧ (s.setKernel j x).invs = s.invs ∧
    (s.setKernel j x).mem = s.mem ∧ (s.setKernel j x).poison = s.poison ∧ (s.setKernel j x).host = s.host ∧
    (s.setKernel j x).hostAtomics = s.hostAtomics ∧ (s.setKernel j x).rot = s.rot ∧ (s.setKernel j x).rotAt = s.rotAt ∧
    (s.setKernel j x).raised = s.raised ∧ (s.setKernel j x).sent = s.sent ∧ (s.setKernel j x).reqs = s.reqs ∧
    (s.setKernel j x).rsps = s.rsps ∧ (s.setKernel j x).hostReqs = s.hostReqs ∧ (s.setKernel j x).frames = s.frames ∧
    (s.setKernel j x).misses = s.misses ∧ (s.setKernel j x).hosts = s.hosts ∧ (s.setKernel j x).hostUse = s.hostUse ∧
    (s.setKernel j x).hostTick = s.hostTick ∧ (s.setKernel j x).silent = s.silent ∧ (s.setKernel j x).plru = s.plru ∧
    (s.setKernel j x).watches = s.watches ∧ (s.setKernel j x).queues = s.queues ∧ (s.setKernel j x).events = s.events ∧
    (s.setKernel j x).ports = s.ports ∧ (s.setKernel j x).els = s.els ∧ (s.setKernel j x).xfers = s.xfers ∧
    (s.setKernel j x).cohorts = s.cohorts ∧ (s.setKernel j x).paces = s.paces ∧ (s.setKernel j x).inbox = s.inbox ∧
    (s.setKernel j x).outbox = s.outbox ∧ (s.setKernel j x).waysOff = s.waysOff ∧ (s.setKernel j x).missOff = s.missOff ∧
    (s.setKernel j x).bad = s.bad ∧ (s.setKernel j x).pageCount = s.pageCount ∧ (s.setKernel j x).pages = s.pages ∧
    (s.setKernel j x).freed = s.freed ∧ (s.setKernel j x).taken = s.taken ∧ (s.setKernel j x).retired = s.retired ∧
    (s.setKernel j x).retiring = s.retiring ∧ (s.setKernel j x).fastCh = s.fastCh ∧ (s.setKernel j x).capCh = s.capCh ∧
    (s.setKernel j x).rebuilding = s.rebuilding ∧ (s.setKernel j x).mapFrames = s.mapFrames ∧ (s.setKernel j x).moves = s.moves ∧
    (s.setKernel j x).todo = s.todo ∧ (s.setKernel j x).plan = s.plan ∧ (s.setKernel j x).policyStarts = s.policyStarts ∧
    (s.setKernel j x).otherStarts = s.otherStarts ∧ (s.setKernel j x).sampled = s.sampled ∧ (s.setKernel j x).cells = s.cells ∧
    (s.setKernel j x).lastCells = s.lastCells ∧ (s.setKernel j x).badRows = s.badRows ∧ (s.setKernel j x).repairs = s.repairs ∧
    (s.setKernel j x).stackTemps = s.stackTemps ∧ (s.setKernel j x).capTemps = s.capTemps ∧ (s.setKernel j x).models = s.models ∧
    (s.setKernel j x).herbTick = s.herbTick ∧ (s.setKernel j x).prefetches = s.prefetches ∧ (s.setKernel j x).hot = s.hot ∧
    (s.setKernel j x).hotSeen = s.hotSeen ∧ (s.setKernel j x).epoch = s.epoch ∧ (s.setKernel j x).epochStart = s.epochStart ∧
    (s.setKernel j x).quarantined = s.quarantined ∧ (s.setKernel j x).noSpare = s.noSpare ∧ (s.setKernel j x).spent = s.spent ∧
    (s.setKernel j x).occ = s.occ ∧ (s.setKernel j x).tileCe = s.tileCe ∧ (s.setKernel j x).keys = s.keys ∧
    (s.setKernel j x).stalled = s.stalled ∧ (s.setKernel j x).hashKey = s.hashKey ∧ (s.setKernel j x).rotCycles = s.rotCycles ∧
    (s.setKernel j x).vfs = s.vfs ∧ (s.setKernel j x).bar4 = s.bar4 ∧ (s.setKernel j x).flrs = s.flrs ∧ (s.setKernel j x).tdis = s.tdis ∧
    (s.setKernel j x).pwr = s.pwr ∧ (s.setKernel j x).trust = s.trust ∧ (s.setKernel j x).fuses = s.fuses ∧ (s.setKernel j x).fw = s.fw ∧
    (s.setKernel j x).svc = s.svc ∧ (s.setKernel j x).tmap = s.tmap ∧ (s.setKernel j x).failedPhys = s.failedPhys ∧
    (s.setKernel j x).unsaved = s.unsaved ∧ (s.setKernel j x).bist = s.bist ∧ (s.setKernel j x).recals = s.recals ∧
    (s.setKernel j x).links = s.links ∧ (s.setKernel j x).i3c = s.i3c ∧ (s.setKernel j x).tap = s.tap ∧ (s.setKernel j x).locks = s.locks ∧
    (∀ i, (s.setKernel j x).tile i = s.tile i) ∧ (∀ at_, (s.setKernel j x).clause at_ = s.clause at_) ∧
    (∀ i, (s.setKernel j x).ctx i = s.ctx i) ∧ (∀ q, (s.setKernel j x).part q = s.part q) ∧ (∀ i, (s.setKernel j x).word i = s.word i) ∧
    (∀ fl, (s.setKernel j x).fld fl = s.fld fl) ∧ (∀ i, (s.setKernel j x).frame i = s.frame i) ∧ (∀ i, (s.setKernel j x).miss i = s.miss i) ∧
    (∀ i, (s.setKernel j x).hostOf i = s.hostOf i) ∧ (∀ i, (s.setKernel j x).page i = s.page i) ∧
    (∀ i, (s.setKernel j x).queue i = s.queue i) ∧ (∀ i, (s.setKernel j x).model i = s.model i) ∧ (∀ i, (s.setKernel j x).port i = s.port i) ∧
    (∀ i, (s.setKernel j x).cohort i = s.cohort i) ∧ (∀ y, (s.setKernel j x).xfer y = s.xfer y) ∧
    (∀ i, (s.setKernel j x).keySlot i = s.keySlot i) ∧ (∀ i, (s.setKernel j x).tdi i = s.tdi i) ∧ (∀ i, (s.setKernel j x).clk i = s.clk i) ∧
    (∀ i, (s.setKernel j x).cycle i = s.cycle i) ∧ (s.setKernel j x).ready = s.ready ∧ (s.setKernel j x).answers = s.answers ∧
    (s.setKernel j x).rotating = s.rotating ∧ (∀ c va ac, (s.setKernel j x).locate c va ac = s.locate c va ac) :=
  ⟨rfl, rfl, rfl, rfl, rfl, rfl, rfl, rfl, rfl, rfl, rfl, rfl, rfl, rfl, rfl, rfl, rfl, rfl, rfl, rfl, rfl, rfl, rfl, rfl, rfl, rfl, rfl,
    rfl, rfl, rfl, rfl, rfl, rfl, rfl, rfl, rfl, rfl, rfl, rfl, rfl, rfl, rfl, rfl, rfl, rfl, rfl, rfl, rfl, rfl, rfl, rfl, rfl, rfl, rfl,
    rfl, rfl, rfl, rfl, rfl, rfl, rfl, rfl, rfl, rfl, rfl, rfl, rfl, rfl, rfl, rfl, rfl, rfl, rfl, rfl, rfl, rfl, rfl, rfl, rfl, rfl, rfl,
    rfl, rfl, rfl, rfl, rfl, rfl, rfl, rfl, rfl, rfl, rfl, rfl, rfl, rfl, rfl, rfl, rfl, rfl, rfl, fun _ => rfl, fun _ => rfl,
    fun _ => rfl, fun _ => rfl, fun _ => rfl, fun _ => rfl, fun _ => rfl, fun _ => rfl, fun _ => rfl, fun _ => rfl, fun _ => rfl,
    fun _ => rfl, fun _ => rfl, fun _ => rfl, fun _ => rfl, fun _ => rfl, fun _ => rfl, fun _ => rfl, fun _ => rfl, rfl, rfl, rfl,
    fun _ _ _ => rfl⟩

@[simp] theorem State.setCtx_frame (j : Nat) (x : Ctx) :
    (s.setCtx j x).pending = s.pending ∧ (s.setCtx j x).freeCtr = s.freeCtr ∧ (s.setCtx j x).fresh = s.fresh ∧ (s.setCtx j x).now = s.now ∧
    (s.setCtx j x).t0 = s.t0 ∧ (s.setCtx j x).clks = s.clks ∧ (s.setCtx j x).regs = s.regs ∧ (s.setCtx j x).tiles = s.tiles ∧
    (s.setCtx j x).kernels = s.kernels ∧ (s.setCtx j x).parts = s.parts ∧ (s.setCtx j x).xcache = s.xcache ∧
    (s.setCtx j x).pageReqs = s.pageReqs ∧ (s.setCtx j x).invs = s.invs ∧ (s.setCtx j x).mem = s.mem ∧ (s.setCtx j x).poison = s.poison ∧
    (s.setCtx j x).host = s.host ∧ (s.setCtx j x).hostAtomics = s.hostAtomics ∧ (s.setCtx j x).rot = s.rot ∧ (s.setCtx j x).rotAt = s.rotAt ∧
    (s.setCtx j x).raised = s.raised ∧ (s.setCtx j x).sent = s.sent ∧ (s.setCtx j x).reqs = s.reqs ∧ (s.setCtx j x).rsps = s.rsps ∧
    (s.setCtx j x).hostReqs = s.hostReqs ∧ (s.setCtx j x).frames = s.frames ∧ (s.setCtx j x).misses = s.misses ∧
    (s.setCtx j x).hosts = s.hosts ∧ (s.setCtx j x).hostUse = s.hostUse ∧ (s.setCtx j x).hostTick = s.hostTick ∧
    (s.setCtx j x).silent = s.silent ∧ (s.setCtx j x).plru = s.plru ∧ (s.setCtx j x).watches = s.watches ∧ (s.setCtx j x).queues = s.queues ∧
    (s.setCtx j x).events = s.events ∧ (s.setCtx j x).ports = s.ports ∧ (s.setCtx j x).els = s.els ∧ (s.setCtx j x).xfers = s.xfers ∧
    (s.setCtx j x).cohorts = s.cohorts ∧ (s.setCtx j x).paces = s.paces ∧ (s.setCtx j x).inbox = s.inbox ∧ (s.setCtx j x).outbox = s.outbox ∧
    (s.setCtx j x).waysOff = s.waysOff ∧ (s.setCtx j x).missOff = s.missOff ∧ (s.setCtx j x).bad = s.bad ∧
    (s.setCtx j x).pageCount = s.pageCount ∧ (s.setCtx j x).pages = s.pages ∧ (s.setCtx j x).freed = s.freed ∧
    (s.setCtx j x).taken = s.taken ∧ (s.setCtx j x).retired = s.retired ∧ (s.setCtx j x).retiring = s.retiring ∧
    (s.setCtx j x).fastCh = s.fastCh ∧ (s.setCtx j x).capCh = s.capCh ∧ (s.setCtx j x).rebuilding = s.rebuilding ∧
    (s.setCtx j x).mapFrames = s.mapFrames ∧ (s.setCtx j x).moves = s.moves ∧ (s.setCtx j x).todo = s.todo ∧ (s.setCtx j x).plan = s.plan ∧
    (s.setCtx j x).policyStarts = s.policyStarts ∧ (s.setCtx j x).otherStarts = s.otherStarts ∧ (s.setCtx j x).sampled = s.sampled ∧
    (s.setCtx j x).cells = s.cells ∧ (s.setCtx j x).lastCells = s.lastCells ∧ (s.setCtx j x).badRows = s.badRows ∧
    (s.setCtx j x).repairs = s.repairs ∧ (s.setCtx j x).stackTemps = s.stackTemps ∧ (s.setCtx j x).capTemps = s.capTemps ∧
    (s.setCtx j x).models = s.models ∧ (s.setCtx j x).herbTick = s.herbTick ∧ (s.setCtx j x).prefetches = s.prefetches ∧
    (s.setCtx j x).hot = s.hot ∧ (s.setCtx j x).hotSeen = s.hotSeen ∧ (s.setCtx j x).epoch = s.epoch ∧
    (s.setCtx j x).epochStart = s.epochStart ∧ (s.setCtx j x).quarantined = s.quarantined ∧ (s.setCtx j x).noSpare = s.noSpare ∧
    (s.setCtx j x).spent = s.spent ∧ (s.setCtx j x).occ = s.occ ∧ (s.setCtx j x).tileCe = s.tileCe ∧ (s.setCtx j x).keys = s.keys ∧
    (s.setCtx j x).stalled = s.stalled ∧ (s.setCtx j x).hashKey = s.hashKey ∧ (s.setCtx j x).rotCycles = s.rotCycles ∧
    (s.setCtx j x).vfs = s.vfs ∧ (s.setCtx j x).bar4 = s.bar4 ∧ (s.setCtx j x).flrs = s.flrs ∧ (s.setCtx j x).tdis = s.tdis ∧
    (s.setCtx j x).pwr = s.pwr ∧ (s.setCtx j x).trust = s.trust ∧ (s.setCtx j x).fuses = s.fuses ∧ (s.setCtx j x).fw = s.fw ∧
    (s.setCtx j x).svc = s.svc ∧ (s.setCtx j x).tmap = s.tmap ∧ (s.setCtx j x).failedPhys = s.failedPhys ∧
    (s.setCtx j x).unsaved = s.unsaved ∧ (s.setCtx j x).bist = s.bist ∧ (s.setCtx j x).recals = s.recals ∧ (s.setCtx j x).links = s.links ∧
    (s.setCtx j x).i3c = s.i3c ∧ (s.setCtx j x).tap = s.tap ∧ (s.setCtx j x).locks = s.locks ∧ (∀ i, (s.setCtx j x).tile i = s.tile i) ∧
    (∀ at_, (s.setCtx j x).clause at_ = s.clause at_) ∧ (∀ i, (s.setCtx j x).kernel i = s.kernel i) ∧
    (∀ q, (s.setCtx j x).part q = s.part q) ∧ (∀ i, (s.setCtx j x).word i = s.word i) ∧ (∀ fl, (s.setCtx j x).fld fl = s.fld fl) ∧
    (∀ i, (s.setCtx j x).frame i = s.frame i) ∧ (∀ i, (s.setCtx j x).miss i = s.miss i) ∧ (∀ i, (s.setCtx j x).hostOf i = s.hostOf i) ∧
    (∀ i, (s.setCtx j x).page i = s.page i) ∧ (∀ i, (s.setCtx j x).queue i = s.queue i) ∧ (∀ i, (s.setCtx j x).model i = s.model i) ∧
    (∀ i, (s.setCtx j x).port i = s.port i) ∧ (∀ i, (s.setCtx j x).cohort i = s.cohort i) ∧ (∀ y, (s.setCtx j x).xfer y = s.xfer y) ∧
    (∀ i, (s.setCtx j x).keySlot i = s.keySlot i) ∧ (∀ i, (s.setCtx j x).tdi i = s.tdi i) ∧ (∀ i, (s.setCtx j x).clk i = s.clk i) ∧
    (∀ i, (s.setCtx j x).cycle i = s.cycle i) ∧ (s.setCtx j x).ready = s.ready ∧ (s.setCtx j x).answers = s.answers ∧
    (s.setCtx j x).rotating = s.rotating :=
  ⟨rfl, rfl, rfl, rfl, rfl, rfl, rfl, rfl, rfl, rfl, rfl, rfl, rfl, rfl, rfl, rfl, rfl, rfl, rfl, rfl, rfl, rfl, rfl, rfl, rfl, rfl, rfl,
    rfl, rfl, rfl, rfl, rfl, rfl, rfl, rfl, rfl, rfl, rfl, rfl, rfl, rfl, rfl, rfl, rfl, rfl, rfl, rfl, rfl, rfl, rfl, rfl, rfl, rfl, rfl,
    rfl, rfl, rfl, rfl, rfl, rfl, rfl, rfl, rfl, rfl, rfl, rfl, rfl, rfl, rfl, rfl, rfl, rfl, rfl, rfl, rfl, rfl, rfl, rfl, rfl, rfl, rfl,
    rfl, rfl, rfl, rfl, rfl, rfl, rfl, rfl, rfl, rfl, rfl, rfl, rfl, rfl, rfl, rfl, rfl, rfl, rfl, fun _ => rfl, fun _ => rfl,
    fun _ => rfl, fun _ => rfl, fun _ => rfl, fun _ => rfl, fun _ => rfl, fun _ => rfl, fun _ => rfl, fun _ => rfl, fun _ => rfl,
    fun _ => rfl, fun _ => rfl, fun _ => rfl, fun _ => rfl, fun _ => rfl, fun _ => rfl, fun _ => rfl, fun _ => rfl, rfl, rfl, rfl⟩

@[simp] theorem State.setPart_frame (j : Nat) (x : Part) :
    (s.setPart j x).pending = s.pending ∧ (s.setPart j x).freeCtr = s.freeCtr ∧ (s.setPart j x).fresh = s.fresh ∧
    (s.setPart j x).now = s.now ∧ (s.setPart j x).t0 = s.t0 ∧ (s.setPart j x).clks = s.clks ∧ (s.setPart j x).regs = s.regs ∧
    (s.setPart j x).tiles = s.tiles ∧ (s.setPart j x).kernels = s.kernels ∧ (s.setPart j x).ctxs = s.ctxs ∧
    (s.setPart j x).xcache = s.xcache ∧ (s.setPart j x).pageReqs = s.pageReqs ∧ (s.setPart j x).invs = s.invs ∧ (s.setPart j x).mem = s.mem ∧
    (s.setPart j x).poison = s.poison ∧ (s.setPart j x).host = s.host ∧ (s.setPart j x).hostAtomics = s.hostAtomics ∧
    (s.setPart j x).rot = s.rot ∧ (s.setPart j x).rotAt = s.rotAt ∧ (s.setPart j x).raised = s.raised ∧ (s.setPart j x).sent = s.sent ∧
    (s.setPart j x).reqs = s.reqs ∧ (s.setPart j x).rsps = s.rsps ∧ (s.setPart j x).hostReqs = s.hostReqs ∧
    (s.setPart j x).frames = s.frames ∧ (s.setPart j x).misses = s.misses ∧ (s.setPart j x).hosts = s.hosts ∧
    (s.setPart j x).hostUse = s.hostUse ∧ (s.setPart j x).hostTick = s.hostTick ∧ (s.setPart j x).silent = s.silent ∧
    (s.setPart j x).plru = s.plru ∧ (s.setPart j x).watches = s.watches ∧ (s.setPart j x).queues = s.queues ∧
    (s.setPart j x).events = s.events ∧ (s.setPart j x).ports = s.ports ∧ (s.setPart j x).els = s.els ∧ (s.setPart j x).xfers = s.xfers ∧
    (s.setPart j x).cohorts = s.cohorts ∧ (s.setPart j x).paces = s.paces ∧ (s.setPart j x).inbox = s.inbox ∧
    (s.setPart j x).outbox = s.outbox ∧ (s.setPart j x).waysOff = s.waysOff ∧ (s.setPart j x).missOff = s.missOff ∧
    (s.setPart j x).bad = s.bad ∧ (s.setPart j x).pageCount = s.pageCount ∧ (s.setPart j x).pages = s.pages ∧
    (s.setPart j x).freed = s.freed ∧ (s.setPart j x).taken = s.taken ∧ (s.setPart j x).retired = s.retired ∧
    (s.setPart j x).retiring = s.retiring ∧ (s.setPart j x).fastCh = s.fastCh ∧ (s.setPart j x).capCh = s.capCh ∧
    (s.setPart j x).rebuilding = s.rebuilding ∧ (s.setPart j x).mapFrames = s.mapFrames ∧ (s.setPart j x).moves = s.moves ∧
    (s.setPart j x).todo = s.todo ∧ (s.setPart j x).plan = s.plan ∧ (s.setPart j x).policyStarts = s.policyStarts ∧
    (s.setPart j x).otherStarts = s.otherStarts ∧ (s.setPart j x).sampled = s.sampled ∧ (s.setPart j x).cells = s.cells ∧
    (s.setPart j x).lastCells = s.lastCells ∧ (s.setPart j x).badRows = s.badRows ∧ (s.setPart j x).repairs = s.repairs ∧
    (s.setPart j x).stackTemps = s.stackTemps ∧ (s.setPart j x).capTemps = s.capTemps ∧ (s.setPart j x).models = s.models ∧
    (s.setPart j x).herbTick = s.herbTick ∧ (s.setPart j x).prefetches = s.prefetches ∧ (s.setPart j x).hot = s.hot ∧
    (s.setPart j x).hotSeen = s.hotSeen ∧ (s.setPart j x).epoch = s.epoch ∧ (s.setPart j x).epochStart = s.epochStart ∧
    (s.setPart j x).quarantined = s.quarantined ∧ (s.setPart j x).noSpare = s.noSpare ∧ (s.setPart j x).spent = s.spent ∧
    (s.setPart j x).occ = s.occ ∧ (s.setPart j x).tileCe = s.tileCe ∧ (s.setPart j x).keys = s.keys ∧ (s.setPart j x).stalled = s.stalled ∧
    (s.setPart j x).hashKey = s.hashKey ∧ (s.setPart j x).rotCycles = s.rotCycles ∧ (s.setPart j x).vfs = s.vfs ∧
    (s.setPart j x).bar4 = s.bar4 ∧ (s.setPart j x).flrs = s.flrs ∧ (s.setPart j x).tdis = s.tdis ∧ (s.setPart j x).pwr = s.pwr ∧
    (s.setPart j x).trust = s.trust ∧ (s.setPart j x).fuses = s.fuses ∧ (s.setPart j x).fw = s.fw ∧ (s.setPart j x).svc = s.svc ∧
    (s.setPart j x).tmap = s.tmap ∧ (s.setPart j x).failedPhys = s.failedPhys ∧ (s.setPart j x).unsaved = s.unsaved ∧
    (s.setPart j x).bist = s.bist ∧ (s.setPart j x).recals = s.recals ∧ (s.setPart j x).links = s.links ∧ (s.setPart j x).i3c = s.i3c ∧
    (s.setPart j x).tap = s.tap ∧ (s.setPart j x).locks = s.locks ∧ (∀ i, (s.setPart j x).tile i = s.tile i) ∧
    (∀ at_, (s.setPart j x).clause at_ = s.clause at_) ∧ (∀ i, (s.setPart j x).kernel i = s.kernel i) ∧
    (∀ i, (s.setPart j x).ctx i = s.ctx i) ∧ (∀ i, (s.setPart j x).word i = s.word i) ∧ (∀ fl, (s.setPart j x).fld fl = s.fld fl) ∧
    (∀ i, (s.setPart j x).frame i = s.frame i) ∧ (∀ i, (s.setPart j x).miss i = s.miss i) ∧ (∀ i, (s.setPart j x).hostOf i = s.hostOf i) ∧
    (∀ i, (s.setPart j x).page i = s.page i) ∧ (∀ i, (s.setPart j x).queue i = s.queue i) ∧ (∀ i, (s.setPart j x).model i = s.model i) ∧
    (∀ i, (s.setPart j x).port i = s.port i) ∧ (∀ i, (s.setPart j x).cohort i = s.cohort i) ∧ (∀ y, (s.setPart j x).xfer y = s.xfer y) ∧
    (∀ i, (s.setPart j x).keySlot i = s.keySlot i) ∧ (∀ i, (s.setPart j x).tdi i = s.tdi i) ∧ (∀ i, (s.setPart j x).clk i = s.clk i) ∧
    (∀ i, (s.setPart j x).cycle i = s.cycle i) ∧ (s.setPart j x).ready = s.ready ∧ (s.setPart j x).answers = s.answers ∧
    (s.setPart j x).rotating = s.rotating :=
  ⟨rfl, rfl, rfl, rfl, rfl, rfl, rfl, rfl, rfl, rfl, rfl, rfl, rfl, rfl, rfl, rfl, rfl, rfl, rfl, rfl, rfl, rfl, rfl, rfl, rfl, rfl, rfl,
    rfl, rfl, rfl, rfl, rfl, rfl, rfl, rfl, rfl, rfl, rfl, rfl, rfl, rfl, rfl, rfl, rfl, rfl, rfl, rfl, rfl, rfl, rfl, rfl, rfl, rfl, rfl,
    rfl, rfl, rfl, rfl, rfl, rfl, rfl, rfl, rfl, rfl, rfl, rfl, rfl, rfl, rfl, rfl, rfl, rfl, rfl, rfl, rfl, rfl, rfl, rfl, rfl, rfl, rfl,
    rfl, rfl, rfl, rfl, rfl, rfl, rfl, rfl, rfl, rfl, rfl, rfl, rfl, rfl, rfl, rfl, rfl, rfl, rfl, fun _ => rfl, fun _ => rfl,
    fun _ => rfl, fun _ => rfl, fun _ => rfl, fun _ => rfl, fun _ => rfl, fun _ => rfl, fun _ => rfl, fun _ => rfl, fun _ => rfl,
    fun _ => rfl, fun _ => rfl, fun _ => rfl, fun _ => rfl, fun _ => rfl, fun _ => rfl, fun _ => rfl, fun _ => rfl, rfl, rfl, rfl⟩

@[simp] theorem State.setKey_frame (j : Nat) (x : KeySlot) :
    (s.setKey j x).pending = s.pending ∧ (s.setKey j x).freeCtr = s.freeCtr ∧ (s.setKey j x).fresh = s.fresh ∧ (s.setKey j x).now = s.now ∧
    (s.setKey j x).t0 = s.t0 ∧ (s.setKey j x).clks = s.clks ∧ (s.setKey j x).regs = s.regs ∧ (s.setKey j x).tiles = s.tiles ∧
    (s.setKey j x).kernels = s.kernels ∧ (s.setKey j x).ctxs = s.ctxs ∧ (s.setKey j x).parts = s.parts ∧ (s.setKey j x).xcache = s.xcache ∧
    (s.setKey j x).pageReqs = s.pageReqs ∧ (s.setKey j x).invs = s.invs ∧ (s.setKey j x).mem = s.mem ∧ (s.setKey j x).poison = s.poison ∧
    (s.setKey j x).host = s.host ∧ (s.setKey j x).hostAtomics = s.hostAtomics ∧ (s.setKey j x).rot = s.rot ∧ (s.setKey j x).rotAt = s.rotAt ∧
    (s.setKey j x).raised = s.raised ∧ (s.setKey j x).sent = s.sent ∧ (s.setKey j x).reqs = s.reqs ∧ (s.setKey j x).rsps = s.rsps ∧
    (s.setKey j x).hostReqs = s.hostReqs ∧ (s.setKey j x).frames = s.frames ∧ (s.setKey j x).misses = s.misses ∧
    (s.setKey j x).hosts = s.hosts ∧ (s.setKey j x).hostUse = s.hostUse ∧ (s.setKey j x).hostTick = s.hostTick ∧
    (s.setKey j x).silent = s.silent ∧ (s.setKey j x).plru = s.plru ∧ (s.setKey j x).watches = s.watches ∧ (s.setKey j x).queues = s.queues ∧
    (s.setKey j x).events = s.events ∧ (s.setKey j x).ports = s.ports ∧ (s.setKey j x).els = s.els ∧ (s.setKey j x).xfers = s.xfers ∧
    (s.setKey j x).cohorts = s.cohorts ∧ (s.setKey j x).paces = s.paces ∧ (s.setKey j x).inbox = s.inbox ∧ (s.setKey j x).outbox = s.outbox ∧
    (s.setKey j x).waysOff = s.waysOff ∧ (s.setKey j x).missOff = s.missOff ∧ (s.setKey j x).bad = s.bad ∧
    (s.setKey j x).pageCount = s.pageCount ∧ (s.setKey j x).pages = s.pages ∧ (s.setKey j x).freed = s.freed ∧
    (s.setKey j x).taken = s.taken ∧ (s.setKey j x).retired = s.retired ∧ (s.setKey j x).retiring = s.retiring ∧
    (s.setKey j x).fastCh = s.fastCh ∧ (s.setKey j x).capCh = s.capCh ∧ (s.setKey j x).rebuilding = s.rebuilding ∧
    (s.setKey j x).mapFrames = s.mapFrames ∧ (s.setKey j x).moves = s.moves ∧ (s.setKey j x).todo = s.todo ∧ (s.setKey j x).plan = s.plan ∧
    (s.setKey j x).policyStarts = s.policyStarts ∧ (s.setKey j x).otherStarts = s.otherStarts ∧ (s.setKey j x).sampled = s.sampled ∧
    (s.setKey j x).cells = s.cells ∧ (s.setKey j x).lastCells = s.lastCells ∧ (s.setKey j x).badRows = s.badRows ∧
    (s.setKey j x).repairs = s.repairs ∧ (s.setKey j x).stackTemps = s.stackTemps ∧ (s.setKey j x).capTemps = s.capTemps ∧
    (s.setKey j x).models = s.models ∧ (s.setKey j x).herbTick = s.herbTick ∧ (s.setKey j x).prefetches = s.prefetches ∧
    (s.setKey j x).hot = s.hot ∧ (s.setKey j x).hotSeen = s.hotSeen ∧ (s.setKey j x).epoch = s.epoch ∧
    (s.setKey j x).epochStart = s.epochStart ∧ (s.setKey j x).quarantined = s.quarantined ∧ (s.setKey j x).noSpare = s.noSpare ∧
    (s.setKey j x).spent = s.spent ∧ (s.setKey j x).occ = s.occ ∧ (s.setKey j x).tileCe = s.tileCe ∧ (s.setKey j x).stalled = s.stalled ∧
    (s.setKey j x).hashKey = s.hashKey ∧ (s.setKey j x).rotCycles = s.rotCycles ∧ (s.setKey j x).vfs = s.vfs ∧ (s.setKey j x).bar4 = s.bar4 ∧
    (s.setKey j x).flrs = s.flrs ∧ (s.setKey j x).tdis = s.tdis ∧ (s.setKey j x).pwr = s.pwr ∧ (s.setKey j x).trust = s.trust ∧
    (s.setKey j x).fuses = s.fuses ∧ (s.setKey j x).fw = s.fw ∧ (s.setKey j x).svc = s.svc ∧ (s.setKey j x).tmap = s.tmap ∧
    (s.setKey j x).failedPhys = s.failedPhys ∧ (s.setKey j x).unsaved = s.unsaved ∧ (s.setKey j x).bist = s.bist ∧
    (s.setKey j x).recals = s.recals ∧ (s.setKey j x).links = s.links ∧ (s.setKey j x).i3c = s.i3c ∧ (s.setKey j x).tap = s.tap ∧
    (s.setKey j x).locks = s.locks ∧ (∀ i, (s.setKey j x).tile i = s.tile i) ∧ (∀ at_, (s.setKey j x).clause at_ = s.clause at_) ∧
    (∀ i, (s.setKey j x).kernel i = s.kernel i) ∧ (∀ i, (s.setKey j x).ctx i = s.ctx i) ∧ (∀ q, (s.setKey j x).part q = s.part q) ∧
    (∀ i, (s.setKey j x).word i = s.word i) ∧ (∀ fl, (s.setKey j x).fld fl = s.fld fl) ∧ (∀ i, (s.setKey j x).frame i = s.frame i) ∧
    (∀ i, (s.setKey j x).miss i = s.miss i) ∧ (∀ i, (s.setKey j x).hostOf i = s.hostOf i) ∧ (∀ i, (s.setKey j x).page i = s.page i) ∧
    (∀ i, (s.setKey j x).queue i = s.queue i) ∧ (∀ i, (s.setKey j x).model i = s.model i) ∧ (∀ i, (s.setKey j x).port i = s.port i) ∧
    (∀ i, (s.setKey j x).cohort i = s.cohort i) ∧ (∀ y, (s.setKey j x).xfer y = s.xfer y) ∧ (∀ i, (s.setKey j x).tdi i = s.tdi i) ∧
    (∀ i, (s.setKey j x).clk i = s.clk i) ∧ (∀ i, (s.setKey j x).cycle i = s.cycle i) ∧ (s.setKey j x).ready = s.ready ∧
    (s.setKey j x).answers = s.answers ∧ (s.setKey j x).rotating = s.rotating ∧
    (∀ c va ac, (s.setKey j x).locate c va ac = s.locate c va ac) :=
  ⟨rfl, rfl, rfl, rfl, rfl, rfl, rfl, rfl, rfl, rfl, rfl, rfl, rfl, rfl, rfl, rfl, rfl, rfl, rfl, rfl, rfl, rfl, rfl, rfl, rfl, rfl, rfl,
    rfl, rfl, rfl, rfl, rfl, rfl, rfl, rfl, rfl, rfl, rfl, rfl, rfl, rfl, rfl, rfl, rfl, rfl, rfl, rfl, rfl, rfl, rfl, rfl, rfl, rfl, rfl,
    rfl, rfl, rfl, rfl, rfl, rfl, rfl, rfl, rfl, rfl, rfl, rfl, rfl, rfl, rfl, rfl, rfl, rfl, rfl, rfl, rfl, rfl, rfl, rfl, rfl, rfl, rfl,
    rfl, rfl, rfl, rfl, rfl, rfl, rfl, rfl, rfl, rfl, rfl, rfl, rfl, rfl, rfl, rfl, rfl, rfl, rfl, fun _ => rfl, fun _ => rfl,
    fun _ => rfl, fun _ => rfl, fun _ => rfl, fun _ => rfl, fun _ => rfl, fun _ => rfl, fun _ => rfl, fun _ => rfl, fun _ => rfl,
    fun _ => rfl, fun _ => rfl, fun _ => rfl, fun _ => rfl, fun _ => rfl, fun _ => rfl, fun _ => rfl, fun _ => rfl, rfl, rfl, rfl,
    fun _ _ _ => rfl⟩

@[simp] theorem State.setTdi_frame (j : Nat) (x : Tdi) :
    (s.setTdi j x).pending = s.pending ∧ (s.setTdi j x).freeCtr = s.freeCtr ∧ (s.setTdi j x).fresh = s.fresh ∧ (s.setTdi j x).now = s.now ∧
    (s.setTdi j x).t0 = s.t0 ∧ (s.setTdi j x).clks = s.clks ∧ (s.setTdi j x).regs = s.regs ∧ (s.setTdi j x).tiles = s.tiles ∧
    (s.setTdi j x).kernels = s.kernels ∧ (s.setTdi j x).ctxs = s.ctxs ∧ (s.setTdi j x).parts = s.parts ∧ (s.setTdi j x).xcache = s.xcache ∧
    (s.setTdi j x).pageReqs = s.pageReqs ∧ (s.setTdi j x).invs = s.invs ∧ (s.setTdi j x).mem = s.mem ∧ (s.setTdi j x).poison = s.poison ∧
    (s.setTdi j x).host = s.host ∧ (s.setTdi j x).hostAtomics = s.hostAtomics ∧ (s.setTdi j x).rot = s.rot ∧ (s.setTdi j x).rotAt = s.rotAt ∧
    (s.setTdi j x).raised = s.raised ∧ (s.setTdi j x).sent = s.sent ∧ (s.setTdi j x).reqs = s.reqs ∧ (s.setTdi j x).rsps = s.rsps ∧
    (s.setTdi j x).hostReqs = s.hostReqs ∧ (s.setTdi j x).frames = s.frames ∧ (s.setTdi j x).misses = s.misses ∧
    (s.setTdi j x).hosts = s.hosts ∧ (s.setTdi j x).hostUse = s.hostUse ∧ (s.setTdi j x).hostTick = s.hostTick ∧
    (s.setTdi j x).silent = s.silent ∧ (s.setTdi j x).plru = s.plru ∧ (s.setTdi j x).watches = s.watches ∧ (s.setTdi j x).queues = s.queues ∧
    (s.setTdi j x).events = s.events ∧ (s.setTdi j x).ports = s.ports ∧ (s.setTdi j x).els = s.els ∧ (s.setTdi j x).xfers = s.xfers ∧
    (s.setTdi j x).cohorts = s.cohorts ∧ (s.setTdi j x).paces = s.paces ∧ (s.setTdi j x).inbox = s.inbox ∧ (s.setTdi j x).outbox = s.outbox ∧
    (s.setTdi j x).waysOff = s.waysOff ∧ (s.setTdi j x).missOff = s.missOff ∧ (s.setTdi j x).bad = s.bad ∧
    (s.setTdi j x).pageCount = s.pageCount ∧ (s.setTdi j x).pages = s.pages ∧ (s.setTdi j x).freed = s.freed ∧
    (s.setTdi j x).taken = s.taken ∧ (s.setTdi j x).retired = s.retired ∧ (s.setTdi j x).retiring = s.retiring ∧
    (s.setTdi j x).fastCh = s.fastCh ∧ (s.setTdi j x).capCh = s.capCh ∧ (s.setTdi j x).rebuilding = s.rebuilding ∧
    (s.setTdi j x).mapFrames = s.mapFrames ∧ (s.setTdi j x).moves = s.moves ∧ (s.setTdi j x).todo = s.todo ∧ (s.setTdi j x).plan = s.plan ∧
    (s.setTdi j x).policyStarts = s.policyStarts ∧ (s.setTdi j x).otherStarts = s.otherStarts ∧ (s.setTdi j x).sampled = s.sampled ∧
    (s.setTdi j x).cells = s.cells ∧ (s.setTdi j x).lastCells = s.lastCells ∧ (s.setTdi j x).badRows = s.badRows ∧
    (s.setTdi j x).repairs = s.repairs ∧ (s.setTdi j x).stackTemps = s.stackTemps ∧ (s.setTdi j x).capTemps = s.capTemps ∧
    (s.setTdi j x).models = s.models ∧ (s.setTdi j x).herbTick = s.herbTick ∧ (s.setTdi j x).prefetches = s.prefetches ∧
    (s.setTdi j x).hot = s.hot ∧ (s.setTdi j x).hotSeen = s.hotSeen ∧ (s.setTdi j x).epoch = s.epoch ∧
    (s.setTdi j x).epochStart = s.epochStart ∧ (s.setTdi j x).quarantined = s.quarantined ∧ (s.setTdi j x).noSpare = s.noSpare ∧
    (s.setTdi j x).spent = s.spent ∧ (s.setTdi j x).occ = s.occ ∧ (s.setTdi j x).tileCe = s.tileCe ∧ (s.setTdi j x).keys = s.keys ∧
    (s.setTdi j x).stalled = s.stalled ∧ (s.setTdi j x).hashKey = s.hashKey ∧ (s.setTdi j x).rotCycles = s.rotCycles ∧
    (s.setTdi j x).vfs = s.vfs ∧ (s.setTdi j x).bar4 = s.bar4 ∧ (s.setTdi j x).flrs = s.flrs ∧ (s.setTdi j x).pwr = s.pwr ∧
    (s.setTdi j x).trust = s.trust ∧ (s.setTdi j x).fuses = s.fuses ∧ (s.setTdi j x).fw = s.fw ∧ (s.setTdi j x).svc = s.svc ∧
    (s.setTdi j x).tmap = s.tmap ∧ (s.setTdi j x).failedPhys = s.failedPhys ∧ (s.setTdi j x).unsaved = s.unsaved ∧
    (s.setTdi j x).bist = s.bist ∧ (s.setTdi j x).recals = s.recals ∧ (s.setTdi j x).links = s.links ∧ (s.setTdi j x).i3c = s.i3c ∧
    (s.setTdi j x).tap = s.tap ∧ (s.setTdi j x).locks = s.locks ∧ (∀ i, (s.setTdi j x).tile i = s.tile i) ∧
    (∀ at_, (s.setTdi j x).clause at_ = s.clause at_) ∧ (∀ i, (s.setTdi j x).kernel i = s.kernel i) ∧ (∀ i, (s.setTdi j x).ctx i = s.ctx i) ∧
    (∀ q, (s.setTdi j x).part q = s.part q) ∧ (∀ i, (s.setTdi j x).word i = s.word i) ∧ (∀ fl, (s.setTdi j x).fld fl = s.fld fl) ∧
    (∀ i, (s.setTdi j x).frame i = s.frame i) ∧ (∀ i, (s.setTdi j x).miss i = s.miss i) ∧ (∀ i, (s.setTdi j x).hostOf i = s.hostOf i) ∧
    (∀ i, (s.setTdi j x).page i = s.page i) ∧ (∀ i, (s.setTdi j x).queue i = s.queue i) ∧ (∀ i, (s.setTdi j x).model i = s.model i) ∧
    (∀ i, (s.setTdi j x).port i = s.port i) ∧ (∀ i, (s.setTdi j x).cohort i = s.cohort i) ∧ (∀ y, (s.setTdi j x).xfer y = s.xfer y) ∧
    (∀ i, (s.setTdi j x).keySlot i = s.keySlot i) ∧ (∀ i, (s.setTdi j x).clk i = s.clk i) ∧ (∀ i, (s.setTdi j x).cycle i = s.cycle i) ∧
    (s.setTdi j x).ready = s.ready ∧ (s.setTdi j x).answers = s.answers ∧ (s.setTdi j x).rotating = s.rotating ∧
    (∀ c va ac, (s.setTdi j x).locate c va ac = s.locate c va ac) :=
  ⟨rfl, rfl, rfl, rfl, rfl, rfl, rfl, rfl, rfl, rfl, rfl, rfl, rfl, rfl, rfl, rfl, rfl, rfl, rfl, rfl, rfl, rfl, rfl, rfl, rfl, rfl, rfl,
    rfl, rfl, rfl, rfl, rfl, rfl, rfl, rfl, rfl, rfl, rfl, rfl, rfl, rfl, rfl, rfl, rfl, rfl, rfl, rfl, rfl, rfl, rfl, rfl, rfl, rfl, rfl,
    rfl, rfl, rfl, rfl, rfl, rfl, rfl, rfl, rfl, rfl, rfl, rfl, rfl, rfl, rfl, rfl, rfl, rfl, rfl, rfl, rfl, rfl, rfl, rfl, rfl, rfl, rfl,
    rfl, rfl, rfl, rfl, rfl, rfl, rfl, rfl, rfl, rfl, rfl, rfl, rfl, rfl, rfl, rfl, rfl, rfl, rfl, fun _ => rfl, fun _ => rfl,
    fun _ => rfl, fun _ => rfl, fun _ => rfl, fun _ => rfl, fun _ => rfl, fun _ => rfl, fun _ => rfl, fun _ => rfl, fun _ => rfl,
    fun _ => rfl, fun _ => rfl, fun _ => rfl, fun _ => rfl, fun _ => rfl, fun _ => rfl, fun _ => rfl, fun _ => rfl, rfl, rfl, rfl,
    fun _ _ _ => rfl⟩

@[simp] theorem State.setFrame_frame (j : Nat) (x : Option Frame) :
    (s.setFrame j x).pending = s.pending ∧ (s.setFrame j x).freeCtr = s.freeCtr ∧ (s.setFrame j x).fresh = s.fresh ∧
    (s.setFrame j x).now = s.now ∧ (s.setFrame j x).t0 = s.t0 ∧ (s.setFrame j x).clks = s.clks ∧ (s.setFrame j x).regs = s.regs ∧
    (s.setFrame j x).tiles = s.tiles ∧ (s.setFrame j x).kernels = s.kernels ∧ (s.setFrame j x).ctxs = s.ctxs ∧
    (s.setFrame j x).parts = s.parts ∧ (s.setFrame j x).xcache = s.xcache ∧ (s.setFrame j x).pageReqs = s.pageReqs ∧
    (s.setFrame j x).invs = s.invs ∧ (s.setFrame j x).mem = s.mem ∧ (s.setFrame j x).poison = s.poison ∧ (s.setFrame j x).host = s.host ∧
    (s.setFrame j x).hostAtomics = s.hostAtomics ∧ (s.setFrame j x).rot = s.rot ∧ (s.setFrame j x).rotAt = s.rotAt ∧
    (s.setFrame j x).raised = s.raised ∧ (s.setFrame j x).sent = s.sent ∧ (s.setFrame j x).reqs = s.reqs ∧ (s.setFrame j x).rsps = s.rsps ∧
    (s.setFrame j x).hostReqs = s.hostReqs ∧ (s.setFrame j x).misses = s.misses ∧ (s.setFrame j x).hosts = s.hosts ∧
    (s.setFrame j x).hostUse = s.hostUse ∧ (s.setFrame j x).hostTick = s.hostTick ∧ (s.setFrame j x).silent = s.silent ∧
    (s.setFrame j x).plru = s.plru ∧ (s.setFrame j x).watches = s.watches ∧ (s.setFrame j x).queues = s.queues ∧
    (s.setFrame j x).events = s.events ∧ (s.setFrame j x).ports = s.ports ∧ (s.setFrame j x).els = s.els ∧ (s.setFrame j x).xfers = s.xfers ∧
    (s.setFrame j x).cohorts = s.cohorts ∧ (s.setFrame j x).paces = s.paces ∧ (s.setFrame j x).inbox = s.inbox ∧
    (s.setFrame j x).outbox = s.outbox ∧ (s.setFrame j x).waysOff = s.waysOff ∧ (s.setFrame j x).missOff = s.missOff ∧
    (s.setFrame j x).bad = s.bad ∧ (s.setFrame j x).pageCount = s.pageCount ∧ (s.setFrame j x).pages = s.pages ∧
    (s.setFrame j x).freed = s.freed ∧ (s.setFrame j x).taken = s.taken ∧ (s.setFrame j x).retired = s.retired ∧
    (s.setFrame j x).retiring = s.retiring ∧ (s.setFrame j x).fastCh = s.fastCh ∧ (s.setFrame j x).capCh = s.capCh ∧
    (s.setFrame j x).rebuilding = s.rebuilding ∧ (s.setFrame j x).mapFrames = s.mapFrames ∧ (s.setFrame j x).moves = s.moves ∧
    (s.setFrame j x).todo = s.todo ∧ (s.setFrame j x).plan = s.plan ∧ (s.setFrame j x).policyStarts = s.policyStarts ∧
    (s.setFrame j x).otherStarts = s.otherStarts ∧ (s.setFrame j x).sampled = s.sampled ∧ (s.setFrame j x).cells = s.cells ∧
    (s.setFrame j x).lastCells = s.lastCells ∧ (s.setFrame j x).badRows = s.badRows ∧ (s.setFrame j x).repairs = s.repairs ∧
    (s.setFrame j x).stackTemps = s.stackTemps ∧ (s.setFrame j x).capTemps = s.capTemps ∧ (s.setFrame j x).models = s.models ∧
    (s.setFrame j x).herbTick = s.herbTick ∧ (s.setFrame j x).prefetches = s.prefetches ∧ (s.setFrame j x).hot = s.hot ∧
    (s.setFrame j x).hotSeen = s.hotSeen ∧ (s.setFrame j x).epoch = s.epoch ∧ (s.setFrame j x).epochStart = s.epochStart ∧
    (s.setFrame j x).quarantined = s.quarantined ∧ (s.setFrame j x).noSpare = s.noSpare ∧ (s.setFrame j x).spent = s.spent ∧
    (s.setFrame j x).occ = s.occ ∧ (s.setFrame j x).tileCe = s.tileCe ∧ (s.setFrame j x).keys = s.keys ∧
    (s.setFrame j x).stalled = s.stalled ∧ (s.setFrame j x).hashKey = s.hashKey ∧ (s.setFrame j x).rotCycles = s.rotCycles ∧
    (s.setFrame j x).vfs = s.vfs ∧ (s.setFrame j x).bar4 = s.bar4 ∧ (s.setFrame j x).flrs = s.flrs ∧ (s.setFrame j x).tdis = s.tdis ∧
    (s.setFrame j x).pwr = s.pwr ∧ (s.setFrame j x).trust = s.trust ∧ (s.setFrame j x).fuses = s.fuses ∧ (s.setFrame j x).fw = s.fw ∧
    (s.setFrame j x).svc = s.svc ∧ (s.setFrame j x).tmap = s.tmap ∧ (s.setFrame j x).failedPhys = s.failedPhys ∧
    (s.setFrame j x).unsaved = s.unsaved ∧ (s.setFrame j x).bist = s.bist ∧ (s.setFrame j x).recals = s.recals ∧
    (s.setFrame j x).links = s.links ∧ (s.setFrame j x).i3c = s.i3c ∧ (s.setFrame j x).tap = s.tap ∧ (s.setFrame j x).locks = s.locks ∧
    (∀ i, (s.setFrame j x).tile i = s.tile i) ∧ (∀ at_, (s.setFrame j x).clause at_ = s.clause at_) ∧
    (∀ i, (s.setFrame j x).kernel i = s.kernel i) ∧ (∀ i, (s.setFrame j x).ctx i = s.ctx i) ∧ (∀ q, (s.setFrame j x).part q = s.part q) ∧
    (∀ i, (s.setFrame j x).word i = s.word i) ∧ (∀ fl, (s.setFrame j x).fld fl = s.fld fl) ∧ (∀ i, (s.setFrame j x).miss i = s.miss i) ∧
    (∀ i, (s.setFrame j x).hostOf i = s.hostOf i) ∧ (∀ i, (s.setFrame j x).page i = s.page i) ∧ (∀ i, (s.setFrame j x).queue i = s.queue i) ∧
    (∀ i, (s.setFrame j x).model i = s.model i) ∧ (∀ i, (s.setFrame j x).port i = s.port i) ∧ (∀ i, (s.setFrame j x).cohort i = s.cohort i) ∧
    (∀ y, (s.setFrame j x).xfer y = s.xfer y) ∧ (∀ i, (s.setFrame j x).keySlot i = s.keySlot i) ∧ (∀ i, (s.setFrame j x).tdi i = s.tdi i) ∧
    (∀ i, (s.setFrame j x).clk i = s.clk i) ∧ (∀ i, (s.setFrame j x).cycle i = s.cycle i) ∧ (s.setFrame j x).ready = s.ready ∧
    (s.setFrame j x).answers = s.answers ∧ (s.setFrame j x).rotating = s.rotating ∧
    (∀ c va ac, (s.setFrame j x).locate c va ac = s.locate c va ac) :=
  ⟨rfl, rfl, rfl, rfl, rfl, rfl, rfl, rfl, rfl, rfl, rfl, rfl, rfl, rfl, rfl, rfl, rfl, rfl, rfl, rfl, rfl, rfl, rfl, rfl, rfl, rfl, rfl,
    rfl, rfl, rfl, rfl, rfl, rfl, rfl, rfl, rfl, rfl, rfl, rfl, rfl, rfl, rfl, rfl, rfl, rfl, rfl, rfl, rfl, rfl, rfl, rfl, rfl, rfl, rfl,
    rfl, rfl, rfl, rfl, rfl, rfl, rfl, rfl, rfl, rfl, rfl, rfl, rfl, rfl, rfl, rfl, rfl, rfl, rfl, rfl, rfl, rfl, rfl, rfl, rfl, rfl, rfl,
    rfl, rfl, rfl, rfl, rfl, rfl, rfl, rfl, rfl, rfl, rfl, rfl, rfl, rfl, rfl, rfl, rfl, rfl, rfl, fun _ => rfl, fun _ => rfl,
    fun _ => rfl, fun _ => rfl, fun _ => rfl, fun _ => rfl, fun _ => rfl, fun _ => rfl, fun _ => rfl, fun _ => rfl, fun _ => rfl,
    fun _ => rfl, fun _ => rfl, fun _ => rfl, fun _ => rfl, fun _ => rfl, fun _ => rfl, fun _ => rfl, fun _ => rfl, rfl, rfl, rfl,
    fun _ _ _ => rfl⟩

@[simp] theorem State.setMiss_frame (j : Nat) (x : Option Miss) :
    (s.setMiss j x).pending = s.pending ∧ (s.setMiss j x).freeCtr = s.freeCtr ∧ (s.setMiss j x).fresh = s.fresh ∧
    (s.setMiss j x).now = s.now ∧ (s.setMiss j x).t0 = s.t0 ∧ (s.setMiss j x).clks = s.clks ∧ (s.setMiss j x).regs = s.regs ∧
    (s.setMiss j x).tiles = s.tiles ∧ (s.setMiss j x).kernels = s.kernels ∧ (s.setMiss j x).ctxs = s.ctxs ∧ (s.setMiss j x).parts = s.parts ∧
    (s.setMiss j x).xcache = s.xcache ∧ (s.setMiss j x).pageReqs = s.pageReqs ∧ (s.setMiss j x).invs = s.invs ∧ (s.setMiss j x).mem = s.mem ∧
    (s.setMiss j x).poison = s.poison ∧ (s.setMiss j x).host = s.host ∧ (s.setMiss j x).hostAtomics = s.hostAtomics ∧
    (s.setMiss j x).rot = s.rot ∧ (s.setMiss j x).rotAt = s.rotAt ∧ (s.setMiss j x).raised = s.raised ∧ (s.setMiss j x).sent = s.sent ∧
    (s.setMiss j x).reqs = s.reqs ∧ (s.setMiss j x).rsps = s.rsps ∧ (s.setMiss j x).hostReqs = s.hostReqs ∧
    (s.setMiss j x).frames = s.frames ∧ (s.setMiss j x).hosts = s.hosts ∧ (s.setMiss j x).hostUse = s.hostUse ∧
    (s.setMiss j x).hostTick = s.hostTick ∧ (s.setMiss j x).silent = s.silent ∧ (s.setMiss j x).plru = s.plru ∧
    (s.setMiss j x).watches = s.watches ∧ (s.setMiss j x).queues = s.queues ∧ (s.setMiss j x).events = s.events ∧
    (s.setMiss j x).ports = s.ports ∧ (s.setMiss j x).els = s.els ∧ (s.setMiss j x).xfers = s.xfers ∧ (s.setMiss j x).cohorts = s.cohorts ∧
    (s.setMiss j x).paces = s.paces ∧ (s.setMiss j x).inbox = s.inbox ∧ (s.setMiss j x).outbox = s.outbox ∧
    (s.setMiss j x).waysOff = s.waysOff ∧ (s.setMiss j x).missOff = s.missOff ∧ (s.setMiss j x).bad = s.bad ∧
    (s.setMiss j x).pageCount = s.pageCount ∧ (s.setMiss j x).pages = s.pages ∧ (s.setMiss j x).freed = s.freed ∧
    (s.setMiss j x).taken = s.taken ∧ (s.setMiss j x).retired = s.retired ∧ (s.setMiss j x).retiring = s.retiring ∧
    (s.setMiss j x).fastCh = s.fastCh ∧ (s.setMiss j x).capCh = s.capCh ∧ (s.setMiss j x).rebuilding = s.rebuilding ∧
    (s.setMiss j x).mapFrames = s.mapFrames ∧ (s.setMiss j x).moves = s.moves ∧ (s.setMiss j x).todo = s.todo ∧
    (s.setMiss j x).plan = s.plan ∧ (s.setMiss j x).policyStarts = s.policyStarts ∧ (s.setMiss j x).otherStarts = s.otherStarts ∧
    (s.setMiss j x).sampled = s.sampled ∧ (s.setMiss j x).cells = s.cells ∧ (s.setMiss j x).lastCells = s.lastCells ∧
    (s.setMiss j x).badRows = s.badRows ∧ (s.setMiss j x).repairs = s.repairs ∧ (s.setMiss j x).stackTemps = s.stackTemps ∧
    (s.setMiss j x).capTemps = s.capTemps ∧ (s.setMiss j x).models = s.models ∧ (s.setMiss j x).herbTick = s.herbTick ∧
    (s.setMiss j x).prefetches = s.prefetches ∧ (s.setMiss j x).hot = s.hot ∧ (s.setMiss j x).hotSeen = s.hotSeen ∧
    (s.setMiss j x).epoch = s.epoch ∧ (s.setMiss j x).epochStart = s.epochStart ∧ (s.setMiss j x).quarantined = s.quarantined ∧
    (s.setMiss j x).noSpare = s.noSpare ∧ (s.setMiss j x).spent = s.spent ∧ (s.setMiss j x).occ = s.occ ∧ (s.setMiss j x).tileCe = s.tileCe ∧
    (s.setMiss j x).keys = s.keys ∧ (s.setMiss j x).stalled = s.stalled ∧ (s.setMiss j x).hashKey = s.hashKey ∧
    (s.setMiss j x).rotCycles = s.rotCycles ∧ (s.setMiss j x).vfs = s.vfs ∧ (s.setMiss j x).bar4 = s.bar4 ∧ (s.setMiss j x).flrs = s.flrs ∧
    (s.setMiss j x).tdis = s.tdis ∧ (s.setMiss j x).pwr = s.pwr ∧ (s.setMiss j x).trust = s.trust ∧ (s.setMiss j x).fuses = s.fuses ∧
    (s.setMiss j x).fw = s.fw ∧ (s.setMiss j x).svc = s.svc ∧ (s.setMiss j x).tmap = s.tmap ∧ (s.setMiss j x).failedPhys = s.failedPhys ∧
    (s.setMiss j x).unsaved = s.unsaved ∧ (s.setMiss j x).bist = s.bist ∧ (s.setMiss j x).recals = s.recals ∧
    (s.setMiss j x).links = s.links ∧ (s.setMiss j x).i3c = s.i3c ∧ (s.setMiss j x).tap = s.tap ∧ (s.setMiss j x).locks = s.locks ∧
    (∀ i, (s.setMiss j x).tile i = s.tile i) ∧ (∀ at_, (s.setMiss j x).clause at_ = s.clause at_) ∧
    (∀ i, (s.setMiss j x).kernel i = s.kernel i) ∧ (∀ i, (s.setMiss j x).ctx i = s.ctx i) ∧ (∀ q, (s.setMiss j x).part q = s.part q) ∧
    (∀ i, (s.setMiss j x).word i = s.word i) ∧ (∀ fl, (s.setMiss j x).fld fl = s.fld fl) ∧ (∀ i, (s.setMiss j x).frame i = s.frame i) ∧
    (∀ i, (s.setMiss j x).hostOf i = s.hostOf i) ∧ (∀ i, (s.setMiss j x).page i = s.page i) ∧ (∀ i, (s.setMiss j x).queue i = s.queue i) ∧
    (∀ i, (s.setMiss j x).model i = s.model i) ∧ (∀ i, (s.setMiss j x).port i = s.port i) ∧ (∀ i, (s.setMiss j x).cohort i = s.cohort i) ∧
    (∀ y, (s.setMiss j x).xfer y = s.xfer y) ∧ (∀ i, (s.setMiss j x).keySlot i = s.keySlot i) ∧ (∀ i, (s.setMiss j x).tdi i = s.tdi i) ∧
    (∀ i, (s.setMiss j x).clk i = s.clk i) ∧ (∀ i, (s.setMiss j x).cycle i = s.cycle i) ∧ (s.setMiss j x).ready = s.ready ∧
    (s.setMiss j x).answers = s.answers ∧ (s.setMiss j x).rotating = s.rotating ∧
    (∀ c va ac, (s.setMiss j x).locate c va ac = s.locate c va ac) :=
  ⟨rfl, rfl, rfl, rfl, rfl, rfl, rfl, rfl, rfl, rfl, rfl, rfl, rfl, rfl, rfl, rfl, rfl, rfl, rfl, rfl, rfl, rfl, rfl, rfl, rfl, rfl, rfl,
    rfl, rfl, rfl, rfl, rfl, rfl, rfl, rfl, rfl, rfl, rfl, rfl, rfl, rfl, rfl, rfl, rfl, rfl, rfl, rfl, rfl, rfl, rfl, rfl, rfl, rfl, rfl,
    rfl, rfl, rfl, rfl, rfl, rfl, rfl, rfl, rfl, rfl, rfl, rfl, rfl, rfl, rfl, rfl, rfl, rfl, rfl, rfl, rfl, rfl, rfl, rfl, rfl, rfl, rfl,
    rfl, rfl, rfl, rfl, rfl, rfl, rfl, rfl, rfl, rfl, rfl, rfl, rfl, rfl, rfl, rfl, rfl, rfl, rfl, fun _ => rfl, fun _ => rfl,
    fun _ => rfl, fun _ => rfl, fun _ => rfl, fun _ => rfl, fun _ => rfl, fun _ => rfl, fun _ => rfl, fun _ => rfl, fun _ => rfl,
    fun _ => rfl, fun _ => rfl, fun _ => rfl, fun _ => rfl, fun _ => rfl, fun _ => rfl, fun _ => rfl, fun _ => rfl, rfl, rfl, rfl,
    fun _ _ _ => rfl⟩

@[simp] theorem State.setHost_frame (j : Nat) (x : Option HostSt) :
    (s.setHost j x).pending = s.pending ∧ (s.setHost j x).freeCtr = s.freeCtr ∧ (s.setHost j x).fresh = s.fresh ∧
    (s.setHost j x).now = s.now ∧ (s.setHost j x).t0 = s.t0 ∧ (s.setHost j x).clks = s.clks ∧ (s.setHost j x).regs = s.regs ∧
    (s.setHost j x).tiles = s.tiles ∧ (s.setHost j x).kernels = s.kernels ∧ (s.setHost j x).ctxs = s.ctxs ∧ (s.setHost j x).parts = s.parts ∧
    (s.setHost j x).xcache = s.xcache ∧ (s.setHost j x).pageReqs = s.pageReqs ∧ (s.setHost j x).invs = s.invs ∧ (s.setHost j x).mem = s.mem ∧
    (s.setHost j x).poison = s.poison ∧ (s.setHost j x).host = s.host ∧ (s.setHost j x).hostAtomics = s.hostAtomics ∧
    (s.setHost j x).rot = s.rot ∧ (s.setHost j x).rotAt = s.rotAt ∧ (s.setHost j x).raised = s.raised ∧ (s.setHost j x).sent = s.sent ∧
    (s.setHost j x).reqs = s.reqs ∧ (s.setHost j x).rsps = s.rsps ∧ (s.setHost j x).hostReqs = s.hostReqs ∧
    (s.setHost j x).frames = s.frames ∧ (s.setHost j x).misses = s.misses ∧ (s.setHost j x).silent = s.silent ∧
    (s.setHost j x).plru = s.plru ∧ (s.setHost j x).watches = s.watches ∧ (s.setHost j x).queues = s.queues ∧
    (s.setHost j x).events = s.events ∧ (s.setHost j x).ports = s.ports ∧ (s.setHost j x).els = s.els ∧ (s.setHost j x).xfers = s.xfers ∧
    (s.setHost j x).cohorts = s.cohorts ∧ (s.setHost j x).paces = s.paces ∧ (s.setHost j x).inbox = s.inbox ∧
    (s.setHost j x).outbox = s.outbox ∧ (s.setHost j x).waysOff = s.waysOff ∧ (s.setHost j x).missOff = s.missOff ∧
    (s.setHost j x).bad = s.bad ∧ (s.setHost j x).pageCount = s.pageCount ∧ (s.setHost j x).pages = s.pages ∧
    (s.setHost j x).freed = s.freed ∧ (s.setHost j x).taken = s.taken ∧ (s.setHost j x).retired = s.retired ∧
    (s.setHost j x).retiring = s.retiring ∧ (s.setHost j x).fastCh = s.fastCh ∧ (s.setHost j x).capCh = s.capCh ∧
    (s.setHost j x).rebuilding = s.rebuilding ∧ (s.setHost j x).mapFrames = s.mapFrames ∧ (s.setHost j x).moves = s.moves ∧
    (s.setHost j x).todo = s.todo ∧ (s.setHost j x).plan = s.plan ∧ (s.setHost j x).policyStarts = s.policyStarts ∧
    (s.setHost j x).otherStarts = s.otherStarts ∧ (s.setHost j x).sampled = s.sampled ∧ (s.setHost j x).cells = s.cells ∧
    (s.setHost j x).lastCells = s.lastCells ∧ (s.setHost j x).badRows = s.badRows ∧ (s.setHost j x).repairs = s.repairs ∧
    (s.setHost j x).stackTemps = s.stackTemps ∧ (s.setHost j x).capTemps = s.capTemps ∧ (s.setHost j x).models = s.models ∧
    (s.setHost j x).herbTick = s.herbTick ∧ (s.setHost j x).prefetches = s.prefetches ∧ (s.setHost j x).hot = s.hot ∧
    (s.setHost j x).hotSeen = s.hotSeen ∧ (s.setHost j x).epoch = s.epoch ∧ (s.setHost j x).epochStart = s.epochStart ∧
    (s.setHost j x).quarantined = s.quarantined ∧ (s.setHost j x).noSpare = s.noSpare ∧ (s.setHost j x).spent = s.spent ∧
    (s.setHost j x).occ = s.occ ∧ (s.setHost j x).tileCe = s.tileCe ∧ (s.setHost j x).keys = s.keys ∧ (s.setHost j x).stalled = s.stalled ∧
    (s.setHost j x).hashKey = s.hashKey ∧ (s.setHost j x).rotCycles = s.rotCycles ∧ (s.setHost j x).vfs = s.vfs ∧
    (s.setHost j x).bar4 = s.bar4 ∧ (s.setHost j x).flrs = s.flrs ∧ (s.setHost j x).tdis = s.tdis ∧ (s.setHost j x).pwr = s.pwr ∧
    (s.setHost j x).trust = s.trust ∧ (s.setHost j x).fuses = s.fuses ∧ (s.setHost j x).fw = s.fw ∧ (s.setHost j x).svc = s.svc ∧
    (s.setHost j x).tmap = s.tmap ∧ (s.setHost j x).failedPhys = s.failedPhys ∧ (s.setHost j x).unsaved = s.unsaved ∧
    (s.setHost j x).bist = s.bist ∧ (s.setHost j x).recals = s.recals ∧ (s.setHost j x).links = s.links ∧ (s.setHost j x).i3c = s.i3c ∧
    (s.setHost j x).tap = s.tap ∧ (s.setHost j x).locks = s.locks ∧ (∀ i, (s.setHost j x).tile i = s.tile i) ∧
    (∀ at_, (s.setHost j x).clause at_ = s.clause at_) ∧ (∀ i, (s.setHost j x).kernel i = s.kernel i) ∧
    (∀ i, (s.setHost j x).ctx i = s.ctx i) ∧ (∀ q, (s.setHost j x).part q = s.part q) ∧ (∀ i, (s.setHost j x).word i = s.word i) ∧
    (∀ fl, (s.setHost j x).fld fl = s.fld fl) ∧ (∀ i, (s.setHost j x).frame i = s.frame i) ∧ (∀ i, (s.setHost j x).miss i = s.miss i) ∧
    (∀ i, (s.setHost j x).page i = s.page i) ∧ (∀ i, (s.setHost j x).queue i = s.queue i) ∧ (∀ i, (s.setHost j x).model i = s.model i) ∧
    (∀ i, (s.setHost j x).port i = s.port i) ∧ (∀ i, (s.setHost j x).cohort i = s.cohort i) ∧ (∀ y, (s.setHost j x).xfer y = s.xfer y) ∧
    (∀ i, (s.setHost j x).keySlot i = s.keySlot i) ∧ (∀ i, (s.setHost j x).tdi i = s.tdi i) ∧ (∀ i, (s.setHost j x).clk i = s.clk i) ∧
    (∀ i, (s.setHost j x).cycle i = s.cycle i) ∧ (s.setHost j x).ready = s.ready ∧ (s.setHost j x).answers = s.answers ∧
    (s.setHost j x).rotating = s.rotating ∧ (∀ c va ac, (s.setHost j x).locate c va ac = s.locate c va ac) :=
  ⟨rfl, rfl, rfl, rfl, rfl, rfl, rfl, rfl, rfl, rfl, rfl, rfl, rfl, rfl, rfl, rfl, rfl, rfl, rfl, rfl, rfl, rfl, rfl, rfl, rfl, rfl, rfl,
    rfl, rfl, rfl, rfl, rfl, rfl, rfl, rfl, rfl, rfl, rfl, rfl, rfl, rfl, rfl, rfl, rfl, rfl, rfl, rfl, rfl, rfl, rfl, rfl, rfl, rfl, rfl,
    rfl, rfl, rfl, rfl, rfl, rfl, rfl, rfl, rfl, rfl, rfl, rfl, rfl, rfl, rfl, rfl, rfl, rfl, rfl, rfl, rfl, rfl, rfl, rfl, rfl, rfl, rfl,
    rfl, rfl, rfl, rfl, rfl, rfl, rfl, rfl, rfl, rfl, rfl, rfl, rfl, rfl, rfl, rfl, rfl, fun _ => rfl, fun _ => rfl, fun _ => rfl,
    fun _ => rfl, fun _ => rfl, fun _ => rfl, fun _ => rfl, fun _ => rfl, fun _ => rfl, fun _ => rfl, fun _ => rfl, fun _ => rfl,
    fun _ => rfl, fun _ => rfl, fun _ => rfl, fun _ => rfl, fun _ => rfl, fun _ => rfl, fun _ => rfl, rfl, rfl, rfl, fun _ _ _ => rfl⟩

@[simp] theorem State.setPoison_frame (j : Nat) (b : Bool) :
    (s.setPoison j b).pending = s.pending ∧ (s.setPoison j b).freeCtr = s.freeCtr ∧ (s.setPoison j b).fresh = s.fresh ∧
    (s.setPoison j b).now = s.now ∧ (s.setPoison j b).t0 = s.t0 ∧ (s.setPoison j b).clks = s.clks ∧ (s.setPoison j b).regs = s.regs ∧
    (s.setPoison j b).tiles = s.tiles ∧ (s.setPoison j b).kernels = s.kernels ∧ (s.setPoison j b).ctxs = s.ctxs ∧
    (s.setPoison j b).parts = s.parts ∧ (s.setPoison j b).xcache = s.xcache ∧ (s.setPoison j b).pageReqs = s.pageReqs ∧
    (s.setPoison j b).invs = s.invs ∧ (s.setPoison j b).mem = s.mem ∧ (s.setPoison j b).host = s.host ∧
    (s.setPoison j b).hostAtomics = s.hostAtomics ∧ (s.setPoison j b).rot = s.rot ∧ (s.setPoison j b).rotAt = s.rotAt ∧
    (s.setPoison j b).raised = s.raised ∧ (s.setPoison j b).sent = s.sent ∧ (s.setPoison j b).reqs = s.reqs ∧
    (s.setPoison j b).rsps = s.rsps ∧ (s.setPoison j b).hostReqs = s.hostReqs ∧ (s.setPoison j b).frames = s.frames ∧
    (s.setPoison j b).misses = s.misses ∧ (s.setPoison j b).hosts = s.hosts ∧ (s.setPoison j b).hostUse = s.hostUse ∧
    (s.setPoison j b).hostTick = s.hostTick ∧ (s.setPoison j b).silent = s.silent ∧ (s.setPoison j b).plru = s.plru ∧
    (s.setPoison j b).watches = s.watches ∧ (s.setPoison j b).queues = s.queues ∧ (s.setPoison j b).events = s.events ∧
    (s.setPoison j b).ports = s.ports ∧ (s.setPoison j b).els = s.els ∧ (s.setPoison j b).xfers = s.xfers ∧
    (s.setPoison j b).cohorts = s.cohorts ∧ (s.setPoison j b).paces = s.paces ∧ (s.setPoison j b).inbox = s.inbox ∧
    (s.setPoison j b).outbox = s.outbox ∧ (s.setPoison j b).waysOff = s.waysOff ∧ (s.setPoison j b).missOff = s.missOff ∧
    (s.setPoison j b).bad = s.bad ∧ (s.setPoison j b).pageCount = s.pageCount ∧ (s.setPoison j b).pages = s.pages ∧
    (s.setPoison j b).freed = s.freed ∧ (s.setPoison j b).taken = s.taken ∧ (s.setPoison j b).retired = s.retired ∧
    (s.setPoison j b).retiring = s.retiring ∧ (s.setPoison j b).fastCh = s.fastCh ∧ (s.setPoison j b).capCh = s.capCh ∧
    (s.setPoison j b).rebuilding = s.rebuilding ∧ (s.setPoison j b).mapFrames = s.mapFrames ∧ (s.setPoison j b).moves = s.moves ∧
    (s.setPoison j b).todo = s.todo ∧ (s.setPoison j b).plan = s.plan ∧ (s.setPoison j b).policyStarts = s.policyStarts ∧
    (s.setPoison j b).otherStarts = s.otherStarts ∧ (s.setPoison j b).sampled = s.sampled ∧ (s.setPoison j b).cells = s.cells ∧
    (s.setPoison j b).lastCells = s.lastCells ∧ (s.setPoison j b).badRows = s.badRows ∧ (s.setPoison j b).repairs = s.repairs ∧
    (s.setPoison j b).stackTemps = s.stackTemps ∧ (s.setPoison j b).capTemps = s.capTemps ∧ (s.setPoison j b).models = s.models ∧
    (s.setPoison j b).herbTick = s.herbTick ∧ (s.setPoison j b).prefetches = s.prefetches ∧ (s.setPoison j b).hot = s.hot ∧
    (s.setPoison j b).hotSeen = s.hotSeen ∧ (s.setPoison j b).epoch = s.epoch ∧ (s.setPoison j b).epochStart = s.epochStart ∧
    (s.setPoison j b).quarantined = s.quarantined ∧ (s.setPoison j b).noSpare = s.noSpare ∧ (s.setPoison j b).spent = s.spent ∧
    (s.setPoison j b).occ = s.occ ∧ (s.setPoison j b).tileCe = s.tileCe ∧ (s.setPoison j b).keys = s.keys ∧
    (s.setPoison j b).stalled = s.stalled ∧ (s.setPoison j b).hashKey = s.hashKey ∧ (s.setPoison j b).rotCycles = s.rotCycles ∧
    (s.setPoison j b).vfs = s.vfs ∧ (s.setPoison j b).bar4 = s.bar4 ∧ (s.setPoison j b).flrs = s.flrs ∧ (s.setPoison j b).tdis = s.tdis ∧
    (s.setPoison j b).pwr = s.pwr ∧ (s.setPoison j b).trust = s.trust ∧ (s.setPoison j b).fuses = s.fuses ∧ (s.setPoison j b).fw = s.fw ∧
    (s.setPoison j b).svc = s.svc ∧ (s.setPoison j b).tmap = s.tmap ∧ (s.setPoison j b).failedPhys = s.failedPhys ∧
    (s.setPoison j b).unsaved = s.unsaved ∧ (s.setPoison j b).bist = s.bist ∧ (s.setPoison j b).recals = s.recals ∧
    (s.setPoison j b).links = s.links ∧ (s.setPoison j b).i3c = s.i3c ∧ (s.setPoison j b).tap = s.tap ∧ (s.setPoison j b).locks = s.locks ∧
    (∀ i, (s.setPoison j b).tile i = s.tile i) ∧ (∀ at_, (s.setPoison j b).clause at_ = s.clause at_) ∧
    (∀ i, (s.setPoison j b).kernel i = s.kernel i) ∧ (∀ i, (s.setPoison j b).ctx i = s.ctx i) ∧ (∀ q, (s.setPoison j b).part q = s.part q) ∧
    (∀ i, (s.setPoison j b).word i = s.word i) ∧ (∀ fl, (s.setPoison j b).fld fl = s.fld fl) ∧ (∀ i, (s.setPoison j b).frame i = s.frame i) ∧
    (∀ i, (s.setPoison j b).miss i = s.miss i) ∧ (∀ i, (s.setPoison j b).hostOf i = s.hostOf i) ∧ (∀ i, (s.setPoison j b).page i = s.page i) ∧
    (∀ i, (s.setPoison j b).queue i = s.queue i) ∧ (∀ i, (s.setPoison j b).model i = s.model i) ∧ (∀ i, (s.setPoison j b).port i = s.port i) ∧
    (∀ i, (s.setPoison j b).cohort i = s.cohort i) ∧ (∀ y, (s.setPoison j b).xfer y = s.xfer y) ∧
    (∀ i, (s.setPoison j b).keySlot i = s.keySlot i) ∧ (∀ i, (s.setPoison j b).tdi i = s.tdi i) ∧ (∀ i, (s.setPoison j b).clk i = s.clk i) ∧
    (∀ i, (s.setPoison j b).cycle i = s.cycle i) ∧ (s.setPoison j b).ready = s.ready ∧ (s.setPoison j b).answers = s.answers ∧
    (s.setPoison j b).rotating = s.rotating ∧ (∀ c va ac, (s.setPoison j b).locate c va ac = s.locate c va ac) :=
  ⟨rfl, rfl, rfl, rfl, rfl, rfl, rfl, rfl, rfl, rfl, rfl, rfl, rfl, rfl, rfl, rfl, rfl, rfl, rfl, rfl, rfl, rfl, rfl, rfl, rfl, rfl, rfl,
    rfl, rfl, rfl, rfl, rfl, rfl, rfl, rfl, rfl, rfl, rfl, rfl, rfl, rfl, rfl, rfl, rfl, rfl, rfl, rfl, rfl, rfl, rfl, rfl, rfl, rfl, rfl,
    rfl, rfl, rfl, rfl, rfl, rfl, rfl, rfl, rfl, rfl, rfl, rfl, rfl, rfl, rfl, rfl, rfl, rfl, rfl, rfl, rfl, rfl, rfl, rfl, rfl, rfl, rfl,
    rfl, rfl, rfl, rfl, rfl, rfl, rfl, rfl, rfl, rfl, rfl, rfl, rfl, rfl, rfl, rfl, rfl, rfl, rfl, fun _ => rfl, fun _ => rfl,
    fun _ => rfl, fun _ => rfl, fun _ => rfl, fun _ => rfl, fun _ => rfl, fun _ => rfl, fun _ => rfl, fun _ => rfl, fun _ => rfl,
    fun _ => rfl, fun _ => rfl, fun _ => rfl, fun _ => rfl, fun _ => rfl, fun _ => rfl, fun _ => rfl, fun _ => rfl, fun _ => rfl, rfl, rfl,
    rfl, fun _ _ _ => rfl⟩

@[simp] theorem State.setQueue_frame (j : Nat) (x : Queue) :
    (s.setQueue j x).pending = s.pending ∧ (s.setQueue j x).freeCtr = s.freeCtr ∧ (s.setQueue j x).fresh = s.fresh ∧
    (s.setQueue j x).now = s.now ∧ (s.setQueue j x).t0 = s.t0 ∧ (s.setQueue j x).clks = s.clks ∧ (s.setQueue j x).regs = s.regs ∧
    (s.setQueue j x).tiles = s.tiles ∧ (s.setQueue j x).kernels = s.kernels ∧ (s.setQueue j x).ctxs = s.ctxs ∧
    (s.setQueue j x).parts = s.parts ∧ (s.setQueue j x).xcache = s.xcache ∧ (s.setQueue j x).pageReqs = s.pageReqs ∧
    (s.setQueue j x).invs = s.invs ∧ (s.setQueue j x).mem = s.mem ∧ (s.setQueue j x).poison = s.poison ∧ (s.setQueue j x).host = s.host ∧
    (s.setQueue j x).hostAtomics = s.hostAtomics ∧ (s.setQueue j x).rot = s.rot ∧ (s.setQueue j x).rotAt = s.rotAt ∧
    (s.setQueue j x).raised = s.raised ∧ (s.setQueue j x).sent = s.sent ∧ (s.setQueue j x).reqs = s.reqs ∧ (s.setQueue j x).rsps = s.rsps ∧
    (s.setQueue j x).hostReqs = s.hostReqs ∧ (s.setQueue j x).frames = s.frames ∧ (s.setQueue j x).misses = s.misses ∧
    (s.setQueue j x).hosts = s.hosts ∧ (s.setQueue j x).hostUse = s.hostUse ∧ (s.setQueue j x).hostTick = s.hostTick ∧
    (s.setQueue j x).silent = s.silent ∧ (s.setQueue j x).plru = s.plru ∧ (s.setQueue j x).watches = s.watches ∧
    (s.setQueue j x).events = s.events ∧ (s.setQueue j x).ports = s.ports ∧ (s.setQueue j x).els = s.els ∧ (s.setQueue j x).xfers = s.xfers ∧
    (s.setQueue j x).cohorts = s.cohorts ∧ (s.setQueue j x).paces = s.paces ∧ (s.setQueue j x).inbox = s.inbox ∧
    (s.setQueue j x).outbox = s.outbox ∧ (s.setQueue j x).waysOff = s.waysOff ∧ (s.setQueue j x).missOff = s.missOff ∧
    (s.setQueue j x).bad = s.bad ∧ (s.setQueue j x).pageCount = s.pageCount ∧ (s.setQueue j x).pages = s.pages ∧
    (s.setQueue j x).freed = s.freed ∧ (s.setQueue j x).taken = s.taken ∧ (s.setQueue j x).retired = s.retired ∧
    (s.setQueue j x).retiring = s.retiring ∧ (s.setQueue j x).fastCh = s.fastCh ∧ (s.setQueue j x).capCh = s.capCh ∧
    (s.setQueue j x).rebuilding = s.rebuilding ∧ (s.setQueue j x).mapFrames = s.mapFrames ∧ (s.setQueue j x).moves = s.moves ∧
    (s.setQueue j x).todo = s.todo ∧ (s.setQueue j x).plan = s.plan ∧ (s.setQueue j x).policyStarts = s.policyStarts ∧
    (s.setQueue j x).otherStarts = s.otherStarts ∧ (s.setQueue j x).sampled = s.sampled ∧ (s.setQueue j x).cells = s.cells ∧
    (s.setQueue j x).lastCells = s.lastCells ∧ (s.setQueue j x).badRows = s.badRows ∧ (s.setQueue j x).repairs = s.repairs ∧
    (s.setQueue j x).stackTemps = s.stackTemps ∧ (s.setQueue j x).capTemps = s.capTemps ∧ (s.setQueue j x).models = s.models ∧
    (s.setQueue j x).herbTick = s.herbTick ∧ (s.setQueue j x).prefetches = s.prefetches ∧ (s.setQueue j x).hot = s.hot ∧
    (s.setQueue j x).hotSeen = s.hotSeen ∧ (s.setQueue j x).epoch = s.epoch ∧ (s.setQueue j x).epochStart = s.epochStart ∧
    (s.setQueue j x).quarantined = s.quarantined ∧ (s.setQueue j x).noSpare = s.noSpare ∧ (s.setQueue j x).spent = s.spent ∧
    (s.setQueue j x).occ = s.occ ∧ (s.setQueue j x).tileCe = s.tileCe ∧ (s.setQueue j x).keys = s.keys ∧
    (s.setQueue j x).stalled = s.stalled ∧ (s.setQueue j x).hashKey = s.hashKey ∧ (s.setQueue j x).rotCycles = s.rotCycles ∧
    (s.setQueue j x).vfs = s.vfs ∧ (s.setQueue j x).bar4 = s.bar4 ∧ (s.setQueue j x).flrs = s.flrs ∧ (s.setQueue j x).tdis = s.tdis ∧
    (s.setQueue j x).pwr = s.pwr ∧ (s.setQueue j x).trust = s.trust ∧ (s.setQueue j x).fuses = s.fuses ∧ (s.setQueue j x).fw = s.fw ∧
    (s.setQueue j x).svc = s.svc ∧ (s.setQueue j x).tmap = s.tmap ∧ (s.setQueue j x).failedPhys = s.failedPhys ∧
    (s.setQueue j x).unsaved = s.unsaved ∧ (s.setQueue j x).bist = s.bist ∧ (s.setQueue j x).recals = s.recals ∧
    (s.setQueue j x).links = s.links ∧ (s.setQueue j x).i3c = s.i3c ∧ (s.setQueue j x).tap = s.tap ∧ (s.setQueue j x).locks = s.locks ∧
    (∀ i, (s.setQueue j x).tile i = s.tile i) ∧ (∀ at_, (s.setQueue j x).clause at_ = s.clause at_) ∧
    (∀ i, (s.setQueue j x).kernel i = s.kernel i) ∧ (∀ i, (s.setQueue j x).ctx i = s.ctx i) ∧ (∀ q, (s.setQueue j x).part q = s.part q) ∧
    (∀ i, (s.setQueue j x).word i = s.word i) ∧ (∀ fl, (s.setQueue j x).fld fl = s.fld fl) ∧ (∀ i, (s.setQueue j x).frame i = s.frame i) ∧
    (∀ i, (s.setQueue j x).miss i = s.miss i) ∧ (∀ i, (s.setQueue j x).hostOf i = s.hostOf i) ∧ (∀ i, (s.setQueue j x).page i = s.page i) ∧
    (∀ i, (s.setQueue j x).model i = s.model i) ∧ (∀ i, (s.setQueue j x).port i = s.port i) ∧ (∀ i, (s.setQueue j x).cohort i = s.cohort i) ∧
    (∀ y, (s.setQueue j x).xfer y = s.xfer y) ∧ (∀ i, (s.setQueue j x).keySlot i = s.keySlot i) ∧ (∀ i, (s.setQueue j x).tdi i = s.tdi i) ∧
    (∀ i, (s.setQueue j x).clk i = s.clk i) ∧ (∀ i, (s.setQueue j x).cycle i = s.cycle i) ∧ (s.setQueue j x).ready = s.ready ∧
    (s.setQueue j x).answers = s.answers ∧ (s.setQueue j x).rotating = s.rotating ∧
    (∀ c va ac, (s.setQueue j x).locate c va ac = s.locate c va ac) :=
  ⟨rfl, rfl, rfl, rfl, rfl, rfl, rfl, rfl, rfl, rfl, rfl, rfl, rfl, rfl, rfl, rfl, rfl, rfl, rfl, rfl, rfl, rfl, rfl, rfl, rfl, rfl, rfl,
    rfl, rfl, rfl, rfl, rfl, rfl, rfl, rfl, rfl, rfl, rfl, rfl, rfl, rfl, rfl, rfl, rfl, rfl, rfl, rfl, rfl, rfl, rfl, rfl, rfl, rfl, rfl,
    rfl, rfl, rfl, rfl, rfl, rfl, rfl, rfl, rfl, rfl, rfl, rfl, rfl, rfl, rfl, rfl, rfl, rfl, rfl, rfl, rfl, rfl, rfl, rfl, rfl, rfl, rfl,
    rfl, rfl, rfl, rfl, rfl, rfl, rfl, rfl, rfl, rfl, rfl, rfl, rfl, rfl, rfl, rfl, rfl, rfl, rfl, fun _ => rfl, fun _ => rfl,
    fun _ => rfl, fun _ => rfl, fun _ => rfl, fun _ => rfl, fun _ => rfl, fun _ => rfl, fun _ => rfl, fun _ => rfl, fun _ => rfl,
    fun _ => rfl, fun _ => rfl, fun _ => rfl, fun _ => rfl, fun _ => rfl, fun _ => rfl, fun _ => rfl, fun _ => rfl, rfl, rfl, rfl,
    fun _ _ _ => rfl⟩

@[simp] theorem State.setModel_frame (j : Nat) (x : Model) :
    (s.setModel j x).pending = s.pending ∧ (s.setModel j x).freeCtr = s.freeCtr ∧ (s.setModel j x).fresh = s.fresh ∧
    (s.setModel j x).now = s.now ∧ (s.setModel j x).t0 = s.t0 ∧ (s.setModel j x).clks = s.clks ∧ (s.setModel j x).regs = s.regs ∧
    (s.setModel j x).tiles = s.tiles ∧ (s.setModel j x).kernels = s.kernels ∧ (s.setModel j x).ctxs = s.ctxs ∧
    (s.setModel j x).parts = s.parts ∧ (s.setModel j x).xcache = s.xcache ∧ (s.setModel j x).pageReqs = s.pageReqs ∧
    (s.setModel j x).invs = s.invs ∧ (s.setModel j x).mem = s.mem ∧ (s.setModel j x).poison = s.poison ∧ (s.setModel j x).host = s.host ∧
    (s.setModel j x).hostAtomics = s.hostAtomics ∧ (s.setModel j x).rot = s.rot ∧ (s.setModel j x).rotAt = s.rotAt ∧
    (s.setModel j x).raised = s.raised ∧ (s.setModel j x).sent = s.sent ∧ (s.setModel j x).reqs = s.reqs ∧ (s.setModel j x).rsps = s.rsps ∧
    (s.setModel j x).hostReqs = s.hostReqs ∧ (s.setModel j x).frames = s.frames ∧ (s.setModel j x).misses = s.misses ∧
    (s.setModel j x).hosts = s.hosts ∧ (s.setModel j x).hostUse = s.hostUse ∧ (s.setModel j x).hostTick = s.hostTick ∧
    (s.setModel j x).silent = s.silent ∧ (s.setModel j x).plru = s.plru ∧ (s.setModel j x).watches = s.watches ∧
    (s.setModel j x).queues = s.queues ∧ (s.setModel j x).events = s.events ∧ (s.setModel j x).ports = s.ports ∧
    (s.setModel j x).els = s.els ∧ (s.setModel j x).xfers = s.xfers ∧ (s.setModel j x).cohorts = s.cohorts ∧
    (s.setModel j x).paces = s.paces ∧ (s.setModel j x).inbox = s.inbox ∧ (s.setModel j x).outbox = s.outbox ∧
    (s.setModel j x).waysOff = s.waysOff ∧ (s.setModel j x).missOff = s.missOff ∧ (s.setModel j x).bad = s.bad ∧
    (s.setModel j x).pageCount = s.pageCount ∧ (s.setModel j x).pages = s.pages ∧ (s.setModel j x).freed = s.freed ∧
    (s.setModel j x).taken = s.taken ∧ (s.setModel j x).retired = s.retired ∧ (s.setModel j x).retiring = s.retiring ∧
    (s.setModel j x).fastCh = s.fastCh ∧ (s.setModel j x).capCh = s.capCh ∧ (s.setModel j x).rebuilding = s.rebuilding ∧
    (s.setModel j x).mapFrames = s.mapFrames ∧ (s.setModel j x).moves = s.moves ∧ (s.setModel j x).todo = s.todo ∧
    (s.setModel j x).plan = s.plan ∧ (s.setModel j x).policyStarts = s.policyStarts ∧ (s.setModel j x).otherStarts = s.otherStarts ∧
    (s.setModel j x).sampled = s.sampled ∧ (s.setModel j x).cells = s.cells ∧ (s.setModel j x).lastCells = s.lastCells ∧
    (s.setModel j x).badRows = s.badRows ∧ (s.setModel j x).repairs = s.repairs ∧ (s.setModel j x).stackTemps = s.stackTemps ∧
    (s.setModel j x).capTemps = s.capTemps ∧ (s.setModel j x).herbTick = s.herbTick ∧ (s.setModel j x).prefetches = s.prefetches ∧
    (s.setModel j x).hot = s.hot ∧ (s.setModel j x).hotSeen = s.hotSeen ∧ (s.setModel j x).epoch = s.epoch ∧
    (s.setModel j x).epochStart = s.epochStart ∧ (s.setModel j x).quarantined = s.quarantined ∧ (s.setModel j x).noSpare = s.noSpare ∧
    (s.setModel j x).spent = s.spent ∧ (s.setModel j x).occ = s.occ ∧ (s.setModel j x).tileCe = s.tileCe ∧ (s.setModel j x).keys = s.keys ∧
    (s.setModel j x).stalled = s.stalled ∧ (s.setModel j x).hashKey = s.hashKey ∧ (s.setModel j x).rotCycles = s.rotCycles ∧
    (s.setModel j x).vfs = s.vfs ∧ (s.setModel j x).bar4 = s.bar4 ∧ (s.setModel j x).flrs = s.flrs ∧ (s.setModel j x).tdis = s.tdis ∧
    (s.setModel j x).pwr = s.pwr ∧ (s.setModel j x).trust = s.trust ∧ (s.setModel j x).fuses = s.fuses ∧ (s.setModel j x).fw = s.fw ∧
    (s.setModel j x).svc = s.svc ∧ (s.setModel j x).tmap = s.tmap ∧ (s.setModel j x).failedPhys = s.failedPhys ∧
    (s.setModel j x).unsaved = s.unsaved ∧ (s.setModel j x).bist = s.bist ∧ (s.setModel j x).recals = s.recals ∧
    (s.setModel j x).links = s.links ∧ (s.setModel j x).i3c = s.i3c ∧ (s.setModel j x).tap = s.tap ∧ (s.setModel j x).locks = s.locks ∧
    (∀ i, (s.setModel j x).tile i = s.tile i) ∧ (∀ at_, (s.setModel j x).clause at_ = s.clause at_) ∧
    (∀ i, (s.setModel j x).kernel i = s.kernel i) ∧ (∀ i, (s.setModel j x).ctx i = s.ctx i) ∧ (∀ q, (s.setModel j x).part q = s.part q) ∧
    (∀ i, (s.setModel j x).word i = s.word i) ∧ (∀ fl, (s.setModel j x).fld fl = s.fld fl) ∧ (∀ i, (s.setModel j x).frame i = s.frame i) ∧
    (∀ i, (s.setModel j x).miss i = s.miss i) ∧ (∀ i, (s.setModel j x).hostOf i = s.hostOf i) ∧ (∀ i, (s.setModel j x).page i = s.page i) ∧
    (∀ i, (s.setModel j x).queue i = s.queue i) ∧ (∀ i, (s.setModel j x).port i = s.port i) ∧ (∀ i, (s.setModel j x).cohort i = s.cohort i) ∧
    (∀ y, (s.setModel j x).xfer y = s.xfer y) ∧ (∀ i, (s.setModel j x).keySlot i = s.keySlot i) ∧ (∀ i, (s.setModel j x).tdi i = s.tdi i) ∧
    (∀ i, (s.setModel j x).clk i = s.clk i) ∧ (∀ i, (s.setModel j x).cycle i = s.cycle i) ∧ (s.setModel j x).ready = s.ready ∧
    (s.setModel j x).answers = s.answers ∧ (s.setModel j x).rotating = s.rotating ∧
    (∀ c va ac, (s.setModel j x).locate c va ac = s.locate c va ac) :=
  ⟨rfl, rfl, rfl, rfl, rfl, rfl, rfl, rfl, rfl, rfl, rfl, rfl, rfl, rfl, rfl, rfl, rfl, rfl, rfl, rfl, rfl, rfl, rfl, rfl, rfl, rfl, rfl,
    rfl, rfl, rfl, rfl, rfl, rfl, rfl, rfl, rfl, rfl, rfl, rfl, rfl, rfl, rfl, rfl, rfl, rfl, rfl, rfl, rfl, rfl, rfl, rfl, rfl, rfl, rfl,
    rfl, rfl, rfl, rfl, rfl, rfl, rfl, rfl, rfl, rfl, rfl, rfl, rfl, rfl, rfl, rfl, rfl, rfl, rfl, rfl, rfl, rfl, rfl, rfl, rfl, rfl, rfl,
    rfl, rfl, rfl, rfl, rfl, rfl, rfl, rfl, rfl, rfl, rfl, rfl, rfl, rfl, rfl, rfl, rfl, rfl, rfl, fun _ => rfl, fun _ => rfl,
    fun _ => rfl, fun _ => rfl, fun _ => rfl, fun _ => rfl, fun _ => rfl, fun _ => rfl, fun _ => rfl, fun _ => rfl, fun _ => rfl,
    fun _ => rfl, fun _ => rfl, fun _ => rfl, fun _ => rfl, fun _ => rfl, fun _ => rfl, fun _ => rfl, fun _ => rfl, rfl, rfl, rfl,
    fun _ _ _ => rfl⟩

@[simp] theorem State.setPage_frame (j : Nat) (x : Page) :
    (s.setPage j x).pending = s.pending ∧ (s.setPage j x).freeCtr = s.freeCtr ∧ (s.setPage j x).fresh = s.fresh ∧
    (s.setPage j x).now = s.now ∧ (s.setPage j x).t0 = s.t0 ∧ (s.setPage j x).clks = s.clks ∧ (s.setPage j x).regs = s.regs ∧
    (s.setPage j x).tiles = s.tiles ∧ (s.setPage j x).kernels = s.kernels ∧ (s.setPage j x).ctxs = s.ctxs ∧ (s.setPage j x).parts = s.parts ∧
    (s.setPage j x).xcache = s.xcache ∧ (s.setPage j x).pageReqs = s.pageReqs ∧ (s.setPage j x).invs = s.invs ∧ (s.setPage j x).mem = s.mem ∧
    (s.setPage j x).poison = s.poison ∧ (s.setPage j x).host = s.host ∧ (s.setPage j x).hostAtomics = s.hostAtomics ∧
    (s.setPage j x).rot = s.rot ∧ (s.setPage j x).rotAt = s.rotAt ∧ (s.setPage j x).raised = s.raised ∧ (s.setPage j x).sent = s.sent ∧
    (s.setPage j x).reqs = s.reqs ∧ (s.setPage j x).rsps = s.rsps ∧ (s.setPage j x).hostReqs = s.hostReqs ∧
    (s.setPage j x).frames = s.frames ∧ (s.setPage j x).misses = s.misses ∧ (s.setPage j x).hosts = s.hosts ∧
    (s.setPage j x).hostUse = s.hostUse ∧ (s.setPage j x).hostTick = s.hostTick ∧ (s.setPage j x).silent = s.silent ∧
    (s.setPage j x).plru = s.plru ∧ (s.setPage j x).watches = s.watches ∧ (s.setPage j x).queues = s.queues ∧
    (s.setPage j x).events = s.events ∧ (s.setPage j x).ports = s.ports ∧ (s.setPage j x).els = s.els ∧ (s.setPage j x).xfers = s.xfers ∧
    (s.setPage j x).cohorts = s.cohorts ∧ (s.setPage j x).paces = s.paces ∧ (s.setPage j x).inbox = s.inbox ∧
    (s.setPage j x).outbox = s.outbox ∧ (s.setPage j x).waysOff = s.waysOff ∧ (s.setPage j x).missOff = s.missOff ∧
    (s.setPage j x).bad = s.bad ∧ (s.setPage j x).pageCount = s.pageCount ∧ (s.setPage j x).freed = s.freed ∧
    (s.setPage j x).taken = s.taken ∧ (s.setPage j x).retired = s.retired ∧ (s.setPage j x).retiring = s.retiring ∧
    (s.setPage j x).fastCh = s.fastCh ∧ (s.setPage j x).capCh = s.capCh ∧ (s.setPage j x).rebuilding = s.rebuilding ∧
    (s.setPage j x).mapFrames = s.mapFrames ∧ (s.setPage j x).moves = s.moves ∧ (s.setPage j x).todo = s.todo ∧
    (s.setPage j x).plan = s.plan ∧ (s.setPage j x).policyStarts = s.policyStarts ∧ (s.setPage j x).otherStarts = s.otherStarts ∧
    (s.setPage j x).sampled = s.sampled ∧ (s.setPage j x).cells = s.cells ∧ (s.setPage j x).lastCells = s.lastCells ∧
    (s.setPage j x).badRows = s.badRows ∧ (s.setPage j x).repairs = s.repairs ∧ (s.setPage j x).stackTemps = s.stackTemps ∧
    (s.setPage j x).capTemps = s.capTemps ∧ (s.setPage j x).models = s.models ∧ (s.setPage j x).herbTick = s.herbTick ∧
    (s.setPage j x).prefetches = s.prefetches ∧ (s.setPage j x).hot = s.hot ∧ (s.setPage j x).hotSeen = s.hotSeen ∧
    (s.setPage j x).epoch = s.epoch ∧ (s.setPage j x).epochStart = s.epochStart ∧ (s.setPage j x).quarantined = s.quarantined ∧
    (s.setPage j x).noSpare = s.noSpare ∧ (s.setPage j x).spent = s.spent ∧ (s.setPage j x).occ = s.occ ∧ (s.setPage j x).tileCe = s.tileCe ∧
    (s.setPage j x).keys = s.keys ∧ (s.setPage j x).stalled = s.stalled ∧ (s.setPage j x).hashKey = s.hashKey ∧
    (s.setPage j x).rotCycles = s.rotCycles ∧ (s.setPage j x).vfs = s.vfs ∧ (s.setPage j x).bar4 = s.bar4 ∧ (s.setPage j x).flrs = s.flrs ∧
    (s.setPage j x).tdis = s.tdis ∧ (s.setPage j x).pwr = s.pwr ∧ (s.setPage j x).trust = s.trust ∧ (s.setPage j x).fuses = s.fuses ∧
    (s.setPage j x).fw = s.fw ∧ (s.setPage j x).svc = s.svc ∧ (s.setPage j x).tmap = s.tmap ∧ (s.setPage j x).failedPhys = s.failedPhys ∧
    (s.setPage j x).unsaved = s.unsaved ∧ (s.setPage j x).bist = s.bist ∧ (s.setPage j x).recals = s.recals ∧
    (s.setPage j x).links = s.links ∧ (s.setPage j x).i3c = s.i3c ∧ (s.setPage j x).tap = s.tap ∧ (s.setPage j x).locks = s.locks ∧
    (∀ i, (s.setPage j x).tile i = s.tile i) ∧ (∀ at_, (s.setPage j x).clause at_ = s.clause at_) ∧
    (∀ i, (s.setPage j x).kernel i = s.kernel i) ∧ (∀ i, (s.setPage j x).ctx i = s.ctx i) ∧ (∀ q, (s.setPage j x).part q = s.part q) ∧
    (∀ i, (s.setPage j x).word i = s.word i) ∧ (∀ fl, (s.setPage j x).fld fl = s.fld fl) ∧ (∀ i, (s.setPage j x).frame i = s.frame i) ∧
    (∀ i, (s.setPage j x).miss i = s.miss i) ∧ (∀ i, (s.setPage j x).hostOf i = s.hostOf i) ∧ (∀ i, (s.setPage j x).queue i = s.queue i) ∧
    (∀ i, (s.setPage j x).model i = s.model i) ∧ (∀ i, (s.setPage j x).port i = s.port i) ∧ (∀ i, (s.setPage j x).cohort i = s.cohort i) ∧
    (∀ y, (s.setPage j x).xfer y = s.xfer y) ∧ (∀ i, (s.setPage j x).keySlot i = s.keySlot i) ∧ (∀ i, (s.setPage j x).tdi i = s.tdi i) ∧
    (∀ i, (s.setPage j x).clk i = s.clk i) ∧ (∀ i, (s.setPage j x).cycle i = s.cycle i) ∧ (s.setPage j x).ready = s.ready ∧
    (s.setPage j x).answers = s.answers ∧ (s.setPage j x).rotating = s.rotating ∧
    (∀ c va ac, (s.setPage j x).locate c va ac = s.locate c va ac) :=
  ⟨rfl, rfl, rfl, rfl, rfl, rfl, rfl, rfl, rfl, rfl, rfl, rfl, rfl, rfl, rfl, rfl, rfl, rfl, rfl, rfl, rfl, rfl, rfl, rfl, rfl, rfl, rfl,
    rfl, rfl, rfl, rfl, rfl, rfl, rfl, rfl, rfl, rfl, rfl, rfl, rfl, rfl, rfl, rfl, rfl, rfl, rfl, rfl, rfl, rfl, rfl, rfl, rfl, rfl, rfl,
    rfl, rfl, rfl, rfl, rfl, rfl, rfl, rfl, rfl, rfl, rfl, rfl, rfl, rfl, rfl, rfl, rfl, rfl, rfl, rfl, rfl, rfl, rfl, rfl, rfl, rfl, rfl,
    rfl, rfl, rfl, rfl, rfl, rfl, rfl, rfl, rfl, rfl, rfl, rfl, rfl, rfl, rfl, rfl, rfl, rfl, rfl, fun _ => rfl, fun _ => rfl,
    fun _ => rfl, fun _ => rfl, fun _ => rfl, fun _ => rfl, fun _ => rfl, fun _ => rfl, fun _ => rfl, fun _ => rfl, fun _ => rfl,
    fun _ => rfl, fun _ => rfl, fun _ => rfl, fun _ => rfl, fun _ => rfl, fun _ => rfl, fun _ => rfl, fun _ => rfl, rfl, rfl, rfl,
    fun _ _ _ => rfl⟩

@[simp] theorem State.setEls_frame (j : Nat) (x : ElsSt) :
    (s.setEls j x).pending = s.pending ∧ (s.setEls j x).freeCtr = s.freeCtr ∧ (s.setEls j x).fresh = s.fresh ∧ (s.setEls j x).now = s.now ∧
    (s.setEls j x).t0 = s.t0 ∧ (s.setEls j x).clks = s.clks ∧ (s.setEls j x).regs = s.regs ∧ (s.setEls j x).tiles = s.tiles ∧
    (s.setEls j x).kernels = s.kernels ∧ (s.setEls j x).ctxs = s.ctxs ∧ (s.setEls j x).parts = s.parts ∧ (s.setEls j x).xcache = s.xcache ∧
    (s.setEls j x).pageReqs = s.pageReqs ∧ (s.setEls j x).invs = s.invs ∧ (s.setEls j x).mem = s.mem ∧ (s.setEls j x).poison = s.poison ∧
    (s.setEls j x).host = s.host ∧ (s.setEls j x).hostAtomics = s.hostAtomics ∧ (s.setEls j x).rot = s.rot ∧ (s.setEls j x).rotAt = s.rotAt ∧
    (s.setEls j x).raised = s.raised ∧ (s.setEls j x).sent = s.sent ∧ (s.setEls j x).reqs = s.reqs ∧ (s.setEls j x).rsps = s.rsps ∧
    (s.setEls j x).hostReqs = s.hostReqs ∧ (s.setEls j x).frames = s.frames ∧ (s.setEls j x).misses = s.misses ∧
    (s.setEls j x).hosts = s.hosts ∧ (s.setEls j x).hostUse = s.hostUse ∧ (s.setEls j x).hostTick = s.hostTick ∧
    (s.setEls j x).silent = s.silent ∧ (s.setEls j x).plru = s.plru ∧ (s.setEls j x).watches = s.watches ∧ (s.setEls j x).queues = s.queues ∧
    (s.setEls j x).events = s.events ∧ (s.setEls j x).ports = s.ports ∧ (s.setEls j x).xfers = s.xfers ∧ (s.setEls j x).cohorts = s.cohorts ∧
    (s.setEls j x).paces = s.paces ∧ (s.setEls j x).inbox = s.inbox ∧ (s.setEls j x).outbox = s.outbox ∧ (s.setEls j x).waysOff = s.waysOff ∧
    (s.setEls j x).missOff = s.missOff ∧ (s.setEls j x).bad = s.bad ∧ (s.setEls j x).pageCount = s.pageCount ∧
    (s.setEls j x).pages = s.pages ∧ (s.setEls j x).freed = s.freed ∧ (s.setEls j x).taken = s.taken ∧ (s.setEls j x).retired = s.retired ∧
    (s.setEls j x).retiring = s.retiring ∧ (s.setEls j x).fastCh = s.fastCh ∧ (s.setEls j x).capCh = s.capCh ∧
    (s.setEls j x).rebuilding = s.rebuilding ∧ (s.setEls j x).mapFrames = s.mapFrames ∧ (s.setEls j x).moves = s.moves ∧
    (s.setEls j x).todo = s.todo ∧ (s.setEls j x).plan = s.plan ∧ (s.setEls j x).policyStarts = s.policyStarts ∧
    (s.setEls j x).otherStarts = s.otherStarts ∧ (s.setEls j x).sampled = s.sampled ∧ (s.setEls j x).cells = s.cells ∧
    (s.setEls j x).lastCells = s.lastCells ∧ (s.setEls j x).badRows = s.badRows ∧ (s.setEls j x).repairs = s.repairs ∧
    (s.setEls j x).stackTemps = s.stackTemps ∧ (s.setEls j x).capTemps = s.capTemps ∧ (s.setEls j x).models = s.models ∧
    (s.setEls j x).herbTick = s.herbTick ∧ (s.setEls j x).prefetches = s.prefetches ∧ (s.setEls j x).hot = s.hot ∧
    (s.setEls j x).hotSeen = s.hotSeen ∧ (s.setEls j x).epoch = s.epoch ∧ (s.setEls j x).epochStart = s.epochStart ∧
    (s.setEls j x).quarantined = s.quarantined ∧ (s.setEls j x).noSpare = s.noSpare ∧ (s.setEls j x).spent = s.spent ∧
    (s.setEls j x).occ = s.occ ∧ (s.setEls j x).tileCe = s.tileCe ∧ (s.setEls j x).keys = s.keys ∧ (s.setEls j x).stalled = s.stalled ∧
    (s.setEls j x).hashKey = s.hashKey ∧ (s.setEls j x).rotCycles = s.rotCycles ∧ (s.setEls j x).vfs = s.vfs ∧ (s.setEls j x).bar4 = s.bar4 ∧
    (s.setEls j x).flrs = s.flrs ∧ (s.setEls j x).tdis = s.tdis ∧ (s.setEls j x).pwr = s.pwr ∧ (s.setEls j x).trust = s.trust ∧
    (s.setEls j x).fuses = s.fuses ∧ (s.setEls j x).fw = s.fw ∧ (s.setEls j x).svc = s.svc ∧ (s.setEls j x).tmap = s.tmap ∧
    (s.setEls j x).failedPhys = s.failedPhys ∧ (s.setEls j x).unsaved = s.unsaved ∧ (s.setEls j x).bist = s.bist ∧
    (s.setEls j x).recals = s.recals ∧ (s.setEls j x).links = s.links ∧ (s.setEls j x).i3c = s.i3c ∧ (s.setEls j x).tap = s.tap ∧
    (s.setEls j x).locks = s.locks ∧ (∀ i, (s.setEls j x).tile i = s.tile i) ∧ (∀ at_, (s.setEls j x).clause at_ = s.clause at_) ∧
    (∀ i, (s.setEls j x).kernel i = s.kernel i) ∧ (∀ i, (s.setEls j x).ctx i = s.ctx i) ∧ (∀ q, (s.setEls j x).part q = s.part q) ∧
    (∀ i, (s.setEls j x).word i = s.word i) ∧ (∀ fl, (s.setEls j x).fld fl = s.fld fl) ∧ (∀ i, (s.setEls j x).frame i = s.frame i) ∧
    (∀ i, (s.setEls j x).miss i = s.miss i) ∧ (∀ i, (s.setEls j x).hostOf i = s.hostOf i) ∧ (∀ i, (s.setEls j x).page i = s.page i) ∧
    (∀ i, (s.setEls j x).queue i = s.queue i) ∧ (∀ i, (s.setEls j x).model i = s.model i) ∧ (∀ i, (s.setEls j x).port i = s.port i) ∧
    (∀ i, (s.setEls j x).cohort i = s.cohort i) ∧ (∀ y, (s.setEls j x).xfer y = s.xfer y) ∧ (∀ i, (s.setEls j x).keySlot i = s.keySlot i) ∧
    (∀ i, (s.setEls j x).tdi i = s.tdi i) ∧ (∀ i, (s.setEls j x).clk i = s.clk i) ∧ (∀ i, (s.setEls j x).cycle i = s.cycle i) ∧
    (s.setEls j x).ready = s.ready ∧ (s.setEls j x).answers = s.answers ∧ (s.setEls j x).rotating = s.rotating ∧
    (∀ c va ac, (s.setEls j x).locate c va ac = s.locate c va ac) :=
  ⟨rfl, rfl, rfl, rfl, rfl, rfl, rfl, rfl, rfl, rfl, rfl, rfl, rfl, rfl, rfl, rfl, rfl, rfl, rfl, rfl, rfl, rfl, rfl, rfl, rfl, rfl, rfl,
    rfl, rfl, rfl, rfl, rfl, rfl, rfl, rfl, rfl, rfl, rfl, rfl, rfl, rfl, rfl, rfl, rfl, rfl, rfl, rfl, rfl, rfl, rfl, rfl, rfl, rfl, rfl,
    rfl, rfl, rfl, rfl, rfl, rfl, rfl, rfl, rfl, rfl, rfl, rfl, rfl, rfl, rfl, rfl, rfl, rfl, rfl, rfl, rfl, rfl, rfl, rfl, rfl, rfl, rfl,
    rfl, rfl, rfl, rfl, rfl, rfl, rfl, rfl, rfl, rfl, rfl, rfl, rfl, rfl, rfl, rfl, rfl, rfl, rfl, fun _ => rfl, fun _ => rfl,
    fun _ => rfl, fun _ => rfl, fun _ => rfl, fun _ => rfl, fun _ => rfl, fun _ => rfl, fun _ => rfl, fun _ => rfl, fun _ => rfl,
    fun _ => rfl, fun _ => rfl, fun _ => rfl, fun _ => rfl, fun _ => rfl, fun _ => rfl, fun _ => rfl, fun _ => rfl, fun _ => rfl, rfl, rfl,
    rfl, fun _ _ _ => rfl⟩

@[simp] theorem State.setCohort_frame (j : Nat) (x : Cohort) :
    (s.setCohort j x).pending = s.pending ∧ (s.setCohort j x).freeCtr = s.freeCtr ∧ (s.setCohort j x).fresh = s.fresh ∧
    (s.setCohort j x).now = s.now ∧ (s.setCohort j x).t0 = s.t0 ∧ (s.setCohort j x).clks = s.clks ∧ (s.setCohort j x).regs = s.regs ∧
    (s.setCohort j x).tiles = s.tiles ∧ (s.setCohort j x).kernels = s.kernels ∧ (s.setCohort j x).ctxs = s.ctxs ∧
    (s.setCohort j x).parts = s.parts ∧ (s.setCohort j x).xcache = s.xcache ∧ (s.setCohort j x).pageReqs = s.pageReqs ∧
    (s.setCohort j x).invs = s.invs ∧ (s.setCohort j x).mem = s.mem ∧ (s.setCohort j x).poison = s.poison ∧ (s.setCohort j x).host = s.host ∧
    (s.setCohort j x).hostAtomics = s.hostAtomics ∧ (s.setCohort j x).rot = s.rot ∧ (s.setCohort j x).rotAt = s.rotAt ∧
    (s.setCohort j x).raised = s.raised ∧ (s.setCohort j x).sent = s.sent ∧ (s.setCohort j x).reqs = s.reqs ∧
    (s.setCohort j x).rsps = s.rsps ∧ (s.setCohort j x).hostReqs = s.hostReqs ∧ (s.setCohort j x).frames = s.frames ∧
    (s.setCohort j x).misses = s.misses ∧ (s.setCohort j x).hosts = s.hosts ∧ (s.setCohort j x).hostUse = s.hostUse ∧
    (s.setCohort j x).hostTick = s.hostTick ∧ (s.setCohort j x).silent = s.silent ∧ (s.setCohort j x).plru = s.plru ∧
    (s.setCohort j x).watches = s.watches ∧ (s.setCohort j x).queues = s.queues ∧ (s.setCohort j x).events = s.events ∧
    (s.setCohort j x).ports = s.ports ∧ (s.setCohort j x).els = s.els ∧ (s.setCohort j x).xfers = s.xfers ∧
    (s.setCohort j x).paces = s.paces ∧ (s.setCohort j x).inbox = s.inbox ∧ (s.setCohort j x).outbox = s.outbox ∧
    (s.setCohort j x).waysOff = s.waysOff ∧ (s.setCohort j x).missOff = s.missOff ∧ (s.setCohort j x).bad = s.bad ∧
    (s.setCohort j x).pageCount = s.pageCount ∧ (s.setCohort j x).pages = s.pages ∧ (s.setCohort j x).freed = s.freed ∧
    (s.setCohort j x).taken = s.taken ∧ (s.setCohort j x).retired = s.retired ∧ (s.setCohort j x).retiring = s.retiring ∧
    (s.setCohort j x).fastCh = s.fastCh ∧ (s.setCohort j x).capCh = s.capCh ∧ (s.setCohort j x).rebuilding = s.rebuilding ∧
    (s.setCohort j x).mapFrames = s.mapFrames ∧ (s.setCohort j x).moves = s.moves ∧ (s.setCohort j x).todo = s.todo ∧
    (s.setCohort j x).plan = s.plan ∧ (s.setCohort j x).policyStarts = s.policyStarts ∧ (s.setCohort j x).otherStarts = s.otherStarts ∧
    (s.setCohort j x).sampled = s.sampled ∧ (s.setCohort j x).cells = s.cells ∧ (s.setCohort j x).lastCells = s.lastCells ∧
    (s.setCohort j x).badRows = s.badRows ∧ (s.setCohort j x).repairs = s.repairs ∧ (s.setCohort j x).stackTemps = s.stackTemps ∧
    (s.setCohort j x).capTemps = s.capTemps ∧ (s.setCohort j x).models = s.models ∧ (s.setCohort j x).herbTick = s.herbTick ∧
    (s.setCohort j x).prefetches = s.prefetches ∧ (s.setCohort j x).hot = s.hot ∧ (s.setCohort j x).hotSeen = s.hotSeen ∧
    (s.setCohort j x).epoch = s.epoch ∧ (s.setCohort j x).epochStart = s.epochStart ∧ (s.setCohort j x).quarantined = s.quarantined ∧
    (s.setCohort j x).noSpare = s.noSpare ∧ (s.setCohort j x).spent = s.spent ∧ (s.setCohort j x).occ = s.occ ∧
    (s.setCohort j x).tileCe = s.tileCe ∧ (s.setCohort j x).keys = s.keys ∧ (s.setCohort j x).stalled = s.stalled ∧
    (s.setCohort j x).hashKey = s.hashKey ∧ (s.setCohort j x).rotCycles = s.rotCycles ∧ (s.setCohort j x).vfs = s.vfs ∧
    (s.setCohort j x).bar4 = s.bar4 ∧ (s.setCohort j x).flrs = s.flrs ∧ (s.setCohort j x).tdis = s.tdis ∧ (s.setCohort j x).pwr = s.pwr ∧
    (s.setCohort j x).trust = s.trust ∧ (s.setCohort j x).fuses = s.fuses ∧ (s.setCohort j x).fw = s.fw ∧ (s.setCohort j x).svc = s.svc ∧
    (s.setCohort j x).tmap = s.tmap ∧ (s.setCohort j x).failedPhys = s.failedPhys ∧ (s.setCohort j x).unsaved = s.unsaved ∧
    (s.setCohort j x).bist = s.bist ∧ (s.setCohort j x).recals = s.recals ∧ (s.setCohort j x).links = s.links ∧
    (s.setCohort j x).i3c = s.i3c ∧ (s.setCohort j x).tap = s.tap ∧ (s.setCohort j x).locks = s.locks ∧
    (∀ i, (s.setCohort j x).tile i = s.tile i) ∧ (∀ at_, (s.setCohort j x).clause at_ = s.clause at_) ∧
    (∀ i, (s.setCohort j x).kernel i = s.kernel i) ∧ (∀ i, (s.setCohort j x).ctx i = s.ctx i) ∧ (∀ q, (s.setCohort j x).part q = s.part q) ∧
    (∀ i, (s.setCohort j x).word i = s.word i) ∧ (∀ fl, (s.setCohort j x).fld fl = s.fld fl) ∧ (∀ i, (s.setCohort j x).frame i = s.frame i) ∧
    (∀ i, (s.setCohort j x).miss i = s.miss i) ∧ (∀ i, (s.setCohort j x).hostOf i = s.hostOf i) ∧ (∀ i, (s.setCohort j x).page i = s.page i) ∧
    (∀ i, (s.setCohort j x).queue i = s.queue i) ∧ (∀ i, (s.setCohort j x).model i = s.model i) ∧ (∀ i, (s.setCohort j x).port i = s.port i) ∧
    (∀ y, (s.setCohort j x).xfer y = s.xfer y) ∧ (∀ i, (s.setCohort j x).keySlot i = s.keySlot i) ∧ (∀ i, (s.setCohort j x).tdi i = s.tdi i) ∧
    (∀ i, (s.setCohort j x).clk i = s.clk i) ∧ (∀ i, (s.setCohort j x).cycle i = s.cycle i) ∧ (s.setCohort j x).ready = s.ready ∧
    (s.setCohort j x).answers = s.answers ∧ (s.setCohort j x).rotating = s.rotating ∧
    (∀ c va ac, (s.setCohort j x).locate c va ac = s.locate c va ac) :=
  ⟨rfl, rfl, rfl, rfl, rfl, rfl, rfl, rfl, rfl, rfl, rfl, rfl, rfl, rfl, rfl, rfl, rfl, rfl, rfl, rfl, rfl, rfl, rfl, rfl, rfl, rfl, rfl,
    rfl, rfl, rfl, rfl, rfl, rfl, rfl, rfl, rfl, rfl, rfl, rfl, rfl, rfl, rfl, rfl, rfl, rfl, rfl, rfl, rfl, rfl, rfl, rfl, rfl, rfl, rfl,
    rfl, rfl, rfl, rfl, rfl, rfl, rfl, rfl, rfl, rfl, rfl, rfl, rfl, rfl, rfl, rfl, rfl, rfl, rfl, rfl, rfl, rfl, rfl, rfl, rfl, rfl, rfl,
    rfl, rfl, rfl, rfl, rfl, rfl, rfl, rfl, rfl, rfl, rfl, rfl, rfl, rfl, rfl, rfl, rfl, rfl, rfl, fun _ => rfl, fun _ => rfl,
    fun _ => rfl, fun _ => rfl, fun _ => rfl, fun _ => rfl, fun _ => rfl, fun _ => rfl, fun _ => rfl, fun _ => rfl, fun _ => rfl,
    fun _ => rfl, fun _ => rfl, fun _ => rfl, fun _ => rfl, fun _ => rfl, fun _ => rfl, fun _ => rfl, fun _ => rfl, rfl, rfl, rfl,
    fun _ _ _ => rfl⟩

@[simp] theorem State.setPort_frame (j : Nat) (x : Port) :
    (s.setPort j x).pending = s.pending ∧ (s.setPort j x).freeCtr = s.freeCtr ∧ (s.setPort j x).fresh = s.fresh ∧
    (s.setPort j x).now = s.now ∧ (s.setPort j x).t0 = s.t0 ∧ (s.setPort j x).clks = s.clks ∧ (s.setPort j x).regs = s.regs ∧
    (s.setPort j x).tiles = s.tiles ∧ (s.setPort j x).kernels = s.kernels ∧ (s.setPort j x).ctxs = s.ctxs ∧ (s.setPort j x).parts = s.parts ∧
    (s.setPort j x).xcache = s.xcache ∧ (s.setPort j x).pageReqs = s.pageReqs ∧ (s.setPort j x).invs = s.invs ∧ (s.setPort j x).mem = s.mem ∧
    (s.setPort j x).poison = s.poison ∧ (s.setPort j x).host = s.host ∧ (s.setPort j x).hostAtomics = s.hostAtomics ∧
    (s.setPort j x).rot = s.rot ∧ (s.setPort j x).rotAt = s.rotAt ∧ (s.setPort j x).raised = s.raised ∧ (s.setPort j x).sent = s.sent ∧
    (s.setPort j x).reqs = s.reqs ∧ (s.setPort j x).rsps = s.rsps ∧ (s.setPort j x).hostReqs = s.hostReqs ∧
    (s.setPort j x).frames = s.frames ∧ (s.setPort j x).misses = s.misses ∧ (s.setPort j x).hosts = s.hosts ∧
    (s.setPort j x).hostUse = s.hostUse ∧ (s.setPort j x).hostTick = s.hostTick ∧ (s.setPort j x).silent = s.silent ∧
    (s.setPort j x).plru = s.plru ∧ (s.setPort j x).watches = s.watches ∧ (s.setPort j x).queues = s.queues ∧
    (s.setPort j x).events = s.events ∧ (s.setPort j x).els = s.els ∧ (s.setPort j x).xfers = s.xfers ∧ (s.setPort j x).cohorts = s.cohorts ∧
    (s.setPort j x).paces = s.paces ∧ (s.setPort j x).inbox = s.inbox ∧ (s.setPort j x).outbox = s.outbox ∧
    (s.setPort j x).waysOff = s.waysOff ∧ (s.setPort j x).missOff = s.missOff ∧ (s.setPort j x).bad = s.bad ∧
    (s.setPort j x).pageCount = s.pageCount ∧ (s.setPort j x).pages = s.pages ∧ (s.setPort j x).freed = s.freed ∧
    (s.setPort j x).taken = s.taken ∧ (s.setPort j x).retired = s.retired ∧ (s.setPort j x).retiring = s.retiring ∧
    (s.setPort j x).fastCh = s.fastCh ∧ (s.setPort j x).capCh = s.capCh ∧ (s.setPort j x).rebuilding = s.rebuilding ∧
    (s.setPort j x).mapFrames = s.mapFrames ∧ (s.setPort j x).moves = s.moves ∧ (s.setPort j x).todo = s.todo ∧
    (s.setPort j x).plan = s.plan ∧ (s.setPort j x).policyStarts = s.policyStarts ∧ (s.setPort j x).otherStarts = s.otherStarts ∧
    (s.setPort j x).sampled = s.sampled ∧ (s.setPort j x).cells = s.cells ∧ (s.setPort j x).lastCells = s.lastCells ∧
    (s.setPort j x).badRows = s.badRows ∧ (s.setPort j x).repairs = s.repairs ∧ (s.setPort j x).stackTemps = s.stackTemps ∧
    (s.setPort j x).capTemps = s.capTemps ∧ (s.setPort j x).models = s.models ∧ (s.setPort j x).herbTick = s.herbTick ∧
    (s.setPort j x).prefetches = s.prefetches ∧ (s.setPort j x).hot = s.hot ∧ (s.setPort j x).hotSeen = s.hotSeen ∧
    (s.setPort j x).epoch = s.epoch ∧ (s.setPort j x).epochStart = s.epochStart ∧ (s.setPort j x).quarantined = s.quarantined ∧
    (s.setPort j x).noSpare = s.noSpare ∧ (s.setPort j x).spent = s.spent ∧ (s.setPort j x).occ = s.occ ∧ (s.setPort j x).tileCe = s.tileCe ∧
    (s.setPort j x).keys = s.keys ∧ (s.setPort j x).stalled = s.stalled ∧ (s.setPort j x).hashKey = s.hashKey ∧
    (s.setPort j x).rotCycles = s.rotCycles ∧ (s.setPort j x).vfs = s.vfs ∧ (s.setPort j x).bar4 = s.bar4 ∧ (s.setPort j x).flrs = s.flrs ∧
    (s.setPort j x).tdis = s.tdis ∧ (s.setPort j x).pwr = s.pwr ∧ (s.setPort j x).trust = s.trust ∧ (s.setPort j x).fuses = s.fuses ∧
    (s.setPort j x).fw = s.fw ∧ (s.setPort j x).svc = s.svc ∧ (s.setPort j x).tmap = s.tmap ∧ (s.setPort j x).failedPhys = s.failedPhys ∧
    (s.setPort j x).unsaved = s.unsaved ∧ (s.setPort j x).bist = s.bist ∧ (s.setPort j x).recals = s.recals ∧
    (s.setPort j x).links = s.links ∧ (s.setPort j x).i3c = s.i3c ∧ (s.setPort j x).tap = s.tap ∧ (s.setPort j x).locks = s.locks ∧
    (∀ i, (s.setPort j x).tile i = s.tile i) ∧ (∀ at_, (s.setPort j x).clause at_ = s.clause at_) ∧
    (∀ i, (s.setPort j x).kernel i = s.kernel i) ∧ (∀ i, (s.setPort j x).ctx i = s.ctx i) ∧ (∀ q, (s.setPort j x).part q = s.part q) ∧
    (∀ i, (s.setPort j x).word i = s.word i) ∧ (∀ fl, (s.setPort j x).fld fl = s.fld fl) ∧ (∀ i, (s.setPort j x).frame i = s.frame i) ∧
    (∀ i, (s.setPort j x).miss i = s.miss i) ∧ (∀ i, (s.setPort j x).hostOf i = s.hostOf i) ∧ (∀ i, (s.setPort j x).page i = s.page i) ∧
    (∀ i, (s.setPort j x).queue i = s.queue i) ∧ (∀ i, (s.setPort j x).model i = s.model i) ∧ (∀ i, (s.setPort j x).cohort i = s.cohort i) ∧
    (∀ y, (s.setPort j x).xfer y = s.xfer y) ∧ (∀ i, (s.setPort j x).keySlot i = s.keySlot i) ∧ (∀ i, (s.setPort j x).tdi i = s.tdi i) ∧
    (∀ i, (s.setPort j x).clk i = s.clk i) ∧ (∀ i, (s.setPort j x).cycle i = s.cycle i) ∧ (s.setPort j x).ready = s.ready ∧
    (s.setPort j x).answers = s.answers ∧ (s.setPort j x).rotating = s.rotating ∧
    (∀ c va ac, (s.setPort j x).locate c va ac = s.locate c va ac) :=
  ⟨rfl, rfl, rfl, rfl, rfl, rfl, rfl, rfl, rfl, rfl, rfl, rfl, rfl, rfl, rfl, rfl, rfl, rfl, rfl, rfl, rfl, rfl, rfl, rfl, rfl, rfl, rfl,
    rfl, rfl, rfl, rfl, rfl, rfl, rfl, rfl, rfl, rfl, rfl, rfl, rfl, rfl, rfl, rfl, rfl, rfl, rfl, rfl, rfl, rfl, rfl, rfl, rfl, rfl, rfl,
    rfl, rfl, rfl, rfl, rfl, rfl, rfl, rfl, rfl, rfl, rfl, rfl, rfl, rfl, rfl, rfl, rfl, rfl, rfl, rfl, rfl, rfl, rfl, rfl, rfl, rfl, rfl,
    rfl, rfl, rfl, rfl, rfl, rfl, rfl, rfl, rfl, rfl, rfl, rfl, rfl, rfl, rfl, rfl, rfl, rfl, rfl, fun _ => rfl, fun _ => rfl,
    fun _ => rfl, fun _ => rfl, fun _ => rfl, fun _ => rfl, fun _ => rfl, fun _ => rfl, fun _ => rfl, fun _ => rfl, fun _ => rfl,
    fun _ => rfl, fun _ => rfl, fun _ => rfl, fun _ => rfl, fun _ => rfl, fun _ => rfl, fun _ => rfl, fun _ => rfl, rfl, rfl, rfl,
    fun _ _ _ => rfl⟩

@[simp] theorem State.setXfer_frame (j : Nat) (x : Xfer) :
    (s.setXfer j x).pending = s.pending ∧ (s.setXfer j x).freeCtr = s.freeCtr ∧ (s.setXfer j x).fresh = s.fresh ∧
    (s.setXfer j x).now = s.now ∧ (s.setXfer j x).t0 = s.t0 ∧ (s.setXfer j x).clks = s.clks ∧ (s.setXfer j x).regs = s.regs ∧
    (s.setXfer j x).tiles = s.tiles ∧ (s.setXfer j x).kernels = s.kernels ∧ (s.setXfer j x).ctxs = s.ctxs ∧ (s.setXfer j x).parts = s.parts ∧
    (s.setXfer j x).xcache = s.xcache ∧ (s.setXfer j x).pageReqs = s.pageReqs ∧ (s.setXfer j x).invs = s.invs ∧ (s.setXfer j x).mem = s.mem ∧
    (s.setXfer j x).poison = s.poison ∧ (s.setXfer j x).host = s.host ∧ (s.setXfer j x).hostAtomics = s.hostAtomics ∧
    (s.setXfer j x).rot = s.rot ∧ (s.setXfer j x).rotAt = s.rotAt ∧ (s.setXfer j x).raised = s.raised ∧ (s.setXfer j x).sent = s.sent ∧
    (s.setXfer j x).reqs = s.reqs ∧ (s.setXfer j x).rsps = s.rsps ∧ (s.setXfer j x).hostReqs = s.hostReqs ∧
    (s.setXfer j x).frames = s.frames ∧ (s.setXfer j x).misses = s.misses ∧ (s.setXfer j x).hosts = s.hosts ∧
    (s.setXfer j x).hostUse = s.hostUse ∧ (s.setXfer j x).hostTick = s.hostTick ∧ (s.setXfer j x).silent = s.silent ∧
    (s.setXfer j x).plru = s.plru ∧ (s.setXfer j x).watches = s.watches ∧ (s.setXfer j x).queues = s.queues ∧
    (s.setXfer j x).events = s.events ∧ (s.setXfer j x).ports = s.ports ∧ (s.setXfer j x).els = s.els ∧ (s.setXfer j x).cohorts = s.cohorts ∧
    (s.setXfer j x).paces = s.paces ∧ (s.setXfer j x).inbox = s.inbox ∧ (s.setXfer j x).outbox = s.outbox ∧
    (s.setXfer j x).waysOff = s.waysOff ∧ (s.setXfer j x).missOff = s.missOff ∧ (s.setXfer j x).bad = s.bad ∧
    (s.setXfer j x).pageCount = s.pageCount ∧ (s.setXfer j x).pages = s.pages ∧ (s.setXfer j x).freed = s.freed ∧
    (s.setXfer j x).taken = s.taken ∧ (s.setXfer j x).retired = s.retired ∧ (s.setXfer j x).retiring = s.retiring ∧
    (s.setXfer j x).fastCh = s.fastCh ∧ (s.setXfer j x).capCh = s.capCh ∧ (s.setXfer j x).rebuilding = s.rebuilding ∧
    (s.setXfer j x).mapFrames = s.mapFrames ∧ (s.setXfer j x).moves = s.moves ∧ (s.setXfer j x).todo = s.todo ∧
    (s.setXfer j x).plan = s.plan ∧ (s.setXfer j x).policyStarts = s.policyStarts ∧ (s.setXfer j x).otherStarts = s.otherStarts ∧
    (s.setXfer j x).sampled = s.sampled ∧ (s.setXfer j x).cells = s.cells ∧ (s.setXfer j x).lastCells = s.lastCells ∧
    (s.setXfer j x).badRows = s.badRows ∧ (s.setXfer j x).repairs = s.repairs ∧ (s.setXfer j x).stackTemps = s.stackTemps ∧
    (s.setXfer j x).capTemps = s.capTemps ∧ (s.setXfer j x).models = s.models ∧ (s.setXfer j x).herbTick = s.herbTick ∧
    (s.setXfer j x).prefetches = s.prefetches ∧ (s.setXfer j x).hot = s.hot ∧ (s.setXfer j x).hotSeen = s.hotSeen ∧
    (s.setXfer j x).epoch = s.epoch ∧ (s.setXfer j x).epochStart = s.epochStart ∧ (s.setXfer j x).quarantined = s.quarantined ∧
    (s.setXfer j x).noSpare = s.noSpare ∧ (s.setXfer j x).spent = s.spent ∧ (s.setXfer j x).occ = s.occ ∧ (s.setXfer j x).tileCe = s.tileCe ∧
    (s.setXfer j x).keys = s.keys ∧ (s.setXfer j x).stalled = s.stalled ∧ (s.setXfer j x).hashKey = s.hashKey ∧
    (s.setXfer j x).rotCycles = s.rotCycles ∧ (s.setXfer j x).vfs = s.vfs ∧ (s.setXfer j x).bar4 = s.bar4 ∧ (s.setXfer j x).flrs = s.flrs ∧
    (s.setXfer j x).tdis = s.tdis ∧ (s.setXfer j x).pwr = s.pwr ∧ (s.setXfer j x).trust = s.trust ∧ (s.setXfer j x).fuses = s.fuses ∧
    (s.setXfer j x).fw = s.fw ∧ (s.setXfer j x).svc = s.svc ∧ (s.setXfer j x).tmap = s.tmap ∧ (s.setXfer j x).failedPhys = s.failedPhys ∧
    (s.setXfer j x).unsaved = s.unsaved ∧ (s.setXfer j x).bist = s.bist ∧ (s.setXfer j x).recals = s.recals ∧
    (s.setXfer j x).links = s.links ∧ (s.setXfer j x).i3c = s.i3c ∧ (s.setXfer j x).tap = s.tap ∧ (s.setXfer j x).locks = s.locks ∧
    (∀ i, (s.setXfer j x).tile i = s.tile i) ∧ (∀ at_, (s.setXfer j x).clause at_ = s.clause at_) ∧
    (∀ i, (s.setXfer j x).kernel i = s.kernel i) ∧ (∀ i, (s.setXfer j x).ctx i = s.ctx i) ∧ (∀ q, (s.setXfer j x).part q = s.part q) ∧
    (∀ i, (s.setXfer j x).word i = s.word i) ∧ (∀ fl, (s.setXfer j x).fld fl = s.fld fl) ∧ (∀ i, (s.setXfer j x).frame i = s.frame i) ∧
    (∀ i, (s.setXfer j x).miss i = s.miss i) ∧ (∀ i, (s.setXfer j x).hostOf i = s.hostOf i) ∧ (∀ i, (s.setXfer j x).page i = s.page i) ∧
    (∀ i, (s.setXfer j x).queue i = s.queue i) ∧ (∀ i, (s.setXfer j x).model i = s.model i) ∧ (∀ i, (s.setXfer j x).port i = s.port i) ∧
    (∀ i, (s.setXfer j x).cohort i = s.cohort i) ∧ (∀ i, (s.setXfer j x).keySlot i = s.keySlot i) ∧ (∀ i, (s.setXfer j x).tdi i = s.tdi i) ∧
    (∀ i, (s.setXfer j x).clk i = s.clk i) ∧ (∀ i, (s.setXfer j x).cycle i = s.cycle i) ∧ (s.setXfer j x).ready = s.ready ∧
    (s.setXfer j x).answers = s.answers ∧ (s.setXfer j x).rotating = s.rotating ∧
    (∀ c va ac, (s.setXfer j x).locate c va ac = s.locate c va ac) :=
  ⟨rfl, rfl, rfl, rfl, rfl, rfl, rfl, rfl, rfl, rfl, rfl, rfl, rfl, rfl, rfl, rfl, rfl, rfl, rfl, rfl, rfl, rfl, rfl, rfl, rfl, rfl, rfl,
    rfl, rfl, rfl, rfl, rfl, rfl, rfl, rfl, rfl, rfl, rfl, rfl, rfl, rfl, rfl, rfl, rfl, rfl, rfl, rfl, rfl, rfl, rfl, rfl, rfl, rfl, rfl,
    rfl, rfl, rfl, rfl, rfl, rfl, rfl, rfl, rfl, rfl, rfl, rfl, rfl, rfl, rfl, rfl, rfl, rfl, rfl, rfl, rfl, rfl, rfl, rfl, rfl, rfl, rfl,
    rfl, rfl, rfl, rfl, rfl, rfl, rfl, rfl, rfl, rfl, rfl, rfl, rfl, rfl, rfl, rfl, rfl, rfl, rfl, fun _ => rfl, fun _ => rfl,
    fun _ => rfl, fun _ => rfl, fun _ => rfl, fun _ => rfl, fun _ => rfl, fun _ => rfl, fun _ => rfl, fun _ => rfl, fun _ => rfl,
    fun _ => rfl, fun _ => rfl, fun _ => rfl, fun _ => rfl, fun _ => rfl, fun _ => rfl, fun _ => rfl, fun _ => rfl, rfl, rfl, rfl,
    fun _ _ _ => rfl⟩

@[simp] theorem State.setFw_frame (j : Nat) (x : Fw) :
    (s.setFw j x).pending = s.pending ∧ (s.setFw j x).freeCtr = s.freeCtr ∧ (s.setFw j x).fresh = s.fresh ∧ (s.setFw j x).now = s.now ∧
    (s.setFw j x).t0 = s.t0 ∧ (s.setFw j x).clks = s.clks ∧ (s.setFw j x).regs = s.regs ∧ (s.setFw j x).tiles = s.tiles ∧
    (s.setFw j x).kernels = s.kernels ∧ (s.setFw j x).ctxs = s.ctxs ∧ (s.setFw j x).parts = s.parts ∧ (s.setFw j x).xcache = s.xcache ∧
    (s.setFw j x).pageReqs = s.pageReqs ∧ (s.setFw j x).invs = s.invs ∧ (s.setFw j x).mem = s.mem ∧ (s.setFw j x).poison = s.poison ∧
    (s.setFw j x).host = s.host ∧ (s.setFw j x).hostAtomics = s.hostAtomics ∧ (s.setFw j x).rot = s.rot ∧ (s.setFw j x).rotAt = s.rotAt ∧
    (s.setFw j x).raised = s.raised ∧ (s.setFw j x).sent = s.sent ∧ (s.setFw j x).reqs = s.reqs ∧ (s.setFw j x).rsps = s.rsps ∧
    (s.setFw j x).hostReqs = s.hostReqs ∧ (s.setFw j x).frames = s.frames ∧ (s.setFw j x).misses = s.misses ∧ (s.setFw j x).hosts = s.hosts ∧
    (s.setFw j x).hostUse = s.hostUse ∧ (s.setFw j x).hostTick = s.hostTick ∧ (s.setFw j x).silent = s.silent ∧ (s.setFw j x).plru = s.plru ∧
    (s.setFw j x).watches = s.watches ∧ (s.setFw j x).queues = s.queues ∧ (s.setFw j x).events = s.events ∧ (s.setFw j x).ports = s.ports ∧
    (s.setFw j x).els = s.els ∧ (s.setFw j x).xfers = s.xfers ∧ (s.setFw j x).cohorts = s.cohorts ∧ (s.setFw j x).paces = s.paces ∧
    (s.setFw j x).inbox = s.inbox ∧ (s.setFw j x).outbox = s.outbox ∧ (s.setFw j x).waysOff = s.waysOff ∧ (s.setFw j x).missOff = s.missOff ∧
    (s.setFw j x).bad = s.bad ∧ (s.setFw j x).pageCount = s.pageCount ∧ (s.setFw j x).pages = s.pages ∧ (s.setFw j x).freed = s.freed ∧
    (s.setFw j x).taken = s.taken ∧ (s.setFw j x).retired = s.retired ∧ (s.setFw j x).retiring = s.retiring ∧
    (s.setFw j x).fastCh = s.fastCh ∧ (s.setFw j x).capCh = s.capCh ∧ (s.setFw j x).rebuilding = s.rebuilding ∧
    (s.setFw j x).mapFrames = s.mapFrames ∧ (s.setFw j x).moves = s.moves ∧ (s.setFw j x).todo = s.todo ∧ (s.setFw j x).plan = s.plan ∧
    (s.setFw j x).policyStarts = s.policyStarts ∧ (s.setFw j x).otherStarts = s.otherStarts ∧ (s.setFw j x).sampled = s.sampled ∧
    (s.setFw j x).cells = s.cells ∧ (s.setFw j x).lastCells = s.lastCells ∧ (s.setFw j x).badRows = s.badRows ∧
    (s.setFw j x).repairs = s.repairs ∧ (s.setFw j x).stackTemps = s.stackTemps ∧ (s.setFw j x).capTemps = s.capTemps ∧
    (s.setFw j x).models = s.models ∧ (s.setFw j x).herbTick = s.herbTick ∧ (s.setFw j x).prefetches = s.prefetches ∧
    (s.setFw j x).hot = s.hot ∧ (s.setFw j x).hotSeen = s.hotSeen ∧ (s.setFw j x).epoch = s.epoch ∧ (s.setFw j x).epochStart = s.epochStart ∧
    (s.setFw j x).quarantined = s.quarantined ∧ (s.setFw j x).noSpare = s.noSpare ∧ (s.setFw j x).spent = s.spent ∧
    (s.setFw j x).occ = s.occ ∧ (s.setFw j x).tileCe = s.tileCe ∧ (s.setFw j x).keys = s.keys ∧ (s.setFw j x).stalled = s.stalled ∧
    (s.setFw j x).hashKey = s.hashKey ∧ (s.setFw j x).rotCycles = s.rotCycles ∧ (s.setFw j x).vfs = s.vfs ∧ (s.setFw j x).bar4 = s.bar4 ∧
    (s.setFw j x).flrs = s.flrs ∧ (s.setFw j x).tdis = s.tdis ∧ (s.setFw j x).pwr = s.pwr ∧ (s.setFw j x).trust = s.trust ∧
    (s.setFw j x).fuses = s.fuses ∧ (s.setFw j x).svc = s.svc ∧ (s.setFw j x).tmap = s.tmap ∧ (s.setFw j x).failedPhys = s.failedPhys ∧
    (s.setFw j x).unsaved = s.unsaved ∧ (s.setFw j x).bist = s.bist ∧ (s.setFw j x).recals = s.recals ∧ (s.setFw j x).links = s.links ∧
    (s.setFw j x).i3c = s.i3c ∧ (s.setFw j x).tap = s.tap ∧ (s.setFw j x).locks = s.locks ∧ (∀ i, (s.setFw j x).tile i = s.tile i) ∧
    (∀ at_, (s.setFw j x).clause at_ = s.clause at_) ∧ (∀ i, (s.setFw j x).kernel i = s.kernel i) ∧ (∀ i, (s.setFw j x).ctx i = s.ctx i) ∧
    (∀ q, (s.setFw j x).part q = s.part q) ∧ (∀ i, (s.setFw j x).word i = s.word i) ∧ (∀ fl, (s.setFw j x).fld fl = s.fld fl) ∧
    (∀ i, (s.setFw j x).frame i = s.frame i) ∧ (∀ i, (s.setFw j x).miss i = s.miss i) ∧ (∀ i, (s.setFw j x).hostOf i = s.hostOf i) ∧
    (∀ i, (s.setFw j x).page i = s.page i) ∧ (∀ i, (s.setFw j x).queue i = s.queue i) ∧ (∀ i, (s.setFw j x).model i = s.model i) ∧
    (∀ i, (s.setFw j x).port i = s.port i) ∧ (∀ i, (s.setFw j x).cohort i = s.cohort i) ∧ (∀ y, (s.setFw j x).xfer y = s.xfer y) ∧
    (∀ i, (s.setFw j x).keySlot i = s.keySlot i) ∧ (∀ i, (s.setFw j x).tdi i = s.tdi i) ∧ (∀ i, (s.setFw j x).clk i = s.clk i) ∧
    (∀ i, (s.setFw j x).cycle i = s.cycle i) ∧ (s.setFw j x).ready = s.ready ∧ (s.setFw j x).answers = s.answers ∧
    (s.setFw j x).rotating = s.rotating ∧ (∀ c va ac, (s.setFw j x).locate c va ac = s.locate c va ac) :=
  ⟨rfl, rfl, rfl, rfl, rfl, rfl, rfl, rfl, rfl, rfl, rfl, rfl, rfl, rfl, rfl, rfl, rfl, rfl, rfl, rfl, rfl, rfl, rfl, rfl, rfl, rfl, rfl,
    rfl, rfl, rfl, rfl, rfl, rfl, rfl, rfl, rfl, rfl, rfl, rfl, rfl, rfl, rfl, rfl, rfl, rfl, rfl, rfl, rfl, rfl, rfl, rfl, rfl, rfl, rfl,
    rfl, rfl, rfl, rfl, rfl, rfl, rfl, rfl, rfl, rfl, rfl, rfl, rfl, rfl, rfl, rfl, rfl, rfl, rfl, rfl, rfl, rfl, rfl, rfl, rfl, rfl, rfl,
    rfl, rfl, rfl, rfl, rfl, rfl, rfl, rfl, rfl, rfl, rfl, rfl, rfl, rfl, rfl, rfl, rfl, rfl, rfl, fun _ => rfl, fun _ => rfl,
    fun _ => rfl, fun _ => rfl, fun _ => rfl, fun _ => rfl, fun _ => rfl, fun _ => rfl, fun _ => rfl, fun _ => rfl, fun _ => rfl,
    fun _ => rfl, fun _ => rfl, fun _ => rfl, fun _ => rfl, fun _ => rfl, fun _ => rfl, fun _ => rfl, fun _ => rfl, fun _ => rfl, rfl, rfl,
    rfl, fun _ _ _ => rfl⟩

@[simp] theorem State.reply_frame (via : Transport) (r : SpdmRsp) :
    (s.reply via r).pending = s.pending ∧ (s.reply via r).freeCtr = s.freeCtr ∧ (s.reply via r).fresh = s.fresh ∧
    (s.reply via r).now = s.now ∧ (s.reply via r).t0 = s.t0 ∧ (s.reply via r).clks = s.clks ∧ (s.reply via r).regs = s.regs ∧
    (s.reply via r).tiles = s.tiles ∧ (s.reply via r).kernels = s.kernels ∧ (s.reply via r).ctxs = s.ctxs ∧ (s.reply via r).parts = s.parts ∧
    (s.reply via r).xcache = s.xcache ∧ (s.reply via r).pageReqs = s.pageReqs ∧ (s.reply via r).invs = s.invs ∧ (s.reply via r).mem = s.mem ∧
    (s.reply via r).poison = s.poison ∧ (s.reply via r).host = s.host ∧ (s.reply via r).hostAtomics = s.hostAtomics ∧
    (s.reply via r).rot = s.rot ∧ (s.reply via r).rotAt = s.rotAt ∧ (s.reply via r).raised = s.raised ∧ (s.reply via r).reqs = s.reqs ∧
    (s.reply via r).rsps = s.rsps ∧ (s.reply via r).hostReqs = s.hostReqs ∧ (s.reply via r).frames = s.frames ∧
    (s.reply via r).misses = s.misses ∧ (s.reply via r).hosts = s.hosts ∧ (s.reply via r).hostUse = s.hostUse ∧
    (s.reply via r).hostTick = s.hostTick ∧ (s.reply via r).silent = s.silent ∧ (s.reply via r).plru = s.plru ∧
    (s.reply via r).watches = s.watches ∧ (s.reply via r).queues = s.queues ∧ (s.reply via r).events = s.events ∧
    (s.reply via r).ports = s.ports ∧ (s.reply via r).els = s.els ∧ (s.reply via r).xfers = s.xfers ∧ (s.reply via r).cohorts = s.cohorts ∧
    (s.reply via r).paces = s.paces ∧ (s.reply via r).inbox = s.inbox ∧ (s.reply via r).outbox = s.outbox ∧
    (s.reply via r).waysOff = s.waysOff ∧ (s.reply via r).missOff = s.missOff ∧ (s.reply via r).bad = s.bad ∧
    (s.reply via r).pageCount = s.pageCount ∧ (s.reply via r).pages = s.pages ∧ (s.reply via r).freed = s.freed ∧
    (s.reply via r).taken = s.taken ∧ (s.reply via r).retired = s.retired ∧ (s.reply via r).retiring = s.retiring ∧
    (s.reply via r).fastCh = s.fastCh ∧ (s.reply via r).capCh = s.capCh ∧ (s.reply via r).rebuilding = s.rebuilding ∧
    (s.reply via r).mapFrames = s.mapFrames ∧ (s.reply via r).moves = s.moves ∧ (s.reply via r).todo = s.todo ∧
    (s.reply via r).plan = s.plan ∧ (s.reply via r).policyStarts = s.policyStarts ∧ (s.reply via r).otherStarts = s.otherStarts ∧
    (s.reply via r).sampled = s.sampled ∧ (s.reply via r).cells = s.cells ∧ (s.reply via r).lastCells = s.lastCells ∧
    (s.reply via r).badRows = s.badRows ∧ (s.reply via r).repairs = s.repairs ∧ (s.reply via r).stackTemps = s.stackTemps ∧
    (s.reply via r).capTemps = s.capTemps ∧ (s.reply via r).models = s.models ∧ (s.reply via r).herbTick = s.herbTick ∧
    (s.reply via r).prefetches = s.prefetches ∧ (s.reply via r).hot = s.hot ∧ (s.reply via r).hotSeen = s.hotSeen ∧
    (s.reply via r).epoch = s.epoch ∧ (s.reply via r).epochStart = s.epochStart ∧ (s.reply via r).quarantined = s.quarantined ∧
    (s.reply via r).noSpare = s.noSpare ∧ (s.reply via r).spent = s.spent ∧ (s.reply via r).occ = s.occ ∧ (s.reply via r).tileCe = s.tileCe ∧
    (s.reply via r).keys = s.keys ∧ (s.reply via r).stalled = s.stalled ∧ (s.reply via r).hashKey = s.hashKey ∧
    (s.reply via r).rotCycles = s.rotCycles ∧ (s.reply via r).vfs = s.vfs ∧ (s.reply via r).bar4 = s.bar4 ∧ (s.reply via r).flrs = s.flrs ∧
    (s.reply via r).tdis = s.tdis ∧ (s.reply via r).pwr = s.pwr ∧ (s.reply via r).trust = s.trust ∧ (s.reply via r).fuses = s.fuses ∧
    (s.reply via r).fw = s.fw ∧ (s.reply via r).svc = s.svc ∧ (s.reply via r).tmap = s.tmap ∧ (s.reply via r).failedPhys = s.failedPhys ∧
    (s.reply via r).unsaved = s.unsaved ∧ (s.reply via r).bist = s.bist ∧ (s.reply via r).recals = s.recals ∧
    (s.reply via r).links = s.links ∧ (s.reply via r).i3c = s.i3c ∧ (s.reply via r).tap = s.tap ∧ (s.reply via r).locks = s.locks ∧
    (∀ i, (s.reply via r).tile i = s.tile i) ∧ (∀ at_, (s.reply via r).clause at_ = s.clause at_) ∧
    (∀ i, (s.reply via r).kernel i = s.kernel i) ∧ (∀ i, (s.reply via r).ctx i = s.ctx i) ∧ (∀ q, (s.reply via r).part q = s.part q) ∧
    (∀ i, (s.reply via r).word i = s.word i) ∧ (∀ fl, (s.reply via r).fld fl = s.fld fl) ∧ (∀ i, (s.reply via r).frame i = s.frame i) ∧
    (∀ i, (s.reply via r).miss i = s.miss i) ∧ (∀ i, (s.reply via r).hostOf i = s.hostOf i) ∧ (∀ i, (s.reply via r).page i = s.page i) ∧
    (∀ i, (s.reply via r).queue i = s.queue i) ∧ (∀ i, (s.reply via r).model i = s.model i) ∧ (∀ i, (s.reply via r).port i = s.port i) ∧
    (∀ i, (s.reply via r).cohort i = s.cohort i) ∧ (∀ y, (s.reply via r).xfer y = s.xfer y) ∧ (∀ i, (s.reply via r).keySlot i = s.keySlot i) ∧
    (∀ i, (s.reply via r).tdi i = s.tdi i) ∧ (∀ i, (s.reply via r).clk i = s.clk i) ∧ (∀ i, (s.reply via r).cycle i = s.cycle i) ∧
    (s.reply via r).ready = s.ready ∧ (s.reply via r).answers = s.answers ∧ (s.reply via r).rotating = s.rotating ∧
    (∀ c va ac, (s.reply via r).locate c va ac = s.locate c va ac) :=
  ⟨rfl, rfl, rfl, rfl, rfl, rfl, rfl, rfl, rfl, rfl, rfl, rfl, rfl, rfl, rfl, rfl, rfl, rfl, rfl, rfl, rfl, rfl, rfl, rfl, rfl, rfl, rfl,
    rfl, rfl, rfl, rfl, rfl, rfl, rfl, rfl, rfl, rfl, rfl, rfl, rfl, rfl, rfl, rfl, rfl, rfl, rfl, rfl, rfl, rfl, rfl, rfl, rfl, rfl, rfl,
    rfl, rfl, rfl, rfl, rfl, rfl, rfl, rfl, rfl, rfl, rfl, rfl, rfl, rfl, rfl, rfl, rfl, rfl, rfl, rfl, rfl, rfl, rfl, rfl, rfl, rfl, rfl,
    rfl, rfl, rfl, rfl, rfl, rfl, rfl, rfl, rfl, rfl, rfl, rfl, rfl, rfl, rfl, rfl, rfl, rfl, rfl, fun _ => rfl, fun _ => rfl,
    fun _ => rfl, fun _ => rfl, fun _ => rfl, fun _ => rfl, fun _ => rfl, fun _ => rfl, fun _ => rfl, fun _ => rfl, fun _ => rfl,
    fun _ => rfl, fun _ => rfl, fun _ => rfl, fun _ => rfl, fun _ => rfl, fun _ => rfl, fun _ => rfl, fun _ => rfl, fun _ => rfl, rfl, rfl,
    rfl, fun _ _ _ => rfl⟩

@[simp] theorem State.dropReq_frame (j : Nat) :
    (s.dropReq j).pending = s.pending ∧ (s.dropReq j).freeCtr = s.freeCtr ∧ (s.dropReq j).fresh = s.fresh ∧ (s.dropReq j).now = s.now ∧
    (s.dropReq j).t0 = s.t0 ∧ (s.dropReq j).clks = s.clks ∧ (s.dropReq j).regs = s.regs ∧ (s.dropReq j).tiles = s.tiles ∧
    (s.dropReq j).kernels = s.kernels ∧ (s.dropReq j).ctxs = s.ctxs ∧ (s.dropReq j).parts = s.parts ∧ (s.dropReq j).xcache = s.xcache ∧
    (s.dropReq j).pageReqs = s.pageReqs ∧ (s.dropReq j).invs = s.invs ∧ (s.dropReq j).mem = s.mem ∧ (s.dropReq j).poison = s.poison ∧
    (s.dropReq j).host = s.host ∧ (s.dropReq j).hostAtomics = s.hostAtomics ∧ (s.dropReq j).rot = s.rot ∧ (s.dropReq j).rotAt = s.rotAt ∧
    (s.dropReq j).raised = s.raised ∧ (s.dropReq j).sent = s.sent ∧ (s.dropReq j).rsps = s.rsps ∧ (s.dropReq j).hostReqs = s.hostReqs ∧
    (s.dropReq j).frames = s.frames ∧ (s.dropReq j).misses = s.misses ∧ (s.dropReq j).hosts = s.hosts ∧ (s.dropReq j).hostUse = s.hostUse ∧
    (s.dropReq j).hostTick = s.hostTick ∧ (s.dropReq j).silent = s.silent ∧ (s.dropReq j).plru = s.plru ∧ (s.dropReq j).watches = s.watches ∧
    (s.dropReq j).queues = s.queues ∧ (s.dropReq j).events = s.events ∧ (s.dropReq j).ports = s.ports ∧ (s.dropReq j).els = s.els ∧
    (s.dropReq j).xfers = s.xfers ∧ (s.dropReq j).cohorts = s.cohorts ∧ (s.dropReq j).paces = s.paces ∧ (s.dropReq j).inbox = s.inbox ∧
    (s.dropReq j).outbox = s.outbox ∧ (s.dropReq j).waysOff = s.waysOff ∧ (s.dropReq j).missOff = s.missOff ∧ (s.dropReq j).bad = s.bad ∧
    (s.dropReq j).pageCount = s.pageCount ∧ (s.dropReq j).pages = s.pages ∧ (s.dropReq j).freed = s.freed ∧ (s.dropReq j).taken = s.taken ∧
    (s.dropReq j).retired = s.retired ∧ (s.dropReq j).retiring = s.retiring ∧ (s.dropReq j).fastCh = s.fastCh ∧
    (s.dropReq j).capCh = s.capCh ∧ (s.dropReq j).rebuilding = s.rebuilding ∧ (s.dropReq j).mapFrames = s.mapFrames ∧
    (s.dropReq j).moves = s.moves ∧ (s.dropReq j).todo = s.todo ∧ (s.dropReq j).plan = s.plan ∧ (s.dropReq j).policyStarts = s.policyStarts ∧
    (s.dropReq j).otherStarts = s.otherStarts ∧ (s.dropReq j).sampled = s.sampled ∧ (s.dropReq j).cells = s.cells ∧
    (s.dropReq j).lastCells = s.lastCells ∧ (s.dropReq j).badRows = s.badRows ∧ (s.dropReq j).repairs = s.repairs ∧
    (s.dropReq j).stackTemps = s.stackTemps ∧ (s.dropReq j).capTemps = s.capTemps ∧ (s.dropReq j).models = s.models ∧
    (s.dropReq j).herbTick = s.herbTick ∧ (s.dropReq j).prefetches = s.prefetches ∧ (s.dropReq j).hot = s.hot ∧
    (s.dropReq j).hotSeen = s.hotSeen ∧ (s.dropReq j).epoch = s.epoch ∧ (s.dropReq j).epochStart = s.epochStart ∧
    (s.dropReq j).quarantined = s.quarantined ∧ (s.dropReq j).noSpare = s.noSpare ∧ (s.dropReq j).spent = s.spent ∧
    (s.dropReq j).occ = s.occ ∧ (s.dropReq j).tileCe = s.tileCe ∧ (s.dropReq j).keys = s.keys ∧ (s.dropReq j).stalled = s.stalled ∧
    (s.dropReq j).hashKey = s.hashKey ∧ (s.dropReq j).rotCycles = s.rotCycles ∧ (s.dropReq j).vfs = s.vfs ∧ (s.dropReq j).bar4 = s.bar4 ∧
    (s.dropReq j).flrs = s.flrs ∧ (s.dropReq j).tdis = s.tdis ∧ (s.dropReq j).pwr = s.pwr ∧ (s.dropReq j).trust = s.trust ∧
    (s.dropReq j).fuses = s.fuses ∧ (s.dropReq j).fw = s.fw ∧ (s.dropReq j).svc = s.svc ∧ (s.dropReq j).tmap = s.tmap ∧
    (s.dropReq j).failedPhys = s.failedPhys ∧ (s.dropReq j).unsaved = s.unsaved ∧ (s.dropReq j).bist = s.bist ∧
    (s.dropReq j).recals = s.recals ∧ (s.dropReq j).links = s.links ∧ (s.dropReq j).i3c = s.i3c ∧ (s.dropReq j).tap = s.tap ∧
    (s.dropReq j).locks = s.locks ∧ (∀ i, (s.dropReq j).tile i = s.tile i) ∧ (∀ at_, (s.dropReq j).clause at_ = s.clause at_) ∧
    (∀ i, (s.dropReq j).kernel i = s.kernel i) ∧ (∀ i, (s.dropReq j).ctx i = s.ctx i) ∧ (∀ q, (s.dropReq j).part q = s.part q) ∧
    (∀ i, (s.dropReq j).word i = s.word i) ∧ (∀ fl, (s.dropReq j).fld fl = s.fld fl) ∧ (∀ i, (s.dropReq j).frame i = s.frame i) ∧
    (∀ i, (s.dropReq j).miss i = s.miss i) ∧ (∀ i, (s.dropReq j).hostOf i = s.hostOf i) ∧ (∀ i, (s.dropReq j).page i = s.page i) ∧
    (∀ i, (s.dropReq j).queue i = s.queue i) ∧ (∀ i, (s.dropReq j).model i = s.model i) ∧ (∀ i, (s.dropReq j).port i = s.port i) ∧
    (∀ i, (s.dropReq j).cohort i = s.cohort i) ∧ (∀ y, (s.dropReq j).xfer y = s.xfer y) ∧ (∀ i, (s.dropReq j).keySlot i = s.keySlot i) ∧
    (∀ i, (s.dropReq j).tdi i = s.tdi i) ∧ (∀ i, (s.dropReq j).clk i = s.clk i) ∧ (∀ i, (s.dropReq j).cycle i = s.cycle i) ∧
    (s.dropReq j).ready = s.ready ∧ (s.dropReq j).answers = s.answers ∧ (s.dropReq j).rotating = s.rotating ∧
    (∀ c va ac, (s.dropReq j).locate c va ac = s.locate c va ac) :=
  ⟨rfl, rfl, rfl, rfl, rfl, rfl, rfl, rfl, rfl, rfl, rfl, rfl, rfl, rfl, rfl, rfl, rfl, rfl, rfl, rfl, rfl, rfl, rfl, rfl, rfl, rfl, rfl,
    rfl, rfl, rfl, rfl, rfl, rfl, rfl, rfl, rfl, rfl, rfl, rfl, rfl, rfl, rfl, rfl, rfl, rfl, rfl, rfl, rfl, rfl, rfl, rfl, rfl, rfl, rfl,
    rfl, rfl, rfl, rfl, rfl, rfl, rfl, rfl, rfl, rfl, rfl, rfl, rfl, rfl, rfl, rfl, rfl, rfl, rfl, rfl, rfl, rfl, rfl, rfl, rfl, rfl, rfl,
    rfl, rfl, rfl, rfl, rfl, rfl, rfl, rfl, rfl, rfl, rfl, rfl, rfl, rfl, rfl, rfl, rfl, rfl, rfl, fun _ => rfl, fun _ => rfl,
    fun _ => rfl, fun _ => rfl, fun _ => rfl, fun _ => rfl, fun _ => rfl, fun _ => rfl, fun _ => rfl, fun _ => rfl, fun _ => rfl,
    fun _ => rfl, fun _ => rfl, fun _ => rfl, fun _ => rfl, fun _ => rfl, fun _ => rfl, fun _ => rfl, fun _ => rfl, fun _ => rfl, rfl, rfl,
    rfl, fun _ _ _ => rfl⟩

@[simp] theorem State.setReq_frame (r : Req) :
    (s.setReq r).pending = s.pending ∧ (s.setReq r).freeCtr = s.freeCtr ∧ (s.setReq r).fresh = s.fresh ∧ (s.setReq r).now = s.now ∧
    (s.setReq r).t0 = s.t0 ∧ (s.setReq r).clks = s.clks ∧ (s.setReq r).regs = s.regs ∧ (s.setReq r).tiles = s.tiles ∧
    (s.setReq r).kernels = s.kernels ∧ (s.setReq r).ctxs = s.ctxs ∧ (s.setReq r).parts = s.parts ∧ (s.setReq r).xcache = s.xcache ∧
    (s.setReq r).pageReqs = s.pageReqs ∧ (s.setReq r).invs = s.invs ∧ (s.setReq r).mem = s.mem ∧ (s.setReq r).poison = s.poison ∧
    (s.setReq r).host = s.host ∧ (s.setReq r).hostAtomics = s.hostAtomics ∧ (s.setReq r).rot = s.rot ∧ (s.setReq r).rotAt = s.rotAt ∧
    (s.setReq r).raised = s.raised ∧ (s.setReq r).sent = s.sent ∧ (s.setReq r).rsps = s.rsps ∧ (s.setReq r).hostReqs = s.hostReqs ∧
    (s.setReq r).frames = s.frames ∧ (s.setReq r).misses = s.misses ∧ (s.setReq r).hosts = s.hosts ∧ (s.setReq r).hostUse = s.hostUse ∧
    (s.setReq r).hostTick = s.hostTick ∧ (s.setReq r).silent = s.silent ∧ (s.setReq r).plru = s.plru ∧ (s.setReq r).watches = s.watches ∧
    (s.setReq r).queues = s.queues ∧ (s.setReq r).events = s.events ∧ (s.setReq r).ports = s.ports ∧ (s.setReq r).els = s.els ∧
    (s.setReq r).xfers = s.xfers ∧ (s.setReq r).cohorts = s.cohorts ∧ (s.setReq r).paces = s.paces ∧ (s.setReq r).inbox = s.inbox ∧
    (s.setReq r).outbox = s.outbox ∧ (s.setReq r).waysOff = s.waysOff ∧ (s.setReq r).missOff = s.missOff ∧ (s.setReq r).bad = s.bad ∧
    (s.setReq r).pageCount = s.pageCount ∧ (s.setReq r).pages = s.pages ∧ (s.setReq r).freed = s.freed ∧ (s.setReq r).taken = s.taken ∧
    (s.setReq r).retired = s.retired ∧ (s.setReq r).retiring = s.retiring ∧ (s.setReq r).fastCh = s.fastCh ∧ (s.setReq r).capCh = s.capCh ∧
    (s.setReq r).rebuilding = s.rebuilding ∧ (s.setReq r).mapFrames = s.mapFrames ∧ (s.setReq r).moves = s.moves ∧
    (s.setReq r).todo = s.todo ∧ (s.setReq r).plan = s.plan ∧ (s.setReq r).policyStarts = s.policyStarts ∧
    (s.setReq r).otherStarts = s.otherStarts ∧ (s.setReq r).sampled = s.sampled ∧ (s.setReq r).cells = s.cells ∧
    (s.setReq r).lastCells = s.lastCells ∧ (s.setReq r).badRows = s.badRows ∧ (s.setReq r).repairs = s.repairs ∧
    (s.setReq r).stackTemps = s.stackTemps ∧ (s.setReq r).capTemps = s.capTemps ∧ (s.setReq r).models = s.models ∧
    (s.setReq r).herbTick = s.herbTick ∧ (s.setReq r).prefetches = s.prefetches ∧ (s.setReq r).hot = s.hot ∧
    (s.setReq r).hotSeen = s.hotSeen ∧ (s.setReq r).epoch = s.epoch ∧ (s.setReq r).epochStart = s.epochStart ∧
    (s.setReq r).quarantined = s.quarantined ∧ (s.setReq r).noSpare = s.noSpare ∧ (s.setReq r).spent = s.spent ∧ (s.setReq r).occ = s.occ ∧
    (s.setReq r).tileCe = s.tileCe ∧ (s.setReq r).keys = s.keys ∧ (s.setReq r).stalled = s.stalled ∧ (s.setReq r).hashKey = s.hashKey ∧
    (s.setReq r).rotCycles = s.rotCycles ∧ (s.setReq r).vfs = s.vfs ∧ (s.setReq r).bar4 = s.bar4 ∧ (s.setReq r).flrs = s.flrs ∧
    (s.setReq r).tdis = s.tdis ∧ (s.setReq r).pwr = s.pwr ∧ (s.setReq r).trust = s.trust ∧ (s.setReq r).fuses = s.fuses ∧
    (s.setReq r).fw = s.fw ∧ (s.setReq r).svc = s.svc ∧ (s.setReq r).tmap = s.tmap ∧ (s.setReq r).failedPhys = s.failedPhys ∧
    (s.setReq r).unsaved = s.unsaved ∧ (s.setReq r).bist = s.bist ∧ (s.setReq r).recals = s.recals ∧ (s.setReq r).links = s.links ∧
    (s.setReq r).i3c = s.i3c ∧ (s.setReq r).tap = s.tap ∧ (s.setReq r).locks = s.locks ∧ (∀ i, (s.setReq r).tile i = s.tile i) ∧
    (∀ at_, (s.setReq r).clause at_ = s.clause at_) ∧ (∀ i, (s.setReq r).kernel i = s.kernel i) ∧ (∀ i, (s.setReq r).ctx i = s.ctx i) ∧
    (∀ q, (s.setReq r).part q = s.part q) ∧ (∀ i, (s.setReq r).word i = s.word i) ∧ (∀ fl, (s.setReq r).fld fl = s.fld fl) ∧
    (∀ i, (s.setReq r).frame i = s.frame i) ∧ (∀ i, (s.setReq r).miss i = s.miss i) ∧ (∀ i, (s.setReq r).hostOf i = s.hostOf i) ∧
    (∀ i, (s.setReq r).page i = s.page i) ∧ (∀ i, (s.setReq r).queue i = s.queue i) ∧ (∀ i, (s.setReq r).model i = s.model i) ∧
    (∀ i, (s.setReq r).port i = s.port i) ∧ (∀ i, (s.setReq r).cohort i = s.cohort i) ∧ (∀ y, (s.setReq r).xfer y = s.xfer y) ∧
    (∀ i, (s.setReq r).keySlot i = s.keySlot i) ∧ (∀ i, (s.setReq r).tdi i = s.tdi i) ∧ (∀ i, (s.setReq r).clk i = s.clk i) ∧
    (∀ i, (s.setReq r).cycle i = s.cycle i) ∧ (s.setReq r).ready = s.ready ∧ (s.setReq r).answers = s.answers ∧
    (s.setReq r).rotating = s.rotating ∧ (∀ c va ac, (s.setReq r).locate c va ac = s.locate c va ac) :=
  ⟨rfl, rfl, rfl, rfl, rfl, rfl, rfl, rfl, rfl, rfl, rfl, rfl, rfl, rfl, rfl, rfl, rfl, rfl, rfl, rfl, rfl, rfl, rfl, rfl, rfl, rfl, rfl,
    rfl, rfl, rfl, rfl, rfl, rfl, rfl, rfl, rfl, rfl, rfl, rfl, rfl, rfl, rfl, rfl, rfl, rfl, rfl, rfl, rfl, rfl, rfl, rfl, rfl, rfl, rfl,
    rfl, rfl, rfl, rfl, rfl, rfl, rfl, rfl, rfl, rfl, rfl, rfl, rfl, rfl, rfl, rfl, rfl, rfl, rfl, rfl, rfl, rfl, rfl, rfl, rfl, rfl, rfl,
    rfl, rfl, rfl, rfl, rfl, rfl, rfl, rfl, rfl, rfl, rfl, rfl, rfl, rfl, rfl, rfl, rfl, rfl, rfl, fun _ => rfl, fun _ => rfl,
    fun _ => rfl, fun _ => rfl, fun _ => rfl, fun _ => rfl, fun _ => rfl, fun _ => rfl, fun _ => rfl, fun _ => rfl, fun _ => rfl,
    fun _ => rfl, fun _ => rfl, fun _ => rfl, fun _ => rfl, fun _ => rfl, fun _ => rfl, fun _ => rfl, fun _ => rfl, fun _ => rfl, rfl, rfl,
    rfl, fun _ _ _ => rfl⟩

@[simp] theorem State.dropRsp_frame (j : Nat) :
    (s.dropRsp j).pending = s.pending ∧ (s.dropRsp j).freeCtr = s.freeCtr ∧ (s.dropRsp j).fresh = s.fresh ∧ (s.dropRsp j).now = s.now ∧
    (s.dropRsp j).t0 = s.t0 ∧ (s.dropRsp j).clks = s.clks ∧ (s.dropRsp j).regs = s.regs ∧ (s.dropRsp j).tiles = s.tiles ∧
    (s.dropRsp j).kernels = s.kernels ∧ (s.dropRsp j).ctxs = s.ctxs ∧ (s.dropRsp j).parts = s.parts ∧ (s.dropRsp j).xcache = s.xcache ∧
    (s.dropRsp j).pageReqs = s.pageReqs ∧ (s.dropRsp j).invs = s.invs ∧ (s.dropRsp j).mem = s.mem ∧ (s.dropRsp j).poison = s.poison ∧
    (s.dropRsp j).host = s.host ∧ (s.dropRsp j).hostAtomics = s.hostAtomics ∧ (s.dropRsp j).rot = s.rot ∧ (s.dropRsp j).rotAt = s.rotAt ∧
    (s.dropRsp j).raised = s.raised ∧ (s.dropRsp j).sent = s.sent ∧ (s.dropRsp j).reqs = s.reqs ∧ (s.dropRsp j).hostReqs = s.hostReqs ∧
    (s.dropRsp j).frames = s.frames ∧ (s.dropRsp j).misses = s.misses ∧ (s.dropRsp j).hosts = s.hosts ∧ (s.dropRsp j).hostUse = s.hostUse ∧
    (s.dropRsp j).hostTick = s.hostTick ∧ (s.dropRsp j).silent = s.silent ∧ (s.dropRsp j).plru = s.plru ∧ (s.dropRsp j).watches = s.watches ∧
    (s.dropRsp j).queues = s.queues ∧ (s.dropRsp j).events = s.events ∧ (s.dropRsp j).ports = s.ports ∧ (s.dropRsp j).els = s.els ∧
    (s.dropRsp j).xfers = s.xfers ∧ (s.dropRsp j).cohorts = s.cohorts ∧ (s.dropRsp j).paces = s.paces ∧ (s.dropRsp j).inbox = s.inbox ∧
    (s.dropRsp j).outbox = s.outbox ∧ (s.dropRsp j).waysOff = s.waysOff ∧ (s.dropRsp j).missOff = s.missOff ∧ (s.dropRsp j).bad = s.bad ∧
    (s.dropRsp j).pageCount = s.pageCount ∧ (s.dropRsp j).pages = s.pages ∧ (s.dropRsp j).freed = s.freed ∧ (s.dropRsp j).taken = s.taken ∧
    (s.dropRsp j).retired = s.retired ∧ (s.dropRsp j).retiring = s.retiring ∧ (s.dropRsp j).fastCh = s.fastCh ∧
    (s.dropRsp j).capCh = s.capCh ∧ (s.dropRsp j).rebuilding = s.rebuilding ∧ (s.dropRsp j).mapFrames = s.mapFrames ∧
    (s.dropRsp j).moves = s.moves ∧ (s.dropRsp j).todo = s.todo ∧ (s.dropRsp j).plan = s.plan ∧ (s.dropRsp j).policyStarts = s.policyStarts ∧
    (s.dropRsp j).otherStarts = s.otherStarts ∧ (s.dropRsp j).sampled = s.sampled ∧ (s.dropRsp j).cells = s.cells ∧
    (s.dropRsp j).lastCells = s.lastCells ∧ (s.dropRsp j).badRows = s.badRows ∧ (s.dropRsp j).repairs = s.repairs ∧
    (s.dropRsp j).stackTemps = s.stackTemps ∧ (s.dropRsp j).capTemps = s.capTemps ∧ (s.dropRsp j).models = s.models ∧
    (s.dropRsp j).herbTick = s.herbTick ∧ (s.dropRsp j).prefetches = s.prefetches ∧ (s.dropRsp j).hot = s.hot ∧
    (s.dropRsp j).hotSeen = s.hotSeen ∧ (s.dropRsp j).epoch = s.epoch ∧ (s.dropRsp j).epochStart = s.epochStart ∧
    (s.dropRsp j).quarantined = s.quarantined ∧ (s.dropRsp j).noSpare = s.noSpare ∧ (s.dropRsp j).spent = s.spent ∧
    (s.dropRsp j).occ = s.occ ∧ (s.dropRsp j).tileCe = s.tileCe ∧ (s.dropRsp j).keys = s.keys ∧ (s.dropRsp j).stalled = s.stalled ∧
    (s.dropRsp j).hashKey = s.hashKey ∧ (s.dropRsp j).rotCycles = s.rotCycles ∧ (s.dropRsp j).vfs = s.vfs ∧ (s.dropRsp j).bar4 = s.bar4 ∧
    (s.dropRsp j).flrs = s.flrs ∧ (s.dropRsp j).tdis = s.tdis ∧ (s.dropRsp j).pwr = s.pwr ∧ (s.dropRsp j).trust = s.trust ∧
    (s.dropRsp j).fuses = s.fuses ∧ (s.dropRsp j).fw = s.fw ∧ (s.dropRsp j).svc = s.svc ∧ (s.dropRsp j).tmap = s.tmap ∧
    (s.dropRsp j).failedPhys = s.failedPhys ∧ (s.dropRsp j).unsaved = s.unsaved ∧ (s.dropRsp j).bist = s.bist ∧
    (s.dropRsp j).recals = s.recals ∧ (s.dropRsp j).links = s.links ∧ (s.dropRsp j).i3c = s.i3c ∧ (s.dropRsp j).tap = s.tap ∧
    (s.dropRsp j).locks = s.locks ∧ (∀ i, (s.dropRsp j).tile i = s.tile i) ∧ (∀ at_, (s.dropRsp j).clause at_ = s.clause at_) ∧
    (∀ i, (s.dropRsp j).kernel i = s.kernel i) ∧ (∀ i, (s.dropRsp j).ctx i = s.ctx i) ∧ (∀ q, (s.dropRsp j).part q = s.part q) ∧
    (∀ i, (s.dropRsp j).word i = s.word i) ∧ (∀ fl, (s.dropRsp j).fld fl = s.fld fl) ∧ (∀ i, (s.dropRsp j).frame i = s.frame i) ∧
    (∀ i, (s.dropRsp j).miss i = s.miss i) ∧ (∀ i, (s.dropRsp j).hostOf i = s.hostOf i) ∧ (∀ i, (s.dropRsp j).page i = s.page i) ∧
    (∀ i, (s.dropRsp j).queue i = s.queue i) ∧ (∀ i, (s.dropRsp j).model i = s.model i) ∧ (∀ i, (s.dropRsp j).port i = s.port i) ∧
    (∀ i, (s.dropRsp j).cohort i = s.cohort i) ∧ (∀ y, (s.dropRsp j).xfer y = s.xfer y) ∧ (∀ i, (s.dropRsp j).keySlot i = s.keySlot i) ∧
    (∀ i, (s.dropRsp j).tdi i = s.tdi i) ∧ (∀ i, (s.dropRsp j).clk i = s.clk i) ∧ (∀ i, (s.dropRsp j).cycle i = s.cycle i) ∧
    (s.dropRsp j).ready = s.ready ∧ (s.dropRsp j).answers = s.answers ∧ (s.dropRsp j).rotating = s.rotating ∧
    (∀ c va ac, (s.dropRsp j).locate c va ac = s.locate c va ac) :=
  ⟨rfl, rfl, rfl, rfl, rfl, rfl, rfl, rfl, rfl, rfl, rfl, rfl, rfl, rfl, rfl, rfl, rfl, rfl, rfl, rfl, rfl, rfl, rfl, rfl, rfl, rfl, rfl,
    rfl, rfl, rfl, rfl, rfl, rfl, rfl, rfl, rfl, rfl, rfl, rfl, rfl, rfl, rfl, rfl, rfl, rfl, rfl, rfl, rfl, rfl, rfl, rfl, rfl, rfl, rfl,
    rfl, rfl, rfl, rfl, rfl, rfl, rfl, rfl, rfl, rfl, rfl, rfl, rfl, rfl, rfl, rfl, rfl, rfl, rfl, rfl, rfl, rfl, rfl, rfl, rfl, rfl, rfl,
    rfl, rfl, rfl, rfl, rfl, rfl, rfl, rfl, rfl, rfl, rfl, rfl, rfl, rfl, rfl, rfl, rfl, rfl, rfl, fun _ => rfl, fun _ => rfl,
    fun _ => rfl, fun _ => rfl, fun _ => rfl, fun _ => rfl, fun _ => rfl, fun _ => rfl, fun _ => rfl, fun _ => rfl, fun _ => rfl,
    fun _ => rfl, fun _ => rfl, fun _ => rfl, fun _ => rfl, fun _ => rfl, fun _ => rfl, fun _ => rfl, fun _ => rfl, fun _ => rfl, rfl, rfl,
    rfl, fun _ _ _ => rfl⟩

@[simp] theorem State.dropIn_frame (j : Nat) :
    (s.dropIn j).pending = s.pending ∧ (s.dropIn j).freeCtr = s.freeCtr ∧ (s.dropIn j).fresh = s.fresh ∧ (s.dropIn j).now = s.now ∧
    (s.dropIn j).t0 = s.t0 ∧ (s.dropIn j).clks = s.clks ∧ (s.dropIn j).regs = s.regs ∧ (s.dropIn j).tiles = s.tiles ∧
    (s.dropIn j).kernels = s.kernels ∧ (s.dropIn j).ctxs = s.ctxs ∧ (s.dropIn j).parts = s.parts ∧ (s.dropIn j).xcache = s.xcache ∧
    (s.dropIn j).pageReqs = s.pageReqs ∧ (s.dropIn j).invs = s.invs ∧ (s.dropIn j).mem = s.mem ∧ (s.dropIn j).poison = s.poison ∧
    (s.dropIn j).host = s.host ∧ (s.dropIn j).hostAtomics = s.hostAtomics ∧ (s.dropIn j).rot = s.rot ∧ (s.dropIn j).rotAt = s.rotAt ∧
    (s.dropIn j).raised = s.raised ∧ (s.dropIn j).sent = s.sent ∧ (s.dropIn j).reqs = s.reqs ∧ (s.dropIn j).rsps = s.rsps ∧
    (s.dropIn j).hostReqs = s.hostReqs ∧ (s.dropIn j).frames = s.frames ∧ (s.dropIn j).misses = s.misses ∧ (s.dropIn j).hosts = s.hosts ∧
    (s.dropIn j).hostUse = s.hostUse ∧ (s.dropIn j).hostTick = s.hostTick ∧ (s.dropIn j).silent = s.silent ∧ (s.dropIn j).plru = s.plru ∧
    (s.dropIn j).watches = s.watches ∧ (s.dropIn j).queues = s.queues ∧ (s.dropIn j).events = s.events ∧ (s.dropIn j).ports = s.ports ∧
    (s.dropIn j).els = s.els ∧ (s.dropIn j).xfers = s.xfers ∧ (s.dropIn j).cohorts = s.cohorts ∧ (s.dropIn j).paces = s.paces ∧
    (s.dropIn j).outbox = s.outbox ∧ (s.dropIn j).waysOff = s.waysOff ∧ (s.dropIn j).missOff = s.missOff ∧ (s.dropIn j).bad = s.bad ∧
    (s.dropIn j).pageCount = s.pageCount ∧ (s.dropIn j).pages = s.pages ∧ (s.dropIn j).freed = s.freed ∧ (s.dropIn j).taken = s.taken ∧
    (s.dropIn j).retired = s.retired ∧ (s.dropIn j).retiring = s.retiring ∧ (s.dropIn j).fastCh = s.fastCh ∧ (s.dropIn j).capCh = s.capCh ∧
    (s.dropIn j).rebuilding = s.rebuilding ∧ (s.dropIn j).mapFrames = s.mapFrames ∧ (s.dropIn j).moves = s.moves ∧
    (s.dropIn j).todo = s.todo ∧ (s.dropIn j).plan = s.plan ∧ (s.dropIn j).policyStarts = s.policyStarts ∧
    (s.dropIn j).otherStarts = s.otherStarts ∧ (s.dropIn j).sampled = s.sampled ∧ (s.dropIn j).cells = s.cells ∧
    (s.dropIn j).lastCells = s.lastCells ∧ (s.dropIn j).badRows = s.badRows ∧ (s.dropIn j).repairs = s.repairs ∧
    (s.dropIn j).stackTemps = s.stackTemps ∧ (s.dropIn j).capTemps = s.capTemps ∧ (s.dropIn j).models = s.models ∧
    (s.dropIn j).herbTick = s.herbTick ∧ (s.dropIn j).prefetches = s.prefetches ∧ (s.dropIn j).hot = s.hot ∧
    (s.dropIn j).hotSeen = s.hotSeen ∧ (s.dropIn j).epoch = s.epoch ∧ (s.dropIn j).epochStart = s.epochStart ∧
    (s.dropIn j).quarantined = s.quarantined ∧ (s.dropIn j).noSpare = s.noSpare ∧ (s.dropIn j).spent = s.spent ∧ (s.dropIn j).occ = s.occ ∧
    (s.dropIn j).tileCe = s.tileCe ∧ (s.dropIn j).keys = s.keys ∧ (s.dropIn j).stalled = s.stalled ∧ (s.dropIn j).hashKey = s.hashKey ∧
    (s.dropIn j).rotCycles = s.rotCycles ∧ (s.dropIn j).vfs = s.vfs ∧ (s.dropIn j).bar4 = s.bar4 ∧ (s.dropIn j).flrs = s.flrs ∧
    (s.dropIn j).tdis = s.tdis ∧ (s.dropIn j).pwr = s.pwr ∧ (s.dropIn j).trust = s.trust ∧ (s.dropIn j).fuses = s.fuses ∧
    (s.dropIn j).fw = s.fw ∧ (s.dropIn j).svc = s.svc ∧ (s.dropIn j).tmap = s.tmap ∧ (s.dropIn j).failedPhys = s.failedPhys ∧
    (s.dropIn j).unsaved = s.unsaved ∧ (s.dropIn j).bist = s.bist ∧ (s.dropIn j).recals = s.recals ∧ (s.dropIn j).links = s.links ∧
    (s.dropIn j).i3c = s.i3c ∧ (s.dropIn j).tap = s.tap ∧ (s.dropIn j).locks = s.locks ∧ (∀ i, (s.dropIn j).tile i = s.tile i) ∧
    (∀ at_, (s.dropIn j).clause at_ = s.clause at_) ∧ (∀ i, (s.dropIn j).kernel i = s.kernel i) ∧ (∀ i, (s.dropIn j).ctx i = s.ctx i) ∧
    (∀ q, (s.dropIn j).part q = s.part q) ∧ (∀ i, (s.dropIn j).word i = s.word i) ∧ (∀ fl, (s.dropIn j).fld fl = s.fld fl) ∧
    (∀ i, (s.dropIn j).frame i = s.frame i) ∧ (∀ i, (s.dropIn j).miss i = s.miss i) ∧ (∀ i, (s.dropIn j).hostOf i = s.hostOf i) ∧
    (∀ i, (s.dropIn j).page i = s.page i) ∧ (∀ i, (s.dropIn j).queue i = s.queue i) ∧ (∀ i, (s.dropIn j).model i = s.model i) ∧
    (∀ i, (s.dropIn j).port i = s.port i) ∧ (∀ i, (s.dropIn j).cohort i = s.cohort i) ∧ (∀ y, (s.dropIn j).xfer y = s.xfer y) ∧
    (∀ i, (s.dropIn j).keySlot i = s.keySlot i) ∧ (∀ i, (s.dropIn j).tdi i = s.tdi i) ∧ (∀ i, (s.dropIn j).clk i = s.clk i) ∧
    (∀ i, (s.dropIn j).cycle i = s.cycle i) ∧ (s.dropIn j).ready = s.ready ∧ (s.dropIn j).answers = s.answers ∧
    (s.dropIn j).rotating = s.rotating ∧ (∀ c va ac, (s.dropIn j).locate c va ac = s.locate c va ac) :=
  ⟨rfl, rfl, rfl, rfl, rfl, rfl, rfl, rfl, rfl, rfl, rfl, rfl, rfl, rfl, rfl, rfl, rfl, rfl, rfl, rfl, rfl, rfl, rfl, rfl, rfl, rfl, rfl,
    rfl, rfl, rfl, rfl, rfl, rfl, rfl, rfl, rfl, rfl, rfl, rfl, rfl, rfl, rfl, rfl, rfl, rfl, rfl, rfl, rfl, rfl, rfl, rfl, rfl, rfl, rfl,
    rfl, rfl, rfl, rfl, rfl, rfl, rfl, rfl, rfl, rfl, rfl, rfl, rfl, rfl, rfl, rfl, rfl, rfl, rfl, rfl, rfl, rfl, rfl, rfl, rfl, rfl, rfl,
    rfl, rfl, rfl, rfl, rfl, rfl, rfl, rfl, rfl, rfl, rfl, rfl, rfl, rfl, rfl, rfl, rfl, rfl, rfl, fun _ => rfl, fun _ => rfl,
    fun _ => rfl, fun _ => rfl, fun _ => rfl, fun _ => rfl, fun _ => rfl, fun _ => rfl, fun _ => rfl, fun _ => rfl, fun _ => rfl,
    fun _ => rfl, fun _ => rfl, fun _ => rfl, fun _ => rfl, fun _ => rfl, fun _ => rfl, fun _ => rfl, fun _ => rfl, fun _ => rfl, rfl, rfl,
    rfl, fun _ _ _ => rfl⟩

/-! ### What was written reads back -/

@[simp] theorem State.tile_setTile (t : Nat) (x : Tile) (u : Nat) : (s.setTile t x).tile u = if u = t then x else s.tile u :=
  tabGet_set tileNone s.tiles t x u

@[simp] theorem State.kernel_setKernel (j : Nat) (x : Kernel) (k : Nat) : (s.setKernel j x).kernel k = if k = j then x else s.kernel k :=
  tabGet_set kernelNone s.kernels j x k

@[simp] theorem State.ctx_setCtx (j : Nat) (x : Ctx) (c : Nat) : (s.setCtx j x).ctx c = if c = j then x else s.ctx c :=
  tabGet_set ctxNone s.ctxs j x c

@[simp] theorem State.part_setPart (j : Nat) (x : Part) (p : Nat) : (s.setPart j x).part p = if p = j then x else s.part p :=
  tabGet_set partNone s.parts j x p

@[simp] theorem State.word_setWord (j : Nat) (v : W64) (k : Nat) : (s.setWord j v).word k = if k = j then v else s.word k :=
  tabGet_set regReset s.regs j v k

@[simp] theorem State.keySlot_setKey (j : Nat) (x : KeySlot) (n : Nat) : (s.setKey j x).keySlot n = if n = j then x else s.keySlot n :=
  tabGet_set _ s.keys j x n

@[simp] theorem State.tdi_setTdi (j : Nat) (x : Tdi) (p : Nat) : (s.setTdi j x).tdi p = if p = j then x else s.tdi p :=
  tabGet_set _ s.tdis j x p

@[simp] theorem State.frame_setFrame (j : Nat) (x : Option Frame) (l : Nat) : (s.setFrame j x).frame l = if l = j then x else s.frame l :=
  tabGet_set frameNone s.frames j x l

@[simp] theorem State.miss_setMiss (j : Nat) (x : Option Miss) (l : Nat) : (s.setMiss j x).miss l = if l = j then x else s.miss l :=
  tabGet_set missNone s.misses j x l

@[simp] theorem State.hostOf_setHost (j : Nat) (x : Option HostSt) (l : Nat) : (s.setHost j x).hostOf l = if l = j then x else s.hostOf l :=
  tabGet_set hostNone s.hosts j x l

@[simp] theorem State.queue_setQueue (j : Nat) (x : Queue) (n : Nat) : (s.setQueue j x).queue n = if n = j then x else s.queue n :=
  tabGet_set queueNone s.queues j x n

@[simp] theorem State.model_setModel (j : Nat) (x : Model) (h : Nat) : (s.setModel j x).model h = if h = j then x else s.model h :=
  tabGet_set modelNone s.models j x h

@[simp] theorem State.page_setPage (j : Nat) (x : Page) (n : Nat) : (s.setPage j x).page n = if n = j then x else s.page n :=
  tabGet_set _ s.pages j x n

@[simp] theorem State.cohort_setCohort (j : Nat) (x : Cohort) (p : Nat) : (s.setCohort j x).cohort p = if p = j then x else s.cohort p :=
  tabGet_set _ s.cohorts j x p

@[simp] theorem State.port_setPort (j : Nat) (x : Port) (p : Nat) : (s.setPort j x).port p = if p = j then x else s.port p :=
  tabGet_set _ s.ports j x p

@[simp] theorem State.xfer_setXfer (j : Nat) (x : Xfer) (y : Nat) : (s.setXfer j x).xfer y = if y = j then some x else s.xfer y :=
  tabGet_set _ s.xfers j (some x) y

/-- A clause written reads back; every other clause, of this tile and of every other, is as it was. -/
@[simp] theorem State.clause_setClause (b : At) (x : Clause) (a : At) : (s.setClause b x).clause a = if a = b then x else s.clause a := by
  obtain ⟨t, e⟩ := a
  obtain ⟨t', e'⟩ := b
  simp only [State.clause, State.setClause, State.tile_setTile, At.mk.injEq]
  by_cases h : t = t'
  · subst t
    simp only [if_pos trivial, true_and]
    exact tabGet_set _ _ _ _ _
  · simp [h]

/-! ### Fields of registers -/

theorem State.word_setFld (g : Field) (v k : Nat) : (s.setFld g v).word k =
    if k = g.key then BitVec.ofNat 64 (bitsPut (s.word g.key).toNat g.hi g.lo v) else s.word k := by
  simp only [State.setFld, State.word_setWord]

theorem State.fld_setFld (g : Field) (v : Nat) (h : g.hi < 64) : (s.setFld g v).fld g = v % 2 ^ (g.hi + 1 - g.lo) := by
  rw [State.fld, State.word_setFld, if_pos rfl, BitVec.toNat_ofNat, Nat.mod_eq_of_lt (bitsPut_lt v 64 (s.word g.key).isLt h), bitsOf_put]

theorem State.fld_setFld_of_key (f g : Field) (v : Nat) (h : f.key ≠ g.key) : (s.setFld g v).fld f = s.fld f := by
  rw [State.fld, State.word_setFld, if_neg h, State.fld]

theorem State.fld_setFld_of_disjoint (f g : Field) (v : Nat) (hk : f.key = g.key) (hg : g.hi < 64) (h : f.hi < g.lo ∨ g.hi < f.lo) :
    (s.setFld g v).fld f = s.fld f := by
  rw [State.fld, State.word_setFld, if_pos hk, BitVec.toNat_ofNat, Nat.mod_eq_of_lt (bitsPut_lt v 64 (s.word g.key).isLt hg),
    bitsOf_put_of_disjoint _ _ h.symm.symm, ← hk, State.fld]

theorem State.word_bump (j n k : Nat) : (s.bump j n).word k = if k = j then s.word j + BitVec.ofNat 64 n else s.word k := by
  simp only [State.bump, State.word_setWord]

theorem State.fld_setWord_of_key (f : Field) (j : Nat) (v : W64) (h : f.key ≠ j) : (s.setWord j v).fld f = s.fld f := by
  rw [State.fld, State.word_setWord, if_neg h, State.fld]

end Sys2Proof.Machine
end

