-- ==== Sys2Proof/Laws/Shared.lean ====
section
/-! SUPPORT. What the shared operations can do, each said once: the gate of an instruction, walks of the translation tables,
reads and writes of memory; and how the invariant passes through updates. -/

namespace Sys2Proof.Machine

variable {s : State}

/-! ### Outcomes -/

/-- A meaning over a unit answers a next state where the part has the unit, and then that one. -/
theorem unit_next {ok : Bool} {t : State} : unit ok s = .next t ↔ ok = true ∧ s = t := by
  cases ok <;> simp [unit]

theorem unit_of {ok : Bool} (h : ok = true) : unit ok s = .next s := by simp [unit, h]

/-- `s.sup` acts in stage 5 and nowhere else. -/
theorem State.sup_cases (f : State → State) : (s.ready = true ∧ s.sup f = f s) ∨ (s.ready = false ∧ s.sup f = s) := by
  cases h : s.ready <;> simp [State.sup, h]

/-! ### Time -/

theorem State.now_reach (ps : Nat) : s.now ≤ (s.reach ps).now ∧ ps ≤ (s.reach ps).now := ⟨Nat.le_max_left .., Nat.le_max_right ..⟩

/-- Waiting for a cycle changes the time alone, and never turns it back. -/
theorem State.reachCycle_eq (f c : Nat) : s.reachCycle f c = { s with now := (s.reachCycle f c).now } ∧ s.now ≤ (s.reachCycle f c).now := by
  unfold State.reachCycle
  dsimp only
  split
  · exact ⟨rfl, Nat.le_refl _⟩
  · exact ⟨rfl, Nat.le_max_left ..⟩

/-! ### Lists of acts, and walks of what is cached (R518) -/

theorem ite_either {α : Type} {P : α → Prop} {c : Prop} [Decidable c] {a b : α} (ha : P a) (hb : P b) : P (if c then a else b) := by
  split
  · exact ha
  · exact hb

/-- What holds of a state and is kept by every act of a list holds after the list. -/
theorem foldl_keeps {β : Type} (P : State → Prop) (f : State → β → State) (hf : ∀ t x, P t → P (f t x)) (xs : List β) (h : P s) :
    P (xs.foldl f s) := by
  induction xs generalizing s with
  | nil => exact h
  | cons x xs ih => exact ih (hf _ _ h)

/-- A translation that is cached answers at once and changes nothing. -/
theorem State.translate_of_locate {w : Who} {ctx : Nat} {va : W64} {acc : Acc} {l : Loc} (h : s.locate ctx va acc = some l) :
    s.translate w ctx va acc = (s, .inl l) := by
  simp only [State.translate, h]

/-! ### The issue of an instruction (R47, R67, R69, R71, R73, R109, R519) -/

/-- Once its fetch is allowed an instruction stalls, for a load that it waits for or for the matrix unit; faults on an illegal encoding or
a register out of range; or has its effect. -/
theorem issueFetched_cases (a : At) (e : Enc) (q : IssueReq) (k : State → Clause → State) :
    (¬ s.NoHazard a q ∧ (issueFetched a e q s k = s.noteStall a q ∨ issueFetched a e q s k = s.noteTried a)) ∨
    (s.NoHazard a q ∧ q.legal = false ∧ issueFetched a e q s k = s.clauseFault a 1 0) ∨
    (s.NoHazard a q ∧ q.legal = true ∧ ¬ s.InRange a e q ∧ issueFetched a e q s k = s.clauseFault a 6 0) ∨
    (s.NoHazard a q ∧ q.legal = true ∧ s.InRange a e q ∧ issueFetched a e q s k = k (s.issued a) (s.clause a)) := by
  unfold issueFetched
  dsimp only
  split
  · rename_i h
    exact .inl ⟨fun hn => by simp [State.NoHazard, State.clause, h] at hn, .inl rfl⟩
  rename_i h1
  split
  · rename_i h
    refine .inl ⟨fun hn => ?_, .inr rfl⟩
    obtain ⟨_, h2, h3⟩ := hn
    simp only [State.clause] at h3
    rw [h2] at h
    simp only [Bool.false_or, Bool.and_eq_true, bne_iff_ne] at h
    exact h.2 (h3 h.1)
  rename_i h
  have hn : s.NoHazard a q := by
    simp only [Bool.or_eq_true, Bool.and_eq_true, bne_iff_ne, not_or, not_and, Classical.not_not, Bool.not_eq_true] at h h1
    exact ⟨h1, h.1, h.2⟩
  refine .inr ?_
  split
  · rename_i h
    exact .inl ⟨hn, by simpa using h, rfl⟩
  rename_i hl
  have hl : q.legal = true := by simpa using hl
  refine .inr ?_
  split
  · rename_i h
    simp only [Bool.and_eq_true, Bool.or_eq_true, Bool.not_eq_true', bne_iff_ne] at h
    refine .inl ⟨hn, hl, fun hr => ?_, rfl⟩
    obtain ⟨hq, hz⟩ := hr h.1.1 h.1.2
    rcases h.2 with h2 | h2
    · simp [hq] at h2
    · exact h2 hz
  · rename_i h
    simp only [Bool.and_eq_true, Bool.or_eq_true, Bool.not_eq_true', bne_iff_ne, not_and, not_or, Bool.not_eq_false] at h
    exact .inr ⟨hn, hl, fun hr hg => ⟨(h ⟨hr, hg⟩).1, Classical.byContradiction (h ⟨hr, hg⟩).2⟩, rfl⟩

/-- Everything the issue of an instruction can do: nothing; or, in the state that its fetch leaves, what `issueFetched` does, an
illegal opcode's fault, a fault or a page fault of the fetch, or a wait for it. -/
theorem issue_cases (a : At) (e : Enc) (q : IssueReq) (k : State → Clause → State) :
    ((s.canIssue a = false ∨ Enc.foreign e = true) ∧ issue a e q s k = s) ∨
    (s.canIssue a = true ∧ Enc.foreign e = false ∧ ∃ s' f, s.fetchCode a = (s', f) ∧
      ((f = .ok ∧ e.op = none ∧ issue a e q s k = issueFetched a e q s' k) ∨
       (f = .ok ∧ e.op ≠ none ∧ issue a e q s k = s'.clauseFault a 1 0) ∨
       (∃ cause, f = .fault cause ∧ issue a e q s k = s'.clauseFault a cause (s.clause a).pc) ∨
       (f = .page ∧ issue a e q s k = s'.pageFault a .exec [(s.clause a).pc]) ∨
       (f = .wait ∧ issue a e q s k = s'.noteTried a))) := by
  unfold issue
  dsimp only
  cases hc : s.canIssue a
  · exact .inl ⟨.inl rfl, by simp⟩
  cases hf : Enc.foreign e
  · refine .inr ⟨rfl, rfl, (s.fetchCode a).1, (s.fetchCode a).2, rfl, ?_⟩
    simp only [Bool.not_true, Bool.or_false, Bool.false_eq_true, if_false]
    generalize s.fetchCode a = r
    obtain ⟨s', f⟩ := r
    cases f with
    | ok => cases ho : e.op with
      | none => exact .inl ⟨rfl, rfl, by simp⟩
      | some x => exact .inr (.inl ⟨rfl, by simp, by simp⟩)
    | fault c => exact .inr (.inr (.inl ⟨c, rfl, rfl⟩))
    | page => exact .inr (.inr (.inr (.inl ⟨rfl, rfl⟩)))
    | wait => exact .inr (.inr (.inr (.inr ⟨rfl, rfl⟩)))
  · exact .inl ⟨.inr rfl, by simp⟩

/-- An instruction that issues has its own effect. -/
theorem issue_of_issues {a : At} {e : Enc} {q : IssueReq} {s' : State} (k : State → Clause → State) (h : s.Issues a e q s') :
    issue a e q s k = k (s'.issued a) (s'.clause a) := by
  obtain ⟨_, hc, hf⟩ := h.fetched
  have hn : issueFetched a e q s' k = k (s'.issued a) (s'.clause a) := by
    obtain ⟨h1, _⟩ | ⟨_, h1, _⟩ | ⟨_, _, h1, _⟩ | ⟨_, _, _, h1⟩ := issueFetched_cases (s := s') a e q k
    · exact absurd h.free h1
    · rw [h.legal] at h1; cases h1
    · exact absurd h.range h1
    · exact h1
  simp [issue, hc, hf, hn, Enc.foreign, h.own]

/-- An instruction whose whole effect is on its clause, where it issues. -/
theorem issueClause_of_issues {a : At} {e : Enc} {q : IssueReq} {s' : State} (f : State → Clause → Clause) (h : s.Issues a e q s') :
    issueClause a e q s f = (s'.issued a).setTile a.tile
      ((((s'.issued a).tile a.tile).setClause a.entry (f (s'.issued a) (s'.clause a)).step).cancelMat a.entry q.regs.vw
        ((s'.clause a).acting e)) := issue_of_issues _ h

theorem issueAlu_of_issues {fm : Form} {f : AluIn → AluOut} {a : At} {e : Enc} {s' : State} (h : s.IssuesAlu fm a e s') :
    issueAlu fm f (fun _ => true) a e s = .next ((s'.issued a).setTile a.tile
      ((((s'.issued a).tile a.tile).setClause a.entry ((s'.clause a).alu fm f e).step).cancelMat a.entry (fm.regs e).vw
        ((s'.clause a).acting e))) := by
  have hi : s.Issues a e { legal := fm.ok e && true, regs := fm.regs e, lanes := !fm.uniform (aluFields e) } s' := by
    simpa [State.IssuesAlu] using h
  rw [issueAlu, unit_of h.fetched.1, issueClause_of_issues _ hi]

/-! ### What accesses at the homes leave alone -/

/-- `t` has the memories of `s`, registers in their form if `s` has, and no earlier time. -/
structure State.Keeps (s t : State) : Prop where
  mem : t.mem = s.mem
  host : t.host = s.host
  regs : tabWf regReset s.regs = true → tabWf regReset t.regs = true
  now : s.now ≤ t.now
  t0 : t.t0 = s.t0

variable {t : State}

theorem State.Keeps.refl (s : State) : s.Keeps s := ⟨rfl, rfl, id, Nat.le_refl _, rfl⟩

theorem State.Keeps.of_eq {u : State} (h : s.Keeps t) (hm : u.mem = t.mem) (hh : u.host = t.host) (hr : u.regs = t.regs)
    (hn : u.now = t.now) (h0 : u.t0 = t.t0) : s.Keeps u :=
  ⟨hm.trans h.mem, hh.trans h.host, fun x => hr ▸ h.regs x, hn ▸ h.now, h0.trans h.t0⟩

theorem State.Keeps.foldl {β : Type} (h : s.Keeps t) (f : State → β → State) (hf : ∀ u x, s.Keeps u → s.Keeps (f u x)) (xs : List β) :
    s.Keeps (xs.foldl f t) := foldl_keeps s.Keeps f hf xs h

theorem State.Keeps.setWord (h : s.Keeps t) (k : Nat) (v : W64) : s.Keeps (t.setWord k v) :=
  ⟨h.mem, h.host, fun x => tabWf_set k v (h.regs x), h.now, h.t0⟩
theorem State.Keeps.setFld (h : s.Keeps t) (f : Field) (v : Nat) : s.Keeps (t.setFld f v) := h.setWord ..
theorem State.Keeps.bump (h : s.Keeps t) (k n : Nat) : s.Keeps (t.bump k n) := h.setWord ..
theorem State.Keeps.rasCount (h : s.Keeps t) (code n : Nat) : s.Keeps (t.rasCount code n) := h.bump ..
theorem State.Keeps.rasAppend (h : s.Keeps t) (code sev part u : Nat) (d0 d1 : W64) : s.Keeps (t.rasAppend code sev part u d0 d1) :=
  ((((h.setWord ..).setWord ..).setWord ..).setWord ..).setFld ..
theorem State.Keeps.ras (h : s.Keeps t) (code sev part u : Nat) (d0 d1 : W64) : s.Keeps (t.ras code sev part u d0 d1) := by
  have h1 : s.Keeps (if rasLogged code then (t.rasCount code).rasAppend code sev part u d0 d1 else t.rasCount code) :=
    ite_either ((h.rasCount ..).rasAppend ..) (h.rasCount ..)
  exact ite_either (h1.of_eq rfl rfl rfl rfl rfl) h1

theorem State.Keeps.setTile (h : s.Keeps t) (k : Nat) (x : Tile) : s.Keeps (t.setTile k x) := h.of_eq rfl rfl rfl rfl rfl
theorem State.Keeps.setPoison (h : s.Keeps t) (k : Nat) (b : Bool) : s.Keeps (t.setPoison k b) := h.of_eq rfl rfl rfl rfl rfl
theorem State.Keeps.setFrame (h : s.Keeps t) (k : Nat) (x : Option Frame) : s.Keeps (t.setFrame k x) := h.of_eq rfl rfl rfl rfl rfl
theorem State.Keeps.setMiss (h : s.Keeps t) (k : Nat) (x : Option Miss) : s.Keeps (t.setMiss k x) := h.of_eq rfl rfl rfl rfl rfl
theorem State.Keeps.setHost (h : s.Keeps t) (k : Nat) (x : Option HostSt) : s.Keeps (t.setHost k x) := h.of_eq rfl rfl rfl rfl rfl
theorem State.Keeps.setPage (h : s.Keeps t) (k : Nat) (x : Page) : s.Keeps (t.setPage k x) := h.of_eq rfl rfl rfl rfl rfl
theorem State.Keeps.setKey (h : s.Keeps t) (n : Nat) (x : KeySlot) : s.Keeps (t.setKey n x) := h.of_eq rfl rfl rfl rfl rfl
theorem State.Keeps.raiseVec (h : s.Keeps t) (fn v : Nat) : s.Keeps (t.raiseVec fn v) := h.of_eq rfl rfl rfl rfl rfl
theorem State.Keeps.setChan (h : s.Keeps t) (fast : Bool) (c : Nat) (x : Chan) : s.Keeps (t.setChan fast c x) :=
  ite_either (h.of_eq rfl rfl rfl rfl rfl) (h.of_eq rfl rfl rfl rfl rfl)
theorem State.Keeps.touch (h : s.Keeps t) (line way : Nat) : s.Keeps (t.touch line way) := h.of_eq rfl rfl rfl rfl rfl
theorem State.Keeps.forget (h : s.Keeps t) (line mask : Nat) : s.Keeps (t.forget line mask) := h.of_eq rfl rfl rfl rfl rfl

theorem State.Keeps.charge (h : s.Keeps t) (w : Who) (n : Nat) : s.Keeps (t.charge w n) := by
  unfold State.charge
  split
  · exact h.of_eq rfl rfl rfl rfl rfl
  · exact ite_either (h.of_eq rfl rfl rfl rfl rfl) h

theorem State.Keeps.lane (h : s.Keeps t) (w : Who) (tt : Bool) (n : Nat) : s.Keeps (t.lane w tt n) := (h.bump ..).charge ..

theorem State.Keeps.sample (h : s.Keeps t) (line : Nat) : s.Keeps (t.sample line) :=
  ite_either (h.of_eq rfl rfl rfl rfl rfl) (h.of_eq rfl rfl rfl rfl rfl)

theorem State.Keeps.tierBytes (h : s.Keeps t) (line tag n : Nat) : s.Keeps (t.tierBytes line tag n) :=
  ite_either h ((h.bump ..).sample _)

theorem State.Keeps.steer (h : s.Keeps t) (line : Nat) : s.Keeps (t.steer line) := by
  unfold State.steer
  split
  · split
    rename_i u e
    obtain rfl : t.draw.2 = u := congrArg Prod.snd e
    exact h.of_eq rfl rfl rfl rfl rfl
  · exact h

theorem State.Keeps.chanBytes (h : s.Keeps t) (w : Who) (line n : Nat) : s.Keeps (t.chanBytes w line n) := by
  have h1 := (h.steer line).tierBytes line w.tag n
  exact ite_either h (ite_either ((h1.charge ..).lane ..) ((h1.charge ..).lane ..))

theorem State.Keeps.l1State (h : s.Keeps t) (line tile : Nat) (f : Bool) : s.Keeps (t.l1State line tile f) := by
  unfold State.l1State
  split
  · exact h.setTile ..
  · exact h

theorem State.Keeps.setFwd (h : s.Keeps t) (line : Nat) (new : Option Nat) : s.Keeps (t.setFwd line new) := by
  unfold State.setFwd
  split
  · exact h
  · rename_i f _
    cases f.fwd <;> cases new
    · exact h.setFrame ..
    · exact (h.l1State ..).setFrame ..
    · exact (h.l1State ..).setFrame ..
    · exact ((h.l1State ..).l1State ..).setFrame ..

/-! Frames of the tiers that are retired, and channels that drain, move no data (R352 to R356). -/

theorem State.Keeps.wantMove (h : s.Keeps t) (m : Move) : s.Keeps (t.wantMove m) := ite_either h (h.of_eq rfl rfl rfl rfl rfl)

theorem State.Keeps.owedCheck (h : s.Keeps t) (was : Nat) : s.Keeps (t.owedCheck was) := ite_either (h.ras ..) h

theorem State.Keeps.markRetired (h : s.Keeps t) (f : FrameNo) : s.Keeps (t.markRetired f) := by
  refine ite_either h (State.Keeps.owedCheck (State.Keeps.ras ?_ ..) _)
  exact State.Keeps.setChan (t := { t with retired := f :: t.retired, retiring := t.retiring.filter (· != f) })
    (h.of_eq rfl rfl rfl rfl rfl) ..

theorem State.Keeps.drain (h : s.Keeps t) (fast : Bool) (c : Nat) (dead : Bool) : s.Keeps (t.drain fast c dead) := by
  refine ite_either (ite_either (h.setChan ..) h) (State.Keeps.owedCheck (State.Keeps.foldl ?_ _ (fun _ _ hu => hu.wantMove _) _) _)
  have h1 := h.setChan fast c { t.chan fast c with st := 1, dead := dead }
  exact ite_either (ite_either (h1.of_eq rfl rfl rfl rfl rfl) (h1.raiseVec ..)) h1

theorem State.Keeps.retire (h : s.Keeps t) (f : FrameNo) : s.Keeps (t.retire f) := by
  unfold State.retire
  refine ite_either h ?_
  have h1 : s.Keeps (match t.pageAt f with
      | none => if t.comesTo f then { t with retiring := f :: t.retiring } else t.markRetired f
      | some p => State.wantMove { t with retiring := f :: t.retiring } { page := p, why := .retire }) := by
    split
    · exact ite_either (h.of_eq rfl rfl rfl rfl rfl) (h.markRetired _)
    · exact State.Keeps.wantMove (t := { t with retiring := f :: t.retiring }) (h.of_eq rfl rfl rfl rfl rfl) _
  exact ite_either (h1.drain ..) h1

theorem State.Keeps.columnFault (h : s.Keeps t) (fast : Bool) (l : MemLoc) : s.Keeps (t.columnFault fast l) := by
  unfold State.columnFault
  refine ite_either (State.Keeps.ras ?_ ..) (h.foldl _ (fun _ _ hu => hu.retire _) _)
  exact (h.setChan ..).of_eq rfl rfl rfl rfl rfl

theorem State.Keeps.uncorrectable (h : s.Keeps t) (f : FrameNo) (recovered : Bool) (l : MemLoc) : s.Keeps (t.uncorrectable f recovered l) := by
  unfold State.uncorrectable
  dsimp only
  have h1 (row : Bool × Nat × Nat × Nat) : s.Keeps (if t.badRows.contains row then t else { t with badRows := row :: t.badRows }) :=
    ite_either h (h.of_eq rfl rfl rfl rfl rfl)
  have h2 (row : Bool × Nat × Nat × Nat) : s.Keeps (if recovered then (if t.badRows.contains row then t else { t with badRows := row :: t.badRows })
      else (if t.badRows.contains row then t else { t with badRows := row :: t.badRows }).retire f) := ite_either (h1 _) ((h1 _).retire _)
  exact ite_either ((h2 _).drain ..) (h2 _)

theorem State.Keeps.classify (h : s.Keeps t) (f : FrameNo) (sector : Nat) (correctable recovered : Bool) (bit : Nat) :
    s.Keeps (t.classify f sector correctable recovered bit) := by
  unfold State.classify
  dsimp only
  have h1 : s.Keeps { t with cells := enterCell t.cells f.fast (f.loc sector bit) } := h.of_eq rfl rfl rfl rfl rfl
  have h2 {c : Prop} [Decidable c] : s.Keeps (if c then State.columnFault { t with cells := enterCell t.cells f.fast (f.loc sector bit) } f.fast (f.loc sector bit)
      else { t with cells := enterCell t.cells f.fast (f.loc sector bit) }) := ite_either (h1.columnFault ..) h1
  exact ite_either (h2.uncorrectable ..) (ite_either (h2.retire _) h2)

theorem State.Keeps.evictErrs (h : s.Keeps t) (line part dirty : Nat) : s.Keeps (t.evictErrs line part dirty) :=
  ite_either h (State.Keeps.forget (h.foldl _ (fun _ _ hu => ite_either (hu.rasCount ..) ((hu.setPoison ..).ras ..)) _) ..)

theorem State.Keeps.uncover (h : s.Keeps t) (line dirty : Nat) : s.Keeps (t.uncover line dirty) :=
  ite_either h (State.Keeps.foldl (t := { t with under := t.under.filter fun k => k / 4 != line }) (h.of_eq rfl rfl rfl rfl rfl) _
    (fun _ _ hu => hu.setPoison ..) _)

theorem State.Keeps.overwritten (h : s.Keeps t) (line mask : Nat) : s.Keeps (t.overwritten line mask) :=
  ite_either h (h.of_eq rfl rfl rfl rfl rfl)

theorem State.Keeps.lateBack (h : s.Keeps t) (line : Nat) (back : List Nat) : s.Keeps (t.lateBack line back) := by
  unfold State.lateBack
  split
  · exact ite_either (h.setKey ..) h
  · exact h

theorem State.Keeps.evict (h : s.Keeps t) (line : Nat) : s.Keeps (t.evict line) := by
  unfold State.evict
  split
  · exact h
  · refine State.Keeps.chanBytes (State.Keeps.setFrame (State.Keeps.setFwd ?_ ..) ..) ..
    have h1 (p d m n : Nat) := (((h.evictErrs line p d).uncover line m).overwritten line n)
    exact ite_either ((h1 ..).foldl _ (fun _ _ hu => hu.setPoison ..) _) ((h1 ..).lateBack ..)

theorem State.Keeps.unpair (h : s.Keeps t) (line : Nat) : s.Keeps (t.unpair line) := by
  unfold State.unpair
  split
  · exact ite_either (h.setFrame ..) h
  · exact h

theorem State.Keeps.split (h : s.Keeps t) (line : Nat) : s.Keeps (t.split line) := by
  unfold State.split
  split
  · exact h
  · refine ite_either h ?_
    have hu := h.unpair line
    dsimp only
    split
    · exact (hu.foldl _ (fun _ _ hv => hv.evict _) _).setFrame ..
    · exact hu.evict _

theorem State.Keeps.poisonSector (h : s.Keeps t) (sector : Nat) : s.Keeps (t.poisonSector sector) := (h.split _).setPoison ..

theorem State.Keeps.poisonLine (h : s.Keeps t) (line : Nat) : s.Keeps (t.poisonLine line) := h.foldl _ (fun _ _ hu => hu.poisonSector _) _

theorem State.Keeps.repack (h : s.Keeps t) (line : Nat) : s.Keeps (t.repack line) := by
  unfold State.repack
  split
  · exact ite_either h (h.split _)
  · exact h

theorem State.Keeps.pack (h : s.Keeps t) (line : Nat) : s.Keeps (t.pack line) := by
  unfold State.pack
  split
  · exact ite_either ((h.setFrame ..).setFrame ..) h
  · exact h

theorem State.Keeps.packNew (h : s.Keeps t) (new : Bool) (line : Nat) : s.Keeps (t.packNew new line) := ite_either (h.pack _) h

theorem State.Keeps.meet (h : s.Keeps t) (line mask part : Nat) : s.Keeps (t.meet line mask part) :=
  ite_either h (State.Keeps.forget (h.foldl _ (fun _ _ hu => ite_either (hu.rasCount ..) ((hu.poisonSector ..).ras ..)) _) ..)

theorem State.Keeps.allocate (h : s.Keeps t) (line tag p valid dirty : Nat) : s.Keeps (t.allocate line tag p valid dirty) := by
  unfold State.allocate
  split
  · exact (h.setFrame ..).touch ..
  · split
    · exact h
    · exact ((h.foldl _ (fun _ _ hv => hv.evict _) _).setFrame ..).touch ..

theorem State.Keeps.tierErrors (h : s.Keeps t) (line : Nat) (errs : List MemErr) : s.Keeps (t.tierErrors line errs) :=
  h.foldl _ (fun _ _ hu => State.Keeps.classify (ite_either (hu.rasCount ..) (hu.poisonSector _)) ..) _

/-- The sectors that a fill brings may be poisoned, and frames of their tier retired. -/
theorem State.Keeps.fillErrors (h : s.Keeps t) (line need : Nat) (errs : List MemErr) : s.Keeps (t.fillErrors line need errs) := by
  unfold State.fillErrors
  dsimp only
  have h1 {c : Prop} [Decidable c] (xs : List Nat) : s.Keeps (if c then xs.foldl (fun s i => s.poisonSector (4 * line + i)) t else t) :=
    ite_either (h.foldl _ (fun _ _ hu => hu.poisonSector _) _) h
  exact ((h1 _).overwritten ..).tierErrors ..

theorem State.Keeps.fillNow (h : s.Keeps t) (w : Who) (line need : Nat) : s.Keeps (t.fillNow w line need) :=
  ite_either h ((((h.chanBytes ..).fillErrors ..).allocate ..).repack ..)

theorem State.Keeps.touchLine (h : s.Keeps t) (line : Nat) : s.Keeps (t.touchLine line) := by
  unfold State.touchLine
  split
  · exact h.touch ..
  · exact h

theorem State.Keeps.homeRead (h : s.Keeps t) (w : Who) (line mask : Nat) : s.Keeps (t.homeRead w line mask) :=
  ite_either h ((((h.fillNow ..).meet ..).touchLine ..).packNew ..)

theorem State.Keeps.homeReads (h : s.Keeps t) (w : Who) (ranges : List (Nat × Nat)) : s.Keeps (t.homeReads w ranges) :=
  h.foldl _ (fun _ _ hu => hu.foldl _ (fun _ _ hv => hv.homeRead ..) _) _

theorem State.Keeps.homeOpen (h : s.Keeps t) (w : Who) (line touched full : Nat) : s.Keeps (t.homeOpen w line touched full) :=
  (((h.fillNow ..).forget ..).meet ..).allocate ..

theorem State.Keeps.notifyWatch (h : s.Keeps t) (w : Nat × Src) : s.Keeps (t.notifyWatch w) := ite_either h (h.of_eq rfl rfl rfl rfl rfl)

theorem State.Keeps.lineWritten (h : s.Keeps t) (line : Nat) : s.Keeps (t.lineWritten line) :=
  (h.setFwd ..).foldl _ (fun _ _ hu => hu.notifyWatch _) _

theorem State.Keeps.dirtied (h : s.Keeps t) (w : Who) (line mask : Nat) : s.Keeps (t.dirtied w line mask) := by
  unfold State.dirtied
  split
  · exact h.setFrame ..
  · exact (h.chanBytes ..).overwritten ..

theorem State.Keeps.wrote (h : s.Keeps t) (w : Who) (line mask : Nat) : s.Keeps (t.wrote w line mask) :=
  ((h.dirtied ..).lineWritten _).repack _

/-! ### Writes of memory -/

/-- Appending to a migration log leaves device memory alone; host memory keeps its form. -/
theorem State.dlogAppend_mem (p entry : Nat) : (s.dlogAppend p entry).mem = s.mem ∧
    (memWf s.host = true → memWf (s.dlogAppend p entry).host = true) := by
  unfold State.dlogAppend
  dsimp only
  split
  · have h := ((State.Keeps.refl s).setFld (dlogOverflow p) 1).ras 0x19 1 p 0 0 0
    refine ⟨h.mem, fun x => ?_⟩
    rw [h.host]
    exact x
  · exact ⟨rfl, memWf_putLe _ _ _⟩

theorem State.dlog_mem (p : Nat) (host : Bool) (addr : Nat) : (s.dlog p host addr).mem = s.mem ∧
    (memWf s.host = true → memWf (s.dlog p host addr).host = true) := by
  unfold State.dlog
  dsimp only
  let P : State → Prop := fun t => t.mem = s.mem ∧ (memWf s.host = true → memWf t.host = true)
  have h0 : P s := ⟨rfl, id⟩
  have h1 (entry : Nat) (x : Part) : P ((s.dlogAppend p entry).setPart p x) := State.dlogAppend_mem p entry
  show P _
  refine ite_either h0 (ite_either h0 (ite_either (h1 ..) ?_))
  split
  · exact h1 ..
  · exact h0

/-- A store: the device bytes stored, where the page is not released; every other device byte stays. A store to host memory
leaves device memory alone. -/
theorem State.store_mem (w : Who) (l : Loc) (bs : List Byte) (bad : Bool) :
    (s.store w l bs bad).mem = if l.host = false ∧ s.releasedIn l.addr bs.length = false then memPut s.mem l.addr bs else s.mem := by
  unfold State.store
  split
  · rename_i h
    simp only [Bool.or_eq_true, Bool.and_eq_true, Bool.not_eq_true', List.isEmpty_iff] at h
    rcases h with rfl | ⟨h1, h2⟩
    · split <;> rfl
    · simp [h2]
  · rename_i h
    simp only [Bool.or_eq_true, Bool.and_eq_true, Bool.not_eq_true', not_or, not_and, Bool.not_eq_true] at h
    split
    · rename_i hl
      simp only [hl, Bool.true_eq_false, false_and, if_false]
      exact foldl_keeps (fun t => t.mem = s.mem) _ (fun t x ht => by rw [(State.dlog_mem ..).1, ht]) _ rfl
    · rename_i hl
      have hl : l.host = false := by simpa using hl
      rw [if_pos ⟨hl, h.2 hl⟩]
      dsimp only
      refine foldl_keeps (fun t => t.mem = memPut s.mem l.addr bs) _
        (fun t x ht => by rw [(((State.Keeps.refl t).wrote ..).packNew ..).mem, ht]) _ ?_
      refine foldl_keeps (fun t => t.mem = memPut s.mem l.addr bs) _ (fun t x ht => ?_) _ ?_
      · exact ite_either (P := fun u : State => u.mem = _) (by rw [((State.Keeps.refl t).poisonSector _).mem, ht])
          (ite_either (P := fun u : State => u.mem = _) (by rw [((State.Keeps.refl t).setPoison ..).mem, ht]) ht)
      · show memPut _ _ _ = _
        congr 1
        refine foldl_keeps (fun t => t.mem = s.mem) _ (fun t x ht => by rw [((State.Keeps.refl t).homeOpen ..).mem, ht]) _ ?_
        exact foldl_keeps (fun t => t.mem = s.mem) _ (fun t x ht => by rw [(State.dlog_mem ..).1, ht]) _ rfl

/-- Device bytes outside a store are as they were. -/
theorem State.store_byte_of_outside (w : Who) (l : Loc) (bs : List Byte) (bad : Bool) {x : Nat} (hx : x < l.addr ∨ l.addr + bs.length ≤ x) :
    memByte (s.store w l bs bad).mem x = memByte s.mem x := by
  rw [State.store_mem]
  split
  · exact memByte_put_of_outside bs hx
  · rfl

/-! ### The invariant through updates -/

/-- The invariant speaks of five fields: a state that agrees with one that meets it in these meets it. -/
theorem State.Inv.of_eq (h : s.Inv) (hm : t.mem = s.mem) (hh : t.host = s.host) (hr : t.regs = s.regs) (hn : s.now ≤ t.now)
    (h0 : t.t0 = s.t0) : t.Inv :=
  ⟨hm ▸ h.mem, hh ▸ h.host, hr ▸ h.regs, h0 ▸ Nat.le_trans h.time hn⟩

/-- What leaves the memories alone keeps the invariant. -/
theorem State.Keeps.inv (hk : s.Keeps t) (h : s.Inv) : t.Inv :=
  ⟨hk.mem ▸ h.mem, hk.host ▸ h.host, hk.regs h.regs, hk.t0 ▸ Nat.le_trans h.time hk.now⟩

theorem State.Inv.setWord (h : s.Inv) (k : Nat) (v : W64) : (s.setWord k v).Inv := ((State.Keeps.refl s).setWord k v).inv h
theorem State.Inv.setFld (h : s.Inv) (f : Field) (v : Nat) : (s.setFld f v).Inv := h.setWord ..
theorem State.Inv.bump (h : s.Inv) (k n : Nat) : (s.bump k n).Inv := h.setWord ..
theorem State.Inv.setMem (h : s.Inv) {m : Mem} (hm : memWf m = true) : ({ s with mem := m }).Inv := ⟨hm, h.host, h.regs, h.time⟩
theorem State.Inv.setHostMem (h : s.Inv) {m : Mem} (hm : memWf m = true) : ({ s with host := m }).Inv := ⟨h.mem, hm, h.regs, h.time⟩
theorem State.Inv.reach (h : s.Inv) (ps : Nat) : (s.reach ps).Inv := h.of_eq rfl rfl rfl (Nat.le_max_left ..) rfl
theorem State.Inv.reachCycle (h : s.Inv) (f c : Nat) : (s.reachCycle f c).Inv := by
  unfold State.reachCycle
  dsimp only
  split
  · exact h
  · exact h.reach _
theorem State.Inv.setTile (h : s.Inv) (k : Nat) (x : Tile) : (s.setTile k x).Inv := h.of_eq rfl rfl rfl (Nat.le_refl _) rfl
theorem State.Inv.setClause (h : s.Inv) (a : At) (x : Clause) : (s.setClause a x).Inv := h.setTile ..
theorem State.Inv.setKernel (h : s.Inv) (k : Nat) (x : Kernel) : (s.setKernel k x).Inv := h.of_eq rfl rfl rfl (Nat.le_refl _) rfl
theorem State.Inv.setCtx (h : s.Inv) (k : Nat) (x : Ctx) : (s.setCtx k x).Inv := h.of_eq rfl rfl rfl (Nat.le_refl _) rfl
theorem State.Inv.setPart (h : s.Inv) (k : Nat) (x : Part) : (s.setPart k x).Inv := h.of_eq rfl rfl rfl (Nat.le_refl _) rfl
theorem State.Inv.setQueue (h : s.Inv) (k : Nat) (x : Queue) : (s.setQueue k x).Inv := h.of_eq rfl rfl rfl (Nat.le_refl _) rfl
theorem State.Inv.raiseVec (h : s.Inv) (fn v : Nat) : (s.raiseVec fn v).Inv := h.of_eq rfl rfl rfl (Nat.le_refl _) rfl
theorem State.Inv.ras (h : s.Inv) (code sev part u : Nat) (d0 d1 : W64) : (s.ras code sev part u d0 d1).Inv :=
  ((State.Keeps.refl s).ras ..).inv h

theorem State.Inv.kernelFault (h : s.Inv) (k cause : Nat) (va : W64) (f : FaultBy) : (s.kernelFault k cause va f).Inv := by
  unfold State.kernelFault
  dsimp only
  split
  · exact h.setKernel ..
  · exact ite_either (P := State.Inv) ((h.setKernel ..).bump ..) (h.bump ..)
  · exact h.bump ..

theorem State.Inv.clauseFault (h : s.Inv) (a : At) (cause : Nat) (va : W64) : (s.clauseFault a cause va).Inv := by
  unfold State.clauseFault
  dsimp only
  split
  · exact h.setTile ..
  · exact (h.setTile ..).kernelFault ..

theorem State.Inv.foldl {β : Type} (h : s.Inv) (f : State → β → State) (hf : ∀ t x, t.Inv → (f t x).Inv) (xs : List β) :
    (xs.foldl f s).Inv := foldl_keeps State.Inv f hf xs h

theorem State.Inv.dlogAppend (h : s.Inv) (p entry : Nat) : (s.dlogAppend p entry).Inv :=
  ite_either ((h.setFld ..).ras ..) ((h.setHostMem (memWf_putLe _ _ _ h.host)).setFld ..)

theorem State.Inv.dlog (h : s.Inv) (p : Nat) (host : Bool) (addr : Nat) : (s.dlog p host addr).Inv := by
  unfold State.dlog
  refine ite_either h (ite_either h (ite_either ((h.dlogAppend ..).setPart ..) ?_))
  split
  · exact (h.dlogAppend ..).setPart ..
  · exact h

theorem State.Inv.store (h : s.Inv) (w : Who) (l : Loc) (bs : List Byte) (bad : Bool) : (s.store w l bs bad).Inv := by
  unfold State.store
  refine ite_either h (ite_either ?_ ?_)
  · refine State.Inv.foldl (s := { s.hostCured l.addr bs.length with host := memPut s.host l.addr bs }) ?_ _ (fun _ _ ht => ht.dlog ..) _
    exact (h.setHostMem (memWf_put _ _ h.host)).of_eq rfl rfl rfl (Nat.le_refl _) rfl
  · dsimp only
    refine foldl_keeps State.Inv _ (fun t _ ht => (((State.Keeps.refl t).wrote ..).packNew ..).inv ht) _ ?_
    refine foldl_keeps State.Inv _ (fun t _ ht => ite_either (((State.Keeps.refl t).poisonSector _).inv ht)
      (ite_either (((State.Keeps.refl t).setPoison ..).inv ht) ht)) _ ?_
    have h1 := foldl_keeps State.Inv (fun s k => s.homeOpen w k (rangeMask false l.addr bs.length k) (rangeMask true l.addr bs.length k))
      (fun t _ ht => ((State.Keeps.refl t).homeOpen ..).inv ht) (rangeLines l.addr bs.length)
      (h.foldl (fun s i => s.dlog w.part false ((l.addr / 65536 + i) * 65536)) (fun _ _ ht => ht.dlog ..)
        (List.range ((l.addr + bs.length - 1) / 65536 - l.addr / 65536 + 1)))
    exact h1.setMem (memWf_put _ _ h1.mem)

theorem State.Inv.storeLe (h : s.Inv) (w : Who) (l : Loc) (n v : Nat) : (s.storeLe w l n v).Inv := h.store ..

theorem State.Inv.storeAll (h : s.Inv) (w : Who) (ls : List (Loc × Nat)) (bs : List Byte) (bad : Bool) : (s.storeAll w ls bs bad).Inv := by
  induction ls generalizing s bs with
  | nil => exact h
  | cons l ls ih => exact ih (h.store ..) _

/-! ### What an access waits for -/

theorem State.Keeps.loseHost (h : s.Keeps t) (line : Nat) : s.Keeps (t.loseHost line) := by
  unfold State.loseHost
  split
  · exact (((h.poisonLine line).setHost line none).of_eq (u := { (t.poisonLine line).setHost line none with silent := true })
      rfl rfl rfl rfl rfl).ras ..
  · exact h.setHost ..

theorem State.Keeps.snoop (h : s.Keeps t) (line : Nat) (inv : Bool) (ws : List Req) (tag : Nat) : s.Keeps (t.snoop line inv ws tag) :=
  h.of_eq rfl rfl rfl rfl rfl

/-- Making the host's copies give way leaves the memories alone. -/
theorem State.Keeps.gate (h : s.Keeps t) (w : Who) (reads writes : List (Nat × Nat)) : s.Keeps (t.gate w reads writes).1 := by
  refine ite_either (P := fun r : State × Bool => s.Keeps r.1) h (ite_either (P := fun r : State × Bool => s.Keeps r.1) h
    (ite_either (P := fun r : State × Bool => s.Keeps r.1) ?_ ?_))
  · exact h.foldl _ (fun _ _ hu => hu.loseHost _) _
  · exact State.Keeps.foldl (h.foldl _ (fun _ _ hu => ite_either hu (hu.snoop ..)) _) _ (fun _ _ hu => ite_either hu (hu.snoop ..)) _

theorem State.Keeps.meter (h : s.Keeps t) (w : Who) (reads writes : List (Loc × Nat)) : s.Keeps (t.meter w reads writes) :=
  (((h.bump ..).bump ..).charge ..).lane ..

/-- What an access of an engine does before it acts leaves the memories alone: whether it goes on or not, the data are as before. -/
theorem State.Keeps.gateAll (h : s.Keeps t) (w : Who) (reads writes : List (Loc × Nat)) : s.Keeps (t.gateAll w reads writes).1 := by
  have hg := h.gate w (devRanges reads) (devRanges writes)
  unfold State.gateAll
  split
  · rename_i e
    rw [e] at hg
    exact hg
  · rename_i e
    rw [e] at hg
    exact ((State.Keeps.meter hg ..).rasCount ..).homeReads ..

theorem State.Inv.gate (h : s.Inv) (w : Who) (reads writes : List (Nat × Nat)) : (s.gate w reads writes).1.Inv :=
  ((State.Keeps.refl s).gate ..).inv h
theorem State.Inv.gateAll (h : s.Inv) (w : Who) (reads writes : List (Loc × Nat)) : (s.gateAll w reads writes).1.Inv :=
  ((State.Keeps.refl s).gateAll ..).inv h

/-! ### Walks (R513 to R519): tables are read and written at their homes, so a walk keeps the invariant -/

theorem State.Keeps.meterWalk (h : s.Keeps t) (w : Who) (n : Nat) (wr : Bool) : s.Keeps (t.meterWalk w n wr) := ((h.bump ..).charge ..).lane ..

theorem State.Keeps.readEntry (h : s.Keeps t) (w : Who) (ctx : Nat) (d : Htfd) (a : Nat) : s.Keeps (t.readEntry w ctx d a).1 := by
  unfold State.readEntry
  split
  · split
    · exact h
    · rename_i p _
      have hg := h.gate w [(p, 8)] []
      split
      · rename_i e; rw [e] at hg; exact hg
      · rename_i e
        rw [e] at hg
        have h1 {c : Prop} [Decidable c] (k m : Nat) := ite_either (P := s.Keeps) (c := c) (hg.rasCount 0x17 1) ((hg.meterWalk w 8 false).homeRead w k m)
        exact ite_either (P := fun r : State × (Nat ⊕ WalkRes) => s.Keeps r.1) ((h1 ..).rasCount ..) (h1 ..)
  · exact ite_either (P := fun r : State × (Nat ⊕ WalkRes) => s.Keeps r.1) (h.rasCount ..) h

theorem State.Keeps.readEntries (w : Who) (ctx : Nat) (d : Htfd) (as : List Nat) (h : s.Keeps t) : s.Keeps (t.readEntries w ctx d as).1 := by
  induction as generalizing t with
  | nil => exact h
  | cons a as ih =>
    have h1 := h.readEntry w ctx d a
    unfold State.readEntries
    split
    · rename_i e; rw [e] at h1; exact h1
    · rename_i e
      rw [e] at h1
      have h2 := ih h1
      split
      · rename_i e'; rw [e'] at h2; exact h2
      · exact h2

theorem State.Keeps.descend (w : Who) (ctx : Nat) (d : Htfd) (va n : Nat) : ∀ {t : State} (base : Nat) (r : Rights), s.Keeps t →
    s.Keeps (State.descend w ctx d va n t base r).1 := by
  induction n with
  | zero => intro t base r h; exact h
  | succ n ih =>
    intro t base r h
    have h1 := h.readEntry w ctx d (base + 8 * (va / 2 ^ (12 + 9 * n) % 512))
    unfold State.descend
    dsimp only
    split
    · rename_i e; rw [e] at h1; exact h1
    · rename_i e
      rw [e] at h1
      repeat' first | exact h1 | exact ih _ _ h1 | split

theorem State.Keeps.leafRun (h : s.Keeps t) (w : Who) (ctx : Nat) (d : Htfd) (bl1 : Bool) (lf : Leaf) : s.Keeps (t.leafRun w ctx d bl1 lf).1 := by
  unfold State.leafRun
  have h1 := h.readEntries w ctx d ((List.range 16).map fun i => lf.at_ / 128 * 128 + 8 * i)
  split
  · exact h
  · split <;> (rename_i e; rw [e] at h1; exact h1)

theorem State.Inv.writeEntries (h : s.Inv) (w : Who) (ctx : Nat) (d : Htfd) (es : List (Nat × Nat)) : (s.writeEntries w ctx d es).1.Inv := by
  unfold State.writeEntries
  dsimp only
  split
  · rename_i e
    have h1 := congrArg (·.1.Inv) e
    exact h1.mp (h.gate ..)
  · rename_i e
    have h1 := congrArg (·.1.Inv) e
    refine State.Inv.foldl (h1.mp (h.gate ..)) _ (fun u _ hu => State.Inv.storeLe ?_ ..) _
    exact ite_either (P := State.Inv) (((State.Keeps.refl u).charge ..).inv hu) (((State.Keeps.refl u).meterWalk ..).inv hu)

theorem State.Inv.walk (h : s.Inv) (w : Who) (ctx : Nat) (va : W64) (acc : Acc) : (s.walk w ctx va acc).1.Inv := by
  unfold State.walk
  dsimp only
  have h1 := ((State.Keeps.refl s).descend (s.walker w ctx) ctx (s.htfd (s.ctx ctx).fn) va.toNat (s.htfd (s.ctx ctx).fn).levels (s.ctx ctx).ptRoot {}).inv h
  split
  · rename_i e; rw [e] at h1; exact h1
  · rename_i e; rw [e] at h1; exact h1
  · rename_i u lf e
    rw [e] at h1
    have h2 := ((State.Keeps.refl u).leafRun (s.walker w ctx) ctx (s.htfd (s.ctx ctx).fn) (s.ctx ctx).bl1 lf).inv h1
    split
    · rename_i e'; rw [e'] at h2; exact h2
    · rename_i e'
      rw [e'] at h2
      let P : State × WalkRes → Prop := fun r => r.1.Inv
      show P _
      refine ite_either h2 (ite_either h2 (ite_either h2 (ite_either h2 (ite_either h2 (ite_either h2 ?_)))))
      split <;> (rename_i e''; exact (congrArg (·.1.Inv) e'').mp (h2.writeEntries ..))

theorem State.Inv.translate (h : s.Inv) (w : Who) (ctx : Nat) (va : W64) (acc : Acc) : (s.translate w ctx va acc).1.Inv := by
  unfold State.translate
  have h1 := h.walk w ctx va acc
  split
  · exact h
  · split
    · rename_i e
      rw [e] at h1
      dsimp only
      split <;> exact h1.of_eq rfl rfl rfl (Nat.le_refl _) rfl
    · rename_i e; rw [e] at h1; exact h1

theorem State.Inv.placePages (w : Who) (ctx : Nat) (acc : Acc) (fuel : Nat) : ∀ {s : State} (va n : Nat), s.Inv →
    (s.placePages w ctx acc fuel va n).1.Inv := by
  induction fuel with
  | zero => intro s va n h; exact h
  | succ fuel ih =>
    intro s va n h
    unfold State.placePages
    dsimp only
    refine ite_either (P := fun r : State × (List (Loc × Nat) ⊕ XFail) => r.1.Inv) h
      (ite_either (P := fun r : State × (List (Loc × Nat) ⊕ XFail) => r.1.Inv) h ?_)
    have ht := h.translate w ctx (BitVec.ofNat 64 va) acc
    split
    · rename_i e; rw [e] at ht; exact ht
    · rename_i e; rw [e] at ht; exact ht
    · rename_i e; rw [e] at ht; exact ht
    · rename_i e; rw [e] at ht; exact ht
    · rename_i e
      rw [e] at ht
      have hp := ih (va + min n (4096 - va % 4096)) (n - min n (4096 - va % 4096)) ht
      split
      · rename_i e'; rw [e'] at hp; exact hp
      · rename_i e'; rw [e'] at hp; exact hp

theorem State.Inv.places (h : s.Inv) (w : Who) (ctx : Nat) (acc : Acc) (va : W64) (n : Nat) : (s.places w ctx acc va n).1.Inv :=
  State.Inv.placePages w ctx acc _ _ _ h

theorem State.Inv.sendPages (h : s.Inv) : s.sendPages.Inv :=
  ite_either (P := State.Inv) h (h.of_eq rfl rfl rfl (Nat.le_refl _) rfl)

theorem State.Inv.pageNeed (h : s.Inv) (ctx page : Nat) (w x : Bool) (join : PageReq → PageReq) : (s.pageNeed ctx page w x join).Inv :=
  ite_either (h.of_eq rfl rfl rfl (Nat.le_refl _) rfl)
    (State.Inv.sendPages (s := { s with pageReqs := s.pageReqs ++ [join { ctx := ctx, page := page, write := w, exec := x }] })
      (h.of_eq rfl rfl rfl (Nat.le_refl _) rfl))

end Sys2Proof.Machine
end

