-- ==== Sys2Proof/Tests/Slice0.lean ====
section
/-! SUPPORT. Tests of single commands on small states, and, for each obligation with hypotheses, states and operands that meet
them. Expected results come from the rules of spec/ that the tests name. -/

namespace Sys2Proof.Tests

set_option Elab.async false

open Sys2Proof Sys2Proof.Machine Sys2Proof.Claims

/-! ### Small states -/

/-- The state after a command, or the state itself where it stops. -/
def after (i : Instr) (s : State) : State := match exec i s with
  | .next t => t
  | _ => s

/-- The command answers a next state that `p` describes. -/
def gives (i : Instr) (s : State) (p : State → Bool) : Bool := match exec i s with
  | .next t => p t
  | _ => false

theorem gives_next {i : Instr} {s : State} {p : State → Bool} (h : gives i s p = true) : ∃ t, exec i s = .next t ∧ p t = true := by
  unfold gives at h
  split at h
  · exact ⟨_, by assumption, h⟩
  · cases h

/-- The registers of a module in boot stage 5, READY. -/
def readyRegs : Tab W64 := [(0x00A00000, 5)]

/-- A module that is READY, with its supplies up. -/
def rdy : State := { regs := readyRegs, pwr := { supply := 2, perst := false }, pageCount := 4096 }

/-- The clause that the tests let act: entry 3 of tile 5. -/
def at3 : At := ⟨5, 3⟩

/-- A kernel of an INVOKE, whose code comes from the store. -/
def kern : Kernel := { ctx := 7, part := 2, queue := 513, blkCount := 1, nextBlock := 1, granules := 31, tiles := [5], blkSpm := 1,
                       invoke := some ⟨0, 0, 0, 0, 0, 0⟩ }

/-- A tile that runs it, with one clause. -/
def tile5 (c : Clause) : Tile :=
  { kernel := some 1, clauses := [(3, c)], blocks := [(0, { used := true, spmBase := 2, spmSize := 1 })], slots := [(0, some 3)] }

def with5 (t : Tile) : State := { rdy with kernels := [(1, kern)], tiles := [(5, t)] }
def one (c : Clause) : State := with5 (tile5 c)

/-- An ACTIVE clause with lanes 0 and 1 active: v4 = 7, 9; v5 = 3, 0; v6, v7 = 1.0, a signalling NaN. -/
def cl : Clause :=
  { st := .active, uid := 9, pc := 0x1000, active := 3, live := 0xF
    v := [(128, 7), (129, 9), (160, 3), (192, 0x3F800000), (193, 0x7F800001), (224, 0x3F800000), (225, 0x40000000)]
    u := [(1, 5), (2, 0x100)], p := [(1, 1)] }

/-- Words of Format T and Format I of classes 0x0 to 0x5 (Table 3.3), unpredicated. -/
def fmtT (d a b : Nat) (c : Nat := 0) (ty : Nat := 0) (rm : Nat := 0) (sat : Nat := 0) (aux : Nat := 0) : Enc :=
  ⟨false, false, 0, false, 0, BitVec.ofNat 48 (d * 2 ^ 39 + a * 2 ^ 30 + b * 2 ^ 21 + c * 2 ^ 12 + ty * 2 ^ 8 + rm * 2 ^ 5 + sat * 2 ^ 4 + aux), none⟩
def fmtI (d a ty imm : Nat) (sat : Nat := 0) : Enc :=
  ⟨false, false, 0, true, 0, BitVec.ofNat 48 (d * 2 ^ 39 + a * 2 ^ 30 + ty * 2 ^ 26 + sat * 2 ^ 25 + imm), none⟩
def word (body : Nat) (imm : Bool := false) : Enc := ⟨false, false, 0, imm, 0, BitVec.ofNat 48 body, none⟩

/-- A clause of an INVOKE's kernel issues without a walk. -/
def issuesB (s : State) (a : At) (e : Enc) (q : IssueReq) : Bool :=
  atOk a && s.canIssue a && (s.tileKernel a.tile).invoke.isSome && e.op.isNone && !(s.clause a).awaits q.regs.vr q.regs.ur &&
    !(s.tile a.tile).matHazard a.entry q.regs && (!q.statusOrder || (s.clause a).mxcnt == 0) && q.legal &&
    (!regRange (s.tileKernel a.tile).granules (q.regs.vr ++ q.regs.vw) || (q.lanes && (s.clause a).acting e == 0))

theorem issues_of {s : State} {a : At} {e : Enc} {q : IssueReq} (h : issuesB s a e q = true) : s.Issues a e q s := by
  simp only [issuesB, Bool.and_eq_true, Bool.or_eq_true, Bool.not_eq_true', beq_iff_eq] at h
  obtain ⟨⟨⟨⟨⟨⟨⟨⟨h1, h2⟩, h3⟩, h0⟩, h4⟩, h5⟩, h6⟩, h7⟩, h8⟩ := h
  refine ⟨⟨h1, h2, by simp [State.fetchCode, h3]⟩, Option.isNone_iff_eq_none.mp h0, ⟨h4, h5, fun hq => ?_⟩, h7, fun hr => ?_⟩
  · rcases h6 with h6 | h6
    · rw [hq] at h6; cases h6
    · exact h6
  · rcases h8 with h8 | h8
    · intro hx; rw [h8] at hx; cases hx
    · exact fun _ => h8

/-! ### Classes 0x0 to 0x8 -/

/-- A word for each row of `aluRows`, in order. -/
def aluWords : List Enc :=
  [fmtT 8 4 5, fmtT 8 4 5, fmtT 8 4 5, fmtT 8 4 5, fmtT 8 4 0 0 1, fmtT 8 4 0 0 1, fmtT 8 4 5, fmtT 8 4 5, fmtT 8 4 5, fmtT 8 4 5,
   fmtT 8 4 5 5, fmtT 8 4 5, fmtT 8 4 5, fmtI 8 4 0 4,
   fmtT 8 4 5, fmtT 8 4 5, fmtT 8 4 5, fmtT 8 4 5, fmtT 8 4 0, fmtT 8 4 0, fmtT 8 4 0, fmtT 8 4 0, fmtT 8 4 0, fmtT 8 4 5 5,
   fmtT 8 4 5 5, fmtT 8 4 5 5, fmtT 8 4 5, fmtT 8 4 5, fmtT 8 4 5 0 1,
   fmtT 8 4 0, fmtT 8 6 0 0 8, fmtT 8 6 0 0 8,
   fmtT 8 6 7 0 8, fmtT 8 6 7 0 8, fmtT 8 6 7 0 8, fmtT 8 6 7 0 8, fmtT 8 6 0 0 8,
   fmtT 8 6 7 0 8, fmtT 8 6 7 0 8, fmtT 8 6 7 7 8, fmtT 8 6 0 0 8,
   fmtT 8 6 0 0 8, fmtT 8 6 0 0 8, fmtT 8 6 0 0 8, fmtT 8 6 0 0 8, fmtT 8 6 0 0 8]

/-- Every row of the table has a state and a word with which it issues. -/
theorem test_alu_rows_issue : (aluRows.zip aluWords).length = aluRows.length ∧
    (aluRows.zip aluWords).all (fun x => issuesB (one cl) at3 x.2 (x.1.req x.2)) = true := by decide +kernel

/-- v8 of lanes 0 and 1 after an instruction, and the pc. -/
def v8 (i : Instr) : Nat × Nat × Nat :=
  let c := (after i (one cl)).clause at3
  ((c.getV 8 0).toNat, (c.getV 8 1).toNat, c.pc.toNat)

/-- Hand calculations from Tables 3.8 and 3.13: a = 7, 9; b = 3, 0. -/
theorem test_integer : [.iadd at3 (fmtT 8 4 5), .isub at3 (fmtT 8 4 5), .imul at3 (fmtT 8 4 5), .idiv at3 (fmtT 8 4 5), .irem at3 (fmtT 8 4 5),
      .imad at3 (fmtT 8 4 5 4), .imin at3 (fmtT 8 4 5), .imax at3 (fmtT 8 4 5), .iadd at3 (fmtI 8 4 1 0xFFFFFF)].map v8 =
    [(10, 9, 0x1008), (4, 9, 0x1008), (21, 0, 0x1008), (2, 0xFFFFFFFF, 0x1008), (1, 9, 0x1008), (28, 9, 0x1008), (3, 0, 0x1008),
     (7, 9, 0x1008), (6, 8, 0x1008)] := by decide +kernel

theorem test_integer_high : [.iaddc at3 (fmtT 8 4 5), .isubb at3 (fmtT 8 4 5), .ineg at3 (fmtT 8 4 0 0 1), .iabs at3 (fmtT 8 4 0 0 1),
      .imulh at3 (fmtT 8 4 5), .imulw at3 (fmtT 8 4 5)].map v8 =
    [(10, 9, 0x1008), (4, 9, 0x1008), (0xFFFFFFF9, 0xFFFFFFF7, 0x1008), (7, 9, 0x1008), (0, 0, 0x1008), (21, 0, 0x1008)] := by decide +kernel

theorem test_bits : [.and at3 (fmtT 8 4 5), .or at3 (fmtT 8 4 5), .xor at3 (fmtT 8 4 5), .andn at3 (fmtT 8 4 5), .not at3 (fmtT 8 4 0),
      .popc at3 (fmtT 8 4 0), .clz at3 (fmtT 8 4 0), .ctz at3 (fmtT 8 5 0), .brev at3 (fmtT 8 4 0), .shl at3 (fmtT 8 4 5),
      .shr at3 (fmtT 8 4 5), .sar at3 (fmtT 8 4 5 0 1)].map v8 =
    [(3, 0, 0x1008), (7, 9, 0x1008), (4, 9, 0x1008), (4, 9, 0x1008), (0xFFFFFFF8, 0xFFFFFFF6, 0x1008), (3, 2, 0x1008), (29, 28, 0x1008),
     (0, 32, 0x1008), (0xE0000000, 0x90000000, 0x1008), (56, 9, 0x1008), (0, 9, 0x1008), (0, 9, 0x1008)] := by decide +kernel

theorem test_fields : [.bfe at3 (fmtT 8 4 5 5), .bfi at3 (fmtT 8 4 5 5), .prmt at3 (fmtT 8 4 5 5), .mov at3 (fmtT 8 4 0)].map v8 =
    [(0, 0, 0x1008), (7, 9, 0x1008), (0x07070700, 0x09090909, 0x1008), (7, 9, 0x1008)] := by decide +kernel

/-- 1.0 and a signalling NaN with 1.0 and 2.0. -/
theorem test_float : [.fadd at3 (fmtT 8 6 7 0 8), .fsub at3 (fmtT 8 6 7 0 8), .fmul at3 (fmtT 8 6 7 0 8), .fdiv at3 (fmtT 8 6 7 0 8),
      .fsqrt at3 (fmtT 8 6 0 0 8), .fneg at3 (fmtT 8 6 0 0 8), .fabs at3 (fmtT 8 6 0 0 8), .fclass at3 (fmtT 8 6 0 0 8),
      .fmin at3 (fmtT 8 6 7 0 8), .ffma at3 (fmtT 8 7 7 7 8)].map v8 =
    [(0x40000000, 0x7FC00000, 0x1008), (0, 0x7FC00000, 0x1008), (0x3F800000, 0x7FC00000, 0x1008), (0x3F800000, 0x7FC00000, 0x1008),
     (0x3F800000, 0x7FC00000, 0x1008), (0xBF800000, 0xFF800001, 0x1008), (0x3F800000, 0x7F800001, 0x1008), (256, 1, 0x1008),
     (0x3F800000, 0x40000000, 0x1008), (0x40000000, 0x40C00000, 0x1008)] := by decide +kernel

/-! ### Predicates, moves, special registers, softmax -/

/-- A word for each row of `clauseRows`, in order: SRD of sr.tile into u4, SWR of sr.mode from u1, CVT of s32 to u32. -/
def clauseWords : List Enc :=
  [fmtT 2 4 5 (aux := 4), fmtT 8 4 5 1, fmtT 2 1 1, fmtT 2 1 1, fmtT 2 1 1, fmtT 2 1 0, fmtT 260 1 0, fmtT 2 257 0, fmtT 2 1 0 (aux := 1),
   word (8 * 2 ^ 39 + 0xABCD0123) true, word (258 * 2 ^ 39 + 0x77) true, fmtT 8 4 5 (aux := 1), fmtT 260 4 257, fmtT 260 0 0, fmtT 0 257 0x12,
   fmtT 8 4 0 (aux := 1), fmtT 8 6 0 0 8, fmtT 8 4 5 8]

theorem test_clause_rows_issue : (clauseRows.zip clauseWords).length = clauseRows.length ∧
    (clauseRows.zip clauseWords).all (fun x => issuesB (one cl) at3 x.2
      { legal := x.1.legal x.2, regs := x.1.regs x.2, lanes := x.1.lanes x.2, statusOrder := x.1.order x.2 }) = true := by decide +kernel

/-- The extra conditions of MASKGEN are met: v8 is 0 in both lanes. -/
theorem test_maskgen_when : ∀ l ∈ maskLanes (cl.acting (fmtT 8 4 5 8)), cl.opd (aluFields (fmtT 8 4 5 8)).c 32 l / 4 % 64 = 0 := by decide +kernel

/-- p2 after an instruction that writes it: lanes 0 and 1 act, the others keep 0. -/
def p2 (i : Instr) : Nat := (((after i (one cl)).clause at3).getP 2).toNat

/-- a = 7, 9; b = 3, 0; p1 = lane 0. -/
theorem test_predicates : [.setp at3 (fmtT 2 4 5 (aux := 4)), .setp at3 (fmtT 2 5 4 (aux := 4)), .pand at3 (fmtT 2 1 0), .por at3 (fmtT 2 1 0),
      .pxor at3 (fmtT 2 1 1), .pnot at3 (fmtT 2 1 0), .u2p at3 (fmtT 2 257 0), .vote at3 (fmtT 2 1 0), .vote at3 (fmtT 2 1 0 (aux := 1))].map p2 =
    [3, 0, 0, 1, 0, 2, 1, 3, 0] := by decide +kernel

theorem test_moves : List.map v8 [.sel at3 (fmtT 8 4 5 1), .movi at3 (word (8 * 2 ^ 39 + 0xABCD0123) true), .shfl at3 (fmtT 8 4 5 (aux := 1)),
      .shfl at3 (fmtT 8 4 5 (aux := 3)), .cvt at3 (fmtT 8 4 0 (aux := 1)), .maskgen at3 (fmtT 8 4 5 8)] =
    [(7, 0, 0x1008), (0xABCD0123, 0xABCD0123, 0x1008), (7, 9, 0x1008), (0, 9, 0x1008), (7, 9, 0x1008), (31, 1023, 0x1008)] := by decide +kernel

/-- u4 after an instruction that writes it. -/
def u4 (i : Instr) : Nat := (((after i (one cl)).clause at3).getU 4).toNat

theorem test_uniform : [.p2u at3 (fmtT 260 1 0), .v2u at3 (fmtT 260 4 259), .srd at3 (fmtT 260 0 0), .srd at3 (fmtT 260 0 7),
      .srd at3 (fmtT 260 0 9), .srd at3 (fmtT 260 0 10)].map u4 = [1, 7, 5, 7, 3, 15] := by decide +kernel

theorem test_movih : (((after (.movih at3 (word (258 * 2 ^ 39 + 0x77) true)) (one cl)).clause at3).getU 2).toNat = 0x7700000100 := by decide +kernel

/-- SWR of sr.mode ignores reserved bits and stores frm 5 as 0 (R135). -/
theorem test_swr : ((after (.swr at3 (fmtT 0 257 0x12)) (one cl)).clause at3).mode = 0 := by decide +kernel

/-- SMXSTEP, score -infinity: maximum and sum stay, the weight is 0 and the factor 1 (Table 4.11). -/
theorem test_smxstep :
    let c := { cl with v := tabSet wDef (tabSet wDef cl.v 384 0x40400000) 192 0xFF800000 }
    let d := (after (.smxstep at3 (fmtT 12 6 0 0 8)) (one c)).clause at3
    (d.getV 12 0, d.getV 13 0, d.getV 14 0, d.getV 15 0) = (0x40400000, 0, 0, 0x3F800000) := by decide +kernel

/-- Special functions on special inputs (R158): 2^+infinity, log2 0, 1 / 0, 1 / sqrt 0. -/
theorem test_specials :
    let c := { cl with v := tabSet wDef (tabSet wDef cl.v 192 0x7F800000) 193 0 }
    (((after (.exp2 at3 (fmtT 8 6 0 0 8)) (one { c with active := 1 })).clause at3).getV 8 0,
     ((after (.log2 at3 (fmtT 8 6 0 0 8)) (one { c with active := 2 })).clause at3).getV 8 1,
     ((after (.rcp at3 (fmtT 8 6 0 0 8)) (one { c with active := 2 })).clause at3).getV 8 1,
     ((after (.rsq at3 (fmtT 8 6 0 0 8)) (one { c with active := 2 })).clause at3).getV 8 1) =
    (0x7F800000, 0xFF800000, 0x7F800000, 0x7F800000) := by decide +kernel

/-! ### Classes 0xB and 0xC -/

def guarded (body : Nat) : Enc := ⟨true, false, 1, false, 0, BitVec.ofNat 48 body, none⟩

/-- A word for each row of `branches`: BR, BRX u2, CALL, SPLIT, JOIN, NOP, EXIT of lane 0, WAIT NONE. -/
def branchWords : List Enc :=
  [word 4, word (2 * 2 ^ 42), word (3 * 2 ^ 36 + 4), word 2, word 0, word 0, guarded 0, word 0]

theorem test_branch_rows_issue : (branches.zip branchWords).length = branches.length ∧
    (branches.zip branchWords).all (fun x => issuesB (one cl) at3 x.2
      { legal := x.1.legal x.2, regs := x.1.regs x.2, lanes := x.1.lanes }) = true := by decide +kernel

/-- Each row has a clause that it leads to. -/
theorem test_branch_rows_step : ∀ x ∈ branches.zip branchWords, ∃ d, x.1.step kern x.2 cl d := by
  simp only [branches, branchWords, List.zip_cons_cons, List.zip_nil_right, List.forall_mem_cons]
  refine ⟨⟨_, .inr (.inl ⟨by decide, by decide, by decide, rfl⟩)⟩, ⟨_, by decide, rfl⟩,
    ⟨_, .inr (.inr ⟨.inl rfl, by decide, by decide, rfl⟩)⟩, ⟨_, by decide, 514, ⟨by decide, by decide⟩, rfl⟩, ⟨_, .inl ⟨rfl, rfl⟩⟩,
    ⟨_, rfl⟩, ⟨_, by decide, by decide, rfl⟩, ⟨_, .inl rfl, rfl⟩, fun x h => nomatch h⟩

/-- The clause after a control instruction: pc, active and live lanes, depth of the stack. -/
def ctl (i : Instr) (c : Clause := cl) : Nat × Nat × Nat × Nat :=
  let d := (after i (one c)).clause at3
  (d.pc.toNat, d.active.toNat, d.live.toNat, d.stack.length)

/-- BR of all lanes, of lane 0 alone (a push), BR any, BR all that is not taken, and backwards. -/
theorem test_br : [ctl (.br at3 (word 4)), ctl (.br at3 (guarded 4)), ctl (.br at3 (guarded (2 ^ 32 + 4))), ctl (.br at3 (guarded (2 * 2 ^ 32 + 4))),
      ctl (.br at3 (word 0xFFFFFFFF))] =
    [(0x1020, 3, 15, 0), (0x1020, 1, 15, 1), (0x1020, 3, 15, 0), (0x1008, 3, 15, 0), (0xFF8, 3, 15, 0)] := by decide +kernel

/-- The pushed entry names the fall-through address and its lanes; JOIN takes it up, and a token goes on 8 beyond (R125, R127). -/
theorem test_join : ((after (.br at3 (guarded 4)) (one cl)).clause at3).stack = [0x0000000280000201#64] ∧
    ctl (.join at3 (word 0)) { cl with stack := [0x0000000280000201#64] } = (0x1008, 2, 15, 0) ∧
    ctl (.split at3 (word 2)) = (0x1008, 3, 15, 1) ∧
    ctl (.join at3 (word 0)) { cl with stack := [0x0000000300000202#64], active := 1 } = (0x1018, 3, 15, 0) := by decide +kernel

theorem test_branches : [ctl (.brx at3 (word (2 * 2 ^ 42))), ctl (.call at3 (word (3 * 2 ^ 36 + 4))), ctl (.nop at3 (word 0)),
      ctl (.exit at3 (guarded 0)), ctl (.wait at3 (word 0))] =
    [(0x100, 3, 15, 0), (0x1020, 3, 15, 0), (0x1008, 3, 15, 0), (0x1008, 2, 14, 0), (0x1008, 3, 15, 0)] := by decide +kernel

theorem test_call_links : ((after (.call at3 (word (3 * 2 ^ 36 + 4))) (one cl)).clause at3).getU 3 = 0x1008#64 := by decide +kernel

/-- Where a stack entry's premises hold: an address in reach of the kernel's entry. -/
theorem test_stack_entry : (0x1008#64 - kern.entry).toNat < 2 ^ 34 ∧ (0x1008#64 - kern.entry).toNat % 8 = 0 ∧
    stackEntry kern.entry 2 true 0x1008 = some 0x0000000280000201#64 := by decide +kernel

/-- A block of two clauses: the first arrival waits, the last releases the generation (R81, R83). -/
def two5 (arrived : Nat) : State :=
  { with5 { tile5 cl with blocks := [(0, { used := true, arrivals := arrived, spmSize := 1 })] } with
    kernels := [(1, { kern with blkClauses := 2 })] }

theorem test_bar_issues : ∀ k ∈ [0, 1],
    issuesB (two5 k) at3 (word 0) { legal := headerOk (word 0) && !(word 0).imm && (word 0).body == 0 && !(word 0).p, lanes := false } = true ∧
    ((two5 k).clause at3).ldcnt = 0 ∧ ((two5 k).clause at3).stcnt = 0 ∧ (((two5 k).tile 5).block 0).used = true ∧
    ((((two5 k).tile 5).block 0).arrivals + 1 + (((two5 k).tile 5).block 0).exited = ((two5 k).tileKernel 5).blkClauses ↔ k = 1) := by
  decide +kernel

theorem test_bar : (((after (.bar at3 (word 0)) (two5 0)).clause at3).st, ((after (.bar at3 (word 0)) (two5 0)).tile 5).block 0) =
      (.waiting, { used := true, arrivals := 1, spmSize := 1 }) ∧
    (((after (.bar at3 (word 0)) (two5 1)).clause at3).st, ((after (.bar at3 (word 0)) (two5 1)).tile 5).block 0) =
      (.active, { used := true, gen := 1, spmSize := 1 }) := by decide +kernel

/-- FENCE with order release at module scope (2, 3). -/
theorem test_fence : issuesB (one cl) at3 (word (2 * 2 ^ 16 + 3 * 2 ^ 13)) { legal := fenceOk (word (2 * 2 ^ 16 + 3 * 2 ^ 13)), lanes := false } = true ∧
    (let d := (after (.fence at3 (word (2 * 2 ^ 16 + 3 * 2 ^ 13))) (one cl)).clause at3
     d.fenceLd && d.fenceSt && d.fenceHost && d.pc == 0x1008) = true := by decide +kernel

/-- EXIT of all live lanes, with a load outstanding and with none (R66, R129). -/
theorem test_exit_ends : ∀ n ∈ [0, 1],
    issuesB (one { cl with active := 15, ldcnt := n }) at3 (word 0) { legal := headerOk (word 0) && !(word 0).imm && (word 0).body == 0 } = true ∧
    (15#32 &&& ~~~((one { cl with active := 15, ldcnt := n }).clause at3).acting (word 0)) = 0 ∧
    ((after (.exit at3 (word 0)) (one { cl with active := 15, ldcnt := n })).clause at3).st = (if n = 0 then .empty else .exited) := by
  decide +kernel

/-- An ADD with a reserved type faults its clause before it acts (R89, R90, R109). -/
theorem test_illegal_hyps : (one cl).Fetches at3 (one cl) ∧ (one cl).NoHazard at3 { legal := false } ∧
    ((one cl).tile 5).kernel = some 1 ∧ ((one cl).kernel 1).fault = none ∧
    (aluRows.zip (aluRows.map fun _ => fmtT 8 4 5 0 15)).all (fun x => !(x.1.req x.2).legal &&
      !((one cl).clause at3).awaits (x.1.req x.2).regs.vr (x.1.req x.2).regs.ur && !((one cl).tile 5).matHazard 3 (x.1.req x.2).regs) = true := by
  have h : ((one cl).tileKernel at3.tile).invoke.isSome = true := by decide +kernel
  refine ⟨⟨by decide +kernel, by decide +kernel, by simp only [State.fetchCode, h, if_true]⟩, ⟨by decide +kernel, by decide +kernel, fun h => nomatch h⟩,
    by decide +kernel, by decide +kernel, by decide +kernel⟩

/-- Tables 3.2 and 3.13: class and function in bits [55:48], P, N, pg, I and the reserved bits above them, the body below. -/
theorem test_decode : ∀ x ∈ [(0x00, Instr.iadd at3), (0x13, .idiv at3), (0x25, .popc at3), (0x32, .sar at3), (0x40, .setp at3), (0x53, .cvt at3),
      (0x6A, .fclass at3), (0x75, .smxstep at3), (0x81, .vote at3), (0x95, .pref at3), (0xA9, .atomCas at3), (0xB3, .split at3), (0xC3, .fence at3), (0xD2, .accld at3)],
    decodeAtset at3 (BitVec.ofNat 64 (2 ^ 63 + 2 ^ 62 + 5 * 2 ^ 59 + x.1 * 2 ^ 48 + 8 * 2 ^ 39 + 3)) = x.2 ⟨true, true, 5, false, 0, BitVec.ofNat 48 (8 * 2 ^ 39 + 3), none⟩ ∧
    decodeAtset at3 (BitVec.ofNat 64 (2 ^ 58 + 2 * 2 ^ 56 + x.1 * 2 ^ 48)) = x.2 ⟨false, false, 0, true, 2, 0, none⟩ := by decide +kernel

/-- A word of a reserved function, or of a reserved class, raises ILLEGAL_ENC (R109, R176). -/
theorem test_reserved : ∀ op ∈ [0x08, 0x16, 0x33, 0x57, 0x77, 0x82, 0xAB, 0xB5, 0xC5, 0xD5, 0xE0, 0xFF],
    gives (decodeAtset at3 (BitVec.ofNat 64 (op * 2 ^ 48))) (one cl) (fun t => (t.clause at3).st == .faulted && (t.kernel 1).fault == some (1, 5, 0)) = true := by
  decide +kernel

theorem test_illegal : gives (.iadd at3 (fmtT 8 4 5 0 15)) (one cl) (fun t => (t.clause at3).st == .faulted && (t.clause at3).pc == 0x1000 &&
    (t.tile 5).stopped && (t.kernel 1).fault == some (1, 5, 0)) = true := by decide +kernel

/-! ### Loads, stores, atomics, waits, prefetch -/

/-- A READY partition 2 of one extent, a LIVE context 7, and its translations: pages 0 to 255 to the partition's own pages, pages
256 to 511 to host memory at the same address. -/
def part2 : Part := { st := .ready, groups := 1, grant := [(16, 4)], ctxMax := 8, quantumUs := 100 }
def ctx7 : Ctx := { st := .live, part := 2, savePpn := 2, saveSlots := 2, slotPages := 1 }
def xdev : XEntry := ⟨7, 0, 256, false, 0, true, true, true, true⟩
def xhost : XEntry := ⟨7, 256, 256, true, 0x100000, true, true, true, true⟩
def mapped (s : State) : State := { s with ctxs := [(7, ctx7)], parts := [(2, part2)], xcache := [xdev, xhost] }

/-- Format M: d, ub, vi, size, space (Table 3.12). -/
def memW (d ub : Nat) (vi : Nat := 255) (size : Nat := 2) (space : Nat := 0) (order : Nat := 0) (scope : Nat := 0) (imm : Nat := 0) : Enc :=
  word (d * 2 ^ 39 + ub * 2 ^ 33 + vi * 2 ^ 25 + size * 2 ^ 20 + space * 2 ^ 18 + order * 2 ^ 16 + scope * 2 ^ 13 + imm)

/-- A word for each row of `memRows`, in space `sp`. -/
def memWords (sp : Nat) : List Enc :=
  [memW 8 2 (space := sp), memW 8 2 (size := 1) (space := sp), memW 260 2 (space := sp), memW 4 2 (space := sp), memW 257 2 (space := sp)] ++
    List.replicate 11 (memW 4 2 (space := sp))

def mayB (r : MemClaim) (s : State) (a : At) (e : Enc) : Bool :=
  issuesB s a e { legal := r.legal e, regs := r.regs e, lanes := r.lanes } && !(r.acc (s.clause a) e).isEmpty &&
    ((r.acc (s.clause a) e).all fun y => laneFault (s.tileKernel a.tile) ((s.tile a.tile).block (s.clause a).blk)
      (s.vaBits (s.tileKernel a.tile).ctx) (memFields e) r.op y.ea == none) &&
    (s.clause a).mayAccess && ((memFields e).order < 2 || (s.clause a).mayRelease (memFields e).scope) &&
    (if r.returns e then (s.clause a).ldcnt != 63 else (s.clause a).stcnt != 63)

theorem may_of {r : MemClaim} {s : State} {a : At} {e : Enc} (h : mayB r s a e = true) : r.May s s a e := by
  simp only [mayB, Bool.and_eq_true, Bool.or_eq_true, Bool.not_eq_true', decide_eq_true_eq, List.isEmpty_eq_false_iff, List.all_eq_true,
    beq_iff_eq] at h
  obtain ⟨⟨⟨⟨⟨h1, h2⟩, h3⟩, h4⟩, h5⟩, h6⟩ := h
  refine ⟨issues_of h1, h2, h3, h4, fun ho => ?_, ?_⟩
  · rcases h5 with h5 | h5
    · omega
    · exact h5
  · split at h6 <;> simp_all

/-- Every row may act on the scratchpad and on global memory, and its global lanes are translated to device memory. -/
theorem test_mem_rows_may : ∀ sp ∈ [0, 1], (memRows.zip (memWords sp)).length = memRows.length ∧
    (memRows.zip (memWords sp)).all (fun x => mayB x.1 (mapped (one cl)) at3 x.2 && (memFields x.2).space == sp) = true := by decide +kernel

def accOf : MemOp → Acc
  | .load _ => .read
  | .store => .write
  | .atomic _ => .atomic

theorem test_mem_rows_translate : (memRows.zip (memWords 0)).all (fun x =>
    let s := mapped (one cl)
    let vas := (x.1.acc (s.clause at3) x.2).map (·.ea)
    match placesOf 5 (fun _ => false) vas ((s.issued at3).translateAll (s.whoTile 5) (s.tileKernel 5).ctx (accOf x.1.op) vas).2.1 with
    | .ok ls => ls.all fun l => !l.host && l.addr == 0x100100
    | _ => false) = true := by decide +kernel

/-- The scratchpad: u2 = 0x100 in the block's region at 0x2000, where 0x11 0x22 0x83 stand. -/
def spmState (c : Clause := cl) : State := mapped (with5 { tile5 c with spm := [(0x2100, 0x11), (0x2101, 0x22), (0x2102, 0x83)] })

/-- A load's values on their way; a store and an atomic at once, lane after lane (R163, R168, R271). -/
theorem test_spm : gives (.ld at3 (memW 8 2 (space := 1))) (spmState) (fun t =>
      (t.clause at3).ldcnt == 1 && (t.clause at3).loads.map (·.vals) == [[(0, 0x832211), (1, 0x832211)]]) = true ∧
    gives (.st at3 (memW 4 2 (space := 1))) (spmState) (fun t => memBytes (t.tile 5).spm 0x2100 4 == [9, 0, 0, 0]) = true ∧
    gives (.atomAdd at3 (memW 4 2 (space := 1))) (spmState) (fun t => memLe (t.tile 5).spm 0x2100 4 == 0x832221 &&
      (t.clause at3).loads.map (·.vals) == [[(0, 0x832211), (1, 0x832218)]]) = true ∧
    gives (.atomCas at3 (memW 4 2 (space := 1))) (spmState { cl with active := 1 }) (fun t => memLe (t.tile 5).spm 0x2100 4 == 0x832211) = true := by
  decide +kernel

/-- What each atomic leaves of 0x832211 with the operand 7 of lane 0 alone (R167). -/
theorem test_atomics : ([(Instr.atomMinu, 7), (.atomMins, 7), (.atomMaxu, 0x832211), (.atomMaxs, 0x832211), (.atomAnd, 1), (.atomOr, 0x832217),
      (.atomXor, 0x832216), (.atomExch, 7)].all fun x => gives (x.1 at3 (memW 4 2 (space := 1))) (spmState { cl with active := 1 })
        fun t => memLe (t.tile 5).spm 0x2100 4 == x.2) = true := by decide +kernel

/-- ATOM_FADD of f32: 1.0 + 1.0 (R170). -/
theorem test_atom_fadd : gives (.atomFadd at3 (memW 6 2 (space := 1))) (mapped (with5 { tile5 { cl with active := 1 } with
    spm := [(0x2102, 0x80), (0x2103, 0x3F)] })) (fun t => memLe (t.tile 5).spm 0x2100 4 == 0x40000000) = true := by decide +kernel

/-- A global load and store send one request each to the home of their line (R75, R277). -/
theorem test_global : gives (.ld at3 (memW 8 2)) (mapped (one cl)) (fun t => t.reqs.map (fun q => (q.kind, q.line)) == [(.rd, 0x100100 / 128)] &&
      (t.clause at3).ldcnt == 1 && t.mem == []) = true ∧
    gives (.lds at3 (memW 8 2 (size := 1))) (mapped (one cl)) (fun t => t.reqs.map (·.kind) == [.rd]) = true ∧
    gives (.ldu at3 (memW 260 2)) (mapped (one cl)) (fun t => t.reqs.map (·.kind) == [.rd]) = true ∧
    gives (.st at3 (memW 4 2)) (mapped (one cl)) (fun t => t.reqs.map (fun q => (q.kind, q.ops.map (·.val))) == [(.wr, [7, 9])] &&
      (t.clause at3).stcnt == 1 && t.mem == []) = true ∧
    gives (.stu at3 (memW 257 2)) (mapped (one cl)) (fun t => t.reqs.map (fun q => (q.kind, q.ops.map (·.val))) == [(.wr, [5])]) = true := by
  decide +kernel

/-- A misaligned address faults with cause 3 and its address; an offset beyond the region, with cause 4. -/
theorem test_mem_faults : gives (.ld at3 (memW 8 2 (imm := 2))) (mapped (one cl)) (fun t => (t.kernel 1).fault == some (3, 5, 0x102)) = true ∧
    gives (.ldu at3 (memW 260 1 (space := 1) (imm := 3))) (spmState { cl with u := [(1, 0xFFD)] })
      (fun t => (t.kernel 1).fault == some (4, 5, 0x1000)) = true := by decide +kernel

/-! #### Waits that are not met, and PREF (R74, R76, R166) -/

/-- CNT with all thresholds 0, and SLEEP for u1 = 5 cycles. -/
def cntW : Enc := word (2 * 2 ^ 40)
def sleepW : Enc := word (6 * 2 ^ 40 + 1 * 2 ^ 21)

theorem test_wait_hyps : ∀ x ∈ [(cntW, { cl with ldcnt := 1 }), (cntW, { cl with stcnt := 1 }), (cntW, { cl with mxcnt := 1 }), (sleepW, cl)],
    issuesB (one x.2) at3 x.1 { legal := waitOk x.1, regs := { ur := if Enc.f x.1 43 40 = 6 then [Enc.f x.1 26 21] else [] }, lanes := false } = true ∧
    ((Enc.f x.1 43 40 = 2 ∧ (Enc.f x.1 5 0 < x.2.ldcnt ∨ Enc.f x.1 11 6 < x.2.stcnt ∨ Enc.f x.1 17 12 < x.2.mxcnt)) ∨
      (Enc.f x.1 43 40 = 6 ∧ (x.2.getU (Enc.f x.1 26 21)).toNat % 2 ^ 32 ≠ 0)) ∧
    ((after (.wait at3 x.1) (one x.2)).clause at3).st = .waiting ∧ ((after (.wait at3 x.1) (one x.2)).clause at3).pc = 0x1008 := by decide +kernel

theorem test_pref : issuesB (mapped (one cl)) at3 (memW 0 2)
      { legal := loadOk (memW 0 2) (memFields (memW 0 2)) && (memFields (memW 0 2)).d == 0
        regs := { memRegs (memFields (memW 0 2)) [] [] with ur := [(memFields (memW 0 2)).ub] } } = true ∧ cl.mayAccess = true ∧
    (∀ l ∈ maskLanes (cl.acting (memW 0 2)), ((mapped (one cl)).locate 7 (effAddr cl (memFields (memW 0 2)) l) .read).isSome = true) ∧
    gives (.pref at3 (memW 0 2)) (mapped (one cl)) (fun t => t.reqs.map (fun q => (q.kind, q.mask, q.line)) == [(.rd, 15, 0x100100 / 128)] &&
      (t.clause at3).ldcnt == 0 && (t.clause at3).pc == 0x1008) = true := by decide +kernel

/-! ### The matrix unit -/

/-- MMA of e4m3 operands in v8 and v16, MMAS, ACCLD of quarter 0 and ACCST of quarter 1 at v8, ACCZ of both banks. -/
def matWords : List Enc :=
  [word (8 * 2 ^ 39 + 16 * 2 ^ 30 + 6 * 2 ^ 17 + 6 * 2 ^ 13), word (8 * 2 ^ 39 + 72 * 2 ^ 30 + 6 * 2 ^ 26), word (8 * 2 ^ 39), word (8 * 2 ^ 39 + 2 ^ 37),
   word (3 * 2 ^ 46)]

theorem test_mat_rows_issue : (matRows.zip matWords).length = matRows.length ∧ (matRows.zip matWords).all (fun x => issuesB (one cl) at3 x.2
    { legal := x.1.legal x.2 && headerOk x.2 && !x.2.p && !x.2.imm, regs := { vr := x.1.src x.2, vw := x.1.dst x.2, ur := x.1.ur x.2 },
      lanes := false }) = true ∧ ((one cl).tile 5).matq.length < 4 ∧ ((one cl).clause at3).mxcnt ≠ 63 := by decide +kernel

theorem test_mat_issue : ([Instr.mma, .mmas, .accld, .accst, .accz].zip matWords).all (fun x => gives (x.1 at3 x.2) (one cl) fun t =>
    (t.tile 5).matq.map (·.op) == [0xD0 + (matWords.idxOf x.2)] &&
      (t.clause at3).mxcnt == 1 && (t.clause at3).pc == 0x1008) = true := by decide +kernel

/-- A queue with ACCZ of bank 0, and one with ACCLD of bank 0, quarter 0, from v8 on (Table 4.8). -/
def matTile (op body : Nat) (src : Tab W32) : Tile :=
  { tile5 { cl with mxcnt := 1 } with acc := [(0, 5), (4096, 6)], matq := [{ entry := 3, uid := 9, op := op, body := BitVec.ofNat 48 body, src := src }] }

theorem test_matrix_finish_hyps : ∀ j ∈ [matTile 0xD4 (2 ^ 46) [], matTile 0xD2 (8 * 2 ^ 39) [(256, 3)]],
    ((with5 j).tile 5).matq.length = 1 ∧ tabWf wDef ((with5 j).tile 5).acc = true ∧ (((with5 j).tile 5).clause 3).uid = 9 ∧
    (((with5 j).tile 5).clause 3).st ≠ .empty := by decide +kernel

theorem test_matrix_finish :
    gives (.matrixFinish 5) (with5 (matTile 0xD4 (2 ^ 46) [])) (fun t => (t.tile 5).acc == [(4096, 6)] && (t.tile 5).matq == [] &&
      (t.clause at3).mxcnt == 0) = true ∧
    gives (.matrixFinish 5) (with5 (matTile 0xD2 (8 * 2 ^ 39) [(256, 3)])) (fun t => tabGet wDef (t.tile 5).acc (acc0Key 0 0 0 0) == 3 &&
      tabGet wDef (t.tile 5).acc 4096 == 6 && (t.clause at3).mxcnt == 0) = true := by decide +kernel

/-! ### The scheduler's events -/

/-- A table that lists one entry of a key reads as unlisted elsewhere. -/
theorem clause_else (c : Clause) {f : Nat} (h : f ≠ 3) : (tile5 c).clause f = {} := tabGet_one_of_ne _ c h

/-- PROMOTE of a READY clause into a free slot, and into that of a WAITING one (R68, R69). -/
def readyTile (s0 : Tab (Option Nat)) (cs : Tab Clause) : Tile := { tile5 {} with clauses := cs, slots := s0 }
def promFree : State := with5 (readyTile [] [(3, { cl with st := .ready })])
def promTaken : State := with5 (readyTile [(0, some 4)] [(3, { cl with st := .ready }), (4, { cl with st := .waiting })])

theorem test_promote_hyps : ∀ s ∈ [promFree, promTaken], tabWf clauseNone (s.tile 5).clauses = true ∧ (s.tile 5).stopped = false ∧
    (s.tile 5).switching = false ∧ ((s.tile 5).slot 0 = none ∨ ∃ w, (s.tile 5).slot 0 = some w ∧ ((s.tile 5).clause w).st = .waiting) ∧
    ((s.tile 5).clause 3).st = .ready := by
  simp only [List.forall_mem_cons]
  exact ⟨⟨by decide +kernel, by decide +kernel, by decide +kernel, .inl (by decide +kernel), by decide +kernel⟩,
    ⟨by decide +kernel, by decide +kernel, by decide +kernel, .inr ⟨4, by decide +kernel, by decide +kernel⟩, by decide +kernel⟩, fun x h => nomatch h⟩

theorem test_promote_oldest (f : Nat) (h : f ≠ 3) : ((promFree.tile 5).clause f).st ≠ .ready := by
  have : (promFree.tile 5).clause f = {} := tabGet_one_of_ne _ _ h
  rw [this]; decide

theorem test_promote : ∀ s ∈ [promFree, promTaken], gives (.promote 5 0) s (fun t => (t.tile 5).slot 0 == some 3 &&
    (t.clause at3).st == .active && (t.clause ⟨5, 4⟩).st == (s.clause ⟨5, 4⟩).st) = true := by decide +kernel

/-- LOADDEP_DEMOTE while another clause is READY (R71). -/
def demote : State := with5 { tile5 {} with
  stalls := [(3, some { since := 0, loads := [40] })]
  clauses := [(3, { cl with ldcnt := 1, loads := [{ id := 40 }] }), (4, { cl with st := .ready })] }

theorem test_demote : (demote.clause at3).st = .active ∧ (demote.tile 5).stopped = false ∧ ((demote.tile 5).clause 4).st = .ready ∧
    ((demote.tile 5).stall 3).any (·.loads.contains 40) = true ∧ 0 < (demote.clk (frondOf 5)).mhz ∧
    ({ id := 40 } : Access) ∈ (demote.clause at3).loads ∧ (demote.tile 5).pooled < 64 ∧ (demote.tile 5).slotOf 3 = some 0 ∧
    gives (.loaddepDemote at3 40) demote (fun t => (t.clause at3).st == .waiting && (t.clause at3).wait.load == 40 &&
      (t.tile 5).slot 0 == none && decide (64 ≤ t.cycle 0)) = true := by decide +kernel

/-- A clause in SLEEP for 100 cycles from cycle 0, its outcome to p1; and one in MEM_EQ with a limit of 100. -/
def waiting (w : Wait) : State := with5 { tile5 { cl with st := .waiting, wait := w } with slots := [] }
def sleeping : State := waiting { kind := 6, limit := 100, pe := true, pd := 1 }
def watching (w : Wait) : State :=
  waiting { w with kind := 3, limit := 100, opnd := 6, pe := true, pd := 1, pa := 0x1000, watching := true, rdId := 70 }

theorem test_sleep_end : sleeping.rotating = false ∧ (sleeping.clause at3).st = .waiting ∧ (sleeping.clause at3).wait.kind = 6 ∧
    0 < (sleeping.clk (frondOf 5)).mhz ∧
    gives (.sleepEnd at3) sleeping (fun t => (t.clause at3).st == .ready && (t.clause at3).getP 1 == 15 && t.cycle 0 == 100 && t.now == 62500) = true := by
  decide +kernel

theorem test_limit_expire : ((watching {}).clause at3).wait.limit ≠ 0 ∧ (watching {}).rotating = false ∧ ((watching {}).clause at3).st = .waiting ∧
    0 < ((watching {}).clk (frondOf 5)).mhz ∧
    gives (.waitLimitExpire at3) (watching {}) (fun t => (t.clause at3).st == .ready && (t.clause at3).getP 1 == 0 && t.cycle 0 == 100 &&
      t.reqs.map (fun r => (r.kind, r.line)) == [(.unwatch, 32)]) = true := by decide +kernel

theorem test_walk_and_qsc : gives (.translationWalkDone at3) (one { cl with xlat := some { acc := .read } }) (fun t => (t.clause at3).xlat == none) = true ∧
    gives (.qsc 5) (waiting { kind := 3, pa := 0x1000, watching := true }) (fun t => (t.tile 5).quiet == some 0) = true ∧
    gives (.qsc 5) (one cl) (fun t => (t.tile 5).quiet == none) = true := by decide +kernel

/-- A MEM_EQ wait whose word's page had no translation: the walk found it in device memory, or in host memory. -/
def walked (va : W64) : State := mapped (one { cl with st := .waiting, wait := { kind := 3, va := va }, xlat := some { acc := .read } })

theorem test_walk_watches : (∀ x ∈ [((0x100 : W64), (⟨false, 0x100100⟩ : Loc)), (0x100100, ⟨true, 0x100100⟩)], ((walked x.1).clause at3).memWait = true ∧
      ((walked x.1).clause at3).xlat.isSome = true ∧ ((walked x.1).clause at3).wait.reading = false ∧ ((walked x.1).clause at3).wait.watching = false ∧
      (walked x.1).locate ((walked x.1).tileKernel 5).ctx ((walked x.1).clause at3).wait.va .read = some x.2) ∧
    gives (.translationWalkDone at3) (walked 0x100) (fun t => (t.clause at3).wait.watching && t.reqs.map (fun r => (r.kind, r.line)) == [(.watch, 8194), (.rd, 8194)]) = true ∧
    gives (.translationWalkDone at3) (walked 0x100100) (fun t => (t.clause at3).wait.host && (t.clause at3).wait.reading && t.reqs == []) = true ∧
    ((one { cl with xlat := some { acc := .read } }).clause at3).memWait = false := by decide +kernel

/-! ### Watched words (R76, R77, R79, R300) -/

/-- The word 6 (or 5) at offset 0 of the watched line, read and on its way. -/
def wordRead (w : Wait) (b : Byte) (poison : Nat) : State := { watching { w with reading := true } with
  rsps := [{ id := 80, kind := .data, req := { id := 70, kind := .rd, src := .watchRead at3, line := 32 }, data := b :: List.replicate 127 0, poison := poison }] }

/-- The cases of the statement: met, not met, not met with a notification, poisoned. -/
theorem test_reread_hyps : ∀ x ∈ [(wordRead {} 6 0, true), (wordRead {} 5 0, false), (wordRead { notified := true } 5 0, false), (wordRead {} 6 1, true)],
    (x.1.clause at3).st = .waiting ∧ (x.1.clause at3).wait.reading = true ∧ (x.1.clause at3).wait.host = false ∧
    (x.1.rsps.find? fun y => y.kind == .data && y.req.src == .watchRead at3 && y.req.id == (x.1.clause at3).wait.rdId).isSome = true := by decide +kernel

theorem test_reread :
    gives (.watchRereadReturn at3) (wordRead {} 6 0) (fun t => (t.clause at3).st == .ready && (t.clause at3).getP 1 == 15 && t.rsps == []) = true ∧
    gives (.watchRereadReturn at3) (wordRead {} 5 0) (fun t => (t.clause at3).st == .waiting && !(t.clause at3).wait.reading && t.reqs == []) = true ∧
    gives (.watchRereadReturn at3) (wordRead { notified := true } 5 0) (fun t => (t.clause at3).st == .waiting &&
      t.reqs.map (fun r => (r.kind, r.line)) == [(.rd, 32)]) = true ∧
    gives (.watchRereadReturn at3) (wordRead {} 6 1) (fun t => (t.clause at3).st == .waiting && (t.tile 5).stopped &&
      (t.kernel 1).fault == some (7, 5, 0)) = true := by decide +kernel

/-- A key rotation that has begun asks for no reread (R265). -/
theorem test_reread_rotating : ({ wordRead { notified := true } 5 0 with rot := .draining } : State).rotating = true ∧
    gives (.watchRereadReturn at3) { wordRead { notified := true } 5 0 with rot := .draining } (fun t => t.reqs == [] && !(t.clause at3).wait.reading) = true := by
  decide +kernel

/-- A watched word of host memory. -/
def hostWatch (b : Byte) : State := { watching { host := true } with host := if b = 0 then [] else [(0x1000, b)] }

theorem test_host_poll : ∀ b ∈ [6, 0], (hostWatch b).rotating = false ∧ ((hostWatch b).clause at3).wait.host = true ∧
    ((hostWatch b).clause at3).wait.notified = false ∧ (hostWatch b).hostStoreOut at3 = false ∧
    gives (.hostWatchPoll at3) (hostWatch b) (fun t => ((t.clause at3).st == if b = 6 then .ready else .waiting)) = true := by decide +kernel

def notified (reading : Bool) : State := { watching { reading := reading } with
  rsps := [{ id := 81, kind := .notify, req := { id := 71, kind := .watch, src := .watchRead at3, line := 32 } }] }

theorem test_watch_notify : (∀ r ∈ [true, false], ((notified r).rsp? 81 .notify).isSome = true ∧ ((notified r).clause at3).wait.watching = true) ∧
    gives (.watchNotify 81) (notified true) (fun t => (t.clause at3).wait.notified && t.reqs == []) = true ∧
    gives (.watchNotify 81) (notified false) (fun t => (t.clause at3).wait.reading && t.reqs.map (·.kind) == [.rd]) = true := by decide +kernel

/-! ### Answers to accesses (R66, R71, R75, R164, R272) -/

/-- A load of v8 in lanes 0 and 1 with one answer due, and a store. -/
def aLoad : Access := { id := 40, dst := [(8, 3)], dreg := 8 }
def aStore : Access := { id := 41, store := true }
def out2 (rsps : List Rsp) (hr : List HostReq := []) : State := { mapped (one { cl with ldcnt := 1, stcnt := 1, loads := [aLoad, aStore] }) with
  rsps := rsps, hostReqs := hr, host := [(0x1000, 9)] }
def rq (acc : Nat) : Req := { id := 90, kind := .rd, src := .clause at3, line := 32, acc := acc, ops := [⟨0, 0, 0, 0⟩, ⟨1, 4, 0, 0⟩] }
def lineOf (b : Byte) : List Byte := b :: List.replicate 127 0

theorem awaits_of {s : State} {acc : Nat} {d : Access} (h : (((s.clause at3).loads.find? (·.id == acc) == some d) && d.due == 1 && !d.bad &&
    (s.clause at3).st != .exited && decide (d.dst.map (·.1)).Nodup) = true) : Awaits s at3 acc d := by
  simp only [Bool.and_eq_true, beq_iff_eq, Bool.not_eq_true', bne_iff_ne, ne_eq, decide_eq_true_eq] at h
  exact ⟨h.1.1.1.1, h.1.1.1.2, h.1.1.2, h.1.2, h.2⟩

theorem test_awaits : Awaits (out2 []) at3 40 aLoad ∧ Awaits (out2 []) at3 41 aStore := ⟨awaits_of (by decide +kernel), awaits_of (by decide +kernel)⟩

/-- DATA, DATA_F, ATOM_RSP, ACK, and DATA with poison, each addressed to the clause. -/
theorem test_answers : ∀ k ∈ [RspKind.data, .dataF, .atomRsp, .ack], ∀ p ∈ [0, 1],
    ((out2 [{ id := 80, kind := k, req := rq 40, data := lineOf 7, poison := p }]).rsp? 80 k).isSome = true := by decide +kernel

theorem test_load_lands :
    gives (.dataRsp 80) (out2 [{ id := 80, kind := .data, req := rq 40, data := lineOf 7 }]) (fun t => (t.clause at3).getV 8 0 == 7 &&
      (t.clause at3).getV 8 1 == 0 && (t.clause at3).ldcnt == 0 && (t.clause at3).stcnt == 1 && (t.clause at3).loads.map (·.id) == [41]) = true ∧
    gives (.dataF 80) (out2 [{ id := 80, kind := .dataF, req := rq 40, data := lineOf 7 }]) (fun t => (t.clause at3).getV 8 0 == 7 &&
      (t.clause at3).ldcnt == 0) = true ∧
    gives (.atomRsp 80) (out2 [{ id := 80, kind := .atomRsp, req := rq 40, olds := [(0, 3), (1, 4)] }]) (fun t => (t.clause at3).getV 8 0 == 3 &&
      (t.clause at3).getV 8 1 == 4 && (t.clause at3).ldcnt == 0) = true ∧
    gives (.ack 80) (out2 [{ id := 80, kind := .ack, req := rq 41 }]) (fun t => (t.clause at3).stcnt == 0 && (t.clause at3).ldcnt == 1) = true := by
  decide +kernel

theorem test_poison_faults : gives (.dataRsp 80) (out2 [{ id := 80, kind := .data, req := rq 40, data := lineOf 7, poison := 1 }])
    (fun t => (t.clause at3).st == .faulted && (t.tile 5).stopped && (t.kernel 1).fault == some (7, 5, 0) && (t.clause at3).getV 8 0 == 0) = true := by
  decide +kernel

/-- A scratchpad load whose values are on their way. -/
def local1 : State := mapped (one { cl with ldcnt := 1, loads := [{ aLoad with loc := true, vals := [(0, 0x85), (1, 6)] }] })

theorem test_local_return : (local1.clause at3).loads.find? (fun d => d.id == 40 && d.loc) = some { aLoad with loc := true, vals := [(0, 0x85), (1, 6)] } ∧
    Awaits local1 at3 40 { aLoad with loc := true, vals := [(0, 0x85), (1, 6)] } ∧
    gives (.localLoadReturn at3 40 false) local1 (fun t => (t.clause at3).getV 8 0 == 0x85 && (t.clause at3).getV 8 1 == 6 &&
      (t.clause at3).ldcnt == 0) = true := ⟨by decide +kernel, awaits_of (by decide +kernel), by decide +kernel⟩

/-- The host link: a read, a write, its zero-length read, and a completion timeout. -/
def hreq (k : ReqKind) (acc : Nat) (zlr : Bool := false) : HostReq :=
  { id := 95, src := .clause at3, uid := 9, kind := k, kernel := 1, part := 2, acc := acc, ops := [⟨0, 0x1000, 5, 0⟩], zlr := zlr }

theorem test_host_hyps : (∀ k ∈ [(ReqKind.rd, 40), (.wr, 41)], ((out2 [] [hreq k.1 k.2]).hostReqs.find? (·.id == 95)) = some (hreq k.1 k.2)) ∧
    (out2 [] [hreq .wr 41]).fld (dlogEn 2) = 0 := by decide +kernel

theorem test_host_link :
    gives (.hostLinkCompletion 95 false) (out2 [] [hreq .rd 40]) (fun t => (t.clause at3).getV 8 0 == 9 && (t.clause at3).ldcnt == 0 && t.hostReqs == []) = true ∧
    gives (.hostLinkCompletion 95 false) (out2 [] [hreq .wr 41]) (fun t => memLe t.host 0x1000 4 == 5 && (t.clause at3).stcnt == 0 &&
      (t.clause at3).hostWr == 1 && t.hostReqs == [hreq .wr 41 true]) = true ∧
    gives (.hostLinkCompletion 95 false) ({ mapped (one { cl with hostWr := 1 }) with hostReqs := [hreq .wr 41 true] })
      (fun t => (t.clause at3).hostWr == 0 && t.hostReqs == []) = true ∧
    gives (.pcieCompletionTimeout 95) (out2 [] [hreq .rd 40]) (fun t => (t.clause at3).st == .faulted && t.hostReqs == []) = true := by decide +kernel

/-! ### Placement (R54 to R61, R534, R543) -/

/-- Partition 2 with tile group 0 and kernel 1 in its placement list; tile 5 the lowest that is free. -/
def lkern : Kernel := { ctx := 7, part := 2, queue := 513, seq := 4, cmd := 60, entry := 0x1000, args := 0x2000, blkCount := 2, blkClauses := 2, granules := 2 }
def placing (last : Option Nat) : State := { mapped rdy with
  parts := [(2, { part2 with placing := [1] })], kernels := [(1, lkern)]
  tiles := (List.range 5).map (·, { kernel := some 2 }) ++ [(5, { lastPart := last, spm := [(0, 1)], acc := [(0, 1)], store := [3] })] }

theorem test_assign : ∀ last ∈ [some 2, some 3, none], (placing last).groupOwner (5 / 32) = some 2 ∧ ((placing last).tile 5).kernel = none ∧
    ((placing last).quarantined.any fun q => q.1 == 5) = false ∧ (∀ u < 5, (placing last).canGive 2 u = false) ∧
    (placing last).canGive 2 5 = true ∧ (placing last).tileTurn 2 6 = false ∧ ((placing last).kernel 1).nextBlock < ((placing last).kernel 1).blkCount ∧
    ((placing last).kernel 1).fault = none ∧
    gives (.tileAssign 5) (placing last) (fun t => (t.tile 5).kernel == some 1 && (t.kernel 1).tiles == [5] &&
      ((t.tile 5).spm == if last = some 2 then [(0, 1)] else []) && ((t.tile 5).store == if last = some 2 then [3] else [])) = true := by decide +kernel

/-- Its first block is placed on tile 5: two clauses, ADMITTED; as an INVOKE's kernel, READY with u0 to u5. -/
def toPlace (i : Option Invoke) : State := { mapped rdy with
  kernels := [(1, { lkern with tiles := [5], invoke := i })], tiles := [(5, { kernel := some 1, lastPart := some 2 })] }

theorem test_place : ∀ i ∈ [none, some ⟨3, 0x100, 0x200, 9, 5, 0x300⟩], tabWf blockNone ((toPlace i).tile 5).blocks = true ∧
    ((toPlace i).tile 5).fits ((toPlace i).kernel 1) = true ∧ ((toPlace i).kernel 1).held = false ∧ ((toPlace i).kernel 1).fault = none ∧
    gives (.blockPlace 1) (toPlace i) (fun t => ((t.tile 5).block 0).used && ((t.tile 5).clauses.map fun x => (x.1, x.2.pc, x.2.live, x.2.idx)) ==
        [(0, 0x1000, 0xFFFFFFFF, 0), (1, 0x1000, 0xFFFFFFFF, 1)] && (t.kernel 1).nextBlock == 1 &&
      (match i with
        | none => (t.clause ⟨5, 0⟩).st == .admitted
        | some _ => (t.clause ⟨5, 0⟩).u == [(0, 0x100), (1, 0x200), (2, 9), (3, 5), (4, 0x300), (5, 3)])) = true := by decide +kernel

/-- The argument block at 0x2000 of the partition: word 0 is 5, word 15 is 6. -/
def admitted : State := { mapped rdy with
  kernels := [(1, { lkern with tiles := [5] })], mem := [(0x102000, 5), (0x102078, 6)]
  tiles := [(5, { kernel := some 1, clauses := [(3, { st := .admitted, uid := 9, argsLeft := List.range 16 })] })] }

theorem test_arguments : atOk at3 = true ∧ (admitted.clause at3).st = .admitted ∧ admitted.locate 7 0x2000 .read = some ⟨false, 0x102000⟩ ∧
    (0x2000 : W64).toNat % 4096 + 128 ≤ 4096 ∧ canonical (admitted.vaBits 7) 0x2000 = true ∧ admitted.hosts = [] ∧
    admitted.rangeBad 0x102000 128 = false ∧ admitted.releasedIn 0x102000 128 = false ∧ (admitted.ctx 7).fn < 49 := by decide +kernel

/-! ### Stops, deadlock, switching out (R89 to R107) -/

def qn : Nat := 513
def cmd60 (w : Work) : Cmd := { id := 60, raw := 0x01 :: 0 :: 0 :: 0 :: [4, 0, 0, 0] ++ List.replicate 56 0, work := w }
def queue513 (cmds : List Cmd) : Queue := { st := .running, fn := 3, part := 2, ctx := 7, cmds := cmds }
/-- The kernel runs on tile 5 with one clause; `k` and `t` change it. -/
def running (k : Kernel → Kernel) (t : Tile → Tile) : State := { mapped rdy with
  kernels := [(1, k { lkern with tiles := [5], nextBlock := 2 })], queues := [(qn, queue513 [cmd60 (.kernel 1)])]
  tiles := [(5, t { tile5 cl with lastPart := some 2 })], fresh := 100 }

theorem test_stop : tabWf tileNone (running (fun k => { k with fault := some (7, 5, 0x1000) }) id).tiles = true ∧
    ((running (fun k => { k with fault := some (7, 5, 0x1000) }) id).ctx 7).st = .live ∧
    ((running (fun k => { k with fault := some (7, 5, 0x1000) }) id).queue qn).cmd? 60 = some (cmd60 (.kernel 1)) ∧
    gives (.stop 1) (running (fun k => { k with fault := some (7, 5, 0x1000) }) id) (fun t => (t.kernel 1).st == .done &&
      (t.tile 5).kernel == none && (t.tile 5).clauses == [] && (t.ctx 7).st == .lost && (t.ctx 7).cause == 7 && (t.ctx 7).faultVa == 0x1000 &&
      (t.ctx 7).seq == 4 && (t.queue qn).st == .lost) = true := by decide +kernel

/-- With a load still on its way the tiles only stop (R89). -/
def stopping : State := running (fun k => { k with fault := some (7, 5, 0x1000) }) fun t => { t with clauses := [(3, { cl with ldcnt := 1, loads := [aLoad] })] }

theorem test_stop_waits : (stopping.kernel 1).fault.isSome = true ∧ stopping.accessOut 1 = true ∧ tabWf tileNone stopping.tiles = true ∧
    (running (fun k => { k with fault := some (7, 5, 0x1000) }) id).accessOut 1 = false ∧
    gives (.stop 1) stopping (fun t => (t.tile 5).stopped && (t.tile 5).kernel == some 1 && t.kernels == stopping.kernels) = true := by decide +kernel

/-- All clauses wait; the tile is quiescent since cycle 0. -/
def stuck : State := running (fun k => k) fun t => { t with
  clauses := [(3, { cl with st := .waiting, wait := { kind := 3, pa := 0x1000, watching := true } })], slots := [], quiet := some 0 }

theorem test_deadlock : (∀ u ∈ (stuck.kernel 1).tiles, (stuck.tile u).resident ≠ [] ∧ stuck.quiescent u = true ∧ (stuck.tile u).quiet.isSome = true ∧
      0 < (stuck.clk (frondOf u)).mhz) ∧ (stuck.kernel 1).held = false ∧ (stuck.kernel 1).fault = none ∧ (stuck.kernel 1).storesOut = 0 ∧ stuck.rotating = false ∧
    gives (.deadlockDeclare 1) stuck (fun t => (t.ctx 7).cause == 8 && (t.ctx 7).status == 0xA && (t.tile 5).kernel == none &&
      t.cycle 0 == 65536) = true := by decide +kernel

/-- Table 2.9: asked to switch out; drained; saved; out. -/
def switching (t : Tile → Tile) : State :=
  let s := running (fun k => { k with st := .switching, swCause := 2, slot := 0 }) (fun x => t { x with clauses := [(3, { cl with st := .ready })], slots := [] })
  { s with ctxs := [(7, { ctx7 with savePpn := 0, slots := [(0, 1)] })] }

theorem test_switch_request : ((switching id).tileKernel 5).st = .switching ∧
    gives (.switchOutRequest 5) (switching id) (fun t => (t.tile 5).switching && (t.tile 5).quiet == none) = true := by decide +kernel

def drained : State := switching fun t => { t with switching := true }

theorem test_drain_end : (drained.tile 5).drained = true ∧ (∀ v ∈ (drained.kernel 1).tiles, (drained.tile v).switching = true ∧ (5 < v ∨ (drained.tile v).drained = true)) ∧
    (drained.part (drained.kernel 1).part).grant = [(16, 4)] ∧ drained.hosts = [] ∧ drained.pages = [] ∧
    ((drained.ctx 7).savePpn + (drained.kernel 1).slot * (drained.ctx 7).slotPages) * 65536 + recordAt 5 (drained.recordSizes (drained.kernel 1)) +
      tileBytes (drained.tile 5).savedEntries.length (drained.kernel 1).granules (drained.kernel 1).spmSplit ≤ 4 * 65536 := by decide +kernel

def savedTile : State := switching fun t => { t with switching := true, saved := true }

theorem test_tile_saved : (∀ v ∈ (savedTile.kernel 1).tiles, (savedTile.tile v).saved = true) ∧ 5 ∈ (savedTile.kernel 1).tiles ∧
    gives (.tileSaved 5) savedTile (fun t => (t.tile 5).kernel == none && (t.kernel 1).tiles == [] && (t.kernel 1).savedTiles.map (·.1) == [5]) = true := by
  decide +kernel

def allSaved : State := { switching id with
  kernels := [(1, { lkern with st := .switching, swCause := 2, nextBlock := 2, savedTiles := [(5, tileBytes 1 2 0)] })], tiles := [] }

theorem test_switched_out : (allSaved.kernel 1).tiles = [] ∧ allSaved.noSpare = [] ∧ (allSaved.part 2).grant = [(16, 4)] ∧ allSaved.hosts = [] ∧ allSaved.pages = [] := by decide +kernel

/-- A kernel that is out, at the head of its list, with nothing but a header in its slot at 0x100000 (two blocks placed, one retired). -/
def outKernel (ctxs : Tab Ctx) (m : Mem) : State := { switching id with
  ctxs := ctxs, mem := m, tiles := [], parts := [(2, { part2 with placing := [1] })]
  kernels := [(1, { lkern with st := .out, swCause := 2, eligible := true, nextBlock := 2, blkSpm := 1 })] }
def slotCtx : Tab Ctx := [(7, { ctx7 with savePpn := 0, slots := [(0, 1)] })]
def headMem : Mem := [(0x100000, 2), (0x100001, 2), (0x100008, 2), (0x10000C, 1), (0x10001A, 1), (0x10001B, 1), (0x10001C, 1)]

theorem test_resume_hyps : ∀ m ∈ [headMem, []],
    let s := outKernel slotCtx m
    let f := s.fetchAll (s.partPieces 2 ((s.ctx 7).slotAt 0) 4096)
    (s.kernel 1).st = .out ∧ (s.kernel 1).eligible = true ∧ (s.part 2).placing.head? = some 1 ∧ s.rotating = false ∧ s.hosts = [] ∧ (s.kernel 1).savedTiles = [] ∧
    f.2 = false ∧ headerCheck (s.kernel 1) (f.1.take 4096) = (m == headMem) ∧ tabWf tileNone s.tiles = true ∧ (s.ctx 7).st = .live := by
  decide +kernel

/-- R536: kernel 2 of context 8 has waited since 0 for tiles; kernel 1 of context 7 has run since 0, for a quantum of 100 us. -/
def preempting : State := { running id id with
  ctxs := [(7, ctx7), (8, ctx7)], parts := [(2, { part2 with placing := [2] })]
  kernels := [(1, { lkern with tiles := [5], nextBlock := 2 }), (2, { lkern with ctx := 8 })] }

theorem test_preempt : tabWf kernelNone preempting.kernels = true ∧ (preempting.part 2).quantumUs ≠ 0 ∧ (preempting.part 2).preempt = none ∧
    (preempting.part 2).st = .ready ∧ (preempting.waiters 2).head? = some 2 ∧ (preempting.reach ((preempting.kernel 2).waitSince + 100 * 1000000 + 1)).victim 2 2 = some 1 ∧
    (preempting.ctx 7).freeSlot = some 0 ∧
    gives (.preemptQuantumExpire 2) preempting (fun t => (t.kernel 1).st == .switching && (t.kernel 1).swCause == 2 &&
      (t.part 2).preempt == some (2, 1) && t.now == 100000001) = true := by decide +kernel

/-! ### Homes, forwards and the host (spec/05, spec/06) -/

/-- Line 8194 (byte 0x100100, of page 16, in partition 2) with the byte 7 first, held whole in a frame. -/
def hl : Nat := 8194
def hreqs (k : ReqKind) (more : Req → Req := id) : Req :=
  more { id := 90, kind := k, src := .clause at3, line := hl, kernel := 1, part := 2, acc := 40, mask := 1, bytes := 4, op := 0xA0, fmt := 0
         ops := [⟨0, 0, 5, 0⟩, ⟨1, 0, 6, 0⟩] }
def homeSt (r : Req) (f : Frame) : State := { mapped (one { cl with ldcnt := 1, loads := [aLoad] }) with
  reqs := [r], frames := [(hl, some f)], mem := [(0x100100, 7)], fresh := 200 }
def whole (fwd : Option Nat := none) : Frame := { way := 5, valid := 15, fwd := fwd, part := 2 }

theorem atHome_of {s : State} {k : ReqKind} {r : Req} {f : Frame} (h : (s.arriving r.id k == some r && s.frame r.line == some f && f.valid == 15 &&
    !f.packed && s.miss r.line == none && s.hostOf r.line == none && s.rot != .rekey && !(s.page (r.line / 512)).released &&
    s.upsets == []) = true) : AtHome s k r f := by
  simp only [Bool.and_eq_true, beq_iff_eq, Bool.not_eq_true', bne_iff_ne, ne_eq] at h
  obtain ⟨⟨⟨⟨⟨⟨⟨⟨h1, h2⟩, h3⟩, h4⟩, h5⟩, h6⟩, h7⟩, h8⟩, h9⟩ := h
  exact ⟨h1, h2, h3, h4, h5, h6, h7, h8, h9⟩

/-- Every kind of request may stand at its home so; RD_RO with and without a forwarder. -/
theorem test_at_home : (∀ k ∈ [ReqKind.rd, .wr, .atom, .red], AtHome (homeSt (hreqs k) (whole)) k (hreqs k) (whole)) ∧
    ∀ u ∈ [none, some 6], AtHome (homeSt (hreqs .rdRo) (whole u)) .rdRo (hreqs .rdRo) (whole u) := by
  constructor
  · intro k hk
    exact atHome_of (by revert k; decide +kernel)
  · intro u hu
    exact atHome_of (by revert u; decide +kernel)

theorem test_home_more : Nat.land ((homeSt (hreqs .rdRo) whole).linePoison hl) 1 = 0 ∧ (homeSt (hreqs .rdRo) (whole (some 6))).missRoom hl 0 = true ∧
    Nat.land ((homeSt (hreqs .atom) whole).linePoison hl) (hreqs .atom).touched = 0 ∧
    Nat.land (({ homeSt (hreqs .atom) whole with poison := [(4 * hl, true)] }).linePoison hl) (hreqs .atom).touched ≠ 0 ∧
    (homeSt (hreqs .red) whole).foldable (hreqs .red) = [] := by decide +kernel

/-- WATCH and UNWATCH. -/
theorem test_watch : (homeSt (hreqs .watch) whole).arriving 90 .watch = some (hreqs .watch) ∧
    gives (.watch 90) (homeSt (hreqs .watch) whole) (fun t => t.watches == [(hl, .clause at3)] && t.reqs == []) = true ∧
    (homeSt (hreqs .unwatch) whole).arriving 90 .unwatch = some (hreqs .unwatch) ∧
    gives (.unwatch 90) ({ homeSt (hreqs .unwatch) whole with watches := [(hl, .clause at3)] }) (fun t => t.watches == [] && t.reqs == []) = true := by
  decide +kernel

/-- A miss, a snoop, a wait behind a register, a ticket and a back-off (R232 to R235, R305 to R307). -/
def missing : State := { homeSt (hreqs .rd) whole with frames := [] }
/-- An error in the data array (R223). -/
theorem test_array_error : bitOf (hreqs .rd).mask 0 = true ∧
    (let t := ((homeSt (hreqs .rd) whole).readErrs (hreqs .rd) [⟨0, true⟩]).meet hl 1 2
     t.poison = [] ∧ t.upsets = [] ∧ t.word (0x00A00800 + 8 * 9) = 1) ∧
    (let t := ((homeSt (hreqs .rd) whole).readErrs (hreqs .rd) [⟨0, false⟩]).meet hl 1 2
     t.poison = [(4 * hl, true)] ∧ t.upsets = [] ∧ t.word (0x00A00800 + 8 * 10) = 1) ∧
    (missing.readErrs (hreqs .rd) [⟨0, false⟩]).upsets = [] := by decide +kernel

def snooping : State := { homeSt (hreqs .rd) whole with hosts := [(hl, some .em)] }
def behind : State := { missing with misses := [(hl, some { why := .fill, need := 3, waiters := [{ hreqs .rd with id := 89 }] })] }

theorem test_home_waits : (∀ s ∈ [missing, snooping], s.arriving 90 .rd = some (hreqs .rd) ∧ s.rot ≠ .rekey ∧ (s.page (hl / 512)).released = false ∧
      s.miss hl = none ∧ Nat.land (s.linePoison hl) 1 = 0 ∧ s.missRoom hl 0 = true) ∧ missing.frame hl = none ∧ missing.hostOf hl ≠ some .em ∧
    snooping.hostOf hl = some .em ∧ snooping.silent = false ∧
    gives (.rd 90 []) missing (fun t => t.reqs == [] && (t.miss hl).map (fun m => (m.why, m.need, m.waiters.map (·.id))) == some (.fill, 3, [90])) = true ∧
    gives (.rd 90 []) snooping (fun t => (t.miss hl).map (·.why) == some .snoopData && t.sent == [.snoop hl false]) = true := by decide +kernel

theorem test_home_behind : (behind.miss hl).isSome = true ∧ behind.waiterRoom hl 0 = true ∧
    gives (.rd 90 []) behind (fun t => (t.miss hl).map (fun m => m.waiters.map (·.id)) == some [89, 90] && t.reqs == []) = true := by decide +kernel

/-- Tickets, grants, NACKs and back-offs of a request. -/
def withSt (st : ReqSt) (rsps : List Rsp := []) : State := { missing with reqs := [{ hreqs .rd with st := st }], rsps := rsps }
def rspOf (k : RspKind) (tile : Nat := 0) : Rsp := { id := 99, kind := k, req := hreqs .rdRo, tile := tile }

theorem test_retries : (∀ k ∈ [RspKind.retry, .nack, .fwd, .fwdAck, .fwdMiss], ((withSt .sent [rspOf k]).rsp? 99 k).isSome = true) ∧
    gives (.retry 99) (withSt .ticket [rspOf .retry]) (fun t => t.rsps == []) = true ∧
    gives (.grantHoldExpire 90) (withSt .granted [rspOf .grant]) (fun t => t.reqs.map (·.st) == [.sent] && t.rsps == []) = true ∧
    gives (.nack 99) (withSt .backoff [rspOf .nack]) (fun t => t.reqs.map (·.nacks) == [1] && t.rsps == []) = true ∧
    (withSt .backoff).rsps = [] ∧ gives (.nackBackoffExpire 90) (withSt .backoff) (fun t => t.reqs.map (·.st) == [.sent]) = true := by decide +kernel

/-- A forward at a tile that holds the line, and at one that does not; the forwarder's answers at the home. -/
def forward (k : RspKind) (l1 : Option L1Line) : State := { homeSt (hreqs .watch) (whole (some 6)) with
  reqs := [], rsps := [rspOf k 6], misses := [(hl, some { why := .fwd 6, waiters := [hreqs .rdRo] })]
  tiles := [(5, tile5 { cl with ldcnt := 1, loads := [aLoad] }), (6, { l1 := match l1 with
    | some l => [(hl, some l)]
    | none => [] })] }
def l1Line : L1Line := { valid := 15, data := lineOf 7, fwd := true }

theorem test_forward : ((forward .fwd (some l1Line)).tile 6).l1Hit hl 1 = some l1Line ∧ ((forward .fwd none).tile 6).l1Hit hl 1 = none ∧
    gives (.fwdAck 99) (forward .fwdAck none) (fun t => t.frame hl == some (whole (some 5)) && t.miss hl == none) = true ∧
    gives (.fwdAck 99) ({ forward .fwdAck none with misses := [] }) (fun t => (t.word (0x00A00800 + 8 * 0x12)) == 1 && t.frame hl == some (whole (some 6))) = true := by
  decide +kernel

theorem test_forward_hyps : (∀ k ∈ [RspKind.fwdAck, .fwdMiss], ∀ s ∈ [forward k none], s.miss hl = some { why := .fwd 6, waiters := [hreqs .rdRo] } ∧
    s.frame hl = some (whole (some 6)) ∧ s.hostOf hl ≠ some .em ∧ tabWf missNone s.misses = true) := by decide +kernel

theorem test_forward_alone (k : Nat) (h : k ≠ hl) : (forward .fwd none).miss k = none := tabGet_one_of_ne _ _ h

/-- A forward that is late: without DATA_F the home answers; with it the clause is told nothing twice (R314). -/
theorem test_fwd_timeout : gives (.fwdTimeout 90) (forward .fwdAck none) (fun t => t.miss hl == none && t.timedOut == [90] && t.fld (fieldAt 0x00500300 31 16) == 1 &&
      t.rsps.any (fun z => z.kind == .data && z.req.id == 90 && z.data == lineOf 7)) = true ∧
    gives (.fwdTimeout 90) { forward .fwdAck none with rsps := [], misses := [(hl, some { why := .fwd 6, waiters := [hreqs .rdRo], given := true })] } (fun t =>
      t.miss hl == none && t.timedOut == [] && t.rsps.any (fun z => z.kind == .data && z.req.had)) = true := by decide +kernel

/-! #### The host -/

theorem test_host_read : let s := homeSt (hreqs .watch) whole
    lineExists s hl = true ∧ s.rotating = false ∧ s.silent = false ∧ s.lockedPage (hl / 512) = none ∧ s.miss hl = none ∧ s.hosts.length < 4096 ∧
    s.frame hl = some whole ∧ whole.valid = 15 ∧ (s.page (hl / 512)).released = false ∧ s.upsets = [] ∧
    gives (.hostReadShared hl) s (fun t => t.hostOf hl == some .s && t.sent == [.hostData hl false (lineOf 7) 0]) = true ∧
    gives (.hostReadExclusive hl) s (fun t => t.hostOf hl == some .em && t.sent == [.hostData hl true (lineOf 7) 0]) = true := by decide +kernel

theorem test_host_not_full : (homeSt (hreqs .watch) whole).hostFull hl = false := rfl

theorem test_host_silent : (∀ s ∈ [{ homeSt (hreqs .watch) whole with silent := true }], lineExists s hl = true ∧ s.rotating = false ∧ s.silent = true) ∧
    gives (.hostReadShared hl) { homeSt (hreqs .watch) whole with silent := true } (fun t => t.sent == [.hostData hl false (lineOf 7) 15]) = true ∧
    gives (.hostReadExclusive hl) { homeSt (hreqs .watch) whole with silent := true } (fun t => t.sent == [.hostData hl true (lineOf 7) 15]) = true := by
  decide +kernel

/-- A write-back of an EM line with sector 1 poisoned, keeping S or nothing; and one of a line that is not EM. -/
theorem test_host_write_back : ∀ keep ∈ [true, false], snooping.keyless (hl / 512) = false ∧ lineExists snooping hl = true ∧ (lineOf 9).length = 128 ∧
    (snooping.page (hl / 512)).released = false ∧ snooping.hostOf hl = some .em ∧ missing.hostOf hl ≠ some .em ∧ lineExists missing hl = true ∧
    gives (.hostWriteBack hl keep ⟨lineOf 9, 2⟩) snooping (fun t => memBytes t.mem 0x100100 128 == lineOf 9 && (t.hostOf hl == if keep then some .s else none) &&
      tabGet (fun _ => false) t.poison (4 * hl + 1) && !tabGet (fun _ => false) t.poison (4 * hl)) = true ∧
    gives (.hostWriteBack hl keep ⟨lineOf 9, 2⟩) missing (fun t => t.mem == missing.mem && t.word (0x00A00800 + 8 * 0x12) == 1) = true := by decide +kernel

/-- Snoop answers that carry the line, or nothing; and none in time. -/
def snooped (h : HostSt) (w : MissWhy) : State := { homeSt (hreqs .watch) whole with reqs := [], hosts := [(hl, some h)], misses := [(hl, some { why := w })] }

theorem test_snoop_answers : ∀ w ∈ [MissWhy.snoopData, .snoopInv], (snooped .em w).miss hl = some { why := w } ∧ (snooped .em w).keyless (hl / 512) = false ∧
    lineExists (snooped .em w) hl = true ∧ ((snooped .em w).page (hl / 512)).released = false ∧ (∀ e ∈ (snooped .em w).misses, ∀ z ∈ e.2, z.why ≠ .recall hl) ∧
    gives (.birspi hl (some ⟨lineOf 9, 1⟩)) (snooped .em w) (fun t => memBytes t.mem 0x100100 128 == lineOf 9 && t.hostOf hl == none && t.miss hl == none &&
      tabGet (fun _ => false) t.poison (4 * hl)) = true ∧
    gives (.birsps hl none) (snooped .em w) (fun t => t.hostOf hl == some .s && t.miss hl == none && t.mem == [(0x100100, 7)]) = true := by decide +kernel

theorem test_snoop_timeout : ∀ h ∈ [HostSt.em, .s], gives (.bisnpTimeout hl) (snooped h .snoopData) (fun t => t.hostOf hl == none && t.miss hl == none &&
    (t.silent == (h == .em)) && (tabGet (fun _ => false) t.poison (4 * hl + 3) == (h == .em)) && t.fld (fieldAt 0x00500300 31 16) == 1) = true := by
  decide +kernel

theorem test_h2d_snoop : gives (.h2dSnoop hl) missing (fun t => t.sent == [.rspIHitI hl]) = true := by decide +kernel

/-! #### Fills, hot slices, staged registers, rotation, epochs -/

def filling : State := { homeSt (hreqs .watch) { way := 5, valid := 3, part := 2 } with
  reqs := [], misses := [(hl, some { why := .fill, need := 12, waiters := [{ hreqs .rd with mask := 8 }] })] }

theorem test_fill_hyps : lineExists filling hl = true ∧ filling.miss hl = some { why := .fill, need := 12, waiters := [{ hreqs .rd with mask := 8 }] } ∧
    filling.memSlot (hl / 512) = none ∧ filling.hostOf hl ≠ some .em ∧ filling.frame hl = some { way := 5, valid := 3, part := 2 } ∧ Nat.lor 3 12 = 15 ∧ filling.tierErrs = [] ∧
    filling.repairs = [] ∧ filling.upsets = [] ∧ (filling.page (hl / 512)).released = false := by decide +kernel

theorem test_hot : (∀ s ∈ [rdy, { rdy with hot := [3] }], s.fld (fieldAt 0x00500200 7 0) = 192 ∧ s.fld (fieldAt 0x00500200 16 16) = 1 ∧ s.hotSeen.contains 3 = false) ∧
    gives (.hotWindowEnd 3 ⟨192, 0, 2, 0⟩) rdy (fun t => t.hot == [3] && t.hotSeen == [3] && t.fld (fieldAt 0x00500208 15 0) == 1) = true ∧
    gives (.hotWindowEnd 3 ⟨191, 0, 2, 0⟩) rdy (fun t => t.hot == []) = true ∧
    gives (.hotWindowEnd 3 ⟨159, 0, 2, 0⟩) { rdy with hot := [3] } (fun t => t.hot == [] && t.fld (fieldAt 0x00500208 15 0) == 1) = true ∧
    gives (.hotWindowEnd 3 ⟨160, 0, 2, 0⟩) { rdy with hot := [3] } (fun t => t.hot == [3]) = true := by decide +kernel

/-- The reset values apply; floors above 256 do not (R396). -/
theorem test_apply : rdy.ready = true ∧ gives .ucRegApply rdy (fun t => t.fld (fieldAt 0x00500500 7 4) == 0 && t.word (appliedKey 0x00500400) == 0x0F800401FF40) = true ∧
    gives .ucRegApply (rdy.setWord 0x00500400 0x0F800401FFFF) (fun t => t.fld (fieldAt 0x00500500 7 4) == 1 && t.word (appliedKey 0x00500400) == 0x0F800401FF40) = true := by
  decide +kernel

def resettingParts : State := { rdy with parts := [(2, { part2 with st := .resetting })] }

theorem test_rotation_hyps : (∀ x ∈ rdy.parts, x.2.st ≠ .resetting) ∧ ∃ x ∈ resettingParts.parts, x.2.st = .resetting := by decide +kernel

theorem test_rotation : gives .hashRotRequest { rdy with now := 9 } (fun t => t.rot == .draining && t.rotAt == 9 && t.fld (rotReg 0 0) == 1) = true ∧
    gives .hashRotRequest resettingParts (fun t => t.rot == .waiting) = true := by decide +kernel

def draining : State := { homeSt (hreqs .watch) whole with reqs := [], rot := .draining, tiles := [(5, { tile5 cl with l1 := [(hl, some l1Line)] })] }

theorem test_drained : draining.netIdle = true ∧ ({ draining with hosts := [(hl, some .s)] } : State).netIdle = true ∧ tabWf tileNone draining.tiles = true ∧
    draining.silent = false ∧
    gives .hashRotDrained draining (fun t => t.rot == .rekey && t.frames == [] && (t.tile 5).l1 == [] && (t.tile 5).clauses == [(3, cl)]) = true ∧
    gives .hashRotDrained { draining with hosts := [(hl, some .s)] } (fun t => t.rot == .draining && (t.miss hl).isSome && t.sent == [.snoop hl true]) = true := by
  decide +kernel

def rekeying : State := { rdy with rot := .rekey, rotAt := 1000 }

theorem test_rot_done : rekeying.xfers = [] ∧ rekeying.prtHeld = none ∧ rekeying.fld ⟨0x00100080, 31, 31⟩ = 0 ∧
    gives (.hashRotDone 3) rekeying (fun t => t.rot == .idle && t.now == 3001000 && t.fld (rotReg 31 16) == 3 && t.freeCtr == 1) = true := by decide +kernel

/-- An epoch ends: counters latched and cleared, heat renewed (R330, R608 to R610). -/
def epochal : State := { rdy with pages := [(9, { basePage {} 9 with heat := 4, count := 10, freeze := 2 })], tileCe := [(5, 1)] }

theorem test_epoch : epochal.up = true ∧ epochal.fld ⟨0x00C00008, 31, 0⟩ % 2 = 0 ∧ tabWf regReset epochal.regs = true ∧
    tabWf (basePage epochal.bad) epochal.pages = true := by decide +kernel

theorem test_latch_end : ((rdy.setWord 0x00C00008 1).fld ⟨0x00C00008, 31, 0⟩) % 2 = 1 ∧
    gives .telemetryLatchEnd (rdy.setWord 0x00C00008 1) (fun t => t.fld ⟨0x00C00008, 31, 0⟩ == 2) = true := by decide +kernel

/-! ### The memory tiers (spec/07) -/

/-- A command over pages 20 to 22. -/
def tierReg : State := rdy.setWord 0x00400020 (3 * 2 ^ 32 + 20)
/-- Page 20 lies in capacity frame 20,000, page 21 moves. -/
def tiered : State := { tierReg with pages := [(20, { at_ := ⟨false, 20000⟩ })], moves := [{ page := 21, dest := ⟨true, 50⟩ }], freed := [⟨true, 20⟩] }

theorem test_tier_legal : ∀ s ∈ [tierReg, tiered], s.ready = true ∧ s.fld ⟨0x00400020, 31, 0⟩ = 20 ∧ s.fld ⟨0x00400020, 63, 32⟩ = 3 ∧ s.pageCount = 4096 ∧
    s.pinRefused ((List.range 3).map (20 + ·)) = false ∧ ((List.range 3).any fun i => (s.lockedPage (20 + i)).isSome) = false ∧
    (∀ n ∈ [20, 21, 22], s.saved n = false ∧ s.weight n = false) := by decide +kernel

/-- A page of a context's save area keeps its pin (R507). -/
def savedPages : State := { tierReg with pageCount := 4096, parts := [(2, { part2 with grant := [(20, 3)] })], ctxs := [(7, { ctx7 with savePpn := 0 })] }

theorem test_tier_saved : savedPages.saved 20 = true ∧ gives .tierManage savedPages (fun t => t.pages == []) = true := by decide +kernel

theorem test_tier_pins : gives .tierPinFast tiered (fun t => (t.page 20).pin == 1 && (t.page 21).late == some 1 && (t.page 22).pin == 1 && (t.page 23).pin == 0 &&
      t.todo.map (·.page) == [20]) = true ∧
    gives .tierPinCap tiered (fun t => (t.page 20).pin == 2 && t.todo.map (·.page) == [22]) = true ∧
    gives .tierRelease tiered (fun t => (t.page 20).released && (t.page 21).late == some 3 && t.freed.contains ⟨false, 20000⟩) = true ∧
    gives .tierManage (tierReg.setWord 0x00400020 20) (fun t => t.fld (fieldAt 0x00400028 11 8) == 2) = true := by decide +kernel

theorem test_map_out_hyps : ∀ fast ∈ [true, false], rdy.fld ⟨0x00400020, 31, 0⟩ < tierCh fast ∧ (rdy.chan fast 0).st = 0 := by decide +kernel

/-- A needed move starts and ends; its old frame is free (R335, R336). -/
def wanted : State := { tiered with todo := [{ page := 20, why := .retire }] }
def underway : State := { tiered with moves := [{ page := 20, dest := ⟨true, 20⟩, why := .pin, whole := false }], freed := [] }

theorem test_tier_moves : wanted.rot = .idle ∧ (wanted.todo.find? fun x => x.page == 20 && wanted.canStart x) = some { page := 20, why := .retire } ∧
    (wanted.target { page := 20, why := .retire }).isSome = true ∧
    gives (.pageMoveStart 20) wanted (fun t => t.moves.map (·.page) == [21, 20] && t.todo == [] && t.otherStarts == 1) = true := by decide +kernel

theorem test_move_done : underway.moves.find? (·.page == 20) = some { page := 20, dest := ⟨true, 20⟩, why := .pin, whole := false } ∧
    (underway.page 20).late = none ∧ (underway.page 20).pin = 0 ∧
    gives (.pageMoveDone 20 [5]) underway (fun t => (t.page 20).at_ == ⟨true, 20⟩ && t.moves == [] && t.freed == [⟨false, 20000⟩] &&
      t.poison == [(2048 * 20 + 5, true)]) = true := by decide +kernel

/-- A share of a map copy. -/
theorem test_map_rebuild : 3 ∈ ({ rdy with rebuilding := [3] } : State).rebuilding := List.mem_singleton.2 rfl

/-- Temperatures: 100 degrees at once (R345); an invalid reading; none for 1 ms; a report of a capacity device. -/
theorem test_temps : (tabGet tempNone rdy.stackTemps 4).invalid = false ∧ (tabGet tempNone rdy.capTemps 4).invalid = false ∧
    gives (.stackTempSample 4 100) rdy (fun t => (tabGet tempNone t.stackTemps 4).refr == 3) = true ∧
    gives (.stackTempSample 4 151) rdy (fun t => (tabGet tempNone t.stackTemps 4).invalid && t.word (0x00A00800 + 8 * 0x13) == 1) = true ∧
    gives (.tempReadingTimeout false 4) rdy (fun t => (tabGet tempNone t.capTemps 4).refr == 2) = true ∧
    gives (.capTempReport 4 1 99) rdy (fun t => (tabGet tempNone t.capTemps 4).refr == 1) = true ∧
    gives (.capTempReport 4 1 100) rdy (fun t => (tabGet tempNone t.capTemps 4).refr == 3) = true := by decide +kernel

/-- Scrub meets an error of sector 6 in the frame of page 9 (R348 to R350). -/
def errOf (c : Bool) : MemErr := ⟨6, c, 0⟩
def scrubbed (f : Tab (Option Frame)) : State := { rdy.setWord 0x00400030 0x10000 with frames := f, scrubFast := { pos := 9 } }

theorem test_scrub : (∀ f ∈ [[], [(9 * 512 + 1, some whole)]], (scrubbed f).fld (fieldAt 0x00400030 16 16) = 1 ∧ (scrubbed f).scrubNext true = some 9 ∧ (scrubbed f).rotating = false ∧
      (scrubbed f).rewriting ⟨true, 9⟩ = false ∧ (scrubbed f).moves = [] ∧ (scrubbed f).upsets = [] ∧ ((scrubbed f).page 9).at_ = ⟨true, 9⟩ ∧ (scrubbed f).pageAt ⟨true, 9⟩ = some 9) ∧ (scrubbed []).frame 4609 = none ∧
    (scrubbed [(4609, some whole)]).frame (9 * 512 + 6 / 4) = some whole ∧ bitOf whole.valid 2 = true ∧
    gives (.scrubRead true 9 [errOf true]) (scrubbed []) (fun t => t.poison == [] && t.word (0x00A00800 + 8 * 0x0B) == 1) = true ∧
    gives (.scrubRead true 9 [errOf false]) (scrubbed []) (fun t => t.poison == [(2048 * 9 + 6, true)]) = true ∧
    gives (.scrubRead true 9 [errOf false]) (scrubbed [(4609, some whole)]) (fun t => t.poison == []) = true := by decide +kernel

theorem test_scrub_pass : gives (.scrubPassEnd true) { rdy.setWord 0x00400030 0x10000 with scrubFast := { pos := 2 ^ 24 }, cells := [⟨true, 18, 1, 2, 3, [4], 0⟩, ⟨false, 1, 1, 2, 3, [5], 1⟩] } (fun t =>
    t.cells == [⟨false, 1, 1, 2, 3, [5], 1⟩] && t.lastCells.map (·.2) == [4]) = true := by decide +kernel

/-- A channel with no pages is mapped out (R356). -/
def emptyCh : State := { rdy with capCh := [(3, { st := 1 })] }

theorem test_mapped_out : (emptyCh.chan false 3).st = 1 ∧ (rdy.chan false 3).st = 0 ∧ emptyCh.moves = [] := by decide +kernel

theorem pageAt_none {s : State} {n : Nat} (hp : s.pages = []) (hb : s.bad.clean = true) (h : ¬ n - 16384 + 12582912 < s.pageCount) :
    s.pageAt ⟨false, n⟩ = none := by
  simp [State.pageAt, hp, hb, h]

theorem test_mapped_out_empty (k : Nat) : emptyCh.pageAt ⟨false, k * tierCh false + 3⟩ = none :=
  pageAt_none rfl rfl (fun h => absurd (show k * 32 + 3 - 16384 + 12582912 < 4096 from h) (by omega))

/-! ### The fabric's ports (spec/09) -/

/-- Port 3 in a state, with what the port holds; module 77; the first laser source of its pair lit. -/
def ported (st : Nat) (q : Port := {}) (id : Nat := 2 ^ 31 + 77) : State :=
  let s := ((rdy.setFld (portCtl 3 0 0) 1).setFld (portStat 3 2 0) st)
  let s := { s.setWord 0x00600000 (BitVec.ofNat 64 (id + 2 ^ 16 + 2 * 2 ^ 20)) with els := [(0, .on), (1, .on)], now := 5 }
  if q = {} then s else { s with ports := [(3, q)] }
def trained : TrainInfo := { good := 0x1FF, bothReport := 9, verMin := 1, verMax := 2, peer := 9 }

theorem test_port_states : (∀ st ∈ [0, 1, 2, 3, 4, 5, 6], (ported st).ready = true ∧ (ported st).portState 3 = st) ∧ (ported 0).fld (portCtl 3 0 0) = 1 ∧
    (ported 0).lit 3 = true ∧ ((ported 0).port 3).waitUntil = 0 ∧ (ported 1).fld (portCtl 3 2 2) = 1 ∧ (waves trained.good).length = 9 ∧
    (ported 4).idValid = true ∧ (ported 4).outbox = [] ∧ commonVer ((ported 4).fld (fabId 19 16)) ((ported 4).fld (fabId 23 20)) 1 2 = 2 ∧
    commonVer ((ported 4).fld (fabId 19 16)) ((ported 4).fld (fabId 23 20)) 3 4 = 0 ∧ (ported 0 { light := true }).portState 3 = 0 ∧
    ((ported 0 { light := true }).port 3).light = true ∧ (ported 0 {} 0).idValid = false := by decide +kernel

theorem test_port_training : gives (.portLightOn 3) (ported 0) (fun t => t.portState 3 == 1) = true ∧
    gives (.portTrainStepDone 3 trained) (ported 1) (fun t => t.portState 3 == 2 && t.fld (portStat 3 12 4) == 0x1FF) = true ∧
    gives (.portTrainStepDone 3 trained) (ported 3) (fun t => t.portState 3 == 4) = true ∧
    gives (.portTrainStepDone 3 trained) (ported 4 { lanes := 0xFF }) (fun t => t.portState 3 == 5 && t.fld (portStat 3 45 32) == 9) = true ∧
    gives (.portTrainStepDone 3 trained) (ported 4 { lanes := 0xF }) (fun t => t.portState 3 == 6) = true ∧
    gives (.portTrainStepDone 3 { trained with verMin := 3, verMax := 4 }) (ported 4) (fun t => t.portState 3 == 0 && (t.port 3).waitUntil == 5 + 10 ^ 11) = true ∧
    (∀ st ∈ [1, 2, 3, 4], gives (.portTrainTimeout 3) (ported st) (fun t => t.portState 3 == 0 && t.fld (portStat 3 31 20) == 1) = true) ∧
    gives (.portRetryWaitEnd 3) (ported 0 { light := true, waitUntil := 900 }) (fun t => t.portState 3 == 1 && t.now == 900) = true ∧
    gives (.portRetrain 3) (ported 5 { lanes := 0xFF }) (fun t => t.portState 3 == 0) = true ∧
    gives (.fabIdSet 0x80210004) (ported 0 {} 0) (fun t => t.modId == 4 && t.idValid) = true := by decide +kernel

/-- A link that goes down with a message of this module in its replay buffer (R413). -/
def fmsg : FabMsg := { type := 1, dst := 9, src := 77, dpart := 2, spart := 2, len := 4, data := [1, 2, 3, 4], tag := 0, seg := 1, addr := 0x100 }
def holding : State := ported 5 { lanes := 0xFF, held := [{ msg := fmsg, first := 7, n := 1 }] }

theorem test_port_down : (holding.port 3).held = [{ msg := fmsg, first := 7, n := 1 }] ∧ (holding.port 3).queue = [] ∧ fmsg.src = holding.modId ∧
    (∀ o, o < 32 → o ≠ 3 → holding.portState o ≠ 5) ∧ (holding.port 3).held.all (!·.link) = true ∧
    gives (.portDown ⟨3, true⟩) holding (fun t => t.portState 3 == 0 && t.inbox.map (fun x => x.2.type) == [5] && (t.port 3).held == []) = true := by decide +kernel

/-- Light that goes in DARK or in training ends it; a lost block lock does nothing there (R403). -/
theorem test_port_dark : (∀ st ∈ [0, 1, 2, 3, 4], (ported st { light := true }).portState 3 < 5 ∧ (ported st { light := true }).ready = true ∧
      gives (.portDown ⟨3, true⟩) (ported st { light := true }) (fun t => t.portState 3 == 0 && !(t.port 3).light) = true) ∧
    gives (.portDown ⟨3, false⟩) (ported 2 { light := true }) (fun t => t.portState 3 == 2) = true ∧
    gives (.portDown ⟨3, false⟩) { holding with ports := [(3, { lanes := 0xFF, light := true })] } (fun t => t.portState 3 == 0 && (t.port 3).light) = true := by
  decide +kernel

/-- A flit with one message for this module, one with a bad CRC, and a replay asked for (R411, R412). -/
def inMsg : FabMsg := { type := 1, dst := 77, src := 9, dpart := 2, spart := 2, len := 4, data := [1, 2, 3, 4], tag := 0, seg := 1, addr := 0x100 }
def flitOf : Flit := sealFlit { kind := 1, vc := 0, seq := 6, ack := 0, rsv := 0, crc := 0, body := inMsg.head ++ leBytes 16 0 ++ inMsg.data ++ List.replicate 196 0 }
def badFlit : Flit := { flitOf with crc := flitOf.crc + 1 }

/-- CRC-32C of the nine bytes "123456789" is 0xE3069283 (its published check value). -/
theorem test_crc : crc32c ([0x31, 0x32, 0x33, 0x34, 0x35, 0x36, 0x37, 0x38, 0x39].map (BitVec.ofNat 8)) = 0xE3069283 ∧
    flitOk flitOf = true ∧ flitOk badFlit = false := by decide +kernel

theorem test_flit_parses : let b := flitOf.body.take 248
    let m := parseMsg b
    48 + m.dataLen ≤ b.length ∧ m.channel = flitOf.vc.toNat ∧ m.isHypha = false ∧ m.legal = true ∧ m.dst = (ported 5).modId ∧ m.dpart < 48 ∧ { m with data := m.data.take m.dataLen } = inMsg := by decide +kernel

theorem test_flits : ((ported 5 { lanes := 0xFF, rxNext := 6 }).port 3).rxNext = flitOf.seq ∧ ((ported 5 { lanes := 0xFF, rxNext := 6 }).port 3).held = [] ∧
    gives (.flitReceive 3 flitOf) (ported 5 { lanes := 0xFF, rxNext := 6 }) (fun t => t.inbox.map (·.2) == [inMsg] && (t.port 3).rxNext == 7) = true ∧
    gives (.flitReceive 3 badFlit) (ported 5 { lanes := 0xFF, rxNext := 6 }) (fun t => t.sent == [.link 3 6 0] && t.inbox == []) = true ∧
    ((7 : BitVec 12) - (7 : BitVec 12)).toNat < 1 ∧ (holding.port 3).replaySeq ≠ 7 ∧
    gives (.replayRequest 3 7) holding (fun t => t.sent == [.resend 3 7] && (t.port 3).replaySeq == 7) = true := by decide +kernel

/-- Wavelengths: 0 to 7 carry data, 8 is the spare (R406 to R408). -/
def dark (w : BitVec 9) : SerRead := ⟨[], 0, w⟩
/-- One error on wavelength 2 in `n` symbols; FAB_PORT_CTL.swap_thr is 5 at reset. -/
def noisy (n : Nat) : SerRead := ⟨[0, 0, 1], n, 0⟩
def coloured (spare : Nat) (q : Port := { lanes := 0xFF }) (st : Nat := 5) (good : Nat := 0x1FF) : State :=
  ((ported st q).setFld (portStat 3 16 13) spare).setFld (portStat 3 12 4) good

theorem test_wavelengths : waves (badWaves (dark 0x100) 5 0xFF &&& 0xFF) = [] ∧ waves (badWaves (noisy 99999) 5 0xFF &&& 0xFF) = [2] ∧
    waves (badWaves (noisy 100000) 5 0xFF) = [] ∧ (coloured 8).fld (portCtl 3 11 8) = 5 ∧ ((coloured 8).port 3).lanes = 0xFF ∧
    ((coloured 8).port 3).swapping = none ∧ (coloured 8).fld (portStat 3 16 13) = 8 ∧ (coloured 15).fld (portStat 3 16 13) = 15 ∧
    (coloured 8).fld (portStat 3 12 4) = 0x1FF ∧ (BitVec.ofNat 9 0x1FF &&& ~~~(4 : BitVec 9)).getLsbD 8 = true ∧
    (waves (BitVec.ofNat 9 0x7 &&& ~~~(4 : BitVec 9))).length < 4 ∧
    gives (.wavelengthSerCheck 3 (dark 0x100)) (coloured 8) (fun t => t.fld (portStat 3 12 4) == 0xFF) = true ∧
    gives (.wavelengthSerCheck 3 (noisy 99999)) (coloured 8) (fun t => (t.port 3).swapping == some 2) = true ∧
    gives (.wavelengthSerCheck 3 (noisy 99999)) (coloured 15 (good := 7)) (fun t => t.portState 3 == 0) = true ∧
    gives (.wavelengthSwap 3) (coloured 8 { lanes := 0xFF, swapping := some 2 }) (fun t => (t.port 3).lanes == 0x1FB && t.fld (portStat 3 16 13) == 15) = true ∧
    ((coloured 8 { lanes := 0xFF, swapping := some 2 }).port 3).lanes.getLsbD 8 = false ∧
    gives (.wavelengthRetest 3 4) (coloured 15 (good := 0x1FB)) (fun t => t.portState 3 == 5 && t.fld (portStat 3 12 4) == 0x1FF) = true ∧
    8 ≤ (waves (BitVec.ofNat 9 0xFB ||| (4 : BitVec 9))).length ∧
    gives (.wavelengthRetest 3 4) (coloured 15 { lanes := 0xF } 6 0xFB) (fun t => t.portState 3 == 0) = true := by decide +kernel

/-- Laser sources: service, removal, insertion, lock (R36, R37, R409, R410). -/
def lasers (a b : ElsSt) (present : Nat) : State := { rdy.setFld (elsReg 0 0 0) present with els := [(0, a), (1, b)] }

theorem test_lasers : (lasers .on .on 1).elsSt 0 = .on ∧ (lasers .on .on 1).elsSt (elsPartner 0) = .on ∧ (lasers .on .on 1).fld (elsReg 0 0 0) = 1 ∧
    (lasers .off .on 0).fld (elsReg 0 0 0) = 0 ∧
    gives (.elsSvc 0) (lasers .on .on 1) (fun t => t.elsSt 0 == .off && t.fld (elsReg 1 15 8) == 100 && t.fld (elsReg 0 3 3) == 1) = true ∧
    gives (.elsRemoved ⟨0, false⟩) (lasers .on .on 1) (fun t => t.elsSt 0 == .off && t.fld (elsReg 1 15 8) == 100 && t.fld (elsReg 0 0 0) == 0) = true ∧
    gives (.elsInserted 0) (lasers .off .on 0) (fun t => t.elsSt 0 == .locking 0 && t.fld (elsReg 0 0 0) == 1) = true ∧
    gives (.elsCombLock 0) (lasers (.locking 9) .on 1) (fun t => t.elsSt 0 == .on && t.fld (elsReg 0 15 8) == 50) = true ∧
    gives (.elsCombLock 0) (lasers (.locking 9) .off 1) (fun t => t.elsSt 0 == .on && t.fld (elsReg 0 15 8) == 100) = true ∧
    gives (.elsLockTimeout 0) (lasers (.locking 9) .off 1) (fun t => t.elsSt 0 == .off && t.now == 9 + 60 * 10 ^ 12) = true := by decide +kernel

/-! ### Messages of the fabric (spec/09) -/

/-- Module 77; context 7 of partition 2 takes what the fabric brings, in epoch 5, with module 9 a member. -/
def cohere (s : State) : State :=
  let s := (((mapped s).setWord 0x00600000 0x8021004D).setFld (cohCtx 2) 7).setFld (cohEpoch 2) 5
  (s.setFld (membBit 2 9) 1).setFld (cohCfg 2 0 0) 0
def fab : State := cohere rdy
/-- A message stands in the inbox. -/
def inboxed (s : State) (m : FabMsg) : State := { s with inbox := [(1, m)], fresh := 50 }
def req9 (type : Nat) (data : List Byte := []) (more : FabMsg → FabMsg := id) : FabMsg :=
  more { type := type, dst := 77, src := 9, dpart := 2, spart := 2, epoch := 5, addr := 0x100, len := data.length, data := data, tag := 4 }

theorem inbound_of {s : State} {id p : Nat} {m : FabMsg} (h : (s.inbox.find? (fun x => x.1 == id) == some (id, m) && decide (p < 48) && s.ready &&
    !s.rotating && m.dpart == p && !s.encOf p && !m.enc && m.src != s.modId) = true) : Inbound s id p m := by
  simp only [Bool.and_eq_true, beq_iff_eq, decide_eq_true_eq, Bool.not_eq_true', bne_iff_ne, ne_eq] at h
  obtain ⟨⟨⟨⟨⟨⟨⟨h1, h2⟩, h3⟩, h4⟩, h5⟩, h6⟩, h7⟩, h8⟩ := h
  exact ⟨h1, h2, h3, h4, h5, h6, h7, h8⟩

theorem current_of {s : State} {id p : Nat} {m : FabMsg} (h : Inbound s id p m) (h2 : (s.epochOf p != 0 && m.epoch == s.epochOf p && !s.fenced p &&
    s.member p m.src) = true) : Current s id p m := by
  simp only [Bool.and_eq_true, beq_iff_eq, bne_iff_ne, Bool.not_eq_true', ne_eq] at h2
  obtain ⟨⟨⟨h1, h3⟩, h4⟩, h5⟩ := h2
  exact ⟨h, h1, h3, h4, h5⟩

/-- No home holds anything that an access could wait for. -/
def freeB (s : State) : Bool := s.hosts.isEmpty && !s.tight && s.upsets.isEmpty && s.under.isEmpty && s.tierErrs.isEmpty &&
  s.parts.all fun x => !x.2.enc

theorem homes_free {s : State} (h : freeB s = true) : HomesFree s := by
  simp only [freeB, Bool.and_eq_true, List.isEmpty_iff, List.all_eq_true, Bool.not_eq_true'] at h
  obtain ⟨⟨⟨⟨⟨h1, h2⟩, h3⟩, h4⟩, h5⟩, h6⟩ := h
  refine ⟨h1, h2, h3, h4, h5, fun p => ?_⟩
  have hn : s.memSlot p = none := by
    rw [State.memSlot, Option.map_eq_none_iff, List.find?_eq_none]
    intro x hx
    simp [h6 x hx]
  simp [State.keyless, hn]

/-- Where nothing could keep a fill waiting, no register is in use, no column is repaired and no key retires. -/
theorem not_tight {s : State} (h : s.tight = false) : s.misses = [] ∧ s.repairs = [] ∧ ∀ k ∈ s.keys, k.2.st ≠ 2 := by
  simp only [State.tight, Bool.or_eq_false_iff, Bool.not_eq_false', List.isEmpty_iff, List.any_eq_false, beq_iff_eq] at h
  exact ⟨h.1.1.1.1, h.1.1.2, h.1.2⟩

theorem free_waits {s : State} (h : s.tight = false) (w : Who) (rd wr : List (Nat × Nat)) : s.mustWait w rd wr = false := by
  simp [State.mustWait, h, (not_tight h).1]

theorem reaches_of {s : State} {ctx : Nat} {acc : Acc} {va : W64} {n : Nat} {loc : Loc} (h : (s.locate ctx va acc == some loc &&
    decide (va.toNat % 4096 + n ≤ 4096) && decide (0 < n) && canonical (s.vaBits ctx) va && freeB s && decide ((s.ctx ctx).fn < 49)) = true) :
    Reaches s ctx acc va n loc := by
  simp only [Bool.and_eq_true, beq_iff_eq, decide_eq_true_eq] at h
  obtain ⟨⟨⟨⟨⟨h1, h2⟩, h3⟩, h4⟩, h5⟩, h6⟩ := h
  have hf := homes_free h5
  exact ⟨h1, h2, h3, h4, hf.hosts, fun w => free_waits hf.free w _ _, (not_tight hf.free).2, hf.sound, h6⟩

theorem reads_of {s : State} {ctx : Nat} {va : W64} {n : Nat} {loc : Loc} {bs : List Byte} (h : Reaches s ctx .read va n loc)
    (h2 : (memBytes (if loc.host then s.host else s.mem) loc.addr n == bs && (loc.host || (!s.rangeBad loc.addr n && !s.releasedIn loc.addr n)) &&
      (!loc.host || !s.hostPoisoned loc.addr n)) = true) :
    Reads s ctx va n loc bs := by
  simp only [Bool.and_eq_true, beq_iff_eq, Bool.or_eq_true, Bool.not_eq_true'] at h2
  obtain ⟨⟨h2, h3⟩, h4⟩ := h2
  refine ⟨h, h2, fun hl => ?_, fun hl => ?_⟩
  · rcases h3 with h3 | h3
    · rw [hl] at h3; cases h3
    · exact h3
  · rcases h4 with h4 | h4
    · rw [hl] at h4; cases h4
    · exact h4

def dloc : Loc := ⟨false, 0x100100⟩
theorem fab_ctx (s : State) (h : (s.fld (cohCtx 2) == 7 && (s.ctx 7).st == .live && (s.ctx 7).part == 2) = true) : FabCtx s 2 7 := by
  simp only [Bool.and_eq_true, beq_iff_eq] at h
  exact ⟨h.1.1, h.1.2, h.2⟩

def bs4 : List Byte := [1, 2, 3, 4]
def bs8 : List Byte := [1, 2, 3, 4, 5, 6, 7, 8]
def putD : FabMsg := req9 1 bs4 ({ · with poison := true })
def putF : FabMsg := req9 2 bs8
def getR : FabMsg := req9 3 [] ({ · with len := 8 })

theorem test_put_hyps : ∀ m ∈ [putD, putF, getR], Current (inboxed fab m) 1 2 m ∧ FabCtx (inboxed fab m) 2 7 := by
  intro m hm
  exact ⟨current_of (inbound_of (by revert m; decide +kernel)) (by revert m; decide +kernel), fab_ctx _ (by revert m; decide +kernel)⟩

theorem test_put_reaches : Reaches (inboxed fab putD) 7 .write putD.addr putD.data.length dloc ∧ Reaches (inboxed fab putF) 7 .write putF.addr 8 dloc ∧
    (inboxed fab putD).releasedIn dloc.addr 4 = false ∧ (inboxed fab putF).releasedIn dloc.addr 8 = false ∧
    Reads (inboxed { fab with mem := [(0x100100, 7)] } getR) 7 getR.addr getR.len dloc [7, 0, 0, 0, 0, 0, 0, 0] :=
  ⟨reaches_of (by decide +kernel), reaches_of (by decide +kernel), by decide +kernel, by decide +kernel, reads_of (reaches_of (by decide +kernel)) (by decide +kernel)⟩

theorem test_put_ctx : (({ fab with ctxs := [] } : State).ctx 7).st ≠ .live := by decide +kernel

/-- A transfer with one open message of segment 0 to module 9, of the command at the head of queue 513. -/
def rawOp (op : Nat) (flags : Nat := 0) (ops : List Byte := []) : List Byte := [BitVec.ofNat 8 op, 1, BitVec.ofNat 8 flags, 0] ++ leBytes 4 33 ++ leBytes 8 44 ++
  ops ++ List.replicate (48 - ops.length) 0
def xmsg : XMsg := { seg := 0, off := 0x100, len := 8, msg := { type := 1, dst := 9, src := 77, dpart := 2, spart := 2, epoch := 5, addr := 0x100, len := 8,
                                                                data := bs8, tag := 4, counter := 3 } }
def xferOf (k : XKind) : Xfer := { kind := k, queue := 513, cmd := 40, part := 2, ctx := 7, peer := 9, peerPart := 2, loc := 0, len := 0x200, msgs := [xmsg] }
def cmdX : Cmd := { id := 40, raw := rawOp 0x20, work := .xfer 4, segs := [.open_], segSz := 4096, total := 0x200 }
def busyQ (q : Queue := {}) : Queue := { q with st := .running, part := 2, ctx := 7, cmds := [cmdX] }
def xfering (k : XKind) (m : FabMsg) : State := { inboxed fab m with xfers := [(4, some (xferOf k))], queues := [(513, busyQ)] }

def getD : FabMsg := req9 4 bs8
def ackOf (st : Nat) : FabMsg := req9 5 (leBytes 8 st)
def nakLost : FabMsg := req9 5 (leBytes 8 (256 + 3 * 65536))

theorem one_msg {s : State} {x : Nat} {f : Xfer} {y : XMsg} {c : Cmd} {m : FabMsg} (h : (s.byTag m == some (x, f) && s.xfer x == some f && f.msgs == [y] &&
    !y.answered && (s.queue f.queue).cmd? f.cmd == some c && c.segs.getD y.seg .done == .open_) = true) : OneMsg s x f y c m := by
  simp only [Bool.and_eq_true, beq_iff_eq, Bool.not_eq_true'] at h
  obtain ⟨⟨⟨⟨⟨h1, h2⟩, h3⟩, h4⟩, h5⟩, h6⟩ := h
  exact ⟨h1, h2, h3, h4, h5, h6⟩

theorem test_answers_hyps : ∀ z ∈ [(XKind.get, getD), (.put, ackOf 0), (.put, ackOf 5), (.put, nakLost)],
    Inbound (xfering z.1 z.2) 1 2 z.2 ∧ OneMsg (xfering z.1 z.2) 4 (xferOf z.1) xmsg cmdX z.2 := by
  intro z hz
  exact ⟨inbound_of (by revert z; decide +kernel), one_msg (by revert z; decide +kernel)⟩

theorem test_answers_reach : Reaches (xfering .get getD) 7 .write (BitVec.ofNat 64 ((xferOf .get).loc.toNat + xmsg.off)) getD.len dloc ∧
    (xfering .get getD).releasedIn dloc.addr getD.len = false ∧ xmsg.off = getD.addr.toNat % 2 ^ 40 ∧ xmsg.seg = xmsg.off / (xferOf .get).segSz ∧
    ackNames (ackOf 0) xmsg = true ∧ nakLost.data = leBytes 8 (256 + xmsg.msg.counter.toNat * 65536) ∧ xmsg.msg.addr = nakLost.addr :=
  ⟨reaches_of (by decide +kernel), by decide +kernel⟩

/-- A segment of 8 bytes from its own start: a GET whose source is refused, and messages that a NAK names, open or kept (R413, R430). -/
def xmsg0 : XMsg := { xmsg with off := 0, since := some 7, msg := { xmsg.msg with addr := 0 } }
def xfer0 : Xfer := { xferOf .get with loc := 0x100, len := 8, msgs := [xmsg0] }
def nak0 : FabMsg := req9 5 (leBytes 8 (256 + 3 * 65536)) ({ · with addr := 0 })
def seg0 (m : FabMsg) : State := { xfering .get m with xfers := [(4, some xfer0)] }
def ack7 : FabMsg := req9 5 (leBytes 8 7) ({ · with addr := 0 })
def getD0 : FabMsg := req9 4 bs8 ({ · with addr := 0 })
def keptM : State := { inboxed fab nak0 with kept := [xmsg0.msg] }

theorem test_get_segment : ∀ m ∈ [getD0, ack7], Inbound (seg0 m) 1 2 m ∧ OneMsg (seg0 m) 4 xfer0 xmsg0 cmdX m ∧
    Reaches (seg0 m) xfer0.ctx .write (BitVec.ofNat 64 (xfer0.loc.toNat + xmsg0.off)) xmsg0.len dloc ∧
    (seg0 m).releasedIn dloc.addr xmsg0.len = false ∧ ackNames ack7 xmsg0 = true ∧ xmsg0.off = getD0.addr.toNat % 2 ^ 40 ∧
    xmsg0.off = xmsg0.seg * xfer0.segSz ∧ xmsg0.len = min xfer0.segSz (xfer0.len - xmsg0.off) ∧ xfer0.contrib = [] := by
  intro m hm
  exact ⟨inbound_of (by revert m; decide +kernel), one_msg (by revert m; decide +kernel), reaches_of (by revert m; decide +kernel), by revert m; decide +kernel⟩

theorem test_nak : (∀ s ∈ [seg0 nak0, keptM], s.lostMsg 2 nak0 = some xmsg0.msg ∧ s.exactOf xmsg0.msg = none ∧ xmsg0.msg.dst ≠ s.modId) ∧
    nak0.data = leBytes 8 (256 + xmsg0.msg.counter.toNat * 65536) ∧ (seg0 nak0).xfer 4 = some xfer0 ∧ xmsg0.since.isSome = true ∧ xmsg0.answered = false := by
  decide +kernel

/-! #### Collectives and rings -/

/-- An ALL_REDUCE of 8 elements of rank 0 of two; a ring of two of two steps. -/
def collOp : CollOp := { kind := 0, n := 8, inp := 0x300, out := 0x100, work := 0x400, members := [(77, 2), (9, 2)] }
def collX (final : List (Nat × Nat) := []) : Xfer := { xferOf .coll with msgs := [], coll := collOp, final := final }
def ringX : Xfer := { xferOf .ring with msgs := [], len := 64, coll := { collOp with n := 2 } }
def colling (f : Xfer) (m : FabMsg) : State := { inboxed fab m with xfers := [(4, some f)], queues := [(513, busyQ)] }
def cd1 : FabMsg := req9 6 bs8 ({ · with addr := BitVec.ofNat 64 (2 ^ 40) })
def cd2 : FabMsg := req9 6 bs8 ({ · with addr := BitVec.ofNat 64 (2 * 2 ^ 40 + 16) })
def kv1 : FabMsg := req9 7 bs8 ({ · with addr := BitVec.ofNat 64 (2 ^ 40 + 8) })
def kvc : FabMsg := req9 8 [] ({ · with addr := 3 })

theorem test_coll_hyps : ∀ z ∈ [(collX, cd1), (collX, cd2), (ringX, kv1), (ringX, kvc)], Current (colling z.1 z.2) 1 2 z.2 ∧ FabCtx (colling z.1 z.2) 2 7 := by
  intro z hz
  exact ⟨current_of (inbound_of (by revert z; decide +kernel)) (by revert z; decide +kernel), fab_ctx _ (by revert z; decide +kernel)⟩
theorem test_coll_for : (colling collX cd1).collFor 2 cd1 = some (4, collX, 1, 0) ∧ cd1.addr.toNat / 2 ^ 40 % 256 = 1 ∧
    (colling collX cd2).collFor 2 cd2 = some (4, collX, 1, 16) ∧ cd2.addr.toNat / 2 ^ 40 % 256 = 2 ∧ (colling collX cd2).xfer 4 = some collX ∧
    (colling collX cd2).releasedIn 0x100110 8 = false ∧ Reaches (colling collX cd2) 7 .write (collX.coll.out + BitVec.ofNat 64 16) cd2.data.length ⟨false, 0x100110⟩ :=
  ⟨by decide +kernel, by decide +kernel, by decide +kernel, by decide +kernel, by decide +kernel, by decide +kernel, reaches_of (by decide +kernel)⟩

/-- What a contribution needs in the work buffer, and one that the context cannot take (R425). -/
theorem test_coll_work : collOp.workAt 1 0 cd1.len = some (0, 8) ∧ Reaches (colling collX cd1) 7 .write (collX.coll.work + BitVec.ofNat 64 0) 8 ⟨false, 0x100400⟩ ∧
    (({ colling collX cd1 with ctxs := [] } : State).ctx 7).st ≠ .live :=
  ⟨by decide +kernel, reaches_of (by decide +kernel), by decide +kernel⟩

theorem test_ring : let m := kv1
    let s := colling ringX m
    s.xfersOf 2 = [(4, ringX)] ∧ s.xfer 4 = some ringX ∧ ringX.coll.members[(ringX.coll.rank + ringX.coll.g - 1) % ringX.coll.g]? = some (m.src, m.spart) ∧
    ringX.stepDone < m.addr.toNat / 2 ^ 40 ∧ m.addr.toNat / 2 ^ 40 ≤ ringX.coll.n ∧ m.addr.toNat % 2 ^ 40 + m.len ≤ ringX.len ∧
    Reaches s 7 .write (BitVec.ofNat 64 (ringBuf ringX 1 + 8)) m.data.length ⟨false, 0x100148⟩ ∧ s.releasedIn 0x100148 8 = false :=
  ⟨by decide +kernel, by decide +kernel, by decide +kernel, by decide +kernel, by decide +kernel, by decide +kernel, reaches_of (by decide +kernel),
   by decide +kernel⟩

theorem test_credit : (colling ringX kvc).byTag kvc = some (4, ringX) ∧ gives (.kvCredit 1) (colling { ringX with stepSent := 2 } kvc) (fun t =>
    (t.xfer 4).map (·.credit) == some 3 && t.inbox == []) = true := by decide +kernel

/-- The own consumed word, at 0x408, rises to 2; and a step of a collective that misses data of rank 1. -/
def risen : State := { colling { ringX with peerTag := some 4 } kvc with mem := [(0x100408, 2)] }

theorem test_consumed : Reads risen 7 (ringX.coll.work + 8) 8 ⟨false, 0x100408⟩ [2, 0, 0, 0, 0, 0, 0, 0] ∧ risen.encOf 2 = false ∧ risen.rotating = false ∧
    risen.xfer 4 = some { ringX with peerTag := some 4 } ∧ ringX.coll.members.getD ((ringX.coll.rank + ringX.coll.g - 1) % ringX.coll.g) (0, 0) = (9, 2) ∧
    9 ≠ risen.modId :=
  ⟨reads_of (reaches_of (by decide +kernel)) (by decide +kernel), by decide +kernel⟩

theorem test_step_timeout : (colling collX cd1).xfer 4 = some collX ∧ collX.lacks = [1] ∧ ringX.lacks = [1] ∧ (colling collX cd1).encOf 2 = false ∧
    collX.kind = .coll ∧ collX.probed = [] := by decide +kernel

/-! ### Cohorts (spec/09) -/

def ctlM (type : Nat) (addr : Nat := 0) : FabMsg := req9 type [] ({ · with addr := BitVec.ofNat 64 addr })
def hbM : State := { inboxed fab (ctlM 0x10) with cohorts := [(2, { hbSeen := [(9, 1)] })], now := 40 }
def rspM : State := { inboxed fab (ctlM 0x14 3) with cohorts := [(2, { sweep := some 4, answered := [77], probeNo := 3 })] }

theorem test_ctl_hyps : ∀ z ∈ [(hbM, ctlM 0x10), (inboxed fab (ctlM 0x11 7), ctlM 0x11 7), (inboxed fab (ctlM 0x12), ctlM 0x12),
    (inboxed fab (ctlM 0x13 6), ctlM 0x13 6), (rspM, ctlM 0x14 3)], Inbound z.1 1 2 z.2 ∧ z.1.epochOf 2 = 5 ∧ z.2.epoch = z.1.epochOf 2 ∧
    z.1.member 2 z.2.src = true ∧ z.1.paces = [] := by
  intro z hz
  exact ⟨inbound_of (by revert z; decide +kernel), by revert z; decide +kernel⟩

theorem test_ctl : gives (.hb 1) hbM (fun t => (t.cohort 2).hbSeen == [(9, 40)] && t.inbox == []) = true ∧
    gives (.pace 1) (inboxed fab (ctlM 0x11 7)) (fun t => t.paces == [{ src := 9, b := 7, at_ := 0 }] && t.fld (cohStat 2 15 8) == 7) = true ∧
    gives (.probe 1) (inboxed fab (ctlM 0x13 6)) (fun t => (t.outbox.map fun x => (x.2.1.type, x.2.1.dst, x.2.1.addr)) == [(0x14, 9, 6)]) = true ∧
    gives (.probeRsp 1) rspM (fun t => (t.cohort 2).answered == [77, 9]) = true ∧ (rspM.cohort 2).sweep = some 4 ∧ (rspM.cohort 2).probeNo = 3 := by
  decide +kernel

/-- A heartbeat to the one watched module. -/
def watchful : State := (fab.setFld (cohCfg 2 40 32) 1).setFld (watchEnt 2 0) 9

theorem test_hb_send : watchful.epochOf 2 = 5 ∧ watchful.encOf 2 = false ∧ watchful.watched 2 = [9] ∧
    gives (.hbSend 2) watchful (fun t => (t.outbox.map fun x => (x.2.1.type, x.2.1.dst, x.2.1.epoch)) == [(0x10, 9, 5)] && t.now == watchful.hbPs) = true := by
  decide +kernel

def lowest : State := fab.setFld pwrLowest 1
def paced : State := { fab with pwr := { fab.pwr with paceB := 4 } }

theorem test_pace_hyps : lowest.ready = true ∧ lowest.pwr.paceB + 8 ≤ lowest.paceB ∧ paced.ready = true ∧ paced.paceB = 0 ∧ paced.pwr.paceB ≠ 0 := by
  decide +kernel

theorem test_pace_hold : gives (.paceHoldExpire 9) { fab with paces := [{ src := 9, b := 7, at_ := 3 }] } (fun t => t.paces == [] && t.now == 3 + fab.holdPs) = true := by
  decide +kernel

/-- A message that waits for a port, of another module and of this one; a member that does not answer; a sweep. -/
def waits9 (src : Nat) : State := { fab with outbox := [(8, { putD with src := src, dst := 9 + (77 - src) / 77 }, 6)] }

theorem test_route_wait : (waits9 5).outbox.find? (·.1 == 8) = some (8, { putD with src := 5, dst := 9 }, 6) ∧ 5 ≠ (waits9 5).modId ∧
    (waits9 77).outbox.find? (·.1 == 8) = some (8, { putD with src := 77, dst := 9 }, 6) ∧ 77 = (waits9 77).modId ∧ putD.spart < 48 ∧
    (waits9 77).epochOf 2 ≠ 0 ∧ 9 ∉ ((waits9 77).cohort 2).lost ∧ (waits9 77).member 2 9 = true ∧ putD.isNak = false := by decide +kernel

/-- A message to a module that is no member is dropped and loses none (R423, R443). -/
def waitsOut : State := { fab with outbox := [(8, { putD with src := 77, dst := 10 }, 6)] }

theorem test_route_no_member : waitsOut.member 2 10 = false ∧ waitsOut.outbox.find? (·.1 == 8) = some (8, { putD with src := 77, dst := 10 }, 6) ∧
    gives (.routeWaitTimeout 8) waitsOut (fun t => t.outbox == [] && (t.cohort 2).lost == [] && !t.fenced 2) = true := by decide +kernel

def silent9 : State := { xfering .put (ackOf 0) with xfers := [(4, some { xferOf .put with msgs := [{ xmsg with since := some 7 }], contrib := [] })]
                                                     cohorts := [(2, { hbSeen := [(9, 4)], sweep := some 11, answered := [77, 9] })]
                                                     outbox := [(8, { putD with src := 77, dst := 9 }, 6)] }

theorem test_peer_timers : silent9.peerTimer 2 9 .heartbeat = some 4 ∧ silent9.peerTimer 2 9 .response = some 7 ∧ silent9.peerTimer 2 9 .route = some 6 ∧
    ({ silent9 with xfers := [(4, some { collX with probed := [(9, 8)] })] } : State).peerTimer 2 9 .probe = some 8 ∧ 9 ∉ (silent9.cohort 2).lost ∧
    9 ≠ silent9.modId ∧ (silent9.cohort 2).sweep = some 11 ∧ (silent9.cohort 2).answered.Nodup := by decide +kernel

/-- A fenced partition's sweep ends: with the member's answer, and without it, when the member is lost (R447, R443). -/
def sweeping (answered : List Nat) : State := { (fab.setFld (cohStat 2 0 0) 1) with cohorts := [(2, { sweep := some 11, answered := answered })] }

theorem test_sweep : (∀ a ∈ [[77, 9], [77]], (sweeping a).fenced 2 = true ∧ ((sweeping a).cohort 2).sweep = some 11 ∧ (sweeping a).ready = true ∧
      ((sweeping a).cohort 2).answered.Nodup) ∧ (sweeping [77]).epochOf 2 ≠ 0 ∧ (sweeping [77]).member 2 9 = true ∧ 9 ≠ (sweeping [77]).modId := by
  decide +kernel

theorem test_sweep_silent : 9 ∈ (sweeping [77]).peers 2 :=
  List.mem_filter.2 ⟨List.mem_filter.2 ⟨List.mem_range.2 (by decide), test_sweep.2.2.1⟩, by simpa using test_sweep.2.2.2⟩

theorem sweep_words : ∀ k < 256, (sweeping [77, 9]).word (0x00640000 + 2048 * 2 + 8 * k) = if k = 0 then 512 else 0 := by decide +kernel

theorem test_sweep_answered (d : Nat) (h : d ∈ (sweeping [77, 9]).peers 2) : d ∈ [77, 9] := by
  simp only [State.peers, State.members, List.mem_filter, List.mem_range, State.member, Bool.and_eq_true, decide_eq_true_eq, beq_iff_eq] at h
  obtain ⟨⟨h1, -, h2⟩, -⟩ := h
  have hw := sweep_words (d / 64) (by omega)
  simp only [State.fld, membBit, hw] at h2
  split at h2
  next h0 =>
    have hd : d % 64 = d := Nat.mod_eq_of_lt (by omega)
    rw [hd] at h2
    have : ∀ d < 64, bitsOf (512 : W64).toNat d d = 1 → d = 9 := by decide
    rw [this d (by omega) h2]
    decide
  next => simp [bitsOf] at h2

theorem test_fence_hyps : fab.fenced 2 = false ∧ fab.encOf 2 = false ∧ fab.xfers = [] ∧ fab.queues = [] ∧ (6 : W32) ≠ fab.epochOf 2 ∧ fab.epochOk 2 = true ∧
    (0 : W32) ≠ fab.epochOf 2 := by decide +kernel

/-! ### Functions and queues (spec/10, 11) -/

/-- Function 0 has committed version 2 and the queue format 2. -/
def committed0 (s : State) : State :=
  (((s.setFld (negCommitted 0) 1).setFld (negSel 0 19 16) 2).setFld (negSel 0 15 8) 6)
def drv (q : Queue) : State := { committed0 (mapped rdy) with queues := if q = {} then [] else [(513, q)] }
def qDesc : List Byte := [2, 3] ++ leBytes 2 7 ++ leBytes 2 5 ++ [7, 8] ++ leBytes 8 0x1000 ++ leBytes 8 0x2000 ++ leBytes 8 0x3000 ++ leBytes 4 5000
/-- The queue descriptor of QUE_CREATE, staged as words. -/
def staged0 (s : State) : State := (List.range 5).foldl (fun s i => s.setWord (fnKey 0 (0x00200000 + 8 * i)) (BitVec.ofNat 64 (rawLe (qDesc ++ leBytes 8 0) (8 * i) 8))) s

theorem driver_of {s : State} {fn q : Nat} {w : BitVec 14} (h : (decide (fn < 49) && s.ready && s.vfLive fn && queueOf fn w.toNat == some q && s.owns fn (q / 256) &&
    s.committed fn) = true) : Driver s fn w q := by
  simp only [Bool.and_eq_true, beq_iff_eq, decide_eq_true_eq] at h
  obtain ⟨⟨⟨⟨⟨h1, h2⟩, h3⟩, h4⟩, h5⟩, h6⟩ := h
  exact ⟨h1, h2, h3, h4, h5, h6⟩

theorem test_drivers : ∀ q ∈ [({} : Queue), { st := .stopped }, { st := .running }, { st := .lost }], Driver (drv q) 0 513 513 ∧ (drv q).queue 513 = q ∧
    ((drv q).part (513 / 256)).st = .ready := by
  intro q hq
  exact ⟨driver_of (by revert q; decide +kernel), by revert q; decide +kernel⟩

theorem test_que_create : Driver (staged0 (drv {})) 0 513 513 ∧ rawLe ((staged0 (drv {})).staged 0 0x00200000 16) 0 1 = (staged0 (drv {})).fld (negSel 0 19 16) ∧
    queDescOk (staged0 (drv {})) 2 ((staged0 (drv {})).staged 0 0x00200000 16) = true ∧ ((staged0 (drv {})).queue 513).st = .empty ∧
    gives (.queCreate 0 513) (staged0 (drv {})) (fun t => (t.queue 513).ctx == 7 && (t.queue 513).tag == 3 && (t.queue 513).vector == 5 &&
      (t.queue 513).sqLog2 == 7 && (t.queue 513).headWb == 0x3000 && (t.queue 513).tmoUs == 5000) = true :=
  ⟨driver_of (by decide +kernel), by decide +kernel⟩

theorem test_que_ops : gives (.queStart 0 513) (drv { st := .stopped }) (fun t => (t.queue 513).st == .running) = true ∧
    gives (.queStop 0 513) (drv { st := .running }) (fun t => (t.queue 513).st == .stopped) = true ∧
    gives (.queDestroy 0 513) (drv { st := .lost }) (fun t => t.queues == []) = true := by decide +kernel

/-- A commit that can be taken, and one that has been; a queue of a partition that a virtual function owns. -/
theorem test_neg : rdy.committed 0 = false ∧ rdy.vfLive 0 = true ∧ (drv {}).committed 0 = true ∧
    gives (.negCommit 0) ((rdy.setFld (negSel 0 3 0) 2).setFld (negSel 0 15 8) 4) (fun t => t.fld (negStatus 0) == 3) = true ∧
    ({ drv {} with parts := [(2, { part2 with vf := true })] } : State).owns 0 2 = false ∧ queueOf 0 (513 : BitVec 14).toNat = some 513 ∧
    rdy.cfgLocked 0 = false ∧ (drv {}).cfgLocked 0 = false := by decide +kernel

/-- A commit on a locked TDI is a change of locked configuration (R574). -/
def lockedFn : State := { rdy with parts := [(2, { part2 with vf := true })], tdis := [(2, { st := 1 })] }

theorem test_neg_locked : lockedFn.vfLive 3 = true ∧ lockedFn.cfgLocked 3 = true ∧ lockedFn.ready = true ∧
    gives (.negCommit 3) lockedFn (fun t => (t.tdi 2).st == 3 && (t.tdi 2).err == 1) = true := by decide +kernel

/-! #### Doorbells and descriptors -/

/-- A ring of 128 descriptors at 0x1000, records at 0x2000, three descriptors not yet read. -/
def ringQ : Queue := { st := .running, part := 2, ctx := 7, tag := 3, sqLog2 := 7, cqLog2 := 6, sqBase := 0x1000, cqBase := 0x2000, sqHead := 5, sqTail := 8, cqTail := 1 }
/-- Lines that the cache holds whole. -/
def cached (ls : List Nat) (s : State) : State := { s with frames := ls.map fun l => (l, some { way := 5, valid := 15, part := 2 }) }
def rung (q : Queue) : State := drv q
/-- Its unread descriptors stand in the lines 8226 and 8227. -/
def ringCached : State → State := cached [8226, 8227]

theorem rings_of {s : State} {fn page qn : Nat} (h : (decide (fn < 49) && s.ready && s.vfLive fn && pageQueue fn page == some qn && (s.queue qn).st != .empty &&
    (s.part (s.queue qn).part).st == .ready && (s.tdi (s.queue qn).part).st != 1) = true) : Rings s fn page qn := by
  simp only [Bool.and_eq_true, beq_iff_eq, decide_eq_true_eq, bne_iff_ne, ne_eq] at h
  obtain ⟨⟨⟨⟨⟨⟨h1, h2⟩, h3⟩, h4⟩, h5⟩, h6⟩, h7⟩ := h
  exact ⟨h1, h2, h3, h4, h5, h6, h7⟩

theorem test_rings : Rings (rung ringQ) 0 513 513 := rings_of (by decide +kernel)

/-- The tail moves forward by what the ring has room for (R461), at the ends of its range; each other write is counted. -/
theorem test_tail : gives (.sqTail 0 513 (5 + 128)) (rung ringQ) (fun t => (t.queue 513).sqTail == 133) = true ∧
    gives (.sqTail 0 513 (5 + 129)) (rung ringQ) (fun t => (t.queue 513).sqTail == 8 && (t.queue 513).dbErr == 1) = true ∧
    gives (.sqTail 0 513 7) (rung ringQ) (fun t => (t.queue 513).sqTail == 8 && (t.queue 513).dbErr == 1) = true ∧
    gives (.cqHead 0 513 1) (rung ringQ) (fun t => (t.queue 513).cqHead == 1) = true ∧
    gives (.cqHead 0 513 2) (rung ringQ) (fun t => (t.queue 513).dbErr == 1) = true := by decide +kernel

/-- A record that waited for room is written once the head moves (R496). -/
def recOf : Rec := { seq := 33, cookie := 44, status := 0, engine := 2, bitmap := 1, time := 9 }
def fullQ : Queue := { ringQ with cqTail := 64, records := [recOf] }

theorem test_record : Rings (rung fullQ) 0 513 513 ∧ (rung fullQ).queues = [(513, (rung fullQ).queue 513)] ∧ ((64 : W32) - 1).toNat < 2 ^ 6 ∧ ((1 : W32) - 0).toNat < 2 ^ 31 ∧
    Reaches (rung fullQ) 7 .write ((0x2000 : W64) + BitVec.ofNat 64 (32 * ((64 : W32).toNat % 2 ^ 6))) 32 ⟨false, 0x102000⟩ ∧
    (rung fullQ).releasedIn 0x102000 32 = false ∧
    gives (.cqHead 0 513 1) (rung fullQ) (fun t => (t.queue 513).records == [] && (t.queue 513).cqTail == 65 && memLe t.mem 0x102000 4 == 33) = true :=
  ⟨rings_of (by decide +kernel), by decide +kernel, by decide +kernel, by decide +kernel, reaches_of (by decide +kernel), by decide +kernel⟩

/-- ABORT of a command in flight, of one whose record waits, of one in the ring, of none; ABORT_ALL (R500 to R504). -/
def inflight : Queue := { ringQ with cmds := [{ cmdX with work := .mover, segs := [.done] }], ahead := [{ bytes := rawOp 0x3F }] }

theorem test_abort_rings : Rings (rung inflight) 0 513 513 := rings_of (by decide +kernel)

theorem test_abort_hyps : (inflight.cmds.find? (fun x => descSeq x.raw == 33)) = some { cmdX with work := .mover, segs := [.done] } ∧
    inflight.cmd? 40 = some { cmdX with work := .mover, segs := [.done] } ∧ inflight.abort.result ≠ 1 ∧ (inflight.cmds.map (·.id)).Nodup ∧
    fullQ.cmds.find? (fun x => descSeq x.raw == 33) = none ∧ fullQ.records.find? (·.seq == 33) = some recOf ∧
    ringQ.records.find? (·.seq == 34) = none ∧ (ringQ.markFirst fun d => descSeq d.bytes == 34) = none := by decide +kernel

/-- The further hypotheses of an abort: no timer passes; a descriptor read ahead is marked; one that stands in the ring alone is read. -/
def aheadQ : Queue := { ringQ with ahead := [{ bytes := rawOp 0x3F }] }

theorem test_abort_more : (rung inflight).expired 513 { cmdX with work := .mover, segs := [.done] } = false ∧
    (∀ c ∈ inflight.cmds, (rung inflight).byNow (c.due inflight) = false) ∧ (aheadQ.markFirst fun d => descSeq d.bytes == 33).isSome = true ∧ aheadQ.cmds = [] ∧
    gives (.abort 0 513 33) (rung aheadQ) (fun t => (t.queue 513).ahead == [] && (t.queue 513).abort.result == 2) = true ∧
    ringQ.unread ≠ [] ∧ ({ rung ringQ with rot := .draining } : State).rotating = true ∧ ({ ringQ with sqTail := 5 } : Queue).unread = [] ∧
    gives (.abort 0 513 34) (rung { ringQ with sqTail := 5 }) (fun t => (t.queue 513).abort.result == 4) = true := by decide +kernel

theorem test_abort : gives (.abort 0 513 33) (rung inflight) (fun t => (t.queue 513).cmds == [] && (t.queue 513).abort.result == 2) = true := by decide +kernel

theorem test_abort_waiting : gives (.abort 0 513 33) (ringCached (rung fullQ)) (fun t => (t.queue 513).abort.result == 3) = true := by decide +kernel

theorem test_abort_none : gives (.abort 0 513 34) (ringCached (rung ringQ)) (fun t => (t.queue 513).abort.result == 4) = true := by decide +kernel

theorem test_abort_in_ring : gives (.abort 0 513 0) (rung ringQ) (fun t => (t.queue 513).abort.result == 1 && (t.queue 513).abort.upTo == some 5) = true := by
  decide +kernel

theorem test_abort_all : gives (.abortAll 0 513) (rung inflight) (fun t => (t.queue 513).cmds == [] && (t.queue 513).abort.all) = true := by decide +kernel

/-- The next descriptor, at 0x1000 + 64 * 5, read; and poisoned. -/
def fetching (bad : Bool) : State := { rung { ringQ with sqTail := 6 } with poison := if bad then [(0x101140 / 32, true)] else [] }

theorem test_fetch : (∀ b ∈ [false, true], let s := fetching b
    let q := s.queue 513
    q.st = .running ∧ s.rotating = false ∧ (s.part q.part).st = .ready ∧ (s.tdi q.part).st ≠ 3 ∧ q.cmds = [] ∧ q.ahead = [] ∧ q.calls = [] ∧
      q.sqTail = q.sqHead + 1 ∧ q.fetchBad = [] ∧ q.abort.result ≠ 1 ∧ memBytes s.mem 0x101140 64 = List.replicate 64 0 ∧ (s.rangeBad 0x101140 64 || s.releasedIn 0x101140 64) = b ∧
      (s.ctx q.ctx).st = .live) := by decide +kernel

theorem test_fetch_reaches : ∀ b, Reaches (fetching b) 7 .read (0x1000 + BitVec.ofNat 64 (64 * ((5 : W32).toNat % 2 ^ 7))) 64 ⟨false, 0x101140⟩ := by
  intro b
  exact reaches_of (by revert b; decide +kernel)

/-- An ABORT looks at the same descriptor, which is not its own. -/
theorem test_abort_reads : Rings (fetching false) 0 513 513 ∧ ((fetching false).queue 513).sqTail = ((fetching false).queue 513).sqHead + 1 ∧
    Reads (fetching false) 7 (0x1000 + BitVec.ofNat 64 (64 * ((5 : W32).toNat % 2 ^ 7))) 64 ⟨false, 0x101140⟩ (List.replicate 64 0) ∧
    gives (.abort 0 513 33) (fetching false) (fun t => (t.queue 513).abort.result == 4) = true ∧
    gives (.abort 0 513 0) (fetching false) (fun t => (t.queue 513).abort.result == 1) = true :=
  ⟨rings_of (by decide +kernel), by decide +kernel, reads_of (test_fetch_reaches false) (by decide +kernel), by decide +kernel⟩

theorem test_fetched : gives (.descriptorFetch 513) (fetching true) (fun t => (t.ctx 7).st == .lost && (t.ctx 7).cause == 0x12 && (t.queue 513).st == .lost) = true := by
  decide +kernel

/-! ### Commands at the front of a queue (spec/10) -/

/-- A descriptor of version 2 with its operand fields: an offset and a value each. -/
def fr (op : Nat) (fs : List (Nat × Nat) := []) (flags : Nat := 0) : Desc :=
  { bytes := leBytes 4 (op + 512 + 4096 * flags) ++ leBytes 4 33 ++ leBytes 8 44 ++ leBytes 48 (fs.foldl (fun n x => n + x.2 * 2 ^ (8 * (x.1 - 0x10))) 0), idx := 2 }
/-- It stands at the front of queue 513, in the ring or in a call. -/
def emptyQ : Queue := { ringQ with sqTail := 5 }
def front (d : Desc) (q : Queue := emptyQ) : State := { fab with queues := [(513, { q with ahead := [d] })], fresh := 60 } |> committed0
def inCall (d : Desc) (loops : List Loop := []) : State :=
  { fab with queues := [(513, { emptyQ with calls := [{ base := 0x8000, count := 9, ahead := [d], loops := loops }] })], fresh := 60 } |> committed0

/-- A queue with no pending ABORT is settled. -/
theorem settled_of {s : State} {qn : Nat} (h : ((s.queue qn).abort.result != 1) = true) : s.abortSettle qn = s := by
  simp only [State.abortSettle, h, if_true]

theorem at_front {s : State} {qn op : Nat} {d : Desc} (h : (decide (qn < 12288) && (s.queue qn).st == .running && (s.queue qn).front == some d && s.canAct qn &&
    !d.marked && !noRow d.bytes && descOp d.bytes == op && (s.queue qn).cmds == [] && s.queueTurn qn && (s.queue qn).abort.result != 1) = true) :
    AtFront s qn op d := by
  simp only [Bool.and_eq_true, beq_iff_eq, decide_eq_true_eq, Bool.not_eq_true'] at h
  obtain ⟨⟨⟨⟨⟨⟨⟨⟨⟨h1, h2⟩, h3⟩, h4⟩, h5⟩, h6⟩, h7⟩, h8⟩, h9⟩, h10⟩ := h
  exact ⟨h1, h2, h3, h4, h9, h5, h6, h7, fun _ => h8, settled_of h10, .inr (by rw [h8]; decide)⟩

/-- What the checks of a descriptor need, in one Bool. -/
def passB (s : State) (op : Nat) (d : Desc) (ok : Bool) : Bool :=
  decide (513 < 12288) && (s.queue 513).st == .running && (s.queue 513).front == some d && s.canAct 513 && !d.marked && !noRow d.bytes &&
    descOp d.bytes == op && (s.queue 513).cmds == [] && s.queueTurn 513 && (s.queue 513).abort.result != 1 && (s.descCheck (s.queue 513) d.bytes ok == none)

theorem passes_of {s : State} {op : Nat} {d : Desc} {ok : Bool} (h : passB s op d ok = true) : Passes s 513 op d ok := by
  simp only [passB, Bool.and_assoc] at h
  have h2 : (decide (513 < 12288) && (s.queue 513).st == .running && (s.queue 513).front == some d && s.canAct 513 && !d.marked && !noRow d.bytes &&
      descOp d.bytes == op && (s.queue 513).cmds == [] && s.queueTurn 513 && (s.queue 513).abort.result != 1) = true := by
    simp only [Bool.and_assoc]
    simp only [Bool.and_eq_true] at h ⊢
    obtain ⟨a, b, c, e, f, g, i, j, k, l, _⟩ := h
    exact ⟨a, b, c, e, f, g, i, j, k, l⟩
  simp only [Bool.and_eq_true, beq_iff_eq] at h
  obtain ⟨_, _, _, _, _, _, _, h3, _, _, h4⟩ := h
  exact ⟨at_front h2, h4, by rw [h3]; intro c hc; cases hc⟩

/-- A descriptor that fails a check (a reserved operand field, or the version) (R467 to R469). -/
theorem test_checks : ∀ z ∈ [(Instr.eventOp 513, 0x05, noOperands), (.cmdNop 513, 0x3F, noOperands), (.preemptPoint 513, 0x11, noOperands),
      (.launch 513, 0x01, launchOk), (.cmdWait 513, 0x04, cmdWaitOk), (.cond 513, 0x06, condOk), (.endloop 513, 0x08, noOperands),
      (.returnOp 513, 0x0A, noOperands)], AtFront (front (fr z.2.1 [(0x3F, 1)])) 513 z.2.1 (fr z.2.1 [(0x3F, 1)]) ∧
    (front (fr z.2.1 [(0x3F, 1)])).descCheck ((front (fr z.2.1 [(0x3F, 1)])).queue 513) (fr z.2.1 [(0x3F, 1)]).bytes (z.2.2 (fr z.2.1 [(0x3F, 1)]).bytes) = some 0x0B ∧
    gives z.1 (front (fr z.2.1 [(0x3F, 1)])) (fun t => (t.queue 513).ahead == [] && memLe t.mem 0x102020 4 == 33) = true := by
  intro z hz
  simp only [List.mem_cons, List.not_mem_nil, or_false] at hz
  rcases hz with rfl | rfl | rfl | rfl | rfl | rfl | rfl | rfl <;> exact ⟨at_front (by decide +kernel), by decide +kernel, by decide +kernel⟩

/-- Two queues with a CMD_NOP in front: the lower is served first, then the other (R471). -/
def twoQueues (last : Nat) : State := { front (fr 0x3F) with
  queues := [(513, { emptyQ with ahead := [fr 0x3F] }), (514, { emptyQ with ahead := [fr 0x3F] })]
  parts := (front (fr 0x3F)).parts.map fun x => (x.1, { x.2 with servedQ := last }) }

theorem test_round : (twoQueues 0).queueTurn 513 = true ∧ (twoQueues 513).queueTurn 513 = false ∧ (twoQueues 513).queueTurn 514 = true ∧
    gives (.cmdNop 513) (twoQueues 513) (fun t => t.queues == (twoQueues 513).queues) = true ∧
    gives (.cmdNop 513) (twoQueues 0) (fun t => (t.part 2).servedQ == 513 && (t.queue 513).ahead == []) = true := by decide +kernel

theorem test_round_settled : (twoQueues 513).settleFront 513 = twoQueues 513 := by
  have h : (twoQueues 513).tidyStep 513 = none := by rfl
  have f : tidyFuel ((twoQueues 513).queue 513) = 40 + 1 := by decide +kernel
  rw [State.settleFront, f]
  simp only [State.tidy, h]
  exact settled_of (by decide +kernel)

def condD (v : Nat) : Desc := fr 0x06 [(0x10, 0x200), (0x18, v), (0x20, 0xFF), (0x2A, 3)]

theorem test_cond : (∀ s ∈ [front (condD 0), inCall (condD 1)], ∃ d, Passes s 513 0x06 d (condOk d.bytes) ∧ (s.queue 513).readBad = none) ∧
    Reads (front (condD 0)) 7 (BitVec.ofNat 64 (rawLe (condD 0).bytes 0x10 8)) 8 ⟨false, 0x100200⟩ (List.replicate 8 0) ∧
    testHolds (condD 0).bytes 0 = true ∧ testHolds (condD 1).bytes 0 = false ∧
    gives (.cond 513) (front (condD 0)) (fun t => (t.queue 513).skip == 0 && (t.queue 513).ahead == []) = true ∧
    gives (.cond 513) (front (condD 1)) (fun t => (t.queue 513).skip == 3) = true ∧
    gives (.cond 513) (inCall (condD 1)) (fun t => (t.queue 513).calls.map (·.skip) == [3]) = true := by
  refine ⟨fun s hs => ?_, reads_of (reaches_of (by decide +kernel)) (by decide +kernel), by decide +kernel⟩
  simp only [List.mem_cons, List.not_mem_nil, or_false] at hs
  rcases hs with rfl | rfl
  · exact ⟨condD 0, passes_of (by decide +kernel), by decide +kernel⟩
  · exact ⟨condD 1, passes_of (by decide +kernel), by decide +kernel⟩

def loopD (n : Nat) : Desc := fr 0x07 [(0x10, n)]
def callD : Desc := fr 0x09 [(0x10, 0x4000), (0x18, 5)]
def fenceD (k : Nat) : Desc := fr 0x0B [(0x10, k)]
def oneLoop (left : Nat) : Loop := { start := 1, left := left, seq := 9, cookie := 9 }

theorem test_loop_hyps : Passes (inCall (loopD 3)) 513 0x07 (loopD 3) (allZero (loopD 3).bytes 0x14 44) ∧
    Passes (inCall (fr 0x08) [oneLoop 2]) 513 0x08 (fr 0x08) (noOperands (fr 0x08).bytes) ∧
    Passes (front callD) 513 0x09 callD (rawLe callD.bytes 0x10 8 % 64 == 0 && inLen (2 ^ 20) (rawLe callD.bytes 0x18 4) && allZero callD.bytes 0x1C 36) ∧
    Passes (inCall (fr 0x0A)) 513 0x0A (fr 0x0A) (noOperands (fr 0x0A).bytes) :=
  ⟨passes_of (by decide +kernel), passes_of (by decide +kernel), passes_of (by decide +kernel), passes_of (by decide +kernel)⟩

theorem test_loops : gives (.loopOp 513) (inCall (loopD 3)) (fun t => (t.queue 513).calls.map (fun c => (c.loops.map (fun l => (l.start, l.left)), c.out)) == [([(3, 2)], 0)]) = true ∧
    gives (.loopOp 513) (inCall (loopD 0)) (fun t => (t.queue 513).calls.map (·.out) == [1]) = true ∧
    gives (.endloop 513) (inCall (fr 0x08) [oneLoop 2]) (fun t => (t.queue 513).calls.map (fun c => (c.loops.map (·.left), c.next)) == [([1], 1)]) = true ∧
    gives (.endloop 513) (inCall (fr 0x08) [oneLoop 0]) (fun t => (t.queue 513).calls.map (·.loops) == [[]]) = true ∧
    gives (.cmdCall 513) (front callD) (fun t => (t.queue 513).calls.map (fun c => (c.base, c.count)) == [(0x4000, 5)]) = true ∧
    gives (.returnOp 513) (inCall (fr 0x0A)) (fun t => (t.queue 513).calls == []) = true := by decide +kernel

/-- LOOP, ENDLOOP and RETURN in the ring itself complete INVALID_DESC. -/
theorem test_no_call : Passes (front (loopD 3)) 513 0x07 (loopD 3) (allZero (loopD 3).bytes 0x14 44) ∧
    Passes (front (fr 0x08)) 513 0x08 (fr 0x08) (noOperands (fr 0x08).bytes) ∧ Passes (front (fr 0x0A)) 513 0x0A (fr 0x0A) (noOperands (fr 0x0A).bytes) ∧
    gives (.loopOp 513) (front (loopD 3)) (fun t => (t.queue 513).ahead == [] && memLe t.mem 0x102020 4 == 33) = true :=
  ⟨passes_of (by decide +kernel), passes_of (by decide +kernel), passes_of (by decide +kernel), by decide +kernel⟩

def other : Cmd := { cmdX with work := .mover }
/-- A fence over the partition, with a command of another queue in flight. -/
def fencing : State := { front (fenceD 2) with queues := [(513, { emptyQ with ahead := [fenceD 2] }), (514, { emptyQ with cmds := [other] })] }

theorem test_fences : Passes fencing 513 0x0B (fenceD 2) (decide (rawLe (fenceD 2).bytes 0x10 1 < 3) && allZero (fenceD 2).bytes 0x11 47) ∧
    Passes (front (fenceD 0)) 513 0x0B (fenceD 0) (decide (rawLe (fenceD 0).bytes 0x10 1 < 3) && allZero (fenceD 0).bytes 0x11 47) ∧
    fencing.fenceScope 513 2 = [(514, 40)] ∧ (front (fenceD 0)).fenceScope 513 0 = [] ∧
    gives (.cmdFence 513) fencing (fun t => (t.queue 513).cmds.map (·.work) == [.fence [(514, 40)]]) = true ∧
    gives (.cmdFence 513) (front (fenceD 0)) (fun t => (t.queue 513).cmds == [] && (t.queue 513).ahead == []) = true :=
  ⟨passes_of (by decide +kernel), passes_of (by decide +kernel), by decide +kernel⟩

theorem test_simple_commands : Passes (front (fr 0x05)) 513 0x05 (fr 0x05) (noOperands (fr 0x05).bytes) ∧
    Passes (front (fr 0x11)) 513 0x11 (fr 0x11) (noOperands (fr 0x11).bytes) ∧ Passes (front (fr 0x3F)) 513 0x3F (fr 0x3F) (noOperands (fr 0x3F).bytes) ∧
    gives (.eventOp 513) (front (fr 0x05)) (fun t => (t.queue 513).ahead == []) = true ∧
    gives (.preemptPoint 513) (front (fr 0x11)) (fun t => (t.queue 513).ahead == []) = true ∧
    gives (.cmdNop 513) (front (fr 0x3F)) (fun t => (t.queue 513).ahead == [] && memLe t.mem 0x102020 4 == 33) = true :=
  ⟨passes_of (by decide +kernel), passes_of (by decide +kernel), passes_of (by decide +kernel), by decide +kernel⟩

/-- PREEMPT_POINT waits while a preemption of its partition is pending (R537). -/
def pointing : State := { front (fr 0x11) with parts := (front (fr 0x11)).parts.map fun x => (x.1, { x.2 with preempt := some (2, 1) }) }

theorem test_preempt_point : pointing.preempting 2 = true ∧ (front (fr 0x11)).preempting 2 = false ∧ Passes pointing 513 0x11 (fr 0x11) (noOperands (fr 0x11).bytes) ∧
    gives (.preemptPoint 513) pointing (fun t => (t.queue 513).ahead == [fr 0x11]) = true :=
  ⟨by decide +kernel, by decide +kernel, passes_of (by decide +kernel), by decide +kernel⟩

/-! ### Commands of the engines (spec/10) -/

/-- LAUNCH of four blocks of one clause, without a region table; with one that names a read-only region; and one that never fits. -/
def launchD (more : List (Nat × Nat) := []) : Desc := fr 0x01 ([(0x10, 0x1000), (0x18, 0x80), (0x28, 4), (0x2E, 1)] ++ more)

/-- One read-only region, 0x1000 to 0x1FFF, in the table at 0x240. -/
def regionWord : Nat := 0x1000
theorem test_launch : Passes (front (launchD [(0x2C, 0x20)])) 513 0x01 (launchD [(0x2C, 0x20)]) (launchOk (launchD [(0x2C, 0x20)]).bytes) ∧
    (let k := launchFields (launchD [(0x2C, 0x20)]).bytes {}
     (front (launchD [(0x2C, 0x20)])).launchFits 2 k.blkClauses k.granules k.spmSplit k.blkSpm = true) ∧
    (let k := launchFields (launchD).bytes {}
     (front launchD).launchFits 2 k.blkClauses k.granules k.spmSplit k.blkSpm = false) ∧ Passes (front launchD) 513 0x01 launchD (launchOk launchD.bytes) ∧
    gives (.launch 513) (front (launchD [(0x2C, 0x20)])) (fun t => (t.kernel 61).blkCount == 4 && (t.part 2).placing == [61] &&
      (t.queue 513).cmds.map (·.work) == [.kernel 61]) = true ∧
    gives (.launch 513) (front launchD) (fun t => (t.queue 513).ahead == [] && t.kernels == []) = true :=
  ⟨passes_of (by decide +kernel), by decide +kernel, by decide +kernel, passes_of (by decide +kernel), by decide +kernel⟩

def tableD : Desc := launchD [(0x20, 0x240), (0x2C, 0x20)]
def tabled (v : Nat) : State := { front tableD with mem := memPut [] 0x100240 (leBytes 8 v) }

theorem test_launch_table : Passes (tabled 0) 513 0x01 tableD (launchOk tableD.bytes) ∧ ((tabled 0).queue 513).readBad = none ∧
    Reads (tabled 0) 7 (BitVec.ofNat 64 (rawLe tableD.bytes 0x20 8)) 64 ⟨false, 0x100240⟩ (List.replicate 64 0) ∧
    (tabled 0).regionTable 7 (List.replicate 64 0) = some ([], []) :=
  ⟨passes_of (by decide +kernel), by decide +kernel, reads_of (reaches_of (by decide +kernel)) (by decide +kernel), by decide +kernel⟩

/-- A reduction window of 64 KiB, in device memory or in host memory, which ends the LAUNCH (R238). -/
def windowB (base : Nat) : List Byte := List.replicate 32 0 ++ leBytes 8 (2 ^ 41 + base) ++ List.replicate 24 0
def winTab (base : Nat) : State := cached [8196, 8256] { front tableD with mem := memPut [] 0x100240 (windowB base) }

theorem test_launch_windows : ∀ base ∈ [0, 16], Passes (winTab base) 513 0x01 tableD (launchOk tableD.bytes) ∧
    Reads (winTab base) 7 (BitVec.ofNat 64 (rawLe tableD.bytes 0x20 8)) 64 ⟨false, 0x100240⟩ (windowB base) ∧
    (winTab base).regionTable 7 (windowB base) = some ([], [(base * 65536, 65536, 0)]) ∧
    ((windowPages [(base * 65536, 65536, 0)]).all fun g => ((winTab base).locate 7 (BitVec.ofNat 64 (4096 * g)) .read).isSome) = true ∧
    ((windowPages [(base * 65536, 65536, 0)]).any fun g => ((winTab base).locate 7 (BitVec.ofNat 64 (4096 * g)) .read).elim false (·.host)) = (base == 16) ∧
    gives (.launch 513) (winTab base) (fun t => t.kernels.length == if base = 16 then 0 else 1) = true := by
  intro base hb
  exact ⟨passes_of (by revert base; decide +kernel), reads_of (reaches_of (by revert base; decide +kernel)) (by revert base; decide +kernel),
    by revert base; decide +kernel, by revert base; decide +kernel, by revert base; decide +kernel, by revert base; decide +kernel⟩

/-- INVOKE of 5 items of a model, registered or not, resident or not. -/
def invokeD : Desc := fr 0x0F [(0x10, 6), (0x14, 5), (0x18, 0x100), (0x20, 0x140)]
def modelOf (res : Bool) : Model := { ctx := 7, items := 2, entry := 0x40, weights := 0x300, imageBytes := 8, resident := res, spmSplit := 1, blkSpm := 1 }
def invoking (ms : Tab Model) : State := { front invokeD with models := ms }

theorem test_invoke : (∀ ms ∈ [[], [(6, modelOf true)], [(6, modelOf false)]], passB (invoking ms) 0x0F invokeD (invokeOk invokeD.bytes) = true) ∧
    (invoking [(6, modelOf true)]).model 6 = modelOf true ∧ ((invoking []).model 6).registered = false ∧
    gives (.invoke 513) (invoking []) (fun t => (t.queue 513).cmds == [] && (t.queue 513).ahead == []) = true ∧
    gives (.invoke 513) (invoking [(6, modelOf true)]) (fun t => (t.queue 513).cmds.map (·.work) == [.kernel 61] && (t.kernel 61).blkCount == 3) = true := by
  decide +kernel

/-! #### The mover -/

/-- Eight bytes at 0x300 (device), and a queue with a MOVE command at its front. -/
def moving8 (d : Desc) : State := cached [8198, 8199, 8256] { front d with mem := memPut [] 0x100300 bs8 }
def copyD : Desc := fr 0x02 [(0x18, 0x300), (0x20, 0x340), (0x28, 8)]
def fillD : Desc := fr 0x02 [(0x10, 1), (0x20, 0x343), (0x28, 5), (0x30, 0x0807060504030201)]
def gatherD : Desc := fr 0x02 [(0x10, 2), (0x18, 0x300), (0x20, 0x340), (0x28, 1), (0x30, 0x380), (0x38, 8)]
def reduceD : Desc := fr 0x02 [(0x10, 3), (0x18, 0x300), (0x20, 0x340), (0x28, 1)]
def tierD (pin : Nat) : Desc := fr 0x02 [(0x10, 4), (0x20, 0x0), (0x28, 0x10000), (0x30, pin)]

theorem test_copy : Passes (moving8 copyD) 513 0x02 copyD (copyOk copyD.bytes) ∧ Reads (moving8 copyD) 7 0x300 8 ⟨false, 0x100300⟩ bs8 ∧
    Reaches (moving8 copyD) 7 .write 0x340 8 ⟨false, 0x100340⟩ ∧ (moving8 copyD).releasedIn 0x100340 8 = false ∧
    gives (.moveCopy 513) (moving8 copyD) (fun t => memBytes t.mem 0x100340 8 == bs8 && (t.queue 513).cmds.map (·.segs) == [[.done]]) = true :=
  ⟨passes_of (by decide +kernel), reads_of (reaches_of (by decide +kernel)) (by decide +kernel), reaches_of (by decide +kernel), by decide +kernel⟩

/-- No queue has a command in flight, so it is each context's turn. -/
theorem turn_of {s : State} {qn : Nat} {d : Desc} (h : (s.queues.all fun x => x.2.cmds.isEmpty) = true) : Turn s qn d := by
  intro x hx _ c hc
  have := List.isEmpty_iff.1 (List.all_eq_true.1 h x hx)
  rw [this] at hc
  cases hc

theorem test_mover_free : (∀ d ∈ [copyD, fillD, gatherD], Turn (moving8 d) 513 d ∧ HomesFree (moving8 d)) := by
  intro d hd
  exact ⟨turn_of (by revert d; decide +kernel), homes_free (by revert d; decide +kernel)⟩

theorem test_fill : Passes (moving8 fillD) 513 0x02 fillD (fillOk fillD.bytes) ∧ Reaches (moving8 fillD) 7 .write 0x343 5 ⟨false, 0x100343⟩ ∧
    (moving8 fillD).releasedIn 0x100343 5 = false ∧
    gives (.moveFill 513) (moving8 fillD) (fun t => memBytes t.mem 0x100343 5 == [4, 5, 6, 7, 8]) = true :=
  ⟨passes_of (by decide +kernel), reaches_of (by decide +kernel), by decide +kernel⟩

theorem test_gather : Passes (moving8 gatherD) 513 0x02 gatherD (gatherOk gatherD.bytes) ∧
    Reads (moving8 gatherD) 7 0x380 4 ⟨false, 0x100380⟩ [0, 0, 0, 0] ∧
    Reads (moving8 gatherD) 7 (BitVec.ofNat 64 (0x300 + leNat [0, 0, 0, 0] * 8)) 8 ⟨false, 0x100300⟩ bs8 ∧
    Reaches (moving8 gatherD) 7 .write 0x340 8 ⟨false, 0x100340⟩ ∧ (moving8 gatherD).releasedIn 0x100340 8 = false ∧
    gives (.moveGather 513) (moving8 gatherD) (fun t => memBytes t.mem 0x100340 8 == bs8) = true :=
  ⟨passes_of (by decide +kernel), reads_of (reaches_of (by decide +kernel)) (by decide +kernel),
   reads_of (reaches_of (by decide +kernel)) (by decide +kernel), reaches_of (by decide +kernel), by decide +kernel⟩

/-- MOVE REDUCE of one f32 element: 1.5 + 2.0 = 3.5. -/
def reducing : State := cached [8198] { front reduceD with mem := memPut (memPut [] 0x100300 (leBytes 4 0x3FC00000)) 0x100340 (leBytes 4 0x40000000) }

theorem test_reduce : Passes reducing 513 0x02 reduceD (reduceOk (reducing.ctx 7).bl1 reduceD.bytes) ∧
    Reads reducing 7 0x300 (etypeBytes (redEtype 0)) ⟨false, 0x100300⟩ (leBytes 4 0x3FC00000) ∧ Reaches reducing 7 .atomic 0x340 (accWidth 0) ⟨false, 0x100340⟩ ∧
    reducing.rangeBad 0x100340 (accWidth 0) = false ∧ reducing.releasedIn 0x100340 (accWidth 0) = false ∧
    gives (.moveReduce 513) reducing (fun t => memLe t.mem 0x100340 4 == 0x40600000) = true :=
  ⟨passes_of (by decide +kernel), reads_of (reaches_of (by decide +kernel)) (by decide +kernel), reaches_of (by decide +kernel), by decide +kernel⟩

theorem test_reduce_free : Turn reducing 513 reduceD ∧ HomesFree reducing := ⟨turn_of (by decide +kernel), homes_free (by decide +kernel)⟩

/-- A pin beyond the partition's quota is refused (R341). -/
def noQuota : State := (front (tierD 1)).setFld (quotaOf 2) 0

theorem test_move_tier_refused : Passes noQuota 513 0x02 (tierD 1) (tierOk (tierD 1).bytes) ∧ noQuota.pinRefused [16] = true ∧
    (∀ i < 16, noQuota.locate 7 (BitVec.ofNat 64 (4096 * i)) .write = some ⟨false, 0x100000 + 4096 * i⟩) ∧
    gives (.moveTier 513) noQuota (fun t => t.pages == [] && (t.queue 513).ahead == []) = true :=
  ⟨passes_of (by decide +kernel), by decide +kernel⟩

theorem test_move_tier : (∀ pin ∈ [0, 1, 2], Passes (front (tierD pin)) 513 0x02 (tierD pin) (tierOk (tierD pin).bytes)) ∧
    (∀ i < 16, canonical ((front (tierD 1)).vaBits 7) (BitVec.ofNat 64 (4096 * i)) = true ∧
      (front (tierD 1)).locate 7 (BitVec.ofNat 64 (4096 * i)) .write = some ⟨false, 0x100000 + 4096 * i⟩) ∧ (front (tierD 1)).pinRefused [16] = false ∧
    (((List.range 16).map fun i => (0x100000 + 4096 * i) / 65536).eraseDups = [16]) ∧
    ((front (tierD 2)).page 16).released = false ∧ (front (tierD 2)).saved 16 = false ∧ (front (tierD 2)).weight 16 = false ∧
    gives (.moveTier 513) (front (tierD 2)) (fun t => (t.page 16).pin == 2 && (t.queue 513).ahead == []) = true := by
  refine ⟨fun pin h => passes_of (by revert pin; decide +kernel), by decide +kernel⟩

/-! #### SIGNAL, TIMESTAMP, WAIT -/

def signalD (add : Nat) : Desc := fr 0x03 [(0x10, 0x300), (0x18, 0x11), (0x20, add)]
def stampD : Desc := fr 0x10 [(0x10, 0x300)]
def waitD (v : Nat) (kind : Nat := 0) (m : Nat := 0) : Desc := fr 0x04 [(0x10, 0x300), (0x18, v), (0x20, 0xFF), (0x29, kind), (0x2A, m)]

theorem test_signal : (∀ k ∈ [0, 1], Passes (moving8 (signalD k)) 513 0x03 (signalD k)
      (rawLe (signalD k).bytes 0x10 8 % 8 == 0 && decide (rawLe (signalD k).bytes 0x20 1 < 2) && allZero (signalD k).bytes 0x21 31)) ∧
    Reaches (moving8 (signalD 0)) 7 .write 0x300 8 ⟨false, 0x100300⟩ ∧ Reaches (moving8 (signalD 1)) 7 .atomic 0x300 8 ⟨false, 0x100300⟩ ∧
    (moving8 (signalD 1)).rangeBad 0x100300 8 = false ∧ (moving8 (signalD 1)).releasedIn 0x100300 8 = false ∧
    gives (.signalOp 513) (moving8 (signalD 0)) (fun t => memLe t.mem 0x100300 8 == 0x11) = true ∧
    gives (.signalOp 513) (moving8 (signalD 1)) (fun t => memLe t.mem 0x100300 8 == 0x0807060504030212) = true :=
  ⟨fun k h => passes_of (by revert k; decide +kernel), reaches_of (by decide +kernel), reaches_of (by decide +kernel), by decide +kernel⟩

theorem test_timestamp : Passes (moving8 stampD) 513 0x10 stampD (rawLe stampD.bytes 0x10 8 % 8 == 0 && allZero stampD.bytes 0x18 40) ∧
    Reaches (moving8 stampD) 7 .write 0x300 8 ⟨false, 0x100300⟩ ∧
    gives (.timestampOp 513) ({ moving8 stampD with now := 777777 }) (fun t => memLe t.mem 0x100300 8 == 775) = true :=
  ⟨passes_of (by decide +kernel), reaches_of (by decide +kernel), by decide +kernel⟩

/-- WAIT holds, or stands with a watch; with a cohort member as the writer, and in epoch 0. -/
def unfabbed (d : Desc) : State := (moving8 d).setFld (cohEpoch 2) 0

theorem test_wait : (∀ d ∈ [waitD 1, waitD 2, waitD 1 1 9], Passes (moving8 d) 513 0x04 d (cmdWaitOk d.bytes)) ∧
    Reads (moving8 (waitD 1)) 7 0x300 8 ⟨false, 0x100300⟩ bs8 ∧ testHolds (waitD 1).bytes (leNat bs8) = true ∧ testHolds (waitD 2).bytes (leNat bs8) = false ∧
    (moving8 (waitD 1 1 9)).epochOf 2 ≠ 0 ∧ Passes (unfabbed (waitD 1 1 9)) 513 0x04 (waitD 1 1 9) (cmdWaitOk (waitD 1 1 9).bytes) ∧
    (unfabbed (waitD 1 1 9)).epochOf 2 = 0 ∧
    gives (.cmdWait 513) (moving8 (waitD 1)) (fun t => (t.queue 513).cmds == [] && (t.queue 513).ahead == []) = true ∧
    gives (.cmdWait 513) (moving8 (waitD 2)) (fun t => (t.queue 513).cmds.map (·.work) == [.wait false 0x100300] && t.watches.map (·.1) == [8198]) = true :=
  ⟨fun d h => passes_of (by revert d; decide +kernel), reads_of (reaches_of (by decide +kernel)) (by decide +kernel), by decide +kernel, by decide +kernel,
   by decide +kernel, passes_of (by decide +kernel), by decide +kernel⟩

/-- A WAIT on a word of host memory, polled. -/
def polled (v : Nat) : State := { fab with queues := [(513, { emptyQ with cmds := [{ cmdX with raw := (waitD v).bytes, work := .wait true 0x700, blocking := true }] })]
                                           host := [(0x700, 1)] }

theorem test_poll : (∀ v ∈ [1, 2], (((polled v).queue 513).cmds.find? fun c => match c.work with
      | .wait true _ => true
      | _ => false) = some { cmdX with raw := (waitD v).bytes, work := .wait true 0x700, blocking := true } ∧ (polled v).rotating = false ∧ (polled v).hostPoisoned 0x700 8 = false) ∧
    gives (.parserHostPoll 513) (polled 1) (fun t => (t.queue 513).cmds == []) = true ∧
    gives (.parserHostPoll 513) (polled 2) (fun t => (t.queue 513).cmds.length == 1) = true := by decide +kernel

/-! #### The fabric's commands -/

def putOpD : Desc := fr 0x0C [(0x10, 0x300), (0x18, 0x900), (0x20, 8), (0x28, 9), (0x2A, 4)]
def flagD : Desc := fr 0x0C [(0x18, 0x900), (0x28, 9), (0x2A, 4), (0x2B, 1), (0x30, 0x55)]
def getOpD : Desc := fr 0x0D [(0x10, 0x900), (0x18, 0x340), (0x20, 8), (0x28, 9), (0x2A, 4)]

theorem test_put_get : passB (moving8 putOpD) 0x0C putOpD (xferRsv putOpD.bytes && inLen (2 ^ 40) 8 && rawLe putOpD.bytes 0x30 8 == 0) = true ∧
    passB (moving8 flagD) 0x0C flagD (xferRsv flagD.bytes && rawLe flagD.bytes 0x10 8 == 0 && rawLe flagD.bytes 0x18 8 % 8 == 0 && rawLe flagD.bytes 0x20 8 == 0) = true ∧
    passB (moving8 getOpD) 0x0D getOpD (xferRsv getOpD.bytes && inLen (2 ^ 40) 8 && rawLe getOpD.bytes 0x2B 1 == 0 && rawLe getOpD.bytes 0x30 8 == 0) = true ∧
    (moving8 putOpD).epochOf 2 ≠ 0 ∧ (moving8 putOpD).fenced 2 = false ∧ (moving8 putOpD).encOf 2 = false ∧ xferPeer putOpD.bytes ≠ (moving8 putOpD).modId ∧
    xferPeer putOpD.bytes ∉ ((moving8 putOpD).cohort 2).lost ∧ (moving8 flagD).xfers = [] ∧ (moving8 flagD).putsOut = [] ∧
    (moving8 (fr 0x0C [(0x18, 0x900), (0x20, 8), (0x28, 77)])).xferRefused 2 (fr 0x0C [(0x18, 0x900), (0x20, 8), (0x28, 77)]).bytes = some 0x0B ∧
    (unfabbed putOpD).xferRefused 2 putOpD.bytes = some 5 := by decide +kernel

theorem test_put_reads : Reads (moving8 putOpD) 7 0x300 8 ⟨false, 0x100300⟩ bs8 ∧ Reaches (moving8 getOpD) 7 .write 0x340 8 ⟨false, 0x100340⟩ :=
  ⟨reads_of (reaches_of (by decide +kernel)) (by decide +kernel), reaches_of (by decide +kernel)⟩

/-- A collective of 8 elements, its group of two at 0x380; a ring of one step and of three. -/
def groupB : List Byte := [2, 0] ++ leBytes 2 2 ++ leBytes 2 0 ++ leBytes 2 0 ++ leBytes 8 0 ++ leBytes 4 (77 + 2 * 2 ^ 14) ++ leBytes 4 (9 + 2 * 2 ^ 14)
def collD (kind : Nat) : Desc := fr 0x0E [(0x10, kind), (0x18, 0x300), (0x20, 0x400), (0x28, 0x500), (0x30, 0x380), (0x38, 8)]
def ringD (steps : Nat) : Desc := fr 0x0E [(0x10, 5), (0x18, 0x1000), (0x20, 0x3000), (0x28, 0x500), (0x30, 0x380), (0x38, 0x1000), (0x3C, steps)]
def grouped (d : Desc) : State := ({ moving8 d with mem := memPut [] 0x100380 groupB } |>.setFld (membBit 2 77) 1) |>.setFld (negSel 0 27 24) 2

theorem test_collectives : (∀ k ∈ [0, 1, 2, 3, 4], passB (grouped (collD k)) 0x0E (collD k) (collFieldsOk k ((grouped (collD k)).ctx 7).bl1 (collD k).bytes) = true ∧
      ((grouped (collD k)).groupOf 2 k groupB) = some { members := [(77, 2), (9, 2)], rank := 0, root := 0 } ∧ ((grouped (collD k)).queue 513).readBad = none) ∧
    (grouped (ringD 1)).groupOf 2 5 groupB = some { members := [(77, 2), (9, 2)], rank := 0, root := 0 } ∧ rawLe groupB 2 2 = 2 ∧
    passB (grouped (ringD 1)) 0x0E (ringD 1) (allZero (ringD 1).bytes 0x11 7 && rawLe (ringD 1).bytes 0x30 8 % 64 == 0 && inLen (2 ^ 26) (rawLe (ringD 1).bytes 0x38 4) &&
      rawLe (ringD 1).bytes 0x38 4 % 4096 == 0 && decide (1 ≤ rawLe (ringD 1).bytes 0x3C 3) && rawLe (ringD 1).bytes 0x3F 1 == 0) = true ∧
    (grouped (collD 0)).overV1 9 = false ∧ 9 ∉ ((grouped (collD 0)).cohort 2).lost ∧ ((unfabbed (collD 0)).epochOf 2) = 0 ∧
    rawLe groupB 0 1 = (grouped (collD 0)).fld (negSel 0 27 24) ∧ rawLe groupB 0 1 ≠ (moving8 (collD 0)).fld (negSel 0 27 24) ∧ (grouped (ringD 1)).xfers = [] := by decide +kernel

theorem test_group_reads : Reads (grouped (collD 0)) 7 0x380 (16 + 4 * rawLe groupB 2 2) ⟨false, 0x100380⟩ groupB ∧
    Reaches (grouped (collD 0)) 7 .write 0x500 (CollOp.workNeed { collOp with fmt := 0 }) ⟨false, 0x100500⟩ :=
  ⟨reads_of (reaches_of (by decide +kernel)) (by decide +kernel), reaches_of (by decide +kernel)⟩

theorem test_group_free : (∀ d ∈ [collD 0, ringD 1], HomesFree (grouped d)) ∧ Reads (grouped (ringD 1)) 7 (BitVec.ofNat 64 (rawLe (ringD 1).bytes 0x28 8) + 8) 8 ⟨false, 0x100508⟩ (List.replicate 8 0) := by
  refine ⟨fun d hd => homes_free (by revert d; decide +kernel), reads_of (reaches_of (by decide +kernel)) (by decide +kernel)⟩

/-- A group of another version ends the collective before its members are read (R19). -/
def oldGroup : State := { moving8 (collD 0) with mem := memPut [] 0x100380 groupB }

theorem test_old_group : Passes oldGroup 513 0x0E (collD 0) (collFieldsOk 0 (oldGroup.ctx 7).bl1 (collD 0).bytes) ∧ oldGroup.epochOf 2 ≠ 0 ∧
    Reads oldGroup 7 0x380 16 ⟨false, 0x100380⟩ (groupB.take 16) ∧ rawLe (groupB.take 16) 0 1 ≠ oldGroup.fld (negSel 0 27 24) :=
  ⟨passes_of (by decide +kernel), by decide +kernel, reads_of (reaches_of (by decide +kernel)) (by decide +kernel), by decide +kernel⟩

/-! ### Ends of commands, contexts, partitions, the migration log, models (spec/10, 11) -/

/-- Queue 513 with a command in flight. -/
def ending (c : Cmd) (more : State → State := id) : State := more { fab with queues := [(513, { emptyQ with cmds := [c] })], fresh := 60 }
def doneK : State → State := fun s => { s with kernels := [(1, { kern with st := .running, retired := 1, nextBlock := 1, queue := 513, cmd := 40 })] }

theorem test_ends : (∀ s ∈ [ending { cmdX with work := .kernel 1 } doneK, ending { other with segs := [.done, .failed] }, ending { cmdX with work := .fence [(514, 8)] }],
      s.ready = true ∧ s.rotating = false ∧ (s.part (s.queue 513).part).st = .ready ∧ ((s.queue 513).cmd? 40).isSome = true ∧ (s.queue 513).st ≠ .empty ∧
      (s.ctx (s.queue 513).ctx).st = .live ∧ (s.kernel 1).st ≠ .out) ∧
    ((ending { cmdX with work := .kernel 1 } doneK).kernel 1).isOver = true ∧ ((ending { cmdX with work := .fence [(514, 8)] }).queue 514).cmd? 8 = none ∧
    gives (.commandComplete 513 40) (ending { cmdX with work := .kernel 1 } doneK) (fun t => (t.queue 513).cmds == [] && t.kernels == []) = true ∧
    gives (.commandComplete 513 40) (ending { other with segs := [.done, .failed] }) (fun t => (t.queue 513).cmds == [] && memLe t.mem 0x102020 4 == 33) = true ∧
    gives (.commandComplete 513 40) (ending { cmdX with work := .fence [(514, 8)] }) (fun t => (t.queue 513).cmds == []) = true := by decide +kernel

theorem test_timeout : gives (.commandTimeout 513 40) (ending { cmdX with work := .fence [(514, 8)], segs := [.done] }) (fun t => (t.queue 513).st == .lost && (t.ctx 7).cause == 0x10 &&
    t.now == 1000 * 1000000) = true := by decide +kernel

/-- A descriptor at the front whose control read waits has a timer; of two commands the earlier one ends (R499). -/
def frontTimed : State := { fab with queues := [(513, { emptyQ with ahead := [fr 0x06], frontWait := some (41, 5) })], fresh := 60 }
def twoTimed : State := { fab with queues := [(513, { emptyQ with cmds := [{ other with segs := [.open_] }, { other with id := 41, since := 10, segs := [.open_] }] })], fresh := 60 }

theorem test_timers : ((ending other).timers.all fun x => decide (1000 * 1000000 ≤ x.2)) = true ∧ frontTimed.timers = [((513, 41), 5 + 1000 * 1000000)] ∧
    (frontTimed.queue 513).cmd? 41 = none ∧ (frontTimed.queue 513).front = some (fr 0x06) ∧
    twoTimed.timers = [((513, 40), 1000 * 1000000), ((513, 41), 10 + 1000 * 1000000)] ∧
    gives (.commandTimeout 513 41) frontTimed (fun t => (t.queue 513).st == .lost && (t.ctx 7).cause == 0x10) = true ∧
    gives (.commandTimeout 513 41) twoTimed (fun t => t.queues == twoTimed.queues) = true := by decide +kernel

/-- The event log of a partition. -/
theorem test_evlog : rdy.owns 0 2 = true ∧ gives (.evlogConfigWrite 0 2 .log2 25) rdy (fun t => t.fld (evlogLog2 2) == 16) = true ∧
    gives (.evlogConfigWrite 0 2 .ctx 0x1007) rdy (fun t => t.fld (evlogCtx 2) == 7) = true ∧
    (let s := (rdy.setFld (evlogHead 2) 3).setFld (evlogTail 2) 5
     gives (.evlogHeadWrite 0 2 5) s (fun t => t.fld (evlogHead 2) == 5) = true ∧ gives (.evlogHeadWrite 0 2 6) s (fun t => t.fld (evlogHead 2) == 3) = true) := by
  decide +kernel

/-! #### Contexts -/

def ctxDescB : List Byte := [2, 0, 2, 0] ++ leBytes 4 0 ++ leBytes 8 0x7000 ++ leBytes 4 1 ++ leBytes 4 2 ++ leBytes 4 1
def stageAt (off : Nat) (b : List Byte) (s : State) : State :=
  (List.range ((b.length + 7) / 8)).foldl (fun s i => s.setWord (fnKey 0 (off + 8 * i)) (BitVec.ofNat 64 (rawLe (b ++ leBytes 8 0) (8 * i) 8))) s
def ctxStage : State := stageAt 0x00202000 ctxDescB ((committed0 fab).setFld (negSel 0 23 20) 2)

theorem test_ctx_create : (let s := ctxStage
    let d := s.staged 0 0x00202000 32
    let x := s.ctxDesc 0 d
    s.vfLive 0 = true ∧ s.committed 0 = true ∧ rawLe d 0 1 = s.fld (negSel 0 23 20) ∧ ctxDescOk d = true ∧ s.owns 0 x.part = true ∧ x.part = 2 ∧
    (s.ctx 0).st = .free ∧ (s.part x.part).st = .ready ∧
    (s.ctxs.filter fun y => y.2.st != .free && y.2.part == x.part).length < (s.part x.part).ctxMax ∧
    x.savePpn + x.saveSlots * x.slotPages ≤ grantPages (s.part x.part).grant ∧ s.pinRefused (s.saveArea x) = false) ∧
    gives (.ctxCreate 0) ctxStage (fun t => (t.ctx 0).st == .live && (t.ctx 0).ptRoot == 0x7000 && (t.page 17).pin == 1) = true := by decide +kernel

theorem test_ctx_ops : (committed0 (mapped rdy)).ctxOwned 0 7 = true ∧ (∀ p < 48, (committed0 (mapped rdy)).epochOf p = 0) ∧
    (committed0 (mapped rdy)).queues = [] ∧
    gives (.ctxDestroy 0 7) (committed0 (mapped rdy)) (fun t => t.ctxs == [] && t.xcache == []) = true ∧
    gives (.ctxQuery 0 7) (committed0 (mapped rdy)) (fun t => t.word (ctxInfo 0 0) == 1) = true ∧
    gives (.ctxKill 0 7) (committed0 (mapped rdy)) (fun t => (t.ctx 7).st == .lost && (t.ctx 7).cause == 0x16 && t.xcache == []) = true := by decide +kernel

/-- CTX_INV of pages 0 and 1: the whole entry that covers them goes, and the L1s of the context's tiles. -/
def invState : State := { committed0 (mapped (with5 { tile5 cl with l1 := [(hl, some l1Line)] })) with fresh := 9 }

theorem test_inv : invState.fld (inv1 0 63 63) = 0 ∧ tabWf tileNone invState.tiles = true ∧ (invState.tile 5).kernel = some 1 ∧
    gives (.ctxInv 0 2 7) invState (fun t => t.xcache == [xhost] && (t.tile 5).l1 == [] && t.invs == [(0, 7, 9)]) = true ∧
    ({ invState with invs := [(0, 7, 9)] } : State).outstanding 7 9 = false ∧
    gives (.ctxInvDone 0) { invState with invs := [(0, 7, 9)] } (fun t => t.invs == [] && t.fld (inv1 0 62 62) == 1) = true ∧
    gives (.atsInvalidate 3 0x100000 1) { mapped rdy with ctxs := [(7, { ctx7 with fn := 3 })] } (fun t => t.xcache == [xdev] && t.sent == [.atsDone 3]) = true ∧
    gives (.atsInvalidate 3 0x200000 1) { mapped rdy with ctxs := [(7, { ctx7 with fn := 3 })] } (fun t => t.xcache == [xdev, xhost]) = true := by decide +kernel

/-- A page request of one kernel, and its answers. -/
def reqPage : PageReq := { ctx := 7, page := 3, write := false, exec := false, kernels := [(1, .read)], sent := true }
def asking (st : KSt) : State := { mapped (one cl) with pageReqs := [reqPage], kernels := [(1, { kern with st := st, swCause := 1 })] }

theorem test_page_response : (asking .out).pageReqs.find? (fun x => x.ctx == 7 && x.page == 3 && x.write == false && x.sent) = some reqPage ∧
    (asking .out).locate 7 (BitVec.ofNat 64 (3 * 4096)) .read = some ⟨false, 0x103000⟩ ∧ ((asking .out).kernel 1).eligible = false ∧
    ((asking .running).kernel 1).st ≠ .done ∧ ((asking .running).ctx 7).st = .live ∧ tabWf tileNone (asking .running).tiles = true ∧
    gives (.pageResponse 7 3 false .success) (asking .out) (fun t => (t.kernel 1).eligible && t.pageReqs == []) = true ∧
    gives (.pageResponse 7 3 false .invalid) (asking .running) (fun t => t.kernels == [] && (t.ctx 7).st == .lost && (t.ctx 7).cause == 0x13) = true := by
  decide +kernel

/-- A request of a ring's fetch is refused; one that nothing asked for, or that comes while a key rotates, does nothing. -/
def fetchReq : PageReq := { ctx := 7, page := 1, write := false, exec := false, fetches := [513], sent := true }
def askingFetch : State := { drv { ringQ with sqTail := 6 } with pageReqs := [fetchReq] }

theorem test_page_fetch : askingFetch.pageReqs.find? (fun x => x.ctx == 7 && x.page == 1 && x.write == false && x.sent) = some fetchReq ∧ askingFetch.rotating = false ∧
    (∀ x ∈ askingFetch.pageReqs, ¬ (x.ctx = 7 ∧ x.page = 2 ∧ x.write = false ∧ x.sent = true)) ∧
    gives (.pageResponse 7 1 false .invalid) askingFetch (fun t => (t.queue 513).fetchBad == [1] && t.pageReqs == []) = true ∧
    gives (.pageResponse 7 2 false .invalid) askingFetch (fun t => t.pageReqs == [fetchReq]) = true := by decide +kernel

/-! #### Partitions -/

/-- A partition of the group 1, four contexts, of pages 100 to 103. -/
def prtDesc : List Byte := [2, 0, 0, 0] ++ leBytes 2 4 ++ leBytes 2 0 ++ leBytes 8 2 ++ leBytes 4 500 ++ [10] ++ leBytes 11 0 ++ leBytes 8 (4 * 2 ^ 36 + 100)
def prtState (ps : Tab Part) : State := stageAt 0x00100000 prtDesc { fab with parts := ps, vfs := 8, pageCount := 46137344 }

theorem test_prt_create : (prtState [(2, part2)]).prtRefused 5 ((prtState [(2, part2)]).staged 0 0x00100000 16) = none ∧ (prtState [(2, part2)]).rot = .idle ∧
    (prtState [(2, part2)]).fld (prtCmd 31 31) = 0 ∧ ((prtState [(2, part2)]).part 5).st = .free ∧
    gives (.prtCreate 5) (prtState [(2, part2)]) (fun t => (t.part 5).groups == 2 && (t.part 5).grant == [(100, 4)] && (t.part 5).ctxMax == 4 && (t.part 5).drainMs == 10) = true ∧
    gives (.prtGrow 2) (prtState [(2, part2)]) (fun t => (t.part 2).grant == [(16, 4), (100, 4)]) = true ∧
    (prtState [(2, part2)]).prtRefused 2 ((prtState [(2, part2)]).staged 0 0x00100000 16) = none ∧ ((prtState [(2, part2)]).tdi 2).st = 0 := by decide +kernel

def owned2 : State := prtState [(2, { part2 with vf := true })]

theorem test_prt_ops : (∀ x ∈ (prtState [(2, part2)]).parts, x.2.byCmd = false) ∧ (prtState [(2, part2)]).queuesOf 2 = [] ∧ 2 + 1 ≤ owned2.vfs ∧
    (owned2.part 2).vf = true ∧ tabWf regReset owned2.regs = true ∧
    gives (.prtAssign 2) (prtState [(2, part2)]) (fun t => (t.part 2).vf) = true ∧
    gives (.prtUnassign 2) owned2 (fun t => !(t.part 2).vf && (t.ctx 7).fn == 0) = true ∧ ((prtState [(2, part2)]).ctx 7).part = 2 ∧
    gives (.prtAssign 2) (prtState [(2, part2)]) (fun t => (t.ctx 7).fn == 3) = true ∧
    ((prtState []).setFld (prtCmd 31 31) 1).fld (prtCmd 31 31) = 1 ∧
    gives (.prtCreate 48) (prtState []) (fun t => t.fld (prtCmd 19 16) == 1) = true := by decide +kernel

/-- A reset drains, and ends; pages are zeroed. -/
def draining2 (destroy : Bool) : State :=
  (prtState [(2, { part2 with st := .resetting, byCmd := true, destroyAfter := destroy })]).setFld (prtCmd 31 31) 1
def zeroing2 : State := { prtState [(2, { part2 with st := .destroying })] with mem := [(0x100100, 7), (0x900000, 8)] }

theorem test_prt_reset : (∀ b ∈ [true, false], ((draining2 b).part 2).st = .resetting ∧ (draining2 b).partBusy 2 = false ∧ ((draining2 b).part 2).tdiStop = false) ∧
    (zeroing2.part 2).st = .destroying ∧ zeroing2.hosts = [] ∧ memWf zeroing2.mem = true := by decide +kernel

/-! #### Migration log and messages -/

theorem test_dlog : rdy.fld (dlogEn 2) = 0 ∧ ((rdy.setFld (dlogEn 2) 1).fld (dlogEn 2)) = 1 ∧
    gives (.dlogEnable 2 0x119) rdy (fun t => t.fld (dlogEn 2) == 1 && t.fld (dlogLog2 2) == 20 && t.fld (dlogRounds 2) == 1) = true ∧
    gives (.dlogEnable 2 0x019) (rdy.setFld (dlogEn 2) 1) (fun t => t.fld (dlogEn 2) == 0) = true ∧
    gives (.dlogRound 2) rdy (fun t => t.fld (dlogRounds 2) == 1) = true ∧
    gives (.dlogHeadWrite 2 4) ((rdy.setFld (dlogHead 2) 3).setFld (dlogTail 2) 5) (fun t => t.fld (dlogHead 2) == 4) = true := by decide +kernel

def unmasked : State := { (rdy.setFld (msixMask 0 9) 0).setWord (msixWord 0 9 0) 0xFEE00000 with raised := [(0, 9)] }

theorem test_msix : unmasked.answers = true ∧ (0, 9) ∈ unmasked.raised ∧ unmasked.fld (msixMask 0 9) = 0 ∧ rdy.fld (msixMask 0 9) = 1 ∧
    gives (.msixSend 0 9) unmasked (fun t => t.sent == [.msix 0 9 0xFEE00000 0] && t.raised == []) = true ∧
    gives (.msixSend 0 9) ({ rdy with raised := [(0, 9)] }) (fun t => t.sent == [] && t.fld (pbaBit 0 9) == 1) = true ∧
    gives (.msixUnmask 0 9) (rdy.setFld (pbaBit 0 9) 1) (fun t => t.sent.length == 1 && t.fld (msixMask 0 9) == 0 && t.fld (pbaBit 0 9) == 0) = true := by
  decide +kernel

/-! ### Models, keys, trust (spec/11, 12, 14) -/

/-- Partition 2 owns the Herbarium, and a model stands staged: weights at address 0, code at 0x1000, the image at 0x2000. -/
def modelB : List Byte := [2, 0] ++ leBytes 2 6 ++ leBytes 2 7 ++ [0x20, 0] ++ [1, 0] ++ leBytes 2 4 ++ leBytes 4 2 ++ leBytes 8 0x1000 ++ leBytes 8 0 ++ leBytes 4 128 ++
  leBytes 4 64 ++ leBytes 4 4096 ++ leBytes 4 0 ++ leBytes 8 0x2000
def herbed (ms : Tab Model := []) : State :=
  stageAt 0x00300100 modelB ((({ fab with parts := [(2, { part2 with herb := true })], models := ms }).setFld herbWays 2).setFld herbStore 1)
def resident6 (r f : Bool) : Model := { ctx := 7, items := 2, entry := 0x1000, weightBytes := 128, codeBytes := 64, imageBytes := 4096, resident := r, filling := f }

theorem test_herb_hyps : rdy.herbOwned 0 = false ∧ rdy.fld (herbCmd 0 31 31) = 0 ∧ (herbed).herbOwned 0 = true ∧ (herbed).herbPart = some 2 ∧
    ((herbed [(6, resident6 true false)]).model 6).registered = true ∧ (herbed [(6, resident6 true false)]).inUse 6 = false ∧
    (herbed [(6, resident6 true false)]).herbPinRefused 6 (resident6 true false) = false ∧ (herbed [(6, resident6 false false)]).herbFits (resident6 false false) = true ∧
    ({ herbed [(6, resident6 true false)] with queues := [(513, { emptyQ with cmds := [{ cmdX with work := .model 6 }] })] } : State).inUse 6 = true ∧
    ((herbed).setFld herbWays 0).herbPinRefused 6 (resident6 true false) = true := by decide +kernel

theorem test_herb_register : (match ((herbed).herbCheck 2 ((herbed).staged 0 0x00300100 8)).2 with
      | some (.inl m) => m.ctx == 7 && m.weightAt == [(0x100000, 128)] && m.imageAt == [(false, 0x102000, 4096)] && m.pins == [16]
      | _ => false) = true ∧ rawLe ((herbed).staged 0 0x00300100 8) 2 2 = 6 ∧
    ((herbed [(6, resident6 true false)]).herbCheck 2 ((herbed).staged 0 0x00300100 8)).2 = some (.inr 2) ∧
    gives (.herbRegister 0) (herbed) (fun t => (t.model 6).registered && (t.page 16).pin == 1) = true ∧
    gives (.herbRegister 0) (herbed [(6, resident6 true false)]) (fun t => t.fld (herbCmd 0 27 24) == 2) = true := by decide +kernel

theorem test_herb_free : HomesFree (herbed [(6, resident6 true false)]) ∧ tabWf regReset (herbed [(6, resident6 true false)]).regs = true ∧ tabWf regReset (herbed).regs = true :=
  ⟨homes_free (by decide +kernel), by decide +kernel⟩

theorem test_herb_ops : gives (.herbUnregister 0 6) (herbed [(6, resident6 true false)]) (fun t => t.models == []) = true ∧
    gives (.herbPin 0 6) (herbed [(6, resident6 true false)]) (fun t => (t.model 6).pinned) = true ∧
    gives (.herbUnpin 0 6) (herbed [(6, { resident6 true false with pinned := true })]) (fun t => !(t.model 6).pinned) = true ∧
    gives (.herbPrefetch 0 6) (herbed [(6, resident6 true false)]) (fun t => t.fld (herbCmd 0 31 31) == 0) = true ∧
    gives (.herbPrefetch 0 6) (herbed [(6, resident6 false false)]) (fun t => t.fld (herbCmd 0 31 31) == 1 && (t.model 6).filling && t.prefetches == [(0, 6)]) = true := by
  decide +kernel

theorem test_herb_fill : ((herbed [(6, resident6 false true)]).model 6).filling = true ∧ ((herbed [(6, resident6 false true)]).model 6).refill = false ∧
    (herbed [(6, resident6 false true)]).rotating = false ∧ ((herbed).part 2).st = .ready := by decide +kernel

/-! #### Key slots -/

def mb (type slot : Nat) (force : Bool := false) : MbCmd := ⟨force, BitVec.ofNat 2 type, BitVec.ofNat 7 slot⟩
/-- Slot 3 bound to partition 2, which is encrypted; or to none. -/
def keyed (bound : Bool) (k : KeySlot) : State :=
  { mapped rdy with keys := [(3, k)], parts := [(2, { part2 with enc := bound, key := 3 })] }

theorem test_key_hyps : (keyed false {}).answers = true ∧ (keyed false {}).fld (mbCmd 31 31) = 0 ∧ (keyed false {}).slotBusy 3 = false ∧
    (keyed true { st := 1, type := 1 }).slotBusy 3 = true ∧ (keyed true { st := 1, type := 1 }).lockedOn 3 = [] ∧ rdy.fld tcNoPlain = 0 ∧
    (rdy.setFld tcNoPlain 1).fld tcNoPlain = 1 ∧ ((keyed false { st := 2, type := 1, next := 9 }).keySlot 3).users = [] := by decide +kernel

theorem test_keys : gives (.mbGenerate (mb 1 3)) (keyed false {}) (fun t => (t.keySlot 3).st == 1 && (t.keySlot 3).type == 1 && (t.keySlot 3).installs == 1 && t.freeCtr == 1) = true ∧
    gives (.mbSetPlain (mb 1 3)) ((keyed false {}).setWord 0x00900140 77) (fun t => (t.keySlot 3).key == 77 && t.word 0x00900140 == 0) = true ∧
    gives (.mbSetPlain (mb 1 3)) ((keyed false {}).setFld tcNoPlain 1) (fun t => t.fld (mbStat 7 0) == 0x0B) = true ∧
    gives (.mbGenerate (mb 3 3)) (keyed false {}) (fun t => t.fld (mbStat 7 0) == 0x0B) = true ∧
    gives (.mbGenerate (mb 1 3)) (keyed true { st := 1, type := 1 }) (fun t => t.fld (mbStat 7 0) == 0x0E) = true ∧
    gives (.mbErase (mb 1 3)) (keyed false { st := 1, type := 1 }) (fun t => (t.keySlot 3).st == 0) = true ∧
    gives (.mbQuery (mb 1 3)) (keyed true { st := 1, type := 1 }) (fun t => t.fld (mbStat 7 0) == 0) = true ∧
    gives (.mbGenerate (mb 1 3 true)) (keyed true { st := 1, type := 1 }) (fun t => (t.keySlot 3).st == 2 && t.fld (mbCmd 31 31) == 1) = true ∧
    gives (.keyRetireDone 3) (keyed false { st := 2, type := 1, next := 9 }) (fun t => (t.keySlot 3).st == 1 && (t.keySlot 3).key == 9) = true := by decide +kernel

/-! #### SPDM, IDE, TDISP, unlock, firmware -/

def talking (n : Nat) (ss : List Sess := []) (more : State → State := id) : State := more { rdy with trust := { conns := [(0, n)], sessions := ss } }
def algs : SpdmAlgs := ⟨true, true, true, true⟩

theorem test_spdm : (∀ n ∈ [0, 1, 2, 3], (talking n).hears .doe = true ∧ (talking n).conn .doe = n) ∧ (talking 0).hears .i3c = true ∧
    gives (.getDigests .doe) (talking 2) (fun t => t.sent == [.spdm .doe (.error .unexpectedRequest)]) = true ∧
    gives (.getVersion .doe) (talking 0) (fun t => t.conn .doe == 1) = true ∧
    gives (.negotiateAlgorithms .doe algs) (talking 2) (fun t => t.conn .doe == 3) = true ∧
    gives (.negotiateAlgorithms .doe { algs with p384 := false }) (talking 2) (fun t => t.conn .doe == 2) = true ∧
    gives (.getCertificate .doe 1) (talking 3) (fun t => t.sent == [.spdm .doe (.error .invalidRequest)]) = true ∧
    gives (.getMeasurements .doe ⟨0, false⟩) (talking 3) (fun t => t.sent == [.spdm .doe (.count 10 none)]) = true ∧
    gives (.getMeasurements .doe ⟨0, true⟩) (talking 3) (fun t => match t.sent with
      | [.spdm .doe (.count 10 sig)] => sig.isSome
      | _ => false) = true := by decide +kernel

/-- Sessions 0 and 2 stand open; the next is 1. -/
def sess (n : Nat) (o : Bool := true) (m : Bool := false) (root : Nat := 0) : Sess := { id := n, via := .doe, open_ := o, mutual_ := m, root := root }

theorem test_sessions : (talking 3 [sess 0, sess 2]).trust.sessions.map (·.id) = [0, 2] ∧
    gives (.keyExchange .doe) (talking 3 [sess 0, sess 2]) (fun t => t.trust.sessions.map (·.id) == [0, 2, 1] && t.fld tcSessions == 3) = true ∧
    gives (.spdmFinish 0 ⟨true, 5, true⟩) (talking 3 [sess 0 false]) (fun t => t.trust.sessions == [sess 0 true true 5]) = true ∧
    gives (.spdmFinish 0 ⟨true, 5, false⟩) (talking 3 [sess 0 false]) (fun t => t.trust.sessions == []) = true ∧
    gives (.endSession 0) (talking 3 [sess 0]) (fun t => t.trust.sessions == [] && t.sent == [.spdm .doe .endSessionAck]) = true := by decide +kernel

theorem test_in_session : ∀ x ∈ [sess 0, sess 0 false], InSession (talking 3 [x]) 0 x := by
  intro x hx
  exact ⟨by revert x; decide +kernel, by revert x; decide +kernel⟩

/-- Keys through a session with the right root; IDE keys. -/
def rooted (s : State) : State := s.setWord (keyAuth 0) 5

theorem test_kz_key_set : (rooted (talking 3 [sess 0 true true 5])).authRoot = 5 ∧ (rooted (talking 3 [sess 0 true true 5])).fld tcUnlocked = 0 ∧
    (rooted (talking 3 [sess 0 true true 5])).slotBusy 3 = false ∧
    gives (.kzKeySet 0 3 1 false 99) (rooted (talking 3 [sess 0 true true 5])) (fun t => (t.keySlot 3).st == 1 && (t.keySlot 3).key == 99) = true ∧
    gives (.kzKeySet 0 3 1 false 99) (rooted (talking 3 [sess 0 true true 6])) (fun t => t.sent == [.spdm .doe (.error .unauthorized)]) = true := by decide +kernel

def ide (go : Bool) : IdeKm := ⟨4, .selective, false, 1, false, 77, go⟩
def ideK : IdeKey := { stream := 4, kind := .selective, tx := false, sub := 1, kbit := false, key := 77 }

theorem test_ide : gives (.ideKm 0 (ide false)) (talking 3 [sess 0]) (fun t => t.trust.ide == [ideK]) = true ∧
    gives (.ideKm 0 (ide true)) (talking 3 [sess 0] fun s => { s with trust := { s.trust with ide := [ideK] } }) (fun t => t.trust.ide == [{ ideK with active := true }]) = true ∧
    gives (.ideIntegrityFail 4) (talking 3 [sess 0] fun s => { s with trust := { s.trust with ide := [ideK] }, tdis := [(2, { st := 2, stream := 4 })] })
      (fun t => t.trust.ide == [] && t.tdi 2 == { st := 3, stream := 4, err := 3 }) = true := by decide +kernel

/-- A partition that can be locked: of a virtual function, encrypted, its slot bound to it alone, no context, a secured stream. -/
def streamKeys : List IdeKey := [true, false].flatMap fun tx => [0, 1, 2].map fun k => { stream := 4, kind := .selective, tx := tx, sub := k, kbit := false, key := 1, active := true }
def lockable (st : Nat) (ps : PartSt := .ready) : State := talking 3 [sess 0] fun s => { s with
  parts := [(2, { part2 with st := ps, vf := true, enc := true, key := 3 })], keys := [(3, { st := 1, type := 1 })], tdis := [(2, { st := st, stream := 4 })]
  trust := { s.trust with ide := streamKeys } }

theorem test_tdi : (lockable 0).lockRefused 2 4 = false ∧ (lockable 1).lockRefused 2 4 = true ∧ ((lockable 1).tdi 2).st = 1 ∧ ((lockable 1).part 2).st = .ready ∧
    gives (.startInterface 0 2) (lockable 1) (fun t => (t.tdi 2).st == 2) = true ∧
    gives (.stopInterface 0 2) (lockable 1) (fun t => (t.part 2).st == .resetting && (t.part 2).tdiSess == some 0) = true ∧
    gives (.getDeviceInterfaceReport 0 2) (lockable 0) (fun t => t.sent == [.spdm .doe (.error .invalidRequest)]) = true ∧
    gives (.tdiError 2 2) (lockable 1) (fun t => t.tdi 2 == { st := 3, stream := 4, err := 2 } && (t.keySlot 3).st == 0) = true := by decide +kernel

theorem test_unlock_hyps : (talking 3).conn .doe = 3 ∧ (talking 3).parts = [] ∧ (talking 3).fuses.unlocks < 255 ∧
    (7, 0) ∈ (talking 3 [] fun s => { s with trust := { s.trust with challenges := [(7, 0)] } }).trust.challenges ∧
    (talking 3).now ≤ 0 + 60 * 10 ^ 12 := by decide +kernel

def image : Image := ⟨1, 9, true⟩
theorem test_firmware : (talking 0).hears .i3c = true ∧ (talking 0).accepts 5 image = true ∧ (talking 0).accepts 5 { image with svn := 0 } = false ∧
    gives (.firmwareUpdate 5 image) (talking 0) (fun t => (t.fwOf 5).b == image && t.sent == [.spdm .i3c (.pldm true)]) = true ∧
    ((talking 0).fwOf 5).runB = false := by decide +kernel

/-! ### Power, boot, service, the host's windows (spec/13 to 16) -/

/-- A module in the lowest state, its brake and alert asserted. -/
def braked (brake alert : Nat) : State :=
  (((rdy.setFld pwrLowest 1).setFld (pwrStat 20 20) brake).setFld (pwrStat 21 21) alert).setFld pwrB 224
def sampleOf (p l : Int) : PowerSample := ⟨some p, some l, [], [], [], []⟩

theorem test_power_hyps : rdy.pwr.supply = 2 ∧ rdy.pwr.bad = false ∧ rdy.fld pwrLowest = 0 ∧ (braked 1 1).fld pwrLowest = 1 ∧ rdy.fld (pwrStat 20 20) = 0 ∧
    rdy.fld (pwrStat 21 21) = 0 ∧ (braked 1 0).fld (pwrStat 20 20) = 1 ∧ (braked 0 1).fld (pwrStat 21 21) = 1 ∧ rdy.answers = true ∧ rdy.up = true := by decide +kernel

theorem test_cap_fail : gives .capFail { rdy with pwr := { rdy.pwr with overSince := some 5, sampleAt := 5 + 10 ^ 9 } } (fun t => t.fld pwrLowest == 1 && t.pwr.capFail) = true := by decide +kernel

theorem test_lowest : gives (.brakeAssert 100) rdy (fun t => t.fld pwrLowest == 1 && t.fld pwrB == 224 && (t.clk 3).mhz == 600 && t.fld (pwrEvt 0) == 1) = true ∧
    gives (.brakeAssert 99) rdy (fun t => t.fld pwrLowest == 0) = true ∧
    gives (.converterAlert 200 7) rdy (fun t => t.fld pwrLowest == 1 && t.fld (pwrEvt 1) == 1) = true ∧
    gives (.brakeRelease 10000) (braked 1 0) (fun t => t.fld pwrLowest == 0 && t.fld pwrB == 224) = true ∧
    gives (.brakeRelease 10000) (braked 1 1) (fun t => t.fld pwrLowest == 1) = true ∧
    gives (.alertRelease 1000000) (braked 0 1) (fun t => t.fld pwrLowest == 0) = true := by decide +kernel

theorem test_power_registers : gives (.sensorTimeout .power) rdy (fun t => t.pwr.bad && t.fld (pwrEvt 4) == 1 && t.now == 10 ^ 8) = true ∧
    gives (.tclkSet 3 1799) rdy (fun t => t.fld (tclkReg 3 10 0) == 1775) = true ∧ gives (.tclkSet 3 599) rdy (fun t => t.fld (tclkReg 3 10 0) == 600) = true ∧
    gives (.tclkSwitch 3) (rdy.setFld (tclkReg 3 10 0) 1200) (fun t => (t.clk 3).mhz == 1200) = true ∧
    gives (.pwrCapWrite 100) rdy (fun t => t.fld (pwrCap 11 0) == 2400) = true ∧
    gives (.pmbusPoll ⟨48000, 0, 0, 0, 0, 0⟩) rdy (fun t => t.fld (pwrStat 47 32) == 4800) = true := by decide +kernel

theorem test_sensor_timeout : gives (.sensorTimeout (.frond 2)) rdy (fun t => (t.reading 40).invalid) = true ∧
    gives (.sensorTimeout .pmbus) rdy (fun t => t.pwr.bad && t.fld pwrB == 128 && t.now == 5 * 10 ^ 9) = true := by decide +kernel

/-! #### Boot -/

def booting (stage : Nat) : State := { regs := [(0x00A00000, BitVec.ofNat 64 stage)], pwr := { supply := 2, perst := false } }
def straps : Straps := ⟨[true, true, false], [5, 5, 9]⟩
def tripped : State := { State.reset with pwr := { supply := 3, inRange := true } }
def noErrors : SelfTest := ⟨[], [], [], [], [], false, false⟩

theorem test_boot_hyps : State.reset.pwr.inRange = false ∧ State.reset.pwr.supply ≠ 3 ∧ State.reset.pwr.perst = true ∧ (∀ n ∈ [1, 2, 3, 4], (booting n).up = true ∧ (booting n).fld bootStage = n) ∧
    (booting 1).accepts 2 ((booting 1).fwOf 2).a = true ∧ rdy.pwr.perst = false ∧ tripped.pwr.supply = 3 ∧
    (let s : State := { rdy with pwr := { rdy.pwr with hotSince := [(0, 4, 7)], sampleAt := 7 + 10 ^ 8 } }
     4 < tripUnits .junction ∧ s.pwr.hotSince.find? (fun x => x.1 == tripNo .junction && x.2.1 == 4) = some (0, 4, 7)) := by decide +kernel

theorem test_boot : gives (.inputInRange 40000 0xF) State.reset (fun t => t.pwr.supply == 1 && t.pwr.inRange && t.fld (elsReg 2 0 0) == 1) = true ∧
    gives (.inputBelowRange 35999) rdy (fun t => t.pwr.supply == 0 && t.regs.all (fun x => x.1 != 0x00A00000)) = true ∧
    gives (.inputBelowRange 36000) rdy (fun t => t.pwr.supply == 1) = true ∧
    gives .railsUp { State.reset with pwr := { supply := 1, inRange := true } } (fun t => t.pwr.supply == 2) = true ∧
    gives (.perstAssert 100000) rdy (fun t => t.fld bootStage == 0 && t.pwr.perst) = true ∧
    gives .trustStageDone (booting 1) (fun t => t.fld bootStage == 2) = true ∧
    gives .imagesStageDone (booting 2) (fun t => t.fld bootStage == 3) = true ∧
    gives (.selftestStageDone noErrors) (booting 3) (fun t => t.fld bootStage == 4) = true ∧
    gives (.selftestStageDone { noErrors with badWays := [(4, 0), (4, 1), (4, 2)] }) (booting 3) (fun t => t.fld bootStage == 7) = true ∧
    gives (.memoryStageDone ⟨[], []⟩ 70000) (booting 4) (fun t => t.fld bootStage == 5 && t.fld bootMs == 4464) = true ∧
    gives .tripClear tripped (fun t => t.pwr.supply == 1) = true := by decide +kernel

/-! #### Errors and service -/

theorem test_fatal : gives (.fatalError 5) fab (fun t => (t.ctx 7).st == .lost && (t.ctx 7).cause == 0x16 && t.mem == fab.mem) = true := by
  decide +kernel

theorem test_errors : gives (.fatalError 5) rdy (fun t => t.fld bootStage == 8 && t.unsaved.fatals == [5]) = true ∧
    gives (.stipeFlitReplay 7 false) { rdy with links := [(7, 31)] } (fun t => t.fld bootStage == 8) = true ∧ rdy.fld rasCeThr ≠ 0 ∧ rdy.fld bootStage = 5 ∧
    gives (.tileErrorReport 5 (.corrected 3)) (rdy.setFld rasAuto 0) (fun t => t.tileCe == [(5, 1)] && t.quarantined == []) = true ∧
    gives (.tileErrorReport 5 (.sram none 0)) rdy (fun t => t.quarantined == [(5, false)]) = true := by decide +kernel

theorem test_spares : rdy.fld (spareCmd 31 31) = 0 ∧ rdy.waitSpare (frondOf 200) = [] ∧ (rdy.spares (frondOf 200)).length = 8 ∧
    gives (.spareQuarantine 200) rdy (fun t => t.quarantined == [(200, true)] && t.fld (spareCmd 10 0) == 200) = true ∧
    ((rdy.setFld (spareCmd 10 0) 200).fld (spareCmd 10 0)) = 200 ∧
    gives (.spareCancel 200) { rdy with quarantined := [(200, true)], tiles := [(200, { kernel := some 1 })] } (fun t => t.quarantined == []) = true ∧
    gives (.spareCancel 200) { rdy with quarantined := [(200, true)] } (fun t => t.quarantined == [(200, true)] && t.fld (spareCmd 27 24) == 4) = true ∧
    ({ rdy with quarantined := [(200, true)] } : State).rot = .idle ∧ (rdy.tile 200).kernel = none ∧
    rdy.answers = true ∧ ({ rdy with quarantined := [(200, true)] } : State).addressed 200 = false ∧
    gives (.tileSubstitute 200) { rdy with quarantined := [(200, true)], rsps := [rspOf .fwd 200] } (fun t => t.quarantined == [(200, true)]) = true := by decide +kernel

theorem test_bist : rdy.fld (bistCmd 63 63) = 0 ∧ rdy.bistReady 3 4 = false ∧ rdy.bistReady 2 4 = true ∧
    gives (.bistFastChannel 4 9) rdy (fun t => t.fld (bistRes 3 0) == 2) = true ∧ gives (.bistSpares 12 9) rdy (fun t => t.fld (bistRes 3 0) == 3) = true ∧
    gives (.bistSpares 4 9) { rdy with now := 8 } (fun t => t.bist == some (2, 4, 9, 8)) = true := by decide +kernel

theorem test_service : gives .serviceRecordWrite { rdy with unsaved := { trips := [(0, 4)] } } (fun t => t.unsaved == {} && t.svc.trips == [(0, 4)]) = true ∧
    (rdy.setFld ⟨0x00A00020, 16, 16⟩ 1).fld ⟨0x00A00020, 16, 16⟩ = 1 ∧
    gives (.channelRecal true 4 50) (rdy.setFld ⟨0x00A00020, 16, 16⟩ 1) (fun t => tabGet (fun _ => none) t.recals 4 == some (50, t.now)) = true ∧
    gives .i3cStallTimeout rdy (fun t => t.word (0x00A00800 + 8 * 0x1D) == 1) = true ∧
    gives (.boundaryScanInstruction 4) State.reset (fun t => t.tap == some 4 || t.tap == none) = true := by decide +kernel

/-! #### Register writes and BAR4 -/

theorem test_register_writes : 0x00900040 ∉ rdy.locks ∧
    gives (.registerWrite 0 0 0x00900040 8 5) rdy (fun t => t.word 0x00900040 == 5 && t.locks == [0x00900040]) = true ∧
    gives (.registerWrite 0 0 0x00900040 8 5) { rdy with locks := [0x00900040] } (fun t => t.word 0x00900040 == 0) = true ∧
    gives (.registerWrite 0 0 0x00C00000 4 99) rdy (fun t => t.fld telEpochUs == 100) = true ∧
    gives (.registerWrite 0 0 0x00800002 4 0) rdy (fun t => t.word (0x00A00800 + 8 * 0x1D) == 1) = true ∧
    ¬ ((4 = 4 ∨ 4 = 8) ∧ 0x00800002 % 4 = 0) ∧ 0x00800002 < barSize 0 0 ∧ vfOffset 2 0x30 = none ∧
    ({ rdy with vfs := 3, parts := [(2, { part2 with vf := true })] } : State).vfLive 3 = true := by decide +kernel

/-- Function 3, the virtual function of partition 2, at offset 0x100 of its BAR4. -/
def windowed : State := { mapped rdy with vfs := 3, parts := [(2, { part2 with vf := true })], mem := [(0x100100, 7)] }
def bar (w : Option (List Byte)) (at_ : Bool := false) : Bar4 := ⟨0x100, w, 4, at_, none, false⟩

theorem test_bar4 : windowed.rotating = false ∧ windowed.vfLive 3 = true ∧ 0x100 + 4 ≤ windowed.bar4Of 3 ∧ windowed.bar4Byte 3 0x100 = some 0x100100 ∧
    windowed.tdiAllows 3 (bar none) 16 = true ∧ windowed.rangeBad 0x100100 4 = false ∧ windowed.releasedIn 0x100100 4 = false ∧
    gives (.bar4Access 3 (bar none)) windowed (fun t => t.sent == [.bar4Data 3 0x100 [7, 0, 0, 0] false]) = true ∧
    gives (.bar4Access 3 (bar (some [1, 2]))) windowed (fun t => t.mem == [(0x100100, 1), (0x100101, 2)]) = true ∧
    gives (.bar4Access 3 (bar none true)) windowed (fun t => t.sent == [.unsupported 3 0x100]) = true := by decide +kernel

/-! ### The whole block -/

/-- Two commands wait: the first runs, with the other left in the queue; with none the block idles. -/
theorem test_step : (match step { rdy with pending := [.tclkSet 3 1200, .tripClear] } with
      | .next t => t.fld (tclkReg 3 10 0) == 1200 && t.pending == [.tripClear]
      | _ => false) = true ∧
    (match step rdy with
      | .next t => t.now == 5000
      | _ => false) = true := by decide +kernel

/-- The canonical forms hold at power-on and in a state with something in every table (R321, log 4). -/
theorem test_inv_reset : State.reset.Inv := by refine ⟨?_, ?_, ?_, ?_⟩ <;> decide +kernel
theorem test_inv_some : ({ windowed with host := [(7, 1)] } : State).Inv := by refine ⟨?_, ?_, ?_, ?_⟩ <;> decide +kernel

/-- A unit that the part does not have. -/
theorem test_no_such_unit : exec (.tclkSet 12 0) rdy = .fault .noSuchUnit ∧ exec (.portLightOn 32) rdy = .fault .noSuchUnit ∧
    Instr.wf (.tclkSet 12 0) = false := ⟨rfl, rfl, by decide +kernel⟩

/-- Keys are untouched by a command of another unit, for a slot that holds one. -/
theorem test_keys_stay : gives (.tclkSet 3 1200) (keyed true { st := 1, type := 1, key := 9 }) (fun t => (t.keySlot 3).key == 9) = true := by decide +kernel

/-! ### What several statements ask of the homes, of order and of waiting -/

def filling6 : State := herbed [(6, resident6 false true)]

/-- The homes of these states act at once. -/
theorem test_homes_free : ∀ s ∈ [drained, allSaved, outKernel slotCtx headMem, zeroing2, filling6, windowed], HomesFree s := by
  intro s hs
  exact homes_free (by revert s; decide +kernel)

/-- Two READY clauses: the older is promoted (R68); with equal cycles the lower sr.block. -/
def twoReady : State := with5 (readyTile [] [(3, { cl with st := .ready, readyAt := ⟨4, 1, 0⟩ }), (4, { cl with st := .ready, readyAt := ⟨4, 0, 7⟩ })])

theorem test_promote_tie : ((twoReady.tile 5).clause 4).readyAt.before ((twoReady.tile 5).clause 3).readyAt = true ∧
    gives (.promote 5 0) twoReady (fun t => (t.tile 5).slot 0 == some 4) = true := by decide +kernel

/-- An answer that meets the condition stands at the tile as the limit passes (R172); answers in order (R275, R365). -/
theorem test_limit_met : (wordRead {} 6 0).rereadMet at3 = true ∧ (wordRead {} 6 0).cycle (frondOf 5) ≤ 100 ∧
    gives (.waitLimitExpire at3) (wordRead {} 6 0) (fun t => (t.clause at3).getP 1 == 15) = true ∧
    (out2 []).timedOut.contains 90 = false ∧ ((out2 [] [hreq .rd 40]).hostReqs.takeWhile (·.id != 95)) = [] ∧ (cl.st ≠ .empty ∧ cl.uid = (hreq .wr 41 true).uid) := by
  decide +kernel

/-- No access of a stopped kernel is out; a tile may be saved, and its kernel leaves. -/
theorem test_no_access_out : (running (fun k => { k with fault := some (7, 5, 0x1000) }) id).accessOut 1 = false ∧ drained.hostOut 1 5 = false ∧
    (drained.kernel 1).fault = none ∧ (savedTile.kernel 1).fault = none ∧ (allSaved.kernel 1).fault = none ∧ drained.rotating = false ∧ allSaved.rotating = false := by
  decide +kernel

/-- Room for a ticket's request; a forward that can go out, and one that was not answered in time (R301, R305, R313). -/
theorem test_home_room : (withSt .ticket).canGrant { hreqs .rd with st := .ticket } = true ∧ (homeSt (hreqs .rdRo) (whole (some 6))).fwdOut 6 < 8 ∧
    (∀ s ∈ [missing, snooping], s.wayRoom hl 0 = true) ∧ (hreqs .rdRo).kind = .rdRo ∧ (forward .fwdMiss none).upsets = [] ∧
    ((forward .fwdMiss none).page (hl / 512)).released = false ∧
    (∀ w ∈ [MissWhy.snoopData, .snoopInv], ∀ e ∈ (snooped .em w).misses, ∀ z, e.2 = some z → z.why ≠ .recall hl) ∧
    filling.repairs = [] ∧ filling.upsets = [] := by decide +kernel

/-- A rotation with nothing held for its end; and TIER_CMD over a page that moves, until the move ends (R342, R359). -/
theorem test_waits : rekeying.prtHeld = none ∧ (∀ x ∈ rekeying.parts, x.2.tdiStop = false) ∧ 2 * draining.hosts.length + draining.missOff.length < 48 ∧
    tabWf (fun _ => none) draining.frames = true ∧
    gives .tierPinFast tiered (fun t => t.fld (fieldAt 0x00400028 31 31) == 1 && t.tierWaits == [21]) = true ∧
    gives .tierPinFast tierReg (fun t => t.fld (fieldAt 0x00400028 31 31) == 0 && t.tierWaits == []) = true ∧
    gives (.pageMoveDone 20 []) { underway.setFld (fieldAt 0x00400028 31 31) 1 with tierWaits := [20] } (fun t => t.fld (fieldAt 0x00400028 31 31) == 0) = true ∧
    underway.repairs = [] ∧ underway.frames = [] := by decide +kernel

/-- A heartbeat and a PACE with none of their source before them (R386). -/
theorem test_hypha_turn : hbM.hyphaTurn 1 = true ∧ (inboxed fab (ctlM 0x11 7)).hyphaTurn 1 = true ∧ inMsg.isHypha = false := by decide +kernel

/-- MOVE TIER over a page that moves: the command waits for its end, and completes after it (R342, R359). -/
def tierMoving : State := { front (tierD 2) with moves := [{ page := 16, dest := ⟨true, 50⟩ }] }

theorem test_move_tier_waits : gives (.moveTier 513) tierMoving (fun t => (t.page 16).late == some 2 && (t.queue 513).cmds.map (·.work) == [.tier [16]]) = true ∧
    gives (.commandComplete 513 40) (ending { cmdX with work := .tier [16] }) (fun t => (t.queue 513).cmds == []) = true := by decide +kernel

/-- A kernel that is over, on tile 5; and over but for a host write of a clause that has exited (R289, R292). -/
def over5 : State := { ending { cmdX with work := .kernel 1 } doneK with tiles := [(5, { kernel := some 1, lastPart := some 2 })] }

theorem test_over : (∀ r ∈ over5.hostReqs, r.kernel ≠ 1) ∧ (over5.kernel 1).isOver = true ∧ (over5.kernel 1).tiles = [5] ∧
    gives (.commandComplete 513 40) over5 (fun t => (t.queue 513).cmds == [] && (t.tile 5).kernel == none) = true ∧
    gives (.commandComplete 513 40) { over5 with hostReqs := [hreq .wr 41 true] } (fun t => (t.queue 513).cmds.length == 1 && (t.tile 5).kernel == some 1) = true := by
  decide +kernel

theorem test_over_tiles (u : Nat) : (over5.tile u).kernel = some 1 ↔ u ∈ (over5.kernel 1).tiles := by
  rw [show (over5.kernel 1).tiles = [5] from test_over.2.2.1, List.mem_singleton]
  by_cases h : u = 5
  · subst h; exact ⟨fun _ => rfl, fun _ => by decide +kernel⟩
  · rw [show over5.tile u = {} from tabGet_one_of_ne _ _ h]
    exact ⟨fun hk => (nomatch hk), fun hu => absurd hu h⟩

/-- A PRT_CMD write while an op runs; a STOP_INTERFACE that waits for a rotation; BAR4 read while the host agent is silent (R20, R268, R316). -/
theorem test_held_up : gives (.prtCreate 5) ((prtState []).setFld (prtCmd 31 31) 1) (fun t => t.fld (prtCmd 2 0) == 1 && t.fld (prtCmd 13 8) == 5 && t.parts == []) = true ∧
    gives (.stopInterface 0 2) { lockable 1 with rot := .draining } (fun t => (t.part 2).st == .ready && (t.part 2).tdiStop) = true ∧
    (lockable 0).hosts = [] ∧ (lockable 1).rot = .idle ∧ windowed.silent = false ∧ zeroing2.rotating = false ∧
    gives (.bar4Access 3 (bar none)) { windowed with silent := true } (fun t => t.sent == [.bar4Data 3 0x100 [0, 0, 0, 0] true]) = true := by decide +kernel

/-! ### Well-formed commands: an ill-formed term for each check, refused -/

def badOf (good bad : Instr) : Bool := good.wf && !bad.wf
def lineEnd : Nat := 46104576 * 512
def okBar : Bar4 := bar none
def sixty : List Nat := List.replicate 48 0
def fullSample : PowerSample := ⟨none, none, sixty, List.replicate 12 (List.replicate 20 none), List.replicate 16 none, List.replicate 8 none⟩

theorem test_wf_tiles : badOf (.nop ⟨1535, 71⟩ (word 0)) (.nop ⟨1536, 71⟩ (word 0)) ∧ badOf (.nop ⟨1535, 71⟩ (word 0)) (.nop ⟨1535, 72⟩ (word 0)) ∧
    badOf (.qsc 1535) (.qsc 1536) ∧ badOf (.promote 0 7) (.promote 0 8) ∧ badOf (.promote 1535 7) (.promote 1536 7) := by decide +kernel

theorem test_wf_cache : badOf (.grant 511) (.grant 512) ∧ badOf (.h2dSnoop (lineEnd - 1)) (.h2dSnoop lineEnd) ∧
    badOf (.hostWriteBack 0 true ⟨lineOf 7, 0⟩) (.hostWriteBack 0 true ⟨[7], 0⟩) ∧ badOf (.hostWriteBack 0 true ⟨lineOf 7, 0⟩) (.hostWriteBack lineEnd true ⟨lineOf 7, 0⟩) ∧
    badOf (.birsps 0 (some ⟨lineOf 7, 0⟩)) (.birsps 0 (some ⟨[], 0⟩)) ∧ badOf (.birspi 0 none) (.birspi lineEnd none) ∧
    badOf (.fillReturn 0 [⟨3, true, 0⟩] []) (.fillReturn 0 [⟨4, true, 0⟩] []) ∧
    badOf (.fillReturn 0 [] [⟨3, true⟩]) (.fillReturn 0 [] [⟨4, true⟩]) ∧ badOf (.rd 0 [⟨3, true⟩]) (.rd 0 [⟨4, true⟩]) ∧
    badOf (.fillReturn 0 [] []) (.fillReturn lineEnd [] []) := by decide +kernel

theorem test_wf_tiers : badOf (.pageMoveStart 0) (.pageMoveStart maxPages) ∧ badOf (.pageMoveDone 0 [2047]) (.pageMoveDone 0 [2048]) ∧
    badOf (.pageMoveDone 0 []) (.pageMoveDone maxPages []) ∧ badOf (.mapRebuildDone 31) (.mapRebuildDone 32) ∧ badOf (.stackTempSample 15 0) (.stackTempSample 16 0) ∧
    badOf (.tempReadingTimeout true 15) (.tempReadingTimeout true 16) ∧ badOf (.capTempReport 15 0 0) (.capTempReport 16 0 0) ∧
    badOf (.scrubRead false 33554431 []) (.scrubRead false 33554432 []) ∧ badOf (.scrubRead true 12582911 []) (.scrubRead true 12582912 []) ∧
    badOf (.scrubRead true 0 [⟨2047, true, 0⟩]) (.scrubRead true 0 [⟨2048, true, 0⟩]) ∧
    badOf (.columnRepairDone 511) (.columnRepairDone 512) ∧ badOf (.channelNoAnswer true 511) (.channelNoAnswer true 512) ∧
    badOf (.channelMappedOut false 31) (.channelMappedOut false 32) := by decide +kernel

theorem test_wf_functions : badOf (.msixSend 48 2047) (.msixSend 49 2047) ∧ badOf (.msixSend 48 2047) (.msixSend 48 2048) ∧ badOf (.negCommit 48) (.negCommit 49) ∧
    badOf (.sqTail 0 12287 0) (.sqTail 0 12288 0) ∧ badOf (.sqTail 1 255 0) (.sqTail 1 256 0) ∧ badOf (.sqTail 48 0 0) (.sqTail 49 0 0) ∧
    badOf (.launch 12287) (.launch 12288) ∧ badOf (.evlogHeadWrite 48 47 0) (.evlogHeadWrite 49 47 0) ∧ badOf (.evlogHeadWrite 48 47 0) (.evlogHeadWrite 48 48 0) ∧
    badOf (.pageResponse 4095 0 true .success) (.pageResponse 4096 0 true .success) ∧ badOf (.functionLevelReset 48) (.functionLevelReset 49) ∧
    badOf (.functionLevelReset 1) (.functionLevelReset 0) ∧ badOf (.bar4Access 48 okBar) (.bar4Access 49 okBar) ∧ badOf (.bar4Access 0 okBar) (.bar4Access 0 { okBar with size := 0 }) ∧
    badOf (.registerWrite 0 0 (2 ^ 26 - 4) 4 0) (.registerWrite 0 0 (2 ^ 26) 4 0) ∧ badOf (.registerWrite 1 0 65532 4 0) (.registerWrite 1 0 65536 4 0) ∧
    badOf (.registerWrite 1 2 0 4 0) (.registerWrite 1 1 0 4 0) ∧ badOf (.registerWrite 48 2 0 4 0) (.registerWrite 49 2 0 4 0) := by decide +kernel

theorem test_wf_fabric : badOf (.portLightOn 31) (.portLightOn 32) ∧ badOf (.elsSvc 3) (.elsSvc 4) ∧ badOf (.flitReceive 31 flitOf) (.flitReceive 32 flitOf) ∧
    badOf (.flitReceive 31 flitOf) (.flitReceive 31 { flitOf with body := [] }) ∧ badOf (.peerTimeout 47 16383 .route) (.peerTimeout 48 16383 .route) ∧
    badOf (.peerTimeout 47 16383 .route) (.peerTimeout 47 16384 .route) ∧ badOf (.hbSend 47) (.hbSend 48) := by decide +kernel

theorem test_wf_trust : badOf (.getCertificate .doe 7) (.getCertificate .doe 8) ∧ badOf (.keyRetireDone 127) (.keyRetireDone 128) ∧
    badOf (.firmwareUpdate 7 image) (.firmwareUpdate 3 image) ∧ badOf (.herbFillDone 1023) (.herbFillDone 1024) := by decide +kernel

theorem test_wf_power : badOf (.sensorTimeout (.frond 11)) (.sensorTimeout (.frond 12)) ∧ badOf (.trip .junction 239) (.trip .junction 240) ∧
    badOf (.trip .stack 15) (.trip .stack 16) ∧ badOf (.trip .optics 7) (.trip .optics 8) ∧ badOf (.tclkSet 11 0) (.tclkSet 12 0) ∧
    badOf (.perstDeassert ⟨[true, true, true], [0, 0, 0]⟩) (.perstDeassert ⟨[true, true], [0, 0, 0]⟩) ∧
    badOf (.perstDeassert ⟨[true, true, true], [0, 0, 0]⟩) (.perstDeassert ⟨[true, true, true], [0, 0]⟩) ∧
    badOf (.powerSample fullSample) (.powerSample { fullSample with groupEnergy := [] }) ∧ badOf (.powerSample fullSample) (.powerSample { fullSample with frondTemp := [] }) ∧
    badOf (.powerSample fullSample) (.powerSample { fullSample with frondTemp := List.replicate 12 [] }) ∧
    badOf (.powerSample fullSample) (.powerSample { fullSample with stackTemp := [] }) ∧ badOf (.powerSample fullSample) (.powerSample { fullSample with opticTemp := [] }) := by
  decide +kernel

theorem test_wf_boot : badOf (.selftestStageDone noErrors) (.selftestStageDone { noErrors with badTiles := [1536] }) ∧
    badOf (.selftestStageDone { noErrors with badSpares := [(11, 135)] }) (.selftestStageDone { noErrors with badSpares := [(12, 135)] }) ∧
    badOf (.selftestStageDone { noErrors with badSpares := [(11, 128)] }) (.selftestStageDone { noErrors with badSpares := [(11, 127)] }) ∧
    badOf (.selftestStageDone { noErrors with badSpares := [(11, 135)] }) (.selftestStageDone { noErrors with badSpares := [(11, 136)] }) ∧
    badOf (.selftestStageDone { noErrors with badSpines := [(3, 15)] }) (.selftestStageDone { noErrors with badSpines := [(4, 15)] }) ∧
    badOf (.selftestStageDone { noErrors with badSpines := [(3, 15)] }) (.selftestStageDone { noErrors with badSpines := [(3, 16)] }) ∧
    badOf (.selftestStageDone { noErrors with badWays := [(511, 15)] }) (.selftestStageDone { noErrors with badWays := [(512, 15)] }) ∧
    badOf (.selftestStageDone { noErrors with badWays := [(511, 15)] }) (.selftestStageDone { noErrors with badWays := [(511, 16)] }) ∧
    badOf (.selftestStageDone { noErrors with badMissRegs := [(511, 3)] }) (.selftestStageDone { noErrors with badMissRegs := [(512, 3)] }) ∧
    badOf (.memoryStageDone ⟨[511], [31]⟩ 0) (.memoryStageDone ⟨[512], [31]⟩ 0) ∧ badOf (.memoryStageDone ⟨[511], [31]⟩ 0) (.memoryStageDone ⟨[511], [32]⟩ 0) := by
  decide +kernel

end Sys2Proof.Tests
end

section
/-! SUPPORT. Every command is answered (log 1): with a next state where the units and pages that it names exist, and never with a
refusal. -/

namespace Sys2Proof.Machine

variable {named : Prop} {s : State}

/-! ### Outcomes that are no refusal -/

/-- The answer to a command is a next state wherever what it names exists, and in no case a refusal. -/
def Completes (named : Prop) (r : Res) : Prop := (named → ∃ t, r = .next t) ∧ ∀ x, r ≠ .refused x

theorem completes_next {t : State} : Completes named (.next t) := ⟨fun _ => ⟨t, rfl⟩, fun _ h => by cases h⟩

theorem completes_noSuchUnit (h : ¬ named) : Completes named (.fault .noSuchUnit) := ⟨fun hn => absurd hn h, fun _ h => by cases h⟩

/-- A meaning over a unit answers where what the command names includes the unit. -/
theorem completes_unit {ok : Bool} {t : State} (h : named → ok = true) : Completes named (unit ok t) := by
  cases ok with
  | true => exact completes_next
  | false => exact completes_noSuchUnit fun hn => by cases h hn

/-! ### Shared operations that act only where something is found -/

theorem homeReq_completes (kind : ReqKind) (id : Nat) (errs : List ArrayErr) : Completes named (homeReq kind id errs s) := by
  unfold homeReq
  split <;> exact completes_next

theorem takeRsp_completes (kind : RspKind) (id : Nat) (f : Rsp → State → State) : Completes named (takeRsp kind id s f) := by
  unfold takeRsp
  split <;> exact completes_next

theorem watch_completes (req : Nat) : Completes named (execWatch req s) := by
  unfold execWatch
  split <;> exact completes_next

theorem unwatch_completes (req : Nat) : Completes named (execUnwatch req s) := by
  unfold execUnwatch
  split <;> exact completes_next

theorem watchNotify_completes (msg : Nat) : Completes named (execWatchNotify msg s) := by
  unfold execWatchNotify
  split
  · exact completes_next
  · exact takeRsp_completes ..

theorem dataRsp_completes (msg : Nat) : Completes named (execDataRsp msg s) := by
  unfold execDataRsp
  split
  · exact completes_next
  · split <;> exact completes_next

theorem grantHoldExpire_completes (req : Nat) : Completes named (execGrantHoldExpire req s) := by
  unfold execGrantHoldExpire
  split <;> exact completes_next

theorem nackBackoffExpire_completes (req : Nat) : Completes named (execNackBackoffExpire req s) := by
  unfold execNackBackoffExpire
  split <;> exact completes_next

theorem fwdTimeout_completes (req : Nat) : Completes named (execFwdTimeout req s) := by
  unfold execFwdTimeout
  split
  · split <;> exact completes_next
  · exact completes_next

theorem hostLinkCompletion_completes (req : Nat) (poisoned : Bool) : Completes named (execHostLinkCompletion req poisoned s) := by
  unfold execHostLinkCompletion
  split
  · split <;> exact completes_next
  · exact completes_next

theorem scrubPassEnd_completes (fast : Bool) : Completes named (execScrubPassEnd fast s) := by
  unfold execScrubPassEnd
  split <;> exact completes_next

/-! ### Kernels -/

theorem blockPlace_completes (kernel : Nat) : Completes named (execBlockPlace kernel s) := by
  unfold execBlockPlace
  dsimp only
  split
  · exact completes_next
  · split <;> exact completes_next

theorem deadlockDeclare_completes (kernel : Nat) : Completes named (execDeadlockDeclare kernel s) := by
  unfold execDeadlockDeclare
  dsimp only
  split <;> exact completes_next

theorem stop_completes (kernel : Nat) : Completes named (execStop kernel s) := by
  unfold execStop
  split
  · exact completes_next
  · split <;> exact completes_next

theorem kernelSwitchedOut_completes (kernel : Nat) : Completes named (execKernelSwitchedOut kernel s) := by
  unfold execKernelSwitchedOut
  dsimp only
  split
  · exact completes_next
  · split
    · exact completes_next
    · split <;> exact completes_next

theorem kernelResume_completes (kernel : Nat) : Completes named (execKernelResume kernel s) := by
  unfold execKernelResume
  dsimp only
  split
  · exact completes_next
  · split
    · exact completes_next
    · split <;> exact completes_next

/-! ### Checks that stand before a shared operation -/

/-- HB and PACE of one source are taken in the order of their arrival (R386). -/
theorem onCtl_completes (type inbox : Nat) (f : Nat → FabMsg → State → State) :
    Completes named (if !s.hyphaTurn inbox then .next s else onCtl type inbox s f) := by
  split <;> exact completes_next

/-- TDISP requests name a partition's interface (R574). -/
theorem onOpen_completes {part : Nat} (h : named → partOk part = true) (sess : Nat) (f : Sess → State → State) :
    Completes named (if !partOk part then .fault .noSuchUnit else onOpen sess s f) := by
  split
  · next hp => exact completes_noSuchUnit fun hn => by simp [h hn] at hp
  · exact completes_next

theorem snoopAnswer_completes (line : Nat) (data : Option LineData) (st : Option HostSt)
    (hl : named → lineExists s line = true) (hd : named → data.all LineData.wf = true) : Completes named (snoopAnswer line data st s) := by
  refine completes_unit fun hn => Bool.and_eq_true_iff.mpr ⟨hl hn, ?_⟩
  have hd := hd hn
  cases data with
  | none => rfl
  | some d => exact hd

theorem sensorTimeout_completes (x : Sensor) (h : named → x.wf = true) : Completes named (execSensorTimeout x s) := by
  cases x with
  | power => exact completes_next
  | pmbus => exact completes_next
  | frond f => exact completes_unit h

/-! ### The whole table -/

/-- The frames of a tier are those of its channels (R326). -/
theorem scrubRead_frames (fast : Bool) : tierCh fast * tierSlots fast = if fast then 512 * 24576 else 32 * 1048576 := by
  cases fast <;> rfl

/-- A function's BAR that takes writes, of the size that a well-formed write stays in (Table 15.1). -/
theorem barSize_of_bar {bar : BitVec 3} (h : (bar == 0 || bar == 2) = true) (fn : Nat) :
    barSize fn bar.toNat = if fn = 0 then 2 ^ 26 else if bar = 0 then 2 ^ 16 else 2 ^ 20 := by
  obtain rfl | rfl : bar = 0 ∨ bar = 2 := by simpa using h
  · rfl
  · rfl

/-- Most commands act on the unit that `Instr.wf` names, or on the page that `State.hasPages` names, or name none. -/
theorem exec_completes (i : Instr) (s : State) : Completes (i.wf = true ∧ s.hasPages i = true) (exec i s) := by
  cases i with
  | iadd | isub | ineg | iabs | imin | imax | iaddc | isubb | imul | imulh | imad | idiv | irem | imulw | and | or | xor | andn | not
  | popc | clz | ctz | brev | bfe | bfi | prmt | shl | shr | sar | setp | sel | pand | por | pxor | pnot | p2u | u2p | mov | movi
  | movih | cvt | srd | swr | v2u | fadd | fsub | fmul | ffma | fmin | fmax | fabs | fneg | fdiv | fsqrt | fclass | exp2 | log2 | rcp
  | rsq | tanh | smxstep | maskgen | shfl | vote | ld | lds | st | ldu | stu | pref | atomAdd | atomMinu | atomMins | atomMaxu
  | atomMaxs | atomAnd | atomOr | atomXor | atomExch | atomCas | atomFadd | br | brx | call | split | join | nop | bar | wait | fence
  | exit | mma | mmas | accld | accst | accz | matrixFinish | argumentReadReturn | promote | loaddepDemote | waitLimitExpire | sleepEnd
  | watchRereadReturn | hostWatchPoll | qsc | switchOutRequest | switchOutDrainEnd | tileSaved | tileAssign | preemptQuantumExpire
  | grant | hotWindowEnd | mapRebuildDone | stackTempSample | tempReadingTimeout | capTempReport | columnRepairDone | channelNoAnswer
  | channelMappedOut | msixSend | portLightOn | portTrainStepDone | portTrainTimeout | portRetryWaitEnd | portDown | wavelengthSerCheck
  | wavelengthSwap | wavelengthRetest | portRetrain | elsSvc | elsRemoved | elsInserted | elsCombLock | elsLockTimeout | replayRequest
  | hbSend | sweepEnd | cohFenceSet | epochWrite | negCommit | queCreate | queStart | queStop | queDestroy | descriptorFetch | launch
  | moveCopy | moveFill | moveGather | moveReduce | moveTier | signalOp | cmdWait | parserHostPoll | eventOp | cond | loopOp | endloop
  | cmdCall | returnOp | cmdFence | putOp | putKindFlag | getOp | allReduce | reduceScatter | allGather | broadcastOp | reduceOp
  | kvRing | invoke | timestampOp | preemptPoint | cmdNop | commandComplete | commandTimeout | evlogConfigWrite | evlogHeadWrite
  | ctxCreate | ctxDestroy | ctxQuery | ctxKill | ctxInv | ctxInvDone | atsInvalidate | prtResetDrainEnd | prtZeroDone | dlogEnable
  | dlogRound | dlogHeadWrite | herbRegister | herbUnregister | herbPin | herbUnpin | herbPrefetch | herbFillDone | tdiError
  | keyRetireDone | firmwareUpdate | activateFirmware | trip | tclkSet | tclkSwitch | selftestStageDone | memoryStageDone
  | tileErrorReport | tileSubstitute | channelRecal | msixUnmask | localLoadReturn | translationWalkDone =>
    -- the unit is the one that `Instr.wf` checks
    exact completes_unit fun h => h.1
  | hashRotRequest | hashRotDrained | hashRotDone | ucRegApply | telemetryEpoch | telemetryLatchEnd | tierManage | tierPinFast
  | tierPinCap | tierRelease | tierMapoutFast | tierMapoutCap | stipeFlitReplay | fabIdSet | putData | putFlag | getReq | getData
  | fabricAck | routeLostNak | collData | kvData | kvCredit | kvConsumedRise | paceSend | paceHoldExpire | cohortFenceMsg | probe
  | probeRsp | routeWaitTimeout | collStepTimeout | pageResponse | prtCreate | prtDestroy | prtReset | prtAssign | prtUnassign | prtGrow
  | getVersion | getCapabilities | negotiateAlgorithms | getDigests | getCertificate | spdmChallenge | getMeasurements | keyExchange
  | spdmFinish | keyUpdate | spdmHeartbeat | endSession | kzKeySet | ideKm | kzUnlock | ideIntegrityFail | mbGenerate | mbSetPlain
  | mbErase | mbQuery | powerSample | capFail | brakeAssert | brakeRelease | converterAlert | alertRelease | tripClear | pwrCapWrite
  | pmbusPoll | inputInRange | inputBelowRange | railsUp | perstDeassert | trustStageDone | imagesStageDone | perstAssert | hotReset
  | hostLinkTrained | fatalError | spareQuarantine | spareCancel | bistTileGroup | bistSpares | bistFastChannel | bistCapChannel
  | bistPort | bistDone | serviceRecordWrite | svcRead | i3cEntdaa | i3cStallTimeout | pcieCompletionTimeout | h2dSnoop
  | boundaryScanInstruction =>
    -- no unit is named, and the part has all that the command can be about
    exact completes_next
  | hostReadShared | hostReadExclusive | bisnpTimeout | fillReturn | pageMoveStart | pageMoveDone =>
    -- the page is the one that `State.hasPages` checks
    exact completes_unit fun h => h.2
  | rd | rdRo | wr | atom | red => exact homeReq_completes ..
  | fwd | fwdAck | fwdMiss | dataF | ack | atomRsp | retry | nack =>
    unfold exec
    exact takeRsp_completes ..
  | watch req => exact watch_completes req
  | unwatch req => exact unwatch_completes req
  | watchNotify msg => exact watchNotify_completes msg
  | dataRsp msg => exact dataRsp_completes msg
  | grantHoldExpire req => exact grantHoldExpire_completes req
  | nackBackoffExpire req => exact nackBackoffExpire_completes req
  | fwdTimeout req => exact fwdTimeout_completes req
  | hostLinkCompletion req poisoned => exact hostLinkCompletion_completes req poisoned
  | scrubPassEnd fast => exact scrubPassEnd_completes fast
  | blockPlace kernel => exact blockPlace_completes kernel
  | deadlockDeclare kernel => exact deadlockDeclare_completes kernel
  | stop kernel => exact stop_completes kernel
  | kernelSwitchedOut kernel => exact kernelSwitchedOut_completes kernel
  | kernelResume kernel => exact kernelResume_completes kernel
  | hb | pace => exact onCtl_completes ..
  | lockInterface | startInterface | stopInterface | getDeviceInterfaceReport => exact onOpen_completes (fun h => h.1) ..
  | birsps line data | birspi line data =>
    exact snoopAnswer_completes line data _ (fun h => h.2) fun h => (Bool.and_eq_true_iff.mp h.1).2
  | hostWriteBack line keepS data => exact completes_unit fun h => Bool.and_eq_true_iff.mpr ⟨h.2, (Bool.and_eq_true_iff.mp h.1).2⟩
  | sqTail | cqHead | abort | abortAll | flitReceive | peerTimeout =>
    exact completes_unit fun h => (Bool.and_eq_true_iff.mp h.1).1
  | functionLevelReset fn =>
    refine completes_unit fun h => ?_
    obtain ⟨h0, hf⟩ := Bool.and_eq_true_iff.mp h.1
    exact Bool.and_eq_true_iff.mpr ⟨hf, bne_iff_ne.mpr (Nat.ne_of_gt (of_decide_eq_true h0))⟩
  | scrubRead fast frame errs =>
    refine completes_unit fun h => ?_
    rw [scrubRead_frames]
    exact (Bool.and_eq_true_iff.mp h.1).1
  | sensorTimeout x => exact sensorTimeout_completes x fun h => h.1
  | bar4Access fn a =>
    refine completes_unit fun h => ?_
    obtain ⟨hf, hn⟩ := Bool.and_eq_true_iff.mp h.1
    exact Bool.and_eq_true_iff.mpr ⟨hf, bne_iff_ne.mpr (Nat.ne_of_gt (of_decide_eq_true hn))⟩
  | registerWrite fn bar offset bytes value =>
    refine completes_unit fun h => ?_
    obtain ⟨hb, ho⟩ := Bool.and_eq_true_iff.mp h.1
    rw [barSize_of_bar (Bool.and_eq_true_iff.mp hb).2]
    exact Bool.and_eq_true_iff.mpr ⟨hb, ho⟩

/-- Settles O57: a command that names what exists has a next state, and none is refused. -/
theorem everyCommandCompletes : Obligations.EveryCommandCompletes :=
  ⟨fun i s hw hp => (exec_completes i s).1 ⟨hw, hp⟩, fun i s => (exec_completes i s).2⟩

end Sys2Proof.Machine
end

section
/-! SUPPORT. What the homes of lines do of themselves (fills, evictions, errors, the migration log, watches) sends
nothing out of the module. -/

namespace Sys2Proof.Machine

variable {s t : State}

/-! ### What leaves the module: nothing that the homes do of themselves is sent -/

theorem foldl_sent {β : Type} {f : State → β → State} (hf : ∀ t x, (f t x).sent = t.sent) (xs : List β) : (xs.foldl f s).sent = s.sent :=
  foldl_keeps (fun t => t.sent = s.sent) f (fun t x ht => (hf t x).trans ht) xs rfl

@[simp] theorem State.ras_sent (code sev part u : Nat) (d0 d1 : W64) : (s.ras code sev part u d0 d1).sent = s.sent := by
  simp [State.ras, State.rasAppend, apply_ite State.sent]

@[simp] theorem State.touch_sent (line way : Nat) : (s.touch line way).sent = s.sent := rfl
@[simp] theorem State.forget_sent (line mask : Nat) : (s.forget line mask).sent = s.sent := rfl

@[simp] theorem State.setChan_sent (fast : Bool) (c : Nat) (x : Chan) : (s.setChan fast c x).sent = s.sent := by
  cases fast <;> rfl

@[simp] theorem State.charge_sent (w : Who) (n : Nat) : (s.charge w n).sent = s.sent := by
  unfold State.charge
  split <;> simp [apply_ite State.sent]

@[simp] theorem State.lane_sent (w : Who) (tt : Bool) (n : Nat) : (s.lane w tt n).sent = s.sent := by
  simp [State.lane]

@[simp] theorem State.sample_sent (line : Nat) : (s.sample line).sent = s.sent := by
  simp [State.sample, apply_ite State.sent]

@[simp] theorem State.tierBytes_sent (line tag n : Nat) : (s.tierBytes line tag n).sent = s.sent := by
  simp [State.tierBytes, apply_ite State.sent]

@[simp] theorem State.steer_sent (line : Nat) : (s.steer line).sent = s.sent := by
  simp [State.steer, State.draw, apply_ite State.sent]

@[simp] theorem State.chanBytes_sent (w : Who) (line n : Nat) : (s.chanBytes w line n).sent = s.sent := by
  simp [State.chanBytes, apply_ite State.sent]

@[simp] theorem State.l1State_sent (line tile : Nat) (f : Bool) : (s.l1State line tile f).sent = s.sent := by
  unfold State.l1State
  split <;> simp

@[simp] theorem State.setFwd_sent (line : Nat) (new : Option Nat) : (s.setFwd line new).sent = s.sent := by
  unfold State.setFwd
  split
  · rfl
  · next f _ => cases f.fwd <;> cases new <;> simp

@[simp] theorem State.wantMove_sent (m : Move) : (s.wantMove m).sent = s.sent := by
  simp [State.wantMove, apply_ite State.sent]

@[simp] theorem State.owedCheck_sent (was : Nat) : (s.owedCheck was).sent = s.sent := by
  simp [State.owedCheck, apply_ite State.sent]

@[simp] theorem State.markRetired_sent (f : FrameNo) : (s.markRetired f).sent = s.sent := by
  simp [State.markRetired, apply_ite State.sent]

@[simp] theorem State.drain_sent (fast : Bool) (c : Nat) (dead : Bool) : (s.drain fast c dead).sent = s.sent := by
  simp [State.drain, apply_ite State.sent, foldl_sent]

@[simp] theorem State.retire_sent (f : FrameNo) : (s.retire f).sent = s.sent := by
  simp only [State.retire, apply_ite State.sent, State.drain_sent, ite_self]
  split
  · rfl
  · split <;> simp [apply_ite State.sent]

@[simp] theorem State.columnFault_sent (fast : Bool) (l : MemLoc) : (s.columnFault fast l).sent = s.sent := by
  simp [State.columnFault, apply_ite State.sent, foldl_sent]

@[simp] theorem State.uncorrectable_sent (f : FrameNo) (recovered : Bool) (l : MemLoc) : (s.uncorrectable f recovered l).sent = s.sent := by
  simp [State.uncorrectable, apply_ite State.sent]

@[simp] theorem State.classify_sent (f : FrameNo) (sector : Nat) (correctable recovered : Bool) (bit : Nat) :
    (s.classify f sector correctable recovered bit).sent = s.sent := by
  simp [State.classify, apply_ite State.sent]

@[simp] theorem State.evictErrs_sent (line part dirty : Nat) : (s.evictErrs line part dirty).sent = s.sent := by
  simp [State.evictErrs, apply_ite State.sent, foldl_sent]

@[simp] theorem State.uncover_sent (line dirty : Nat) : (s.uncover line dirty).sent = s.sent := by
  simp [State.uncover, apply_ite State.sent, foldl_sent]

@[simp] theorem State.overwritten_sent (line mask : Nat) : (s.overwritten line mask).sent = s.sent := by
  simp [State.overwritten, apply_ite State.sent]

@[simp] theorem State.lateBack_sent (line : Nat) (back : List Nat) : (s.lateBack line back).sent = s.sent := by
  unfold State.lateBack
  split <;> simp [apply_ite State.sent]

@[simp] theorem State.evict_sent (line : Nat) : (s.evict line).sent = s.sent := by
  unfold State.evict
  split <;> simp [apply_ite State.sent, foldl_sent]

@[simp] theorem State.unpair_sent (line : Nat) : (s.unpair line).sent = s.sent := by
  unfold State.unpair
  split <;> simp [apply_ite State.sent]

@[simp] theorem State.split_sent (line : Nat) : (s.split line).sent = s.sent := by
  unfold State.split
  split
  · rfl
  · simp only [apply_ite State.sent]
    split
    · rfl
    · split <;> simp [foldl_sent]

@[simp] theorem State.poisonSector_sent (sector : Nat) : (s.poisonSector sector).sent = s.sent := by
  simp [State.poisonSector]

@[simp] theorem State.repack_sent (line : Nat) : (s.repack line).sent = s.sent := by
  unfold State.repack
  split <;> simp [apply_ite State.sent]

@[simp] theorem State.pack_sent (line : Nat) : (s.pack line).sent = s.sent := by
  unfold State.pack
  split <;> simp [apply_ite State.sent]

@[simp] theorem State.packNew_sent (new : Bool) (line : Nat) : (s.packNew new line).sent = s.sent := by
  simp [State.packNew, apply_ite State.sent]

@[simp] theorem State.meet_sent (line mask part : Nat) : (s.meet line mask part).sent = s.sent := by
  simp [State.meet, apply_ite State.sent, foldl_sent]

@[simp] theorem State.allocate_sent (line tag p valid dirty : Nat) : (s.allocate line tag p valid dirty).sent = s.sent := by
  unfold State.allocate
  split
  · simp
  · split <;> simp [foldl_sent]

@[simp] theorem State.tierErrors_sent (line : Nat) (errs : List MemErr) : (s.tierErrors line errs).sent = s.sent :=
  foldl_sent (fun t x => by simp [apply_ite State.sent]) errs

@[simp] theorem State.fillErrors_sent (line need : Nat) (errs : List MemErr) : (s.fillErrors line need errs).sent = s.sent := by
  simp [State.fillErrors, apply_ite State.sent, foldl_sent]

@[simp] theorem State.fillNow_sent (w : Who) (line need : Nat) : (s.fillNow w line need).sent = s.sent := by
  simp [State.fillNow, apply_ite State.sent]

@[simp] theorem State.touchLine_sent (line : Nat) : (s.touchLine line).sent = s.sent := by
  unfold State.touchLine
  split <;> simp

@[simp] theorem State.homeRead_sent (w : Who) (line mask : Nat) : (s.homeRead w line mask).sent = s.sent := by
  simp [State.homeRead, apply_ite State.sent]

@[simp] theorem State.homeReads_sent (w : Who) (ranges : List (Nat × Nat)) : (s.homeReads w ranges).sent = s.sent :=
  foldl_sent (fun _ _ => foldl_sent (fun _ _ => State.homeRead_sent ..) _) ranges

@[simp] theorem State.homeOpen_sent (w : Who) (line touched full : Nat) : (s.homeOpen w line touched full).sent = s.sent := by
  simp [State.homeOpen]

@[simp] theorem State.notifyWatch_sent (w : Nat × Src) : (s.notifyWatch w).sent = s.sent := by
  simp [State.notifyWatch, State.freshId, apply_ite State.sent]

@[simp] theorem State.lineWritten_sent (line : Nat) : (s.lineWritten line).sent = s.sent := by
  simp [State.lineWritten, State.notifyLine, foldl_sent]

@[simp] theorem State.dirtied_sent (w : Who) (line mask : Nat) : (s.dirtied w line mask).sent = s.sent := by
  unfold State.dirtied
  split <;> simp

@[simp] theorem State.wrote_sent (w : Who) (line mask : Nat) : (s.wrote w line mask).sent = s.sent := by
  simp [State.wrote]

@[simp] theorem State.dlogAppend_sent (p entry : Nat) : (s.dlogAppend p entry).sent = s.sent := by
  simp [State.dlogAppend, apply_ite State.sent]

@[simp] theorem State.dlog_sent (p : Nat) (host : Bool) (addr : Nat) : (s.dlog p host addr).sent = s.sent := by
  unfold State.dlog
  dsimp only
  split
  · rfl
  · split
    · simp [apply_ite State.sent]
    · split
      · rfl
      · split <;> simp

@[simp] theorem State.store_sent (w : Who) (l : Loc) (bs : List Byte) (bad : Bool) : (s.store w l bs bad).sent = s.sent := by
  simp [State.store, apply_ite State.sent, foldl_sent, State.hostCured]

@[simp] theorem State.storeAll_sent (w : Who) (ls : List (Loc × Nat)) (bs : List Byte) (bad : Bool) :
    (s.storeAll w ls bs bad).sent = s.sent := by
  induction ls generalizing s bs with
  | nil => rfl
  | cons l ls ih => rw [State.storeAll, ih, State.store_sent]

end Sys2Proof.Machine
end

section
/-! SUPPORT. The homes where no error stands unmet and no key is gone: reads leave the poison, the keys
and the released pages as they are. -/

namespace Sys2Proof.Machine

variable {s t : State}

/-! ### Homes at which no error stands unmet -/

/-- A table's entries after a write are entries from before, and the one written. -/
theorem mem_tabSet {α : Type} [DecidableEq α] {d : Nat → α} {m : Tab α} {k : Nat} {v : α} {x : Nat × α} (h : x ∈ tabSet d m k v) :
    x ∈ m ∨ x = (k, v) := by
  have hskip (m : Tab α) (hx : x ∈ tabSkip k m) : x ∈ m := by
    induction m with
    | nil => exact hx
    | cons y m ih =>
      unfold tabSkip at hx
      split at hx
      · exact List.mem_cons_of_mem _ (ih hx)
      · exact hx
  induction m with
  | nil =>
    unfold tabSet at h
    split at h
    · exact .inl h
    · exact .inr (List.mem_singleton.mp h)
  | cons y m ih =>
    unfold tabSet at h
    split at h
    · split at h
      · exact .inl h
      · exact (List.mem_cons.mp h).symm
    · split at h
      · split at h
        · exact .inl (List.mem_cons_of_mem _ (hskip m h))
        · exact (List.mem_cons.mp h).symm.imp_left (List.mem_cons_of_mem _)
      · rcases List.mem_cons.mp h with rfl | h
        · exact .inl List.mem_cons_self
        · exact (ih h).imp_left (List.mem_cons_of_mem _)

/-- What a table gives at a key is an entry of it, or what an unlisted key reads as. -/
theorem tabGet_mem {α : Type} (d : Nat → α) (m : Tab α) (k : Nat) : (k, tabGet d m k) ∈ m ∨ tabGet d m k = d k := by
  induction m with
  | nil => exact .inr rfl
  | cons y m ih =>
    unfold tabGet
    split
    · exact .inr rfl
    · split
      · next h => exact .inl (h ▸ List.mem_cons_self)
      · exact ih.imp_left (List.mem_cons_of_mem _)

/-- In `t` no error stands unmet and no key is gone or being retired; what is poisoned and which pages are released is as in `s`. -/
structure State.Calm (s t : State) : Prop where
  upsets : t.upsets = []
  under : t.under = []
  tierErrs : t.tierErrs = []
  keyless : ∀ p, t.keyless p = false
  settled : t.keys.any (fun k => k.2.st == 2) = false
  poison : t.poison = s.poison
  parts : t.parts = s.parts
  released : ∀ a n, s.releasedIn a n = false → t.releasedIn a n = false

theorem State.Calm.of_eq {u : State} (h : s.Calm t) (hu : u.upsets = t.upsets) (hn : u.under = t.under) (he : u.tierErrs = t.tierErrs)
    (hk : u.keys = t.keys) (hp : u.poison = t.poison) (hq : u.parts = t.parts) (hg : u.pages = t.pages) : s.Calm u where
  upsets := hu.trans h.upsets
  under := hn.trans h.under
  tierErrs := he.trans h.tierErrs
  keyless p := by simpa [State.keyless, State.memSlot, State.keySlot, hk, hq] using h.keyless p
  settled := hk ▸ h.settled
  poison := hp.trans h.poison
  parts := hq.trans h.parts
  released a n hr := by simpa [State.releasedIn, hg] using h.released a n hr

theorem State.Calm.foldl {β : Type} (h : s.Calm t) (f : State → β → State) (hf : ∀ u x, s.Calm u → s.Calm (f u x)) (xs : List β) :
    s.Calm (xs.foldl f t) := foldl_keeps s.Calm f hf xs h

theorem State.Calm.bump (h : s.Calm t) (k n : Nat) : s.Calm (t.bump k n) := h.of_eq rfl rfl rfl rfl rfl rfl rfl
theorem State.Calm.setTile (h : s.Calm t) (k : Nat) (x : Tile) : s.Calm (t.setTile k x) := h.of_eq rfl rfl rfl rfl rfl rfl rfl
theorem State.Calm.setFrame (h : s.Calm t) (k : Nat) (x : Option Frame) : s.Calm (t.setFrame k x) := h.of_eq rfl rfl rfl rfl rfl rfl rfl
theorem State.Calm.touch (h : s.Calm t) (line way : Nat) : s.Calm (t.touch line way) := h.of_eq rfl rfl rfl rfl rfl rfl rfl

theorem State.Calm.charge (h : s.Calm t) (w : Who) (n : Nat) : s.Calm (t.charge w n) := by
  unfold State.charge
  split
  · exact h.of_eq rfl rfl rfl rfl rfl rfl rfl
  · exact ite_either (h.of_eq rfl rfl rfl rfl rfl rfl rfl) h

theorem State.Calm.lane (h : s.Calm t) (w : Who) (tt : Bool) (n : Nat) : s.Calm (t.lane w tt n) := (h.bump ..).charge ..

theorem State.page_mem (p : Nat) (h : (s.page p).released = true) : (p, s.page p) ∈ s.pages := by
  rcases tabGet_mem (basePage s.bad) s.pages p with hm | hb
  · exact hm
  · have hb : s.page p = basePage s.bad p := hb
    rw [hb, basePage] at h
    split at h
    · cases h
    · split at h <;> cases h

/-- A page that is written with the mark that it has: what is released is as before. -/
theorem State.releasedIn_setPage {p : Nat} {x : Page} (hx : x.released = (s.page p).released) {a n : Nat}
    (h : s.releasedIn a n = false) : (s.setPage p x).releasedIn a n = false := by
  rw [State.releasedIn, List.any_eq_false] at h ⊢
  intro y hy hr
  rcases mem_tabSet hy with hm | rfl
  · exact h y hm hr
  · simp only [hx, Bool.and_eq_true] at hr
    refine h _ (State.page_mem p hr.1.1) ?_
    simp only [Bool.and_eq_true]
    exact hr

theorem State.Calm.setPage (h : s.Calm t) (p : Nat) (x : Page) (hx : x.released = (t.page p).released) : s.Calm (t.setPage p x) :=
  { h with released := fun a n hr => State.releasedIn_setPage hx (h.released a n hr) }

theorem State.Calm.sample (h : s.Calm t) (line : Nat) : s.Calm (t.sample line) :=
  ite_either (h.of_eq rfl rfl rfl rfl rfl rfl rfl)
    ((h.setPage (line / 512) { t.page (line / 512) with
        count := min 65535 ((t.page (line / 512)).count + 2 ^ t.fld (smpField (t.frameOf line).fast)) } rfl).of_eq
      rfl rfl rfl rfl rfl rfl rfl)

theorem State.Calm.tierBytes (h : s.Calm t) (line tag n : Nat) : s.Calm (t.tierBytes line tag n) :=
  ite_either h ((h.bump ..).sample _)

theorem State.Calm.steer (h : s.Calm t) (line : Nat) : s.Calm (t.steer line) :=
  ite_either (h.of_eq rfl rfl rfl rfl rfl rfl rfl) h

theorem State.Calm.chanBytes (h : s.Calm t) (w : Who) (line n : Nat) : s.Calm (t.chanBytes w line n) := by
  have h1 := (h.steer line).tierBytes line w.tag n
  exact ite_either h (ite_either ((h1.charge ..).lane ..) ((h1.charge ..).lane ..))

theorem State.Calm.l1State (h : s.Calm t) (line tile : Nat) (f : Bool) : s.Calm (t.l1State line tile f) := by
  unfold State.l1State
  split
  · exact h.setTile ..
  · exact h

theorem State.Calm.setFwd (h : s.Calm t) (line : Nat) (new : Option Nat) : s.Calm (t.setFwd line new) := by
  unfold State.setFwd
  split
  · exact h
  · next f _ =>
    cases f.fwd <;> cases new
    · exact h.setFrame ..
    · exact (h.l1State ..).setFrame ..
    · exact (h.l1State ..).setFrame ..
    · exact ((h.l1State ..).l1State ..).setFrame ..

/-! Where no error stands unmet, none is met. -/

theorem State.Calm.evictErrs (h : s.Calm t) (line part dirty : Nat) : t.evictErrs line part dirty = t := by
  simp [State.evictErrs, h.upsets]

theorem State.Calm.uncover (h : s.Calm t) (line dirty : Nat) : t.uncover line dirty = t := by simp [State.uncover, h.under]

theorem State.Calm.overwritten (h : s.Calm t) (line mask : Nat) : t.overwritten line mask = t := by
  simp [State.overwritten, h.tierErrs]

theorem State.Calm.meet (h : s.Calm t) (line mask part : Nat) : t.meet line mask part = t := by simp [State.meet, h.upsets]

theorem State.Calm.fillErrors (h : s.Calm t) (line need : Nat) : t.fillErrors line need [] = t := by
  simp [State.fillErrors, h.keyless, h.overwritten, h.tierErrs, State.tierErrors]

theorem State.Calm.keySlot_settled (h : s.Calm t) (n : Nat) : (t.keySlot n).st ≠ 2 := by
  rcases tabGet_mem (fun _ => ({} : KeySlot)) t.keys n with hm | hd
  · have hs := List.any_eq_false.mp h.settled _ hm
    exact fun h2 => hs (beq_iff_eq.mpr h2)
  · have hd : t.keySlot n = {} := hd
    simp [hd]

theorem State.Calm.lateBack (h : s.Calm t) (line : Nat) (back : List Nat) : t.lateBack line back = t := by
  unfold State.lateBack
  split
  · simp [h.keySlot_settled]
  · rfl

theorem State.Calm.evict (h : s.Calm t) (line : Nat) : s.Calm (t.evict line) := by
  unfold State.evict
  split
  · exact h
  · simp only [h.evictErrs, h.uncover, h.overwritten, h.lateBack, h.keyless, Bool.false_eq_true, if_false]
    exact ((h.setFwd ..).setFrame ..).chanBytes ..

theorem State.Calm.unpair (h : s.Calm t) (line : Nat) : s.Calm (t.unpair line) := by
  unfold State.unpair
  split
  · exact ite_either (h.setFrame ..) h
  · exact h

theorem State.Calm.split (h : s.Calm t) (line : Nat) : s.Calm (t.split line) := by
  unfold State.split
  split
  · exact h
  · refine ite_either h ?_
    have hu := h.unpair line
    dsimp only
    split
    · exact (hu.foldl _ (fun _ _ hv => hv.evict _) _).setFrame ..
    · exact hu.evict _

theorem State.Calm.repack (h : s.Calm t) (line : Nat) : s.Calm (t.repack line) := by
  unfold State.repack
  split
  · exact ite_either h (h.split _)
  · exact h

theorem State.Calm.packNew (h : s.Calm t) (new : Bool) (line : Nat) : s.Calm (t.packNew new line) := by
  refine ite_either ?_ h
  unfold State.pack
  split
  · exact ite_either ((h.setFrame ..).setFrame ..) h
  · exact h

theorem State.Calm.allocate (h : s.Calm t) (line tag p valid dirty : Nat) : s.Calm (t.allocate line tag p valid dirty) := by
  unfold State.allocate
  split
  · exact (h.setFrame ..).touch ..
  · split
    · exact h
    · exact ((h.foldl _ (fun _ _ hv => hv.evict _) _).setFrame ..).touch ..

theorem State.Calm.fillNow (h : s.Calm t) (w : Who) (line need : Nat) : s.Calm (t.fillNow w line need) := by
  have hc := h.chanBytes w line (32 * sectorCount need)
  refine ite_either h ?_
  rw [hc.fillErrors]
  exact (hc.allocate ..).repack ..

theorem State.Calm.touchLine (h : s.Calm t) (line : Nat) : s.Calm (t.touchLine line) := by
  unfold State.touchLine
  split
  · exact h.touch ..
  · exact h

theorem State.Calm.homeRead (h : s.Calm t) (w : Who) (line mask : Nat) : s.Calm (t.homeRead w line mask) := by
  have hf := h.fillNow w line (t.lacks line mask)
  refine ite_either h ?_
  rw [hf.meet]
  exact (hf.touchLine ..).packNew ..

theorem State.Calm.homeReads (h : s.Calm t) (w : Who) (ranges : List (Nat × Nat)) : s.Calm (t.homeReads w ranges) :=
  h.foldl _ (fun _ _ hu => hu.foldl _ (fun _ _ hv => hv.homeRead ..) _) _

theorem State.Calm.meter (h : s.Calm t) (w : Who) (reads writes : List (Loc × Nat)) : s.Calm (t.meter w reads writes) :=
  (((h.bump ..).bump ..).charge ..).lane ..

/-- A sector reads as poisoned only where it is marked, so the poison of a range is as it was. -/
theorem State.Calm.rangeBad (h : s.Calm t) (hk : ∀ p, s.keyless p = false) (a n : Nat) : t.rangeBad a n = s.rangeBad a n := by
  simp [State.rangeBad, State.sectorBad, h.poison, h.parts, h.keyless, hk]

end Sys2Proof.Machine
end

section
/-! SUPPORT. Writes of registers and doorbells by a function, and accesses through BAR4 (spec/15 R636 to R648). -/

namespace Sys2Proof.Machine

open Sys2Proof.Claims

variable {s t : State}

/-! ### Writes of registers and doorbells -/

theorem State.bootStage_of_ready (h : s.ready = true) : s.fld bootStage = 5 := by simpa [State.ready] using h

theorem State.answers_of_ready (h : s.ready = true) : s.answers = true := by
  simp [State.answers, State.bootStage_of_ready h]

/-- A write inside BAR0 or BAR2 of a function that exists names a unit of the part. -/
theorem registerWrite_unit {fn o : Nat} {bar : BitVec 3} (hf : fn < 49) (hb : bar = 0 ∨ bar = 2) (ho : o < barSize fn bar.toNat) :
    (fnOk fn && (bar == 0 || bar == 2) && decide (o < barSize fn bar.toNat)) = true := by
  simpa [fnOk, hf, ho] using hb

/-- A write by the physical function to a register that answers (R637). -/
theorem execRegisterWrite_bar0 {o bytes : Nat} (v : W64) (ha : s.answers = true) (ho : o < 2 ^ 26) (hz : sized o bytes = true)
    (hb : s.ready = true ∨ alwaysBlock o = true) :
    execRegisterWrite 0 0 o bytes v s = .next (s.writeBar0 0 o bytes v.toNat) := by
  rw [execRegisterWrite, unit_of (registerWrite_unit (by decide) (.inl rfl) ho)]
  simp [ha, hz, State.vfLive, hb]

/-- A write by the physical function in a doorbell page of a ready module (Table 10.8). -/
theorem execRegisterWrite_bar2 {o bytes : Nat} (v : W64) (hr : s.ready = true) (ho : o < 2 ^ 26) (hz : sized o bytes = true) :
    execRegisterWrite 0 2 o bytes v s = .next (s.writeBar2 0 o bytes v.toNat) := by
  rw [execRegisterWrite, unit_of (registerWrite_unit (by decide) (.inr rfl) ho)]
  simp [State.answers_of_ready hr, hr, hz, State.vfLive]

/-- An access of a wrong size or alignment is rejected (R637). -/
theorem execRegisterWrite_of_not_sized {fn o bytes : Nat} (v : W64) (ha : s.answers = true) (hf : fn < 49) (hv : fn ≤ s.vfs)
    (ho : o < barSize fn 0) (hz : sized o bytes = false) : execRegisterWrite fn 0 o bytes v s = .next s.rejectInput := by
  rw [execRegisterWrite, unit_of (registerWrite_unit hf (.inl rfl) ho)]
  simp [ha, hz, Nat.not_lt.mpr hv]

/-- An offset at which a virtual function has no register takes a write and ignores it (R638, Table 15.9). -/
theorem execRegisterWrite_of_no_offset {fn o : Nat} (v : W64) (ha : s.answers = true) (h0 : 0 < fn) (hf : fn < 49) (hv : fn ≤ s.vfs)
    (hl : s.vfLive fn = true) (ho : o < 2 ^ 16) (hz : sized o 8 = true) (hn : vfOffset (fn - 1) o = none) :
    execRegisterWrite fn 0 o 8 v s = .next s := by
  have hf0 : fn ≠ 0 := Nat.ne_of_gt h0
  have ho : o < barSize fn (0 : BitVec 3).toNat := by simpa [barSize, hf0] using ho
  rw [execRegisterWrite, unit_of (registerWrite_unit hf (.inl rfl) ho)]
  simp [ha, hz, hl, hn, hf0, Nat.not_lt.mpr hv]

/-! Single registers, each at its offset in Table 15.2. -/

theorem State.writeBar0_pwrCap (v : Nat) : s.writeBar0 0 0x00800000 4 v = s.writeCap (v % 2 ^ 32) := rfl
theorem State.writeBar0_telEpoch (v : Nat) :
    s.writeBar0 0 0x00C00000 4 v = s.setFld telEpochUs (clampTo 100 1000000 (v % 2 ^ 32 % 2 ^ 20)) := rfl
theorem State.writeBar0_keyAuth (v : Nat) :
    s.writeBar0 0 0x00900040 8 v = s.lockWrite 0x00900040 fun s => s.setWord 0x00900040 (BitVec.ofNat 64 v) := rfl

theorem State.lockWrite_of_locked {k : Nat} {f : State → State} (h : k ∈ s.locks) : s.lockWrite k f = s := by
  simp [State.lockWrite, h]

theorem State.lockWrite_of_not_locked {k : Nat} {f : State → State} (h : k ∉ s.locks) :
    s.lockWrite k f = { f s with locks := k :: s.locks } := by
  simp [State.lockWrite, h]

theorem State.writeBar2_sqTail (fn page bytes v : Nat) :
    s.writeBar2 fn (4096 * page) bytes v = s.run (execSqTail fn page (BitVec.ofNat 32 v) s) := by
  simp [State.writeBar2]

/-- A register write goes on from what the command that it performs leaves. -/
theorem State.run_of_next {r : Res} (h : ∃ t, r = .next t) : .next (s.run r) = r := by
  obtain ⟨t, rfl⟩ := h
  rfl

/-- A write to PWR_CAP does what PWR_CAP_WRITE does (R591). -/
theorem exec_registerWrite_pwrCap (v : W64) (ha : s.answers = true) :
    exec (.registerWrite 0 0 0x00800000 4 v) s = exec (.pwrCapWrite (BitVec.ofNat 32 v.toNat)) s := by
  show execRegisterWrite 0 0 0x00800000 4 v s = execPwrCapWrite (BitVec.ofNat 32 v.toNat) s
  rw [execRegisterWrite_bar0 v ha (by decide) (by decide) (.inr (by decide)), State.writeBar0_pwrCap, execPwrCapWrite, if_pos ha,
    BitVec.toNat_ofNat]

/-- A write of a queue's tail in its doorbell page does what SQ_TAIL does (R461). -/
theorem exec_registerWrite_sqTail {page : Nat} (v : W64) (hr : s.ready = true) (hp : page < 12288) :
    exec (.registerWrite 0 2 (4096 * page) 4 v) s = exec (.sqTail 0 page (BitVec.ofNat 32 v.toNat)) s := by
  show execRegisterWrite 0 2 (4096 * page) 4 v s = execSqTail 0 page (BitVec.ofNat 32 v.toNat) s
  have hz : sized (4096 * page) 4 = true := by simp [sized]; omega
  rw [execRegisterWrite_bar2 v hr (by omega) hz, State.writeBar2_sqTail]
  exact State.run_of_next ⟨_, unit_of (decide_eq_true (by decide : 0 < 49))⟩

/-- A field that its first write locks takes that write and no other (R22). -/
theorem exec_registerWrite_keyAuth (v : W64) (ha : s.answers = true) :
    (0x00900040 ∉ s.locks → ∃ t, exec (.registerWrite 0 0 0x00900040 8 v) s = .next t ∧ t.word 0x00900040 = v ∧ 0x00900040 ∈ t.locks) ∧
    (0x00900040 ∈ s.locks → exec (.registerWrite 0 0 0x00900040 8 v) s = .next s) := by
  have he : exec (.registerWrite 0 0 0x00900040 8 v) s =
      .next (s.lockWrite 0x00900040 fun s => s.setWord 0x00900040 (BitVec.ofNat 64 v.toNat)) :=
    execRegisterWrite_bar0 v ha (by decide) (by decide) (.inr (by decide))
  refine ⟨fun h => ⟨_, he, ?_, ?_⟩, fun h => ?_⟩
  · rw [State.lockWrite_of_not_locked h, BitVec.ofNat_toNat, BitVec.setWidth_eq]
    exact (State.word_setWord s _ v _).trans (if_pos rfl)
  · rw [State.lockWrite_of_not_locked h]
    exact List.mem_cons_self
  · rw [he, State.lockWrite_of_locked h]

/-- The length of the telemetry epoch is stored within its limits. -/
theorem exec_registerWrite_telEpoch (v : W64) (hr : s.ready = true) :
    ∃ t, exec (.registerWrite 0 0 0x00C00000 4 v) s = .next t ∧
      t.fld telEpochUs = min 1000000 (max 100 (v.toNat % 2 ^ 20)) ∧ t.pwr = s.pwr := by
  refine ⟨_, execRegisterWrite_bar0 v (State.answers_of_ready hr) (by decide) (by decide) (.inl hr), ?_, ?_⟩
  · rw [State.writeBar0_telEpoch, State.fld_setFld _ _ _ (by decide), Nat.mod_mod_of_dvd _ (by decide : 2 ^ 20 ∣ 2 ^ 32)]
    have hw : telEpochUs.hi + 1 - telEpochUs.lo = 20 := rfl
    rw [hw, clampTo]
    omega
  · rw [State.writeBar0_telEpoch]
    simp

/-! ### BAR4 (R642, R576) -/

theorem State.of_not_tight (h : s.tight = false) : s.misses = [] ∧ s.keys.any (fun k => k.2.st == 2) = false := by
  simp only [State.tight, Bool.or_eq_false_iff, Bool.not_eq_false', List.isEmpty_iff] at h
  obtain ⟨⟨⟨⟨hm, _⟩, _⟩, hk⟩, _⟩ := h
  exact ⟨hm, hk⟩

theorem State.calm_of_homesFree (h : HomesFree s) : s.Calm s := by
  obtain ⟨hu, hn, he, hk⟩ := h.sound
  exact ⟨hu, hn, he, hk, (State.of_not_tight h.free).2, rfl, rfl, fun _ _ hr => hr⟩

/-- With no register in use and no copy at the host, an access waits for nothing. -/
theorem State.gate_of_homesFree (h : HomesFree s) (w : Who) (reads writes : List (Nat × Nat)) : s.gate w reads writes = (s, true) := by
  simp [State.gate, State.mustWait, State.heldLines, (State.of_not_tight h.free).1, h.free, h.hosts]

/-- Where the homes are free an access goes on at once: nothing is sent, no data changes, and what is poisoned or released stays so. -/
theorem State.gateAll_of_homesFree (h : HomesFree s) (w : Who) (reads writes : List (Loc × Nat)) :
    ∃ t, s.gateAll w reads writes = (t, true) ∧ s.Calm t ∧ s.Keeps t ∧ t.sent = s.sent := by
  have hg : s.gateAll w reads writes = (((s.meter w reads writes).countReleased reads writes).homeReads w (devRanges reads), true) := by
    simp only [State.gateAll, State.gate_of_homesFree h]
  refine ⟨_, hg, (((State.calm_of_homesFree h).meter ..).bump ..).homeReads .., ?_, ?_⟩
  · have hk := (State.Keeps.refl s).gateAll w reads writes
    rwa [hg] at hk
  · simp [State.countReleased, State.meter]

/-- A place within a page of the grant that a function may reach through its BAR4 now: byte `d` of the device. -/
structure Bar4At (s : State) (fn : Nat) (a : Bar4) (n d : Nat) : Prop where
  ready : s.ready = true
  still : s.rotating = false
  number : fn < 49
  enabled : fn ≤ s.vfs
  live : s.vfLive fn = true
  plain : a.atomic = false
  pos : 0 < n
  page : a.offset % 65536 + n ≤ 65536
  inside : a.offset + n ≤ s.bar4Of fn
  byte : s.bar4Byte fn a.offset = some d
  allowed : s.tdiAllows fn a (d / 65536) = true

/-- An access within one page has one place. -/
theorem State.bar4Places_of_page {fn o n d : Nat} (h0 : 0 < n) (hp : o % 65536 + n ≤ 65536) (hb : s.bar4Byte fn o = some d) :
    s.bar4Places fn o n = some [(⟨false, d⟩, n)] := by
  have h1 : (o + n - 1) / 65536 - o / 65536 + 1 = 1 := by omega
  have ha : max o (o / 65536 * 65536) = o := by omega
  have hn : min (o + n) ((o / 65536 + 1) * 65536) - o = n := by omega
  rw [State.bar4Places, h1]
  simp [List.range_succ, ha, hb, hn]

/-- An access to a place that can be reached is done there. -/
theorem Bar4At.done {fn n d : Nat} {a : Bar4} (h : Bar4At s fn a n d) (hn : (a.write.map (·.length)).getD a.size = n) :
    exec (.bar4Access fn a) s = .next (s.doBar4 fn a [(⟨false, d⟩, n)]) := by
  have hok : (fnOk fn && n != 0) = true := by simpa [fnOk, h.number] using Nat.ne_of_gt h.pos
  show execBar4Access fn a s = _
  simp only [execBar4Access, hn, unit_of hok, State.bar4Places_of_page h.pos h.page h.byte]
  simp [State.answers_of_ready h.ready, Nat.not_lt.mpr h.enabled, h.still, State.bootStage_of_ready h.ready, h.ready, h.plain, h.live,
    Nat.not_lt.mpr h.inside, h.allowed]

/-- A read of bytes that are neither poisoned nor released answers them, and leaves the memories alone. -/
theorem Bar4At.read {fn d : Nat} {a : Bar4} (h : Bar4At s fn a a.size d) (hf : HomesFree s) (hw : a.write = none) (hs : s.silent = false)
    (hb : s.rangeBad d a.size = false) (hr : s.releasedIn d a.size = false) :
    ∃ t, exec (.bar4Access fn a) s = .next t ∧ t.sent = .bar4Data fn a.offset (memBytes s.mem d a.size) false :: s.sent ∧
      t.mem = s.mem ∧ t.host = s.host := by
  refine ⟨_, h.done (by rw [hw]; rfl), ?_⟩
  simp only [State.doBar4, hw, hs, Bool.false_eq_true, if_false]
  generalize (⟨none, _, _⟩ : Who) = w
  obtain ⟨t, hg, hc, hk, hsent⟩ := State.gateAll_of_homesFree hf w [(⟨false, d⟩, a.size)] []
  have hc' := hc.charge w (40 * a.size)
  have hk' := hk.charge w (40 * a.size)
  simp [hg, State.fetchAll, State.fetch, hc'.rangeBad (State.calm_of_homesFree hf).keyless, hc'.released _ _ hr, hb,
    hk'.mem, hk'.host, hsent]

/-- While the host agent is silent a read is answered with poison (R316). -/
theorem Bar4At.read_of_silent {fn d : Nat} {a : Bar4} (h : Bar4At s fn a a.size d) (hw : a.write = none) (hs : s.silent = true) :
    exec (.bar4Access fn a) s = .next { s with sent := .bar4Data fn a.offset (List.replicate a.size 0) true :: s.sent } := by
  rw [h.done (by rw [hw]; rfl)]
  simp [State.doBar4, hw, hs]

/-- A write to a page that is not released changes its bytes and no others, and sends nothing. -/
theorem Bar4At.write {fn d : Nat} {a : Bar4} {bs : List Byte} (h : Bar4At s fn a bs.length d) (hf : HomesFree s) (hw : a.write = some bs)
    (hr : s.releasedIn d bs.length = false) :
    ∃ t, exec (.bar4Access fn a) s = .next t ∧ Wrote s t ⟨false, d⟩ bs ∧ t.sent = s.sent := by
  refine ⟨_, h.done (by rw [hw]; rfl), ?_⟩
  simp only [State.doBar4, hw]
  generalize (⟨none, _, _⟩ : Who) = w
  obtain ⟨t, hg, hc, hk, hsent⟩ := State.gateAll_of_homesFree hf w [] [(⟨false, d⟩, bs.length)]
  have hc' := hc.charge w (40 * bs.length)
  have hk' := hk.charge w (40 * bs.length)
  simp only [hg, State.storeAll, List.take_length]
  refine ⟨⟨?_, fun x hx => ?_⟩, ?_⟩
  · rw [State.store_mem, if_pos ⟨rfl, hc'.released _ _ hr⟩, memBytes_put]
  · rw [State.store_byte_of_outside _ _ _ _ hx, hk'.mem]
  · simp [hsent]

/-- The module supports no atomic through BAR4 (R642). -/
theorem execBar4Access_atomic {fn n : Nat} {a : Bar4} (hr : s.ready = true) (hs : s.rotating = false) (hf : fn < 49) (hv : fn ≤ s.vfs)
    (ha : a.atomic = true) (hn : n = (a.write.map (·.length)).getD a.size) (h0 : 0 < n) :
    exec (.bar4Access fn a) s = .next { s with sent := .unsupported fn a.offset :: s.sent } := by
  have hok : (fnOk fn && n != 0) = true := by simpa [fnOk, hf] using Nat.ne_of_gt h0
  show execBar4Access fn a s = _
  simp only [execBar4Access, ← hn, unit_of hok]
  simp [State.answers_of_ready hr, Nat.not_lt.mpr hv, hs, State.bootStage_of_ready hr, ha, State.refuseBar4]

/-- Settles O52: each clause by the lemma on its access above. -/
theorem registerWritesAndBar4 : Obligations.RegisterWritesAndBar4 := by
  unfold Obligations.RegisterWritesAndBar4
  intro place
  have hat {s : State} {fn n d : Nat} {a : Bar4} (h : place s fn a n d) : Bar4At s fn a n d ∧ HomesFree s := by
    obtain ⟨h1, h2, h3, h4, h5, h6, h7, h8, h9, h10, h11, hf⟩ := h
    exact ⟨⟨h1, h2, h3, h4, h5, h6, h7, h8, h9, h10, h11⟩, hf⟩
  refine ⟨fun s v => exec_registerWrite_pwrCap v, fun s page v => exec_registerWrite_sqTail v,
    fun s v => exec_registerWrite_keyAuth v, fun s v => exec_registerWrite_telEpoch v,
    fun s fn o bytes v ha hf hv ho hz => ⟨_, execRegisterWrite_of_not_sized v ha hf hv ho ?_, rfl⟩,
    fun s fn o v ha h0 hf hv hl h8 ho hn => execRegisterWrite_of_no_offset v ha h0 hf hv hl ho ?_ hn,
    fun s fn d a hp hw hs hb hr => (hat hp).1.read (hat hp).2 hw hs hb hr,
    fun s fn d a hp hw hs => (hat hp).1.read_of_silent hw hs,
    fun s fn d a bs hp hw hr => (hat hp).1.write (hat hp).2 hw hr,
    fun s fn n a hr hs hf hv ha hn h0 => execBar4Access_atomic hr hs hf hv ha hn h0⟩
  · simpa [sized] using hz
  · simp [sized, h8]

end Sys2Proof.Machine
end

section
/-! SUPPORT. What sets of wavelengths hold, and which are bad (spec/09 R406). -/

namespace Sys2Proof.Machine

/-! ### Sets of wavelengths -/

theorem mem_waves {m : BitVec 9} {k : Nat} : k ∈ waves m ↔ m.getLsbD k = true := by
  simp only [waves, List.mem_filter, List.mem_range, and_iff_right_iff_imp]
  exact BitVec.lt_of_getLsbD

theorem waves_nodup (m : BitVec 9) : (waves m).Nodup := List.nodup_range.filter _

/-- Adding a power of two whose bit is clear sets that bit and no other. -/
theorem testBit_add_two_pow {n k : Nat} (h : n.testBit k = false) (j : Nat) : (n + 2 ^ k).testBit j = (n.testBit j || decide (j = k)) := by
  have hz : bitsOf n k k = 0 := Nat.eq_of_testBit_eq fun i => by
    rw [bitsOf_testBit, Nat.zero_testBit, show k + 1 - k = 1 by omega]
    by_cases hi : i = 0
    · simp [hi, h]
    · simp [hi]
  have hp : n + 2 ^ k = bitsPut n k k 1 := by simp [bitsPut, hz]
  rw [hp, bitsPut_testBit]
  by_cases hj : j = k
  · simp [hj]
  · rw [if_neg (by omega)]
    simp [hj]

/-- A sum of powers of two at different places has just those bits. -/
theorem testBit_foldl_two_pow {ks : List Nat} (hd : ks.Nodup) {n : Nat} (hn : ∀ k ∈ ks, n.testBit k = false) (j : Nat) :
    (ks.foldl (fun n k => n + 2 ^ k) n).testBit j = (n.testBit j || decide (j ∈ ks)) := by
  induction ks generalizing n with
  | nil => simp
  | cons k ks ih =>
    obtain ⟨hk, hd⟩ := List.nodup_cons.mp hd
    have hb := testBit_add_two_pow (hn k List.mem_cons_self)
    rw [List.foldl_cons, ih hd, hb]
    · simp [Bool.or_assoc]
    · intro i hi
      rw [hb, hn i (List.mem_cons_of_mem _ hi)]
      exact decide_eq_false fun h : i = k => hk (h ▸ hi)

/-- The mask of a list of wavelengths without repetition holds those and no others. -/
theorem getLsbD_waveMask {ks : List Nat} (hd : ks.Nodup) {j : Nat} (hj : j < 9) : (waveMask ks).getLsbD j = decide (j ∈ ks) := by
  rw [waveMask, BitVec.getLsbD_ofNat, testBit_foldl_two_pow hd fun k _ => Nat.zero_testBit k]
  simp [hj]

/-- R406: bad is a wavelength without its comb line, and a data wavelength above the threshold. -/
theorem getLsbD_badWaves (r : SerRead) (thr : Nat) (lanes : BitVec 9) {k : Nat} (hk : k < 9) : (badWaves r thr lanes).getLsbD k =
    (r.dark.getLsbD k || (lanes.getLsbD k && decide (r.symbols < r.errs.getD k 0 * 10 ^ thr))) := by
  rw [badWaves, BitVec.getLsbD_or, BitVec.getLsbD_and, getLsbD_waveMask (List.nodup_range.filter _) hk]
  simp only [List.mem_filter, List.mem_range, hk, true_and, decide_eq_true_eq]

end Sys2Proof.Machine
end

section
/-! SUPPORT. Registers of the fabric's ports and laser sources; what a reliability record, a message that leaves, the loss of a port and
the start of its training leave alone (spec/01 R28; spec/09 R403 to R413). -/

namespace Sys2Proof.Machine

variable {s : State}

/-! ### Registers of ports and sources (Tables 9.11 to 9.13) -/

/-- A field that shares no bit with the one written reads as before. -/
theorem State.fld_setFld_of_apart {f g : Field} (v : Nat) (hg : g.hi < 64) (h : f.key ≠ g.key ∨ f.hi < g.lo ∨ g.hi < f.lo) :
    (s.setFld g v).fld f = s.fld f := by
  by_cases hk : f.key = g.key
  · exact State.fld_setFld_of_disjoint s f g v hk hg (h.resolve_left (not_not_intro hk))
  · exact State.fld_setFld_of_key s f g v hk

/-- A field of a register is the field of its word, whatever else of the state differs. -/
theorem State.fld_of_regs {t : State} (h : t.regs = s.regs) (f : Field) : t.fld f = s.fld f := by
  simp only [State.fld, State.word, h]

theorem elsReg_eq (i hi lo : Nat) : elsReg i hi lo = ⟨0x00600100 + 8 * i, hi, lo⟩ := if_neg (by omega)
theorem portCtl_eq (p hi lo : Nat) : portCtl p hi lo = ⟨0x00601000 + 64 * p, hi, lo⟩ := if_neg (by omega)

/-! ### Laser sources -/

theorem elsPartner_ne (i : Nat) : elsPartner i ≠ i := by
  unfold elsPartner
  split <;> omega

theorem elsPartner_lt {i : Nat} (h : i < 4) : elsPartner i < 4 := by
  unfold elsPartner
  split <;> omega

@[simp] theorem State.elsSt_setEls (i : Nat) (x : ElsSt) (j : Nat) : (s.setEls i x).elsSt j = if j = i then x else s.elsSt j :=
  tabGet_set _ s.els i x j

theorem State.elsSt_of_els {t : State} (h : t.els = s.els) (i : Nat) : t.elsSt i = s.elsSt i := by simp only [State.elsSt, h]

theorem State.lit_of_els {t : State} (h : t.els = s.els) (p : Nat) : t.lit p = s.lit p := by
  simp only [State.lit, State.elsSt_of_els h]

/-- The ports of a pair take light from its two sources and from no other (R28). -/
theorem State.lit_eq_false {i p : Nat} (hp : p / 16 = i / 2) (h : s.elsSt i ≠ .on) (h' : s.elsSt (elsPartner i) ≠ .on) :
    s.lit p = false := by
  have hi : p / 16 * 2 = i ∧ p / 16 * 2 + 1 = elsPartner i ∨ p / 16 * 2 = elsPartner i ∧ p / 16 * 2 + 1 = i := by
    unfold elsPartner
    split <;> omega
  obtain ⟨h0, h1⟩ | ⟨h0, h1⟩ := hi
  · rw [State.lit, h1, h0]
    simp [h, h']
  · rw [State.lit, h1, h0]
    simp [h, h']

/-! ### What a reliability record leaves alone -/

@[simp] theorem State.ras_els (code sev part u : Nat) (d0 d1 : W64) : (s.ras code sev part u d0 d1).els = s.els := by
  simp [State.ras, State.rasAppend, apply_ite State.els]

/-- A record writes the log's head and its ring, which lies above the counts (R629). -/
theorem State.ras_word (code sev part u : Nat) (d0 d1 : W64) {k : Nat} (hh : k ≠ 0x00A00010) (hk : k < 0x00A01000) :
    (s.ras code sev part u d0 d1).word k = (s.rasCount code).word k := by
  have ha (t : State) : (t.rasAppend code sev part u d0 d1).word k = t.word k := by
    rw [State.rasAppend, State.word_setFld, if_neg (show k ≠ rasLogHead.key from hh), State.word_setWord, if_neg (by omega),
      State.word_setWord, if_neg (by omega), State.word_setWord, if_neg (by omega), State.word_setWord, if_neg (by omega)]
  unfold State.ras
  dsimp only
  cases rasLogged code <;> cases rasEvent code <;> simp [ha]

/-- Counts and records lie above the registers of the fabric. -/
theorem State.ras_fld (code sev part u : Nat) (d0 d1 : W64) {f : Field} (h : f.key < 0x00A00000) :
    (s.ras code sev part u d0 d1).fld f = s.fld f := by
  rw [State.fld, State.ras_word _ _ _ _ _ _ (by omega) (by omega), State.rasCount, State.word_bump, if_neg (by omega), State.fld]

/-- An occurrence is counted once. -/
theorem State.ras_count {code : Nat} (h : code < 256) (sev part u : Nat) (d0 d1 : W64) :
    (s.ras code sev part u d0 d1).word (0x00A00800 + 8 * code) = s.word (0x00A00800 + 8 * code) + 1 := by
  rw [State.ras_word _ _ _ _ _ _ (by omega) (by omega), State.rasCount, State.word_bump, if_pos rfl]
  rfl

/-! ### Messages that leave change no register and no laser source -/

/-- `t` has the registers and the laser sources of `s`. -/
structure State.Conveys (s t : State) : Prop where
  regs : t.regs = s.regs
  els : t.els = s.els

variable {t : State}

theorem State.Conveys.refl (s : State) : s.Conveys s := ⟨rfl, rfl⟩

theorem State.Conveys.of_eq {u : State} (h : s.Conveys t) (hr : u.regs = t.regs) (he : u.els = t.els) : s.Conveys u :=
  ⟨hr.trans h.regs, he.trans h.els⟩

theorem State.Conveys.setPort (h : s.Conveys t) (p : Nat) (x : Port) : s.Conveys (t.setPort p x) := h.of_eq rfl rfl

theorem State.Conveys.charge (h : s.Conveys t) (w : Who) (n : Nat) : s.Conveys (t.charge w n) := by
  unfold State.charge
  split
  · exact h.of_eq rfl rfl
  · exact ite_either (h.of_eq rfl rfl) h

theorem State.Conveys.portBytes (h : s.Conveys t) (m : FabMsg) (out : Bool) : s.Conveys (t.portBytes m out) := h.charge ..

theorem State.Conveys.sendOn (h : s.Conveys t) (p : Nat) (m : FabMsg) : s.Conveys (t.sendOn p m) := by
  unfold State.sendOn
  dsimp only
  generalize (if t.fld (portStat p 19 17) = 1 then t.exactOf m else none) = x
  cases x with
  | some x => exact h.of_eq rfl rfl
  | none => exact ite_either ⟨(h.portBytes m true).regs, (h.portBytes m true).els⟩ (h.setPort ..)

theorem State.Conveys.fillPort (h : s.Conveys t) (p fuel : Nat) : s.Conveys (t.fillPort p fuel) := by
  induction fuel generalizing t with
  | zero => exact h
  | succ fuel ih =>
    unfold State.fillPort
    dsimp only
    split
    · exact h
    · exact ite_either (ih (((h.setPort ..).sendOn ..).setPort ..)) h

theorem State.Conveys.post (h : s.Conveys t) (m : FabMsg) : s.Conveys (t.post m) := by
  unfold State.post
  refine ite_either (ite_either (h.of_eq rfl rfl) (h.of_eq rfl rfl)) ?_
  split
  · exact h.sendOn ..
  · exact h.of_eq rfl rfl

theorem State.Conveys.passOn (h : s.Conveys t) (p : Nat) (ms : List FabMsg) : s.Conveys (t.passOn p ms) := by
  unfold State.passOn
  dsimp only
  split
  · exact (h.setPort ..).fillPort ..
  · exact foldl_keeps s.Conveys State.routeLost (fun _ _ hu => hu.post _) ms h

/-! ### A port that goes dark, and one that starts to train -/

/-- The record of a lost link, and its messages that pass on, change no register of the fabric. -/
theorem State.fld_lost (code sev part u p : Nat) (d0 d1 : W64) (ms : List FabMsg) {f : Field} (hf : f.key < 0x00A00000) :
    ((s.ras code sev part u d0 d1).passOn p ms).fld f = s.fld f := by
  rw [State.fld_of_regs ((State.Conveys.refl _).passOn p ms).regs, State.ras_fld _ _ _ _ _ _ hf]

/-- Of the registers of the fabric a port's loss changes only that port's status. -/
theorem State.portDark_fld {p : Nat} {f : Field} (hf : f.key < 0x00A00000) (h : f.key ≠ 0x00601008 + 64 * p) :
    (s.portDark p).fld f = s.fld f := by
  have hw (t : State) (hi lo v : Nat) : (t.setFld (portStat p hi lo) v).fld f = t.fld f := State.fld_setFld_of_key _ _ _ _ h
  unfold State.portDark
  dsimp only
  split <;> simp [State.fld_lost, hf, hw]

/-- The state of a port shares its register with fields above it. -/
theorem State.portState_setFld {p q hi lo : Nat} (v : Nat) (hl : 3 ≤ lo) (hh : hi < 64) :
    (s.setFld (portStat p hi lo) v).portState q = s.portState q :=
  State.fld_setFld_of_apart v hh (.inr (.inl (Nat.lt_of_succ_le hl)))

theorem portStat_key_lt {p : Nat} (h : p < 32) (hi lo : Nat) : (portStat p hi lo).key < 0x00A00000 := by
  show 0x00601008 + 64 * p < _
  omega

theorem State.portState_lost {q : Nat} (hq : q < 32) (code sev part u p : Nat) (d0 d1 : W64) (ms : List FabMsg) :
    ((s.ras code sev part u d0 d1).passOn p ms).portState q = s.portState q := State.fld_lost _ _ _ _ _ _ _ _ (portStat_key_lt hq 2 0)

theorem State.portDark_portState {p : Nat} (h : p < 32) : (s.portDark p).portState p = 0 := by
  have h0 : (s.setFld (portStat p 2 0) 0).portState p = 0 := State.fld_setFld _ _ _ (by decide : (2 : Nat) < 64)
  have hp (t : State) (x : Port) : (t.setPort p x).portState p = t.portState p := rfl
  unfold State.portDark
  dsimp only
  split <;> simp [State.portState_setFld, State.portState_lost, h, hp, h0]

theorem State.portDark_portState_of_ne {p q : Nat} (hq : q < 32) (h : q ≠ p) : (s.portDark p).portState q = s.portState q := by
  refine State.portDark_fld (portStat_key_lt hq 2 0) ?_
  show 0x00601008 + 64 * q ≠ _
  omega

@[simp] theorem State.portDark_els (p : Nat) : (s.portDark p).els = s.els := by
  unfold State.portDark
  dsimp only
  split <;> simp [((State.Conveys.refl _).passOn _ _).els]

/-- `t` has the laser sources of `s`, and every register below those of the ports. -/
structure State.KeepsSources (s t : State) : Prop where
  els : t.els = s.els
  fld : ∀ f : Field, f.key < 0x00601000 → t.fld f = s.fld f

theorem State.KeepsSources.refl (s : State) : s.KeepsSources s := ⟨rfl, fun _ _ => rfl⟩

/-- A port that starts to train changes its own registers and no laser source. -/
theorem State.KeepsSources.portTrain {t : State} (h : s.KeepsSources t) (p : Nat) : s.KeepsSources (t.portTrain p) := by
  unfold State.portTrain
  split
  · refine ⟨h.els, fun f hf => ?_⟩
    rw [portCtl_eq, State.fld_setFld_of_key _ _ _ _ (by show f.key ≠ 0x00601000 + 64 * p; omega)]
    exact (State.fld_setFld_of_key _ _ _ _ (by show f.key ≠ 0x00601008 + 64 * p; omega)).trans (h.fld f hf)
  · exact h

end Sys2Proof.Machine
end

section
/-! SUPPORT. Wavelengths that are measured, swapped and retested; laser sources that are serviced, lost, inserted and locked (spec/01 R36,
R37; spec/09 R406 to R410). -/

namespace Sys2Proof.Machine

variable {s : State}

/-! ### What was measured of a port's wavelengths (R406, R407) -/

theorem State.portUp_of_portState {p : Nat} (h : s.portState p = 5 ∨ s.portState p = 6) : s.portUp p = true := by
  simpa [State.portUp, State.portState] using h

theorem onPort_of_ready {p : Nat} {f : State → State} (hp : p < 32) (hr : s.ready = true) : onPort p s f = .next (f s) := by
  rw [onPort, unit_of (by simpa [portOk] using hp), if_pos hr]

/-- The mask of good wavelengths reads back. -/
theorem State.fld_setGood (p : Nat) (good : BitVec 9) :
    (s.setFld (portStat p 12 4) good.toNat).fld (portStat p 12 4) = good.toNat := by
  rw [State.fld_setFld _ _ _ (by decide : (12 : Nat) < 64)]
  exact Nat.mod_eq_of_lt good.isLt

theorem State.spare_setGood (p v : Nat) : (s.setFld (portStat p 12 4) v).fld (portStat p 16 13) = s.fld (portStat p 16 13) :=
  State.fld_setFld_of_apart _ (by decide : (12 : Nat) < 64) (.inr (.inr (by decide : (12 : Nat) < 13)))

theorem State.good_setSpare (p v : Nat) : (s.setFld (portStat p 16 13) v).fld (portStat p 12 4) = s.fld (portStat p 12 4) :=
  State.fld_setFld_of_apart _ (by decide : (16 : Nat) < 64) (.inr (.inl (by decide : (12 : Nat) < 13)))

/-- The data wavelengths that a measure finds bad at a port. -/
def State.badLanes (s : State) (p : Nat) (r : SerRead) : List Nat :=
  waves (badWaves r (s.fld (portCtl p 11 8)) (s.port p).lanes &&& (s.port p).lanes)

/-- The wavelengths that a measure leaves good at a port. -/
def State.goodAfter (s : State) (p : Nat) (r : SerRead) : BitVec 9 :=
  BitVec.ofNat 9 (s.fld (portStat p 12 4)) &&& ~~~badWaves r (s.fld (portCtl p 11 8)) (s.port p).lanes

/-- What a measure does at a port that carries flits. -/
theorem exec_wavelengthSerCheck {p : Nat} (r : SerRead) (hp : p < 32) (hr : s.ready = true) (hu : s.portState p = 5 ∨ s.portState p = 6) :
    let u := s.setFld (portStat p 12 4) (s.goodAfter p r).toNat
    exec (.wavelengthSerCheck p r) s = .next (match s.badLanes p r with
      | [] => u
      | k :: _ =>
        if (s.port p).swapping.isSome then u
        else if s.fld (portStat p 16 13) < 9 && (s.goodAfter p r).getLsbD (s.fld (portStat p 16 13)) then
          u.setPort p { s.port p with swapping := some k }
        else u.narrow p (s.goodAfter p r)) := by
  intro u
  show execWavelengthSerCheck p r s = _
  rw [execWavelengthSerCheck, onPort_of_ready hp hr]
  simp only [State.portUp_of_portState hu, Bool.not_true, Bool.false_eq_true, if_false, State.spare_setGood] <;> rfl

theorem State.narrow_of_few {p : Nat} {good : BitVec 9} (h : (waves good).length < 4) : s.narrow p good = s.portDark p := by
  simp [State.narrow, h]

/-- With no data wavelength bad, the measure is noted and no more. -/
theorem wavelengthSerCheck_clear {p : Nat} {r : SerRead} (hp : p < 32) (hr : s.ready = true) (hu : s.portState p = 5 ∨ s.portState p = 6)
    (hb : s.badLanes p r = []) : ∃ t, exec (.wavelengthSerCheck p r) s = .next t ∧ t = { s with regs := t.regs } ∧
      t.fld (portStat p 12 4) = (s.goodAfter p r).toNat := by
  have he := exec_wavelengthSerCheck r hp hr hu
  rw [hb] at he
  exact ⟨_, he, rfl, State.fld_setGood ..⟩

/-- The first bad one starts its swap for a good spare. -/
theorem wavelengthSerCheck_swaps {p k : Nat} {ks : List Nat} {r : SerRead} (hp : p < 32) (hr : s.ready = true)
    (hu : s.portState p = 5 ∨ s.portState p = 6) (hb : s.badLanes p r = k :: ks) (hs : (s.port p).swapping = none)
    (h9 : s.fld (portStat p 16 13) < 9) (hg : (s.goodAfter p r).getLsbD (s.fld (portStat p 16 13)) = true) :
    ∃ t, exec (.wavelengthSerCheck p r) s = .next t ∧ (t.port p).swapping = some k ∧ (t.port p).lanes = (s.port p).lanes := by
  have he := exec_wavelengthSerCheck r hp hr hu
  simp only [hb, hs, h9, hg, Option.isSome_none, decide_true, Bool.and_self, Bool.false_eq_true, if_false, if_true] at he
  exact ⟨_, he, by simp, by simp⟩

/-- With no spare and fewer than four good ones the port goes dark. -/
theorem wavelengthSerCheck_dark {p : Nat} {r : SerRead} (hp : p < 32) (hr : s.ready = true)
    (hu : s.portState p = 5 ∨ s.portState p = 6) (hb : s.badLanes p r ≠ []) (hs : (s.port p).swapping = none)
    (h9 : 9 ≤ s.fld (portStat p 16 13)) (hg : (waves (s.goodAfter p r)).length < 4) :
    ∃ t, exec (.wavelengthSerCheck p r) s = .next t ∧ t.portState p = 0 := by
  obtain ⟨k, ks, hb⟩ := List.exists_cons_of_ne_nil hb
  have he := exec_wavelengthSerCheck r hp hr hu
  simp only [hb, hs, Nat.not_lt.mpr h9, Option.isSome_none, decide_false, Bool.false_and, Bool.false_eq_true, if_false,
    State.narrow_of_few hg] at he
  exact ⟨_, he, State.portDark_portState hp⟩

/-- The spare takes the place of the wavelength that is swapped out. -/
theorem mem_swap {lanes : BitVec 9} {k spare : Nat} (hs : lanes.getLsbD spare = false) {j : Nat} (hj : j < 9) :
    (waveMask ((waves lanes).filter (· != k) ++ [spare])).getLsbD j = true ↔ (lanes.getLsbD j = true ∧ j ≠ k) ∨ j = spare := by
  have hd : ((waves lanes).filter (· != k) ++ [spare]).Nodup := by
    refine List.nodup_append.mpr ⟨(waves_nodup lanes).filter _, List.pairwise_singleton _ _, fun j hm i hi hji => ?_⟩
    rw [← List.mem_singleton.mp hi, ← hji, mem_waves.mp (List.mem_filter.mp hm).1] at hs
    cases hs
  rw [getLsbD_waveMask hd hj]
  simp [mem_waves]

/-- Both ends switch over: the lanes take the spare, and none is left. -/
theorem exec_wavelengthSwap {p k : Nat} (hp : p < 32) (hr : s.ready = true) (hu : s.portState p = 5 ∨ s.portState p = 6)
    (hk : (s.port p).swapping = some k) (h9 : s.fld (portStat p 16 13) < 9) :
    exec (.wavelengthSwap p) s = .next ((s.setPort p { s.port p with
      lanes := waveMask ((waves (s.port p).lanes).filter (· != k) ++ [s.fld (portStat p 16 13)]), swapping := none }).setFld
        (portStat p 16 13) 15) := by
  show execWavelengthSwap p s = _
  rw [execWavelengthSwap, onPort_of_ready hp hr]
  simp only [hk, State.portUp_of_portState hu, h9, decide_true, Bool.and_self, if_true]

theorem wavelengthSwap_takesSpare {p k : Nat} (hp : p < 32) (hr : s.ready = true) (hu : s.portState p = 5 ∨ s.portState p = 6)
    (hk : (s.port p).swapping = some k) (h9 : s.fld (portStat p 16 13) < 9)
    (hs : (s.port p).lanes.getLsbD (s.fld (portStat p 16 13)) = false) :
    ∃ t, exec (.wavelengthSwap p) s = .next t ∧ (t.port p).swapping = none ∧ t.fld (portStat p 16 13) = 15 ∧
      ∀ j, j < 9 → ((t.port p).lanes.getLsbD j = true ↔
        ((s.port p).lanes.getLsbD j = true ∧ j ≠ k) ∨ j = s.fld (portStat p 16 13)) := by
  refine ⟨_, exec_wavelengthSwap hp hr hu hk h9, by simp, State.fld_setFld _ _ _ (by decide : (16 : Nat) < 64), fun j hj => ?_⟩
  have hq (u : State) (v : Nat) : (u.setFld (portStat p 16 13) v).port p = u.port p := rfl
  rw [hq, State.port_setPort, if_pos rfl]
  exact mem_swap hs hj

/-- The wavelengths that are good at a port after a retest. -/
def State.goodWith (s : State) (p : Nat) (pass : BitVec 9) : BitVec 9 := BitVec.ofNat 9 (s.fld (portStat p 12 4)) ||| pass

theorem State.portState_setGood (p v : Nat) : (s.setFld (portStat p 12 4) v).portState p = s.portState p :=
  State.portState_setFld v (by decide) (by decide)

/-- What a retest does at a port that carries flits. -/
theorem exec_wavelengthRetest {p : Nat} (pass : BitVec 9) (hp : p < 32) (hr : s.ready = true)
    (hu : s.portState p = 5 ∨ s.portState p = 6) :
    let u := s.setFld (portStat p 12 4) (s.goodWith p pass).toNat
    exec (.wavelengthRetest p pass) s = .next (
      if s.portState p = 6 then (if 8 ≤ (waves (s.goodWith p pass)).length then u.portDark p else u)
      else match waves (pass &&& ~~~(s.port p).lanes) with
        | k :: _ => if s.fld (portStat p 16 13) = 15 then u.setFld (portStat p 16 13) k else u
        | [] => u) := by
  intro u
  show execWavelengthRetest p pass s = _
  rw [execWavelengthRetest, onPort_of_ready hp hr]
  simp only [State.portUp_of_portState hu, Bool.not_true, Bool.false_eq_true, if_false, State.portState_setGood,
    State.spare_setGood] <;> rfl

/-- In UP a retest notes what passed, and may name a spare. -/
theorem wavelengthRetest_up {p : Nat} (pass : BitVec 9) (hp : p < 32) (hr : s.ready = true) (hu : s.portState p = 5) :
    ∃ t, exec (.wavelengthRetest p pass) s = .next t ∧ t.portState p = 5 ∧ t.fld (portStat p 12 4) = (s.goodWith p pass).toNat ∧
      t = { s with regs := t.regs } := by
  have hst : (s.setFld (portStat p 12 4) (s.goodWith p pass).toNat).portState p = 5 := (State.portState_setGood ..).trans hu
  have hgood := State.fld_setGood (s := s) p (s.goodWith p pass)
  refine ⟨_, exec_wavelengthRetest pass hp hr (.inl hu), ?_⟩
  rw [hu, if_neg (by decide)]
  split
  · split
    · exact ⟨(State.portState_setFld _ (by decide) (by decide)).trans hst, (State.good_setSpare ..).trans hgood, rfl⟩
    · exact ⟨hst, hgood, rfl⟩
  · exact ⟨hst, hgood, rfl⟩

/-- A DEGRADED port with eight good wavelengths goes through DARK to train again (R407). -/
theorem wavelengthRetest_retrains {p : Nat} {pass : BitVec 9} (hp : p < 32) (hr : s.ready = true) (hu : s.portState p = 6)
    (hg : 8 ≤ (waves (s.goodWith p pass)).length) : ∃ t, exec (.wavelengthRetest p pass) s = .next t ∧ t.portState p = 0 := by
  refine ⟨_, exec_wavelengthRetest pass hp hr (.inr hu), ?_⟩
  rw [if_pos hu, if_pos hg]
  exact State.portDark_portState hp

/-! ### Service, loss and arrival of laser sources (R36, R37, R409, R410) -/

/-- A field of a source reads back. -/
theorem State.fld_setEls_same (i v : Nat) {hi lo : Nat} (h : hi < 64) :
    (s.setFld (elsReg i hi lo) v).fld (elsReg i hi lo) = v % 2 ^ (hi + 1 - lo) := by
  rw [elsReg_eq]
  exact State.fld_setFld _ _ _ h

/-- The fields of other sources, and the other fields of the same, are as they were. -/
theorem State.fld_setEls_other {i j hi lo hj lj : Nat} (v : Nat) (hh : hi < 64) (h : j ≠ i ∨ hj < lo ∨ hi < lj) :
    (s.setFld (elsReg i hi lo) v).fld (elsReg j hj lj) = s.fld (elsReg j hj lj) := by
  rw [elsReg_eq, elsReg_eq]
  refine State.fld_setFld_of_apart v hh (h.imp_left fun hn => ?_)
  show 0x00600100 + 8 * j ≠ 0x00600100 + 8 * i
  omega

theorem State.portState_setFldEls {i : Nat} (hi : i < 4) (p h l v : Nat) : (s.setFld (elsReg i h l) v).portState p = s.portState p := by
  rw [elsReg_eq]
  refine State.fld_setFld_of_key _ _ _ _ ?_
  show 0x00601008 + 64 * p ≠ 0x00600100 + 8 * i
  omega

theorem State.rasWord_setFldEls {i : Nat} (hi : i < 4) (code h l v : Nat) :
    (s.setFld (elsReg i h l) v).word (0x00A00800 + 8 * code) = s.word (0x00A00800 + 8 * code) := by
  rw [elsReg_eq, State.word_setFld, if_neg]
  show _ ≠ 0x00600100 + 8 * i
  omega

theorem elsReg_key_lt {i : Nat} (hi : i < 4) (h l : Nat) : (elsReg i h l).key < 0x00601000 := by
  rw [elsReg_eq]
  show 0x00600100 + 8 * i < _
  omega

theorem State.ras_fld_elsReg {i : Nat} (hi : i < 4) (h l code sev part u : Nat) (d0 d1 : W64) :
    (s.ras code sev part u d0 d1).fld (elsReg i h l) = s.fld (elsReg i h l) :=
  State.ras_fld _ _ _ _ _ _ (Nat.lt_trans (elsReg_key_lt hi h l) (by decide))

theorem State.ras_portState {p : Nat} (hp : p < 32) (code sev part u : Nat) (d0 d1 : W64) :
    (s.ras code sev part u d0 d1).portState p = s.portState p := State.ras_fld _ _ _ _ _ _ (portStat_key_lt hp 2 0)

@[simp] theorem State.ras_elsSt (code sev part u : Nat) (d0 d1 : W64) (i : Nat) : (s.ras code sev part u d0 d1).elsSt i = s.elsSt i :=
  State.elsSt_of_els (State.ras_els ..) i

@[simp] theorem State.ras_now (code sev part u : Nat) (d0 d1 : W64) : (s.ras code sev part u d0 d1).now = s.now := by
  simp [State.ras, State.rasAppend, apply_ite State.now]

@[simp] theorem State.elsSt_setFld (g : Field) (v i : Nat) : (s.setFld g v).elsSt i = s.elsSt i := rfl

/-- A source that is off: not locked, and without output. -/
def State.elsQuiet (s : State) (i : Nat) : State := ((s.setEls i .off).setFld (elsReg i 1 1) 0).elsOut i 0

theorem State.elsQuiet_elsSt (i j : Nat) : (s.elsQuiet i).elsSt j = if j = i then .off else s.elsSt j := State.elsSt_setEls ..

/-- A port of a pair that has gone dark goes down, if it is not down yet. -/
def State.darken (s : State) (p : Nat) : State := if s.portState p = 0 then s else s.portDark p

theorem State.darken_els (p : Nat) : (s.darken p).els = s.els :=
  ite_either (P := fun t : State => t.els = s.els) rfl (State.portDark_els p)

theorem State.darken_portState {p : Nat} (hp : p < 32) : (s.darken p).portState p = 0 := by
  unfold State.darken
  split
  · assumption
  · exact State.portDark_portState hp

/-- A port that is down stays down while others go down. -/
theorem State.darken_portState_of_down {p q : Nat} (hq : q < 32) (h : s.portState q = 0) : (s.darken p).portState q = 0 := by
  by_cases hpq : q = p
  · exact hpq ▸ State.darken_portState (hpq ▸ hq)
  · exact ite_either (P := fun t : State => t.portState q = 0) h ((State.portDark_portState_of_ne hq hpq).trans h)

theorem State.foldl_darken_portState {ks : List Nat} (b : Nat) {q : Nat} (hq : q < 32) (h : s.portState q = 0 ∨ ∃ k ∈ ks, q = b + k) :
    (ks.foldl (fun s k => s.darken (b + k)) s).portState q = 0 := by
  induction ks generalizing s with
  | nil => simpa using h
  | cons k ks ih =>
    refine ih ?_
    obtain h | ⟨j, hj, rfl⟩ := h
    · exact .inl (State.darken_portState_of_down hq h)
    · obtain rfl | hj := List.mem_cons.mp hj
      · exact .inl (State.darken_portState hq)
      · exact .inr ⟨j, hj, rfl⟩

/-- A source goes dark beside one that is on: that one gives its full output (R36). -/
theorem State.elsDark_of_partner {i : Nat} (h : s.elsSt (elsPartner i) = .on) :
    s.elsDark i = (s.elsQuiet i).elsOut (elsPartner i) 100 := by
  have hp : (s.elsQuiet i).elsSt (elsPartner i) = .on := by rw [State.elsQuiet_elsSt, if_neg (elsPartner_ne i), h]
  exact if_pos (beq_iff_eq.mpr hp)

/-- The last source of a pair goes dark: the sixteen ports of the pair go down (R37). -/
theorem State.elsDark_of_alone {i : Nat} (h : s.elsSt i = .on) (hp : s.elsSt (elsPartner i) ≠ .on) :
    s.elsDark i = (List.range 16).foldl (fun s k => s.darken (i / 2 * 16 + k)) (s.elsQuiet i) := by
  have hq : (s.elsQuiet i).elsSt (elsPartner i) ≠ .on := by rwa [State.elsQuiet_elsSt, if_neg (elsPartner_ne i)]
  have h1 : (s.elsSt i != .on) = false := by simp [h]
  exact (if_neg (mt beq_iff_eq.mp hq)).trans (if_neg (by simp [h1]))

/-- What is left of a pair whose last source goes dark. -/
theorem State.elsDark_alone_down {i : Nat} (h : s.elsSt i = .on) (hp : s.elsSt (elsPartner i) ≠ .on) :
    (s.elsDark i).elsSt i = .off ∧ ∀ p < 32, p / 16 = i / 2 → (s.elsDark i).portState p = 0 ∧ (s.elsDark i).lit p = false := by
  have he : (s.elsDark i).els = (s.elsQuiet i).els := by
    rw [State.elsDark_of_alone h hp]
    exact foldl_keeps (fun t => t.els = (s.elsQuiet i).els) _ (fun t k ht => (State.darken_els _).trans ht) _ rfl
  have hs (j : Nat) : (s.elsDark i).elsSt j = if j = i then .off else s.elsSt j :=
    (State.elsSt_of_els he j).trans (State.elsQuiet_elsSt ..)
  have hi : (s.elsDark i).elsSt i = .off := by rw [hs, if_pos rfl]
  refine ⟨hi, fun p h32 hpi => ⟨?_, State.lit_eq_false hpi (by simp [hi]) (by rwa [hs, if_neg (elsPartner_ne i)])⟩⟩
  rw [State.elsDark_of_alone h hp]
  exact State.foldl_darken_portState _ h32 (.inr ⟨p % 16, List.mem_range.mpr (by omega), by omega⟩)

/-- What is left of a pair of which one source goes dark beside one that is on. -/
structure State.HalfLit (s t : State) (i : Nat) : Prop where
  off : t.elsSt i = .off
  on : t.elsSt (elsPartner i) = .on
  noOutput : t.fld (elsReg i 15 8) = 0
  fullOutput : t.fld (elsReg (elsPartner i) 15 8) = 100
  ports : ∀ p, t.portState p = s.portState p
  low : ∀ h l, h < 8 → h < 1 ∨ 1 < l → t.fld (elsReg i h l) = s.fld (elsReg i h l)
  counts : ∀ code, t.word (0x00A00800 + 8 * code) = s.word (0x00A00800 + 8 * code)

theorem State.elsDark_halfLit {i : Nat} (hi : i < 4) (h : s.elsSt (elsPartner i) = .on) : s.HalfLit (s.elsDark i) i := by
  have hne := elsPartner_ne i
  have hlt := elsPartner_lt hi
  rw [State.elsDark_of_partner h]
  refine ⟨?_, ?_, ?_, State.fld_setEls_same _ _ (by decide), fun p => ?_, fun h l h8 ha => ?_, fun code => ?_⟩
  · exact (State.elsQuiet_elsSt ..).trans (if_pos rfl)
  · exact ((State.elsQuiet_elsSt ..).trans (if_neg hne)).trans h
  · exact (State.fld_setEls_other _ (by decide) (.inl hne.symm)).trans (State.fld_setEls_same _ _ (by decide))
  · exact ((State.portState_setFldEls hlt ..).trans (State.portState_setFldEls hi ..)).trans (State.portState_setFldEls hi ..)
  · exact ((State.fld_setEls_other _ (by decide) (.inl hne.symm)).trans (State.fld_setEls_other _ (by decide) (.inr (.inl h8)))).trans
      (State.fld_setEls_other _ (by decide) (.inr ha))
  · exact ((State.rasWord_setFldEls hlt ..).trans (State.rasWord_setFldEls hi ..)).trans (State.rasWord_setFldEls hi ..)

/-- `t` differs from `s` in nothing but its registers and its laser sources. -/
def State.LasersOnly (s t : State) : Prop := ∃ r e, t = { s with regs := r, els := e }

theorem State.LasersOnly.setFld {t : State} (h : s.LasersOnly t) (g : Field) (v : Nat) : s.LasersOnly (t.setFld g v) := by
  obtain ⟨r, e, rfl⟩ := h
  exact ⟨_, e, rfl⟩

theorem State.LasersOnly.elsQuiet {t : State} (h : s.LasersOnly t) (i : Nat) : s.LasersOnly (t.elsQuiet i) := by
  have hs : s.LasersOnly (t.setEls i .off) := by
    obtain ⟨r, e, rfl⟩ := h
    exact ⟨r, _, rfl⟩
  exact (hs.setFld ..).setFld ..

theorem State.LasersOnly.eq {t : State} (h : s.LasersOnly t) : t = { s with regs := t.regs, els := t.els } := by
  obtain ⟨r, e, rfl⟩ := h
  rfl

/-- ELS_SVC of a source whose partner is on: the partner takes over, and the source may be removed. -/
theorem elsSvc_of_partner {i : Nat} (hi : i < 4) (hr : s.ready = true) (h : s.elsSt i = .on) (hp : s.elsSt (elsPartner i) = .on) :
    ∃ t, exec (.elsSvc i) s = .next t ∧ t.elsSt i = .off ∧ t.elsSt (elsPartner i) = .on ∧ t.fld (elsReg i 15 8) = 0 ∧
      t.fld (elsReg (elsPartner i) 15 8) = 100 ∧ t.fld (elsReg i 3 3) = 1 ∧ t = { s with regs := t.regs, els := t.els } := by
  have he : exec (.elsSvc i) s = .next (((s.setFld (elsReg i 2 2) 1).elsDark i).setFld (elsReg i 3 3) 1) := by
    show execElsSvc i s = _
    rw [execElsSvc, unit_of (by simpa [elsOk] using hi), State.sup, if_pos hr]
    simp [h, hp]
  have hl : (s.setFld (elsReg i 2 2) 1).HalfLit _ i := State.elsDark_halfLit hi hp
  refine ⟨_, he, hl.off, hl.on, ?_, ?_, State.fld_setEls_same _ _ (by decide), ?_⟩
  · exact (State.fld_setEls_other _ (by decide) (.inr (.inr (by decide)))).trans hl.noOutput
  · exact (State.fld_setEls_other _ (by decide) (.inl (elsPartner_ne i))).trans hl.fullOutput
  · rw [State.elsDark_of_partner (s := s.setFld (elsReg i 2 2) 1) hp]
    have h0 : s.LasersOnly s := ⟨_, _, rfl⟩
    exact ((((h0.setFld ..).elsQuiet i).setFld ..).setFld ..).eq

/-- A source that fails goes dark; one that is removed is also no longer present, which is recorded. -/
theorem exec_elsRemoved {i : Nat} (failed : Bool) (hi : i < 4) (hs : s.pwr.supply ≠ 0) (h : s.fld (elsReg i 0 0) = 1) :
    exec (.elsRemoved ⟨i, failed⟩) s = .next (if failed then s.elsDark i
      else (((s.setFld (elsReg i 0 0) 0).setFld (elsReg i 3 3) 0).elsDark i).ras 0x1A 0 0xFF i) := by
  show execElsRemoved ⟨i, failed⟩ s = _
  rw [execElsRemoved, onEls, unit_of (by simpa [elsOk] using hi), if_neg hs, if_neg (show ¬ s.fld (elsReg i 0 0) = 0 by omega)]

/-- The partner of a source that is gone gives all the light, and no port goes down (R36). -/
theorem elsRemoved_of_partner {i : Nat} (failed : Bool) (hi : i < 4) (hs : s.pwr.supply ≠ 0) (h : s.fld (elsReg i 0 0) = 1)
    (hp : s.elsSt (elsPartner i) = .on) :
    ∃ t, exec (.elsRemoved ⟨i, failed⟩) s = .next t ∧ t.elsSt i = .off ∧ t.fld (elsReg i 0 0) = (if failed then 1 else 0) ∧
      t.fld (elsReg i 15 8) = 0 ∧ t.fld (elsReg (elsPartner i) 15 8) = 100 ∧ (∀ p < 32, t.portState p = s.portState p) ∧
      (failed = false → t.word (0x00A00800 + 8 * 0x1A) = s.word (0x00A00800 + 8 * 0x1A) + 1) := by
  refine ⟨_, exec_elsRemoved failed hi hs h, ?_⟩
  cases failed with
  | true =>
    have hl := State.elsDark_halfLit hi hp
    exact ⟨hl.off, (hl.low 0 0 (by decide) (by decide)).trans h, hl.noOutput, hl.fullOutput,
      fun p _ => hl.ports p, fun hf => nomatch hf⟩
  | false =>
    have hl : ((s.setFld (elsReg i 0 0) 0).setFld (elsReg i 3 3) 0).HalfLit _ i := State.elsDark_halfLit hi hp
    have hlt := elsPartner_lt hi
    rw [if_neg Bool.false_ne_true]
    refine ⟨(State.ras_elsSt ..).trans hl.off, (State.ras_fld_elsReg hi ..).trans ?_, (State.ras_fld_elsReg hi ..).trans hl.noOutput,
      (State.ras_fld_elsReg hlt ..).trans hl.fullOutput, fun p h32 => (State.ras_portState h32 ..).trans ((hl.ports p).trans ?_),
      fun _ => ?_⟩
    · exact ((hl.low 0 0 (by decide) (by decide)).trans (State.fld_setEls_other _ (by decide) (.inr (by decide)))).trans
        (State.fld_setEls_same _ _ (by decide))
    · exact (State.portState_setFldEls hi ..).trans (State.portState_setFldEls hi ..)
    · rw [State.ras_count (by decide), hl.counts, State.rasWord_setFldEls hi, State.rasWord_setFldEls hi]

/-- With the last source of a pair its sixteen ports go down and have no light (R37). -/
theorem elsRemoved_of_alone {i : Nat} (failed : Bool) (hi : i < 4) (hs : s.pwr.supply ≠ 0) (h : s.fld (elsReg i 0 0) = 1)
    (ho : s.elsSt i = .on) (hp : s.elsSt (elsPartner i) ≠ .on) :
    ∃ t, exec (.elsRemoved ⟨i, failed⟩) s = .next t ∧ t.elsSt i = .off ∧
      ∀ p < 32, p / 16 = i / 2 → t.portState p = 0 ∧ t.lit p = false := by
  refine ⟨_, exec_elsRemoved failed hi hs h, ?_⟩
  cases failed with
  | true => exact State.elsDark_alone_down ho hp
  | false =>
    obtain ⟨hoff, hdown⟩ := State.elsDark_alone_down (s := (s.setFld (elsReg i 0 0) 0).setFld (elsReg i 3 3) 0) ho hp
    rw [if_neg Bool.false_ne_true]
    refine ⟨(State.ras_elsSt ..).trans hoff, fun p h32 hpi => ?_⟩
    obtain ⟨hst, hlit⟩ := hdown p h32 hpi
    exact ⟨(State.ras_portState h32 ..).trans hst, (State.lit_of_els (State.ras_els ..) p).trans hlit⟩

/-- An inserted source is present, locks, and is recorded. -/
theorem elsInserted_locks {i : Nat} (hi : i < 4) (hs : s.pwr.supply = 2) (h : s.fld (elsReg i 0 0) = 0) :
    ∃ t, exec (.elsInserted i) s = .next t ∧ t.elsSt i = .locking s.now ∧ t.fld (elsReg i 0 0) = 1 ∧
      t.word (0x00A00800 + 8 * 0x1A) = s.word (0x00A00800 + 8 * 0x1A) + 1 := by
  have he : exec (.elsInserted i) s = .next (((s.setFld (elsReg i 0 0) 1).setEls i (.locking s.now)).ras 0x1A 0 0xFF i) := by
    show execElsInserted i s = _
    rw [execElsInserted, onEls, unit_of (by simpa [elsOk] using hi), if_neg (by rw [hs]; decide),
      if_neg (show ¬ s.fld (elsReg i 0 0) = 1 by omega), if_pos hs]
  refine ⟨_, he, by simp, ?_, ?_⟩
  · exact (State.ras_fld_elsReg hi ..).trans (State.fld_setEls_same _ _ (by decide))
  · have hw (u : State) (x : ElsSt) (k : Nat) : (u.setEls i x).word k = u.word k := rfl
    rw [State.ras_count (by decide), hw, State.rasWord_setFldEls hi]

/-- A source whose comb has locked is on, with `n` percent of output. -/
def State.elsLit (s : State) (i n : Nat) : State := ((s.setEls i .on).setFld (elsReg i 1 1) 1).elsOut i n

theorem State.elsLit_fields (i : Nat) {n : Nat} (hn : n < 256) :
    (s.elsLit i n).elsSt i = .on ∧ (s.elsLit i n).fld (elsReg i 1 1) = 1 ∧ (s.elsLit i n).fld (elsReg i 15 8) = n := by
  refine ⟨(State.elsSt_setEls ..).trans (if_pos rfl), ?_, ?_⟩
  · exact (State.fld_setEls_other _ (by decide) (.inr (.inl (by decide)))).trans (State.fld_setEls_same _ _ (by decide))
  · exact (State.fld_setEls_same _ _ (by decide)).trans (Nat.mod_eq_of_lt hn)

/-- Two sources that are on give half their output each (R36). -/
theorem State.elsLocked_of_partner {i : Nat} (h : s.elsSt (elsPartner i) = .on) :
    s.elsLocked i = (s.elsLit i 50).elsOut (elsPartner i) 50 := by
  simp [State.elsLocked, State.elsLit, h]

/-- A source that is on alone gives all its output; ports of the pair may start to train. -/
theorem State.elsLocked_of_alone {i : Nat} (h : s.elsSt (elsPartner i) ≠ .on) : (s.elsLit i 100).KeepsSources (s.elsLocked i) := by
  have hb : (s.elsSt (elsPartner i) == .on) = false := by simpa using h
  have h0 := State.KeepsSources.refl (s.elsLit i 100)
  simp only [State.elsLocked, hb, Bool.false_eq_true, if_false]
  exact ite_either h0 (foldl_keeps (s.elsLit i 100).KeepsSources _ (fun t k ht => ht.portTrain _) _ h0)

/-- A comb that locks. -/
theorem elsCombLock_locks {i at0 : Nat} (hi : i < 4) (h : s.elsSt i = .locking at0) :
    ∃ t, exec (.elsCombLock i) s = .next t ∧ t.elsSt i = .on ∧ t.fld (elsReg i 1 1) = 1 ∧
      (s.elsSt (elsPartner i) = .on → t.fld (elsReg i 15 8) = 50 ∧ t.fld (elsReg (elsPartner i) 15 8) = 50) ∧
      (s.elsSt (elsPartner i) ≠ .on → t.fld (elsReg i 15 8) = 100) := by
  have he : exec (.elsCombLock i) s = .next (s.elsLocked i) := by
    show execElsCombLock i s = _
    rw [execElsCombLock, unit_of (by simpa [elsOk] using hi), h]
  refine ⟨_, he, ?_⟩
  by_cases hp : s.elsSt (elsPartner i) = .on
  · obtain ⟨hon, hok, hout⟩ := State.elsLit_fields (s := s) i (show 50 < 256 by decide)
    have hne := (elsPartner_ne i).symm
    rw [State.elsLocked_of_partner hp]
    exact ⟨hon, (State.fld_setEls_other _ (by decide) (.inl hne)).trans hok,
      fun _ => ⟨(State.fld_setEls_other _ (by decide) (.inl hne)).trans hout, State.fld_setEls_same _ _ (by decide)⟩,
      fun h => absurd hp h⟩
  · obtain ⟨hon, hok, hout⟩ := State.elsLit_fields (s := s) i (show 100 < 256 by decide)
    have hk := State.elsLocked_of_alone hp
    exact ⟨(State.elsSt_of_els hk.els i).trans hon, (hk.fld _ (elsReg_key_lt hi 1 1)).trans hok, fun h => absurd h hp,
      fun _ => (hk.fld _ (elsReg_key_lt hi 15 8)).trans hout⟩

/-- A comb that has not locked within 60 s is shut off. -/
theorem elsLockTimeout_off {i at0 : Nat} (hi : i < 4) (h : s.elsSt i = .locking at0) :
    ∃ t, exec (.elsLockTimeout i) s = .next t ∧ t.elsSt i = .off ∧ t.fld (elsReg i 15 8) = 0 ∧ at0 + 60 * 10 ^ 12 ≤ t.now := by
  have he : exec (.elsLockTimeout i) s =
      .next ((((s.reach (at0 + 60 * 10 ^ 12)).setEls i .off).elsOut i 0).ras 0x1A 2 0xFF i) := by
    show execElsLockTimeout i s = _
    rw [execElsLockTimeout, unit_of (by simpa [elsOk] using hi), h]
  refine ⟨_, he, ?_, (State.ras_fld_elsReg hi ..).trans (State.fld_setEls_same _ _ (by decide)), ?_⟩
  · exact (State.ras_elsSt ..).trans ((State.elsSt_setEls ..).trans (if_pos rfl))
  · rw [State.ras_now, State.elsOut]
    simp only [State.setFld_frame, State.setEls_frame]
    exact (State.now_reach _).2

/-! ### The statement -/

/-- Settles O32: each clause by the lemma on its command above. -/
theorem wavelengthsAndLasers : Obligations.WavelengthsAndLasers := by
  unfold Obligations.WavelengthsAndLasers
  exact ⟨fun r thr k lanes => getLsbD_badWaves r thr lanes,
    fun s p r hp hr hu => ⟨wavelengthSerCheck_clear hp hr hu, fun k ks => wavelengthSerCheck_swaps hp hr hu,
      wavelengthSerCheck_dark hp hr hu⟩,
    fun s p k => wavelengthSwap_takesSpare,
    fun s p pass hp hr => ⟨wavelengthRetest_up pass hp hr, wavelengthRetest_retrains hp hr⟩,
    fun s i => elsSvc_of_partner, fun s i failed => elsRemoved_of_partner failed, fun s i failed => elsRemoved_of_alone failed,
    fun s i => elsInserted_locks, fun s i at0 => elsCombLock_locks, fun s i at0 => elsLockTimeout_off⟩

end Sys2Proof.Machine
end

section
/-! SUPPORT. What MATRIX_FINISH does: the head of the matrix unit's queue leaves it and takes its effect on the banks, its clause's
counter falls, and the tile may leave its kernel (spec/02 R75; spec/04 R190, R198, R199, Table 4.8). -/

namespace Sys2Proof.Machine

/-! ### Many writes to one table -/

/-- After a list of writes a key reads as `v`, if every write to it writes `v`, and one does or the key read as `v` before. -/
theorem tabGet_foldl_tabSet {α β : Type} [DecidableEq α] (d : Nat → α) (key : β → Nat) (val : β → α) {k : Nat} {v : α} (xs : List β)
    (t : Tab α) (hv : ∀ x ∈ xs, key x = k → val x = v) (h : tabGet d t k = v ∨ ∃ x ∈ xs, key x = k) :
    tabGet d (xs.foldl (fun t x => tabSet d t (key x) (val x)) t) k = v := by
  induction xs generalizing t with
  | nil => simpa using h
  | cons x xs ih =>
    obtain ⟨hx, hxs⟩ := List.forall_mem_cons.mp hv
    refine ih _ hxs ?_
    rw [tabGet_set]
    by_cases hk : key x = k
    · exact .inl (by rw [if_pos hk.symm, hx hk])
    · rw [if_neg (Ne.symm hk)]
      simpa [hk] using h

/-! ### The banks: ACCZ and ACCLD (R198, R199) -/

/-- ACCZ: the words of the banks it names read 0, and those of the other bank as before. -/
theorem tabGet_acczRun (j : MatJob) {acc : Tab W32} (hw : tabWf wDef acc = true) {bank row col : Nat} (hb : bank < 2) (hr : row < 64)
    (hc : col < 64) :
    tabGet wDef (acczRun j acc) (bankKey bank row col) =
      if bitOf j.body.toNat (46 + bank) then 0 else tabGet wDef acc (bankKey bank row col) := by
  have hbank : bankKey bank row col / 4096 = bank := by unfold bankKey; omega
  have hbit : bitOf (bitsOf j.body.toNat 47 46) bank = bitOf j.body.toNat (46 + bank) := by
    rw [bitOf, bitsOf_testBit, decide_eq_true (by omega), Bool.true_and, Nat.add_comm, bitOf]
  rw [acczRun, tabGet_filter _ hw]
  simp only [hbank, hbit]
  cases bitOf j.body.toNat (46 + bank) <;> rfl

/-- Table 4.8: with t = 0, two different places of the register group are two different words of the bank. -/
theorem acc0Key_inj (bank q : Nat) {r l r' l' : Nat} (hl : l < 32) (hl' : l' < 32) (h : acc0Key bank q r l = acc0Key bank q r' l') :
    r = r' ∧ l = l' := by
  unfold acc0Key bankKey at h
  omega

/-- The register offsets and lanes of an accumulator move, in the order of its writes. -/
def accPlaces (t : Nat) : List (Nat × Nat) := (List.range (accRegs t)).flatMap fun r => lanes.map fun l => (r, l)

theorem mem_accPlaces {t r l : Nat} : (r, l) ∈ accPlaces t ↔ r < accRegs t ∧ l < 32 := by
  simp [accPlaces, lanes]

/-- ACCLD is one list of writes. -/
theorem accldRun_eq (j : MatJob) (acc : Tab W32) :
    accldRun j acc = (accPlaces (bitsOf j.body.toNat 35 32)).foldl (fun acc p =>
      tabSet wDef acc (accKey (bitsOf j.body.toNat 35 32) (bitsOf j.body.toNat 36 36) (bitsOf j.body.toNat 38 37) p.1 p.2)
        (tabGet wDef j.src ((bitsOf j.body.toNat 47 39 + p.1) * 32 + p.2))) acc := by
  simp only [accldRun, accPlaces, List.foldl_flatMap, List.foldl_map]

/-- ACCLD with t = 0: every register lane stands at its place. -/
theorem tabGet_accldRun (j : MatJob) (acc : Tab W32) (ht : bitsOf j.body.toNat 35 32 = 0) {r l : Nat} (hr : r < 32) (hl : l < 32) :
    tabGet wDef (accldRun j acc) (acc0Key (bitsOf j.body.toNat 36 36) (bitsOf j.body.toNat 38 37) r l) =
      tabGet wDef j.src ((bitsOf j.body.toNat 47 39 + r) * 32 + l) := by
  rw [accldRun_eq, ht]
  refine tabGet_foldl_tabSet _ _ _ _ _ (fun p hp hk => ?_) (.inr ⟨(r, l), mem_accPlaces.mpr ⟨hr, hl⟩, rfl⟩)
  obtain ⟨rfl, rfl⟩ := acc0Key_inj _ _ (mem_accPlaces.mp hp).2 hl hk
  rfl

/-! ### The tile's scheduler leaves the banks, the queue and mxcnt alone -/

variable {t : Tile}

@[simp] theorem Tile.clause_setClause (e : Nat) (c : Clause) (f : Nat) : (t.setClause e c).clause f = if f = e then c else t.clause f :=
  tabGet_set clauseNone t.clauses e c f

@[simp] theorem Clause.putV_mxcnt (c : Clause) (r : Nat) (m : W32) (f : Nat → W32) : (c.putV r m f).mxcnt = c.mxcnt := by
  unfold Clause.putV
  split <;> rfl

@[simp] theorem Clause.endWait_mxcnt (c : Clause) (met : Bool) : (c.endWait met).mxcnt = c.mxcnt := by
  unfold Clause.endWait
  dsimp only
  split <;> rfl

/-- A clause enters READY, or ACTIVE: its counter of matrix instructions comes with it, and no other clause's changes. -/
theorem Tile.toReady_matrix (cycle e : Nat) (c : Clause) :
    (t.toReady cycle e c).acc = t.acc ∧ (t.toReady cycle e c).matq = t.matq ∧
      ∀ f, ((t.toReady cycle e c).clause f).mxcnt = if f = e then c.mxcnt else (t.clause f).mxcnt := by
  unfold Tile.toReady Tile.toReadyAs
  dsimp only
  split
  · refine ⟨rfl, rfl, fun f => ?_⟩
    rw [Tile.clause_setClause]
    split <;> rfl
  · refine ⟨rfl, rfl, fun f => ?_⟩
    show ((Tile.setClause _ _ _).clause f).mxcnt = _
    rw [Tile.clause_setClause]
    split <;> rfl

/-- R71, R74: whether or not a wait ends, the counters it waits for stay. -/
@[simp] theorem Tile.recheck_frame (t : Tile) (cycle e : Nat) :
    (t.recheck cycle e).acc = t.acc ∧ (t.recheck cycle e).matq = t.matq ∧ ∀ f, ((t.recheck cycle e).clause f).mxcnt = (t.clause f).mxcnt := by
  have ready {c : Clause} (hc : c.mxcnt = (t.clause e).mxcnt) :
      (t.toReady cycle e c).acc = t.acc ∧ (t.toReady cycle e c).matq = t.matq ∧
        ∀ f, ((t.toReady cycle e c).clause f).mxcnt = (t.clause f).mxcnt := by
    obtain ⟨hacc, hmatq, hmx⟩ := t.toReady_matrix cycle e c
    refine ⟨hacc, hmatq, fun f => (hmx f).trans ?_⟩
    split
    · next hf => rw [hc, hf]
    · rfl
  unfold Tile.recheck
  dsimp only
  split
  · exact ⟨rfl, rfl, fun _ => rfl⟩
  · split
    · split
      · exact ready (Clause.endWait_mxcnt ..)
      · exact ⟨rfl, rfl, fun _ => rfl⟩
    · split
      · exact ready rfl
      · exact ⟨rfl, rfl, fun _ => rfl⟩

/-! ### The head of the queue leaves it (R190) -/

/-- The banks, the flags and the wrap of an instruction of the unit. -/
def matResult (j : MatJob) (acc : Tab W32) : Tab W32 × FlagEff × Bool :=
  if j.op = 0xD0 then mmaRun j acc
  else if j.op = 0xD1 then mmasRun j acc
  else if j.op = 0xD2 then (accldRun j acc, {}, false)
  else if j.op = 0xD4 then (acczRun j acc, {}, false)
  else (acc, {}, false)

theorem matResult_accz {j : MatJob} (h : j.op = 0xD4) (acc : Tab W32) : (matResult j acc).1 = acczRun j acc := by
  simp [matResult, h]

theorem matResult_accld {j : MatJob} (h : j.op = 0xD2) (acc : Tab W32) : (matResult j acc).1 = accldRun j acc := by
  simp [matResult, h]

/-- The queue after its head: the unit reads the registers of the instruction that is now first. -/
def readNext : List MatJob → List MatJob
  | [] => []
  | k :: ks => { k with read := true } :: ks

@[simp] theorem readNext_length (q : List MatJob) : (readNext q).length = q.length := by
  cases q <;> rfl

/-- The tile with the head of its queue finished, before its clause hears of it. -/
def Tile.matPop (t : Tile) (j : MatJob) (rest : List MatJob) : Tile :=
  { t with acc := (matResult j t.acc).1, matq := readNext rest }

/-- The clause that issued the instruction, once it has finished: ACCST's registers, the flags, and mxcnt lower by one (R75, R192). -/
def MatJob.retire (j : MatJob) (x : Tab W32 × FlagEff × Bool) (c : Clause) : Clause :=
  let base := bitsOf j.body.toNat 47 39
  let c := j.dst.foldl (fun c d => c.putV d.1 d.2 fun l => (accstVal j x.1 (d.1 - base) l).1) c
  let fp := if j.op = 0xD3 then x.2.1.fp.or (accstFlags j x.1) else x.2.1.fp
  { c with ustatus := setIf x.2.2 8 (({ fp := fp } : FlagEff).apply c.ustatus), mxcnt := c.mxcnt - 1 }

@[simp] theorem MatJob.retire_mxcnt (j : MatJob) (x : Tab W32 × FlagEff × Bool) (c : Clause) : (j.retire x c).mxcnt = c.mxcnt - 1 :=
  congrArg (· - 1) (List.foldlRecOn (motive := fun b : Clause => b.mxcnt = c.mxcnt) j.dst _ rfl fun _ hb _ _ =>
    (Clause.putV_mxcnt ..).trans hb)

/-- The clause that issued the instruction is still in its entry. -/
def Tile.HoldsIssuer (t : Tile) (j : MatJob) : Prop := (t.clause j.entry).uid = j.uid ∧ (t.clause j.entry).st ≠ .empty

/-- MATRIX_FINISH in the terms above: what the queue and the banks take in any case, and what a clause that has left does not. -/
theorem Tile.matFinish_cons {j : MatJob} {rest : List MatJob} (hq : t.matq = j :: rest) (cycle : Nat) :
    t.matFinish cycle =
      if (t.clause j.entry).uid != j.uid || (t.clause j.entry).st == .empty then t.matPop j rest
      else ((t.matPop j rest).setClause j.entry (j.retire (matResult j t.acc) (t.clause j.entry))).recheck cycle j.entry := by
  rw [Tile.matFinish, hq]
  rfl

/-- Where the clause is still there, it retires the instruction and its wait is looked at again (R74). -/
theorem Tile.matFinish_of_holdsIssuer {j : MatJob} {rest : List MatJob} (hq : t.matq = j :: rest) (cycle : Nat) (h : t.HoldsIssuer j) :
    t.matFinish cycle =
      ((t.matPop j rest).setClause j.entry (j.retire (matResult j t.acc) (t.clause j.entry))).recheck cycle j.entry := by
  rw [Tile.matFinish_cons hq, if_neg]
  rw [Bool.or_eq_true, bne_iff_ne, beq_iff_eq]
  exact fun hgone => hgone.elim (fun hu => hu h.1) h.2

/-- Where the clause has left its entry, only the queue and the banks change (R190). -/
theorem Tile.matFinish_of_not_holdsIssuer {j : MatJob} {rest : List MatJob} (hq : t.matq = j :: rest) (cycle : Nat)
    (h : ¬ t.HoldsIssuer j) : t.matFinish cycle = t.matPop j rest := by
  rw [Tile.matFinish_cons hq, if_pos]
  by_cases hu : (t.clause j.entry).uid = j.uid
  · have hs : (t.clause j.entry).st = .empty := Classical.byContradiction fun hs => h ⟨hu, hs⟩
    rw [hs, beq_self_eq_true, Bool.or_true]
  · rw [bne_iff_ne.mpr hu, Bool.true_or]

/-- The banks, the queue and the issuer's counter after MATRIX_FINISH. -/
theorem Tile.matFinish_parts {j : MatJob} {rest : List MatJob} (hq : t.matq = j :: rest) (cycle : Nat) :
    (t.matFinish cycle).acc = (matResult j t.acc).1 ∧ (t.matFinish cycle).matq = readNext rest ∧
      (t.HoldsIssuer j → ((t.matFinish cycle).clause j.entry).mxcnt = (t.clause j.entry).mxcnt - 1) := by
  by_cases h : t.HoldsIssuer j
  · rw [Tile.matFinish_of_holdsIssuer hq cycle h]
    simp only [Tile.recheck_frame, Tile.clause_setClause, if_true, MatJob.retire_mxcnt, implies_true, and_true]
    exact ⟨rfl, rfl⟩
  · rw [Tile.matFinish_of_not_holdsIssuer hq cycle h]
    exact ⟨rfl, rfl, fun hi => absurd hi h⟩

/-! ### The tile may leave its kernel -/

/-- A tile that leaves its kernel changes no memory and no register, and no other tile. -/
theorem State.tileLeave_outside (s : State) (tile : Nat) :
    (s.tileLeave tile).mem = s.mem ∧ (s.tileLeave tile).host = s.host ∧ (s.tileLeave tile).regs = s.regs ∧
      ∀ u, u ≠ tile → (s.tileLeave tile).tile u = s.tile u := by
  unfold State.tileLeave
  dsimp only
  split
  · exact ⟨rfl, rfl, rfl, fun _ _ => rfl⟩
  · split
    · refine ⟨rfl, rfl, rfl, fun u hu => ?_⟩
      rw [State.tile_setTile, if_neg hu]
      rfl
    · exact ⟨rfl, rfl, rfl, fun _ _ => rfl⟩

/-- A tile that leaves its kernel keeps its banks, its queue and its clauses. -/
theorem State.tileLeave_tile (s : State) (tile : Nat) :
    ((s.tileLeave tile).tile tile).acc = (s.tile tile).acc ∧ ((s.tileLeave tile).tile tile).matq = (s.tile tile).matq ∧
      ((s.tileLeave tile).tile tile).clauses = (s.tile tile).clauses := by
  unfold State.tileLeave
  dsimp only
  split
  · exact ⟨rfl, rfl, rfl⟩
  · split
    · rw [State.tile_setTile, if_pos rfl]
      exact ⟨rfl, rfl, rfl⟩
    · exact ⟨rfl, rfl, rfl⟩

/-! ### The command -/

/-- MATRIX_FINISH at a tile: nothing outside it changes, and it is the tile after `matFinish` as far as banks, queue and clauses go. -/
theorem exec_matrixFinish (s : State) {tile : Nat} (ht : tile < 1536) :
    ∃ t, exec (.matrixFinish tile) s = .next t ∧ t.mem = s.mem ∧ t.host = s.host ∧ t.regs = s.regs ∧
      (∀ u, u ≠ tile → t.tile u = s.tile u) ∧
      let x := (s.tile tile).matFinish (s.cycle (frondOf tile))
      (t.tile tile).acc = x.acc ∧ (t.tile tile).matq = x.matq ∧ ∀ e, (t.tile tile).clause e = x.clause e := by
  let x := (s.tile tile).matFinish (s.cycle (frondOf tile))
  obtain ⟨hmem, hhost, hregs, hother⟩ := (s.setTile tile x).tileLeave_outside tile
  obtain ⟨hacc, hmatq, hclauses⟩ := (s.setTile tile x).tileLeave_tile tile
  rw [State.tile_setTile, if_pos rfl] at hacc hmatq hclauses
  refine ⟨(s.setTile tile x).tileLeave tile, unit_of (decide_eq_true ht), hmem, hhost, hregs, fun u hu => ?_, hacc, hmatq, fun e => ?_⟩
  · rw [hother u hu, State.tile_setTile, if_neg hu]
  · rw [Tile.clause, hclauses, Tile.clause]

/-- Settles O15: the tile's part by `Tile.matFinish_parts`, the banks by the lemmas on ACCZ and ACCLD, the rest by `exec_matrixFinish`. -/
theorem matrixFinish : Obligations.MatrixFinish := by
  unfold Obligations.MatrixFinish
  intro s tile j rest ht hq hw
  obtain ⟨t, he, hmem, hhost, hregs, hother, hacc, hmatq, hclause⟩ := exec_matrixFinish s ht
  obtain ⟨hbanks, hqueue, hmx⟩ := Tile.matFinish_parts hq (s.cycle (frondOf tile))
  refine ⟨t, he, ?_, hmem, hhost, hregs, hother, ?_, ?_, ?_⟩
  · rw [hmatq, hqueue, readNext_length]
  · intro hop bank hb row hr col hc
    rw [hacc, hbanks, matResult_accz hop]
    exact tabGet_acczRun j hw hb hr hc
  · intro hop hzero r hr l hl
    rw [hacc, hbanks, matResult_accld hop]
    exact tabGet_accldRun j _ hzero hr hl
  · intro _ hu hs
    rw [hclause]
    exact hmx ⟨hu, hs⟩

end Sys2Proof.Machine
end

section
/-! SUPPORT. Answers, operations and memories that keep the invariant of a state (`State.Inv`): the rules by which the sections after
this one go through the model, a lemma for each operation. -/

namespace Sys2Proof.Machine

variable {s t : State}

/-- A command's answer keeps the invariant: a next state, if there is one, meets it. -/
def Kept (r : Res) : Prop := ∀ t, r = .next t → t.Inv

theorem kept_next (h : s.Inv) : Kept (.next s) := fun _ e => Host.Outcome.next.inj e ▸ h

theorem kept_fault {f : Fault} : Kept (.fault f) := fun _ e => by cases e

theorem unit_kept (h : s.Inv) {ok : Bool} : Kept (unit ok s) := ite_either (kept_next h) kept_fault

/-- An update of fields of which the invariant does not speak. -/
theorem State.Inv.frame (h : s.Inv) (e : (t.mem, t.host, t.regs, t.now, t.t0) = (s.mem, s.host, s.regs, s.now, s.t0)) : t.Inv := by
  simp only [Prod.mk.injEq] at e
  obtain ⟨hm, hh, hr, hn, h0⟩ := e
  exact h.of_eq hm hh hr (Nat.le_of_eq hn.symm) h0

theorem State.Inv.of_keeps (h : s.Inv) (hk : s.Keeps s → s.Keeps t) : t.Inv := (hk (.refl s)).inv h

/-- A state that may be answered meets the invariant. -/
def OptInv (o : Option State) : Prop := ∀ t ∈ o, t.Inv

theorem opt_none : OptInv none := fun _ e => by cases e

theorem opt_some (h : s.Inv) : OptInv (some s) := fun _ e => Option.some.inj e ▸ h

theorem OptInv.getD {o : Option State} (ho : OptInv o) (h : s.Inv) : (o.getD s).Inv := by
  cases o with
  | none => exact h
  | some t => exact ho t rfl

theorem OptInv.of_some {o : Option State} (ho : OptInv o) (e : o = some t) : t.Inv := ho t e

/-! Operations that answer a state and something else. -/

section
variable {β : Type} {b : β}

theorem State.Inv.of_pair {p : State × β} (h : p.1.Inv) (e : p = (t, b)) : t.Inv := congrArg (·.1.Inv) e |>.mp h

theorem State.Inv.of_snd {p : β × State} (h : p.2.Inv) (e : p = (b, t)) : t.Inv := congrArg (·.2.Inv) e |>.mp h

theorem State.Inv.ite_fst {c : Prop} [Decidable c] {p q : State × β} (hp : p.1.Inv) (hq : q.1.Inv) : (if c then p else q).1.Inv :=
  ite_either (P := fun r : State × β => r.1.Inv) hp hq

theorem State.Inv.ite_snd {c : Prop} [Decidable c] {p q : β × State} (hp : p.2.Inv) (hq : q.2.Inv) : (if c then p else q).2.Inv :=
  ite_either (P := fun r : β × State => r.2.Inv) hp hq

theorem State.Inv.foldl_fst {α : Type} {p : State × β} (h : p.1.Inv) (f : State × β → α → State × β)
    (hf : ∀ p x, p.1.Inv → (f p x).1.Inv) (xs : List α) : (xs.foldl f p).1.Inv := by
  induction xs generalizing p with
  | nil => exact h
  | cons x xs ih => exact ih (hf _ _ h)

variable {α : Type} {f : α → State} {g : β → State}

theorem State.Inv.of_inl {x : α ⊕ β} {a : α} (h : (Sum.elim f g x).Inv) (e : x = .inl a) : (f a).Inv := by
  subst e; exact h

theorem State.Inv.of_inr {x : α ⊕ β} {b : β} (h : (Sum.elim f g x).Inv) (e : x = .inr b) : (g b).Inv := by
  subst e; exact h

theorem State.Inv.ite_elim {c : Prop} [Decidable c] {p q : α ⊕ β} (hp : (Sum.elim f g p).Inv) (hq : (Sum.elim f g q).Inv) :
    (Sum.elim f g (if c then p else q)).Inv := ite_either (P := fun r => (Sum.elim f g r).Inv) hp hq
end

/-! Memories in their form. -/

theorem memWf_foldl {α : Type} {f : Mem → α → Mem} (hf : ∀ m x, memWf m = true → memWf (f m x) = true) {m : Mem} (h : memWf m = true)
    {xs : List α} : memWf (xs.foldl f m) = true := by
  induction xs generalizing m with
  | nil => exact h
  | cons x xs ih => exact ih (hf _ _ h)

theorem memWf_of_pair {β : Type} {p : Mem × β} {m : Mem} {b : β} (h : memWf p.1 = true) (e : p = (m, b)) : memWf m = true := by
  subst e; exact h

theorem memWf_atomRun {op bytes base : Nat} {m : Mem} {os : List LaneOp} (h : memWf m = true) :
    memWf (atomRun op bytes base m os).1 = true := by
  induction os generalizing m with
  | nil => exact h
  | cons o os ih => exact ih (memWf_putLe _ _ _ h)

theorem memWf_redRun {f : W32} {base : Nat} {os : List LaneOp} {r : Mem × Nat} (h : memWf r.1 = true) :
    memWf (redRun f base os r).1 = true := by
  induction os generalizing r with
  | nil => exact h
  | cons o os ih => exact ih (memWf_putLe _ _ _ h)

theorem memWf_redSums {f : W32} {base : Nat} {os : List (Nat × Option Int)} {r : Mem × Nat} (h : memWf r.1 = true) :
    memWf (redSums f base os r).1 = true := by
  induction os generalizing r with
  | nil => exact h
  | cons o os ih =>
    obtain ⟨m, k⟩ := r
    exact ih (memWf_putLe _ _ _ h)

theorem memWf_redGroup {r : Req} {folded : List Req} {base : Nat} {m : Mem} (h : memWf m = true) :
    memWf (redGroup r folded base m).1 = true :=
  ite_either (P := fun x : Mem × Nat => memWf x.1 = true) (memWf_redRun h) (memWf_redSums h)

/-- No register with a reset value other than 0 lies among FAB_ELS. -/
theorem resetRows_apart_fabEls :
    ∀ r ∈ resetRows, 0 < r.stride ∧ (0x00600120 ≤ r.off ∨ r.off + r.n * r.stride ≤ 0x00600100) := by decide

theorem one_ne_regReset_fabEls {k : Nat} (h : isIn 0x00600100 0x00600120 k = true) : (1 : W64) ≠ regReset k := by
  simp only [isIn, Bool.and_eq_true, decide_eq_true_eq] at h
  have hn (r : ResetRow) (hr : r ∈ resetRows) :
      ¬(decide (r.off ≤ k) && (k - r.off) % r.stride == 0 && decide ((k - r.off) / r.stride < r.n)) = true := by
    obtain ⟨hs, hr⟩ := resetRows_apart_fabEls r hr
    simp only [Bool.and_eq_true, decide_eq_true_eq, Nat.div_lt_iff_lt_mul hs]
    omega
  rw [regReset, if_neg (by omega), Nat.mod_eq_of_lt (by omega : k < 2 ^ 32)]
  dsimp only
  rw [List.find?_eq_none.mpr hn]
  decide

end Sys2Proof.Machine
end

section
/-! SUPPORT. What the memory system, the tiles and the tiers do keeps the state's invariant. -/

namespace Sys2Proof.Machine

variable {s t : State}

/-! ### The named operations over the state -/

theorem State.Inv.draw (h : s.Inv) : (s.draw).2.Inv := h.frame rfl
theorem State.Inv.freshId (h : s.Inv) : (s.freshId).2.Inv := h.frame rfl
theorem State.Inv.rasCount (h : s.Inv) {code n} : (s.rasCount code n).Inv := h.of_keeps (·.rasCount ..)

theorem State.Inv.rasAppend (h : s.Inv) {code sev part unit d0 d1} : (s.rasAppend code sev part unit d0 d1).Inv :=
  h.of_keeps (·.rasAppend ..)

theorem State.Inv.rejectInput (h : s.Inv) : s.rejectInput.Inv := h.rasCount
theorem State.Inv.sup (h : s.Inv) {f : State → State} (hf : ∀ u, u.Inv → (f u).Inv) : (s.sup f).Inv := ite_either (hf _ h) h
theorem State.Inv.ans (h : s.Inv) {f : State → State} (hf : ∀ u, u.Inv → (f u).Inv) : (s.ans f).Inv := ite_either (hf _ h) h
theorem State.Inv.occupy (h : s.Inv) {t} : (s.occupy t).Inv := h.frame rfl
theorem State.Inv.setKey (h : s.Inv) {n k} : (s.setKey n k).Inv := h.of_keeps (·.setKey ..)
theorem State.Inv.setTdi (h : s.Inv) {p t} : (s.setTdi p t).Inv := h.frame rfl

/-! ### What writes and reads of memory do beside the bytes -/

theorem State.Inv.setFrame (h : s.Inv) {line f} : (s.setFrame line f).Inv := h.of_keeps (·.setFrame ..)
theorem State.Inv.setMiss (h : s.Inv) {line m} : (s.setMiss line m).Inv := h.of_keeps (·.setMiss ..)
theorem State.Inv.setHost (h : s.Inv) {line i} : (s.setHost line i).Inv := h.of_keeps (·.setHost ..)
theorem State.Inv.setPoison (h : s.Inv) {sector b} : (s.setPoison sector b).Inv := h.of_keeps (·.setPoison ..)
theorem State.Inv.notifyWatch (h : s.Inv) {w} : (s.notifyWatch w).Inv := h.of_keeps (·.notifyWatch ..)
theorem State.Inv.notifyLine (h : s.Inv) {line} : (s.notifyLine line).Inv := h.foldl _ (fun _ _ ht => ht.notifyWatch) _
theorem State.Inv.setFwd (h : s.Inv) {line new} : (s.setFwd line new).Inv := h.of_keeps (·.setFwd ..)

/-! ### Frames, pages and channels of the two tiers -/

theorem State.Inv.setChan (h : s.Inv) {fast c x} : (s.setChan fast c x).Inv := h.of_keeps (·.setChan ..)
theorem State.Inv.setPage (h : s.Inv) {n p} : (s.setPage n p).Inv := h.of_keeps (·.setPage ..)
theorem State.Inv.takeFrame (h : s.Inv) {f} : (s.takeFrame f).Inv := ite_either (h.frame (by rfl)) (h.frame (by rfl))
theorem State.Inv.freeFrame (h : s.Inv) {f} : (s.freeFrame f).Inv := ite_either (h.frame (by rfl)) (h.frame (by rfl))
theorem State.Inv.wantMove (h : s.Inv) {m} : (s.wantMove m).Inv := h.of_keeps (·.wantMove ..)
theorem State.Inv.markRetired (h : s.Inv) {f} : (s.markRetired f).Inv := h.of_keeps (·.markRetired ..)

theorem State.Inv.takeHalf (h : s.Inv) {c n} : OptInv (s.takeHalf c n) := by
  induction n generalizing s with
  | zero => exact opt_some h
  | succ n ih =>
    unfold State.takeHalf
    split
    · exact ih (h.takeFrame.frame (by rfl))
    · exact opt_none

theorem State.Inv.drain (h : s.Inv) {fast c dead} : (s.drain fast c dead).Inv := h.of_keeps (·.drain ..)

theorem State.Inv.setPin (h : s.Inv) {page pin} : (s.setPin page pin).Inv := by
  unfold State.setPin
  extract_lets _ _ s1
  have h1 : s1.Inv := h.frame rfl
  exact ite_either h (ite_either h.setPage (ite_either h1.wantMove h1))

theorem State.Inv.classify (h : s.Inv) {f sector correctable recovered bit} : (s.classify f sector correctable recovered bit).Inv :=
  h.of_keeps (·.classify ..)

/-! ### The frames of the home slices -/

theorem State.Inv.charge (h : s.Inv) {w n} : (s.charge w n).Inv := h.of_keeps (·.charge ..)
theorem State.Inv.lane (h : s.Inv) {w tt n} : (s.lane w tt n).Inv := h.of_keeps (·.lane ..)
theorem State.Inv.homeBytes (h : s.Inv) {w tile line n write} : (s.homeBytes w tile line n write).Inv := (h.bump ..).charge.lane
theorem State.Inv.chanBytes (h : s.Inv) {w line n} : (s.chanBytes w line n).Inv := h.of_keeps (·.chanBytes ..)
theorem State.Inv.forget (h : s.Inv) {line mask} : (s.forget line mask).Inv := h.of_keeps (·.forget ..)
theorem State.Inv.evict (h : s.Inv) {line} : (s.evict line).Inv := h.of_keeps (·.evict ..)
theorem State.Inv.pack (h : s.Inv) {line} : (s.pack line).Inv := h.of_keeps (·.pack ..)
theorem State.Inv.unpair (h : s.Inv) {line} : (s.unpair line).Inv := h.of_keeps (·.unpair ..)
theorem State.Inv.repack (h : s.Inv) {line} : (s.repack line).Inv := h.of_keeps (·.repack ..)
theorem State.Inv.poisonSector (h : s.Inv) {sector} : (s.poisonSector sector).Inv := h.of_keeps (·.poisonSector ..)
theorem State.Inv.meet (h : s.Inv) {line mask part} : (s.meet line mask part).Inv := h.of_keeps (·.meet ..)
theorem State.Inv.upset (h : s.Inv) {line mask errs} : (s.upset line mask errs).Inv := h.frame rfl
theorem State.Inv.allocate (h : s.Inv) {line tag p valid dirty} : (s.allocate line tag p valid dirty).Inv := h.of_keeps (·.allocate ..)
theorem State.Inv.touchLine (h : s.Inv) {line} : (s.touchLine line).Inv := h.of_keeps (·.touchLine ..)
theorem State.Inv.dirtied (h : s.Inv) {w line mask} : (s.dirtied w line mask).Inv := h.of_keeps (·.dirtied ..)
theorem State.Inv.wrote (h : s.Inv) {w line mask} : (s.wrote w line mask).Inv := h.of_keeps (·.wrote ..)
theorem State.Inv.wroteBack (h : s.Inv) {w line mask} : (s.wroteBack w line mask).Inv := h.dirtied.notifyLine.repack
theorem State.Inv.fillErrors (h : s.Inv) {line need errs} : (s.fillErrors line need errs).Inv := h.of_keeps (·.fillErrors ..)
theorem State.Inv.errsArise (h : s.Inv) {line need errs} : (s.errsArise line need errs).Inv := h.frame rfl

theorem State.Inv.respond (h : s.Inv) {r kind f} : (s.respond r kind f).Inv := by
  unfold State.respond
  split
  next e => exact (h.freshId.of_snd e).frame rfl

theorem State.Inv.hostBytes (h : s.Inv) {line n write} : (s.hostBytes line n write).Inv := (h.bump ..).charge.lane
theorem State.Inv.hostRefuse (h : s.Inv) {line excl} : (s.hostRefuse line excl).Inv := h.frame rfl
theorem State.Inv.snoop (h : s.Inv) {line inv waiters tag} : (s.snoop line inv waiters tag).Inv := h.of_keeps (·.snoop ..)
theorem State.Inv.loseHost (h : s.Inv) {line} : (s.loseHost line).Inv := h.of_keeps (·.loseHost ..)

/-! ### The accesses of the engines -/

theorem State.Inv.hostCured (h : s.Inv) {a n} : (s.hostCured a n).Inv := h.frame rfl
theorem State.Inv.hostSpoilt (h : s.Inv) {a n} : (s.hostSpoilt a n).Inv := h.frame rfl
theorem State.Inv.packNew (h : s.Inv) {new line} : (s.packNew new line).Inv := h.of_keeps (·.packNew ..)
theorem State.Inv.homeRead (h : s.Inv) {w line mask} : (s.homeRead w line mask).Inv := h.of_keeps (·.homeRead ..)
theorem State.Inv.homeReads (h : s.Inv) {w ranges} : (s.homeReads w ranges).Inv := h.of_keeps (·.homeReads ..)

/-! ### The translation walk -/

theorem State.Inv.dropX (h : s.Inv) {ctx vpn n} : (s.dropX ctx vpn n).Inv := h.frame rfl

theorem State.Inv.translateAll (h : s.Inv) {w ctx acc xs} : (s.translateAll w ctx acc xs).1.Inv := by
  induction xs generalizing s with
  | nil => exact h
  | cons x xs ih => exact ih (h.translate ..)

/-! ### The issue of an Atset instruction, faults and page faults -/

theorem State.Inv.noteTried (h : s.Inv) {a} : (s.noteTried a).Inv := h.setTile ..

theorem State.Inv.switchOut (h : s.Inv) {k cause} : (s.switchOut k cause).Inv := by
  unfold State.switchOut
  dsimp only
  split
  · exact ite_either ((h.setKernel ..).setCtx ..) (((h.setKernel ..).setCtx ..).bump ..)
  · exact ((h.setKernel ..).setCtx ..).bump ..

theorem State.Inv.pageFault (h : s.Inv) {a acc vas} : (s.pageFault a acc vas).Inv := by
  unfold State.pageFault
  split
  · exact h
  · extract_lets _ _ _ s1
    have h1 : s1.Inv := h.foldl _ (fun _ _ ht => ht.pageNeed ..) _
    exact ite_either (h1.setKernel ..).switchOut h1.noteTried

theorem State.Inv.issueTime (h : s.Inv) {a} : (s.issueTime a).Inv := h.reachCycle ..
theorem State.Inv.issued (h : s.Inv) {a} : (s.issued a).Inv := h.issueTime.setTile ..
theorem State.Inv.noteStall (h : s.Inv) {a q} : (s.noteStall a q).Inv := (h.setTile ..).noteTried

theorem issueFetched_inv (h : s.Inv) {k : State → Clause → State} (hk : ∀ u x, u.Inv → (k u x).Inv) {a e q} : (issueFetched a e q s k).Inv
  := ite_either h.noteStall (ite_either h.noteTried (ite_either (h.clauseFault ..) (ite_either (h.clauseFault ..) (hk _ _ h.issued))))

theorem State.Inv.fetchCode (h : s.Inv) {a} : (s.fetchCode a).1.Inv := by
  unfold State.fetchCode
  refine .ite_fst h ?_
  split
  next e => exact (h.translate ..).of_pair e
  next e => exact (h.translate ..).of_pair e
  next e => exact (h.translate ..).of_pair e
  next e => exact (h.translate ..).of_pair e
  next e =>
    have ht := (h.translate ..).of_pair e
    refine .ite_fst ht (.ite_fst ht (.ite_fst ht.rasCount ?_))
    split
    next e => exact (ht.gate ..).of_pair e
    next e =>
      extract_lets s1
      have h1 : s1.Inv := ((ht.gate ..).of_pair e).homeBytes.homeRead
      exact .ite_fst h1 (h1.setTile ..)

theorem issue_inv (h : s.Inv) {k : State → Clause → State} (hk : ∀ u x, u.Inv → (k u x).Inv) {a e q} : (issue a e q s k).Inv := by
  unfold issue
  refine ite_either h ?_
  split
  next e =>
    have ht := h.fetchCode.of_pair e
    exact ite_either (ht.clauseFault ..) (issueFetched_inv ht (fun _ _ hu => hk _ _ hu))
  next e => exact (h.fetchCode.of_pair e).pageFault
  next e => exact (h.fetchCode.of_pair e).clauseFault ..
  next e => exact (h.fetchCode.of_pair e).noteTried

theorem State.Inv.unissued (h : s.Inv) {s0 a} : (s.unissued s0 a).Inv := (h.setTile ..).noteTried
theorem issueClause_inv (h : s.Inv) {a e q f} : (issueClause a e q s f).Inv := issue_inv h (fun _ _ ht => ht.setTile ..)
theorem issueAlu_kept (h : s.Inv) {fm f extra a e} : Kept (issueAlu fm f extra a e s) := unit_kept (issueClause_inv h)

/-! ### The tile's scheduler -/

theorem State.Inv.tileLeave (h : s.Inv) {tile} : (s.tileLeave tile).Inv := by
  unfold State.tileLeave
  dsimp only
  split
  · exact h
  · exact ite_either ((h.occupy.setKernel ..).setTile ..) h

theorem State.Inv.clauseEmpty (h : s.Inv) {a} : (s.clauseEmpty a).Inv := by
  unfold State.clauseEmpty
  extract_lets _ _ _ _ _ s1
  have h1 : s1.Inv := h.setTile ..
  split
  · exact h1
  · exact ((h1.setTile ..).setKernel ..).tileLeave

theorem State.Inv.clauseExit (h : s.Inv) {a c} : (s.clauseExit a c).Inv := by
  unfold State.clauseExit
  extract_lets _ _ _ _ _ s1
  have h1 : s1.Inv := h.setTile ..
  exact ite_either h1.clauseEmpty h1

/-! ### Branches, barrier, fence and exit -/

theorem execBr_kept (h : s.Inv) {a e} : Kept (execBr a e s) := by
  unfold execBr
  refine unit_kept (issue_inv h (fun _ _ ht => ?_))
  extract_lets _ _ _ _ go fall
  have hgo (c : Clause) : (go c).Inv := ht.setClause ..
  have hfall : fall.Inv := ht.setClause ..
  split
  · refine ite_either hfall (ite_either (hgo _) ?_)
    split
    · exact hgo _
    · exact ht.clauseFault ..
  · exact ite_either hfall (hgo _)
  · exact ite_either (hgo _) hfall

theorem execBrx_kept (h : s.Inv) {a e} : Kept (execBrx a e s) :=
  unit_kept (issue_inv h (fun _ _ ht => ite_either (ht.clauseFault ..) (ht.setClause ..)))

theorem execCall_kept (h : s.Inv) {a e} : Kept (execCall a e s) :=
  unit_kept (issue_inv h (fun _ _ ht => ite_either (ht.setClause ..) (ite_either (ht.clauseFault ..) (ht.setClause ..))))

theorem execSplit_kept (h : s.Inv) {a e} : Kept (execSplit a e s) := by
  unfold execSplit
  refine unit_kept (issue_inv h (fun _ _ ht => ?_))
  split
  · exact ht.setClause ..
  · exact ht.clauseFault ..

theorem execJoin_kept (h : s.Inv) {a e} : Kept (execJoin a e s) := unit_kept (issue_inv h (fun _ _ ht => ht.setClause ..))

theorem execBar_kept (h : s.Inv) {a e} : Kept (execBar a e s) :=
  unit_kept (issue_inv h (fun _ _ ht => ite_either h.noteTried (ite_either (ht.setTile ..) (ht.setTile ..))))

theorem execExit_kept (h : s.Inv) {a e} : Kept (execExit a e s) :=
  unit_kept (issue_inv h (fun _ _ ht => ite_either ht.clauseExit (ite_either (ht.setClause ..) (ht.setClause ..))))

/-! ### Floating point, softmax, masks, exchange and vote -/

theorem execMaskgen_kept (h : s.Inv) {a e} : Kept (execMaskgen a e s) :=
  unit_kept (issue_inv h (fun _ _ ht => ite_either (ht.clauseFault ..) (ht.setTile ..)))

/-! ### The matrix unit -/

theorem issueMat_kept (h : s.Inv) {op legal src dst ur sr key a e} : Kept (issueMat op legal src dst ur sr key a e s) :=
  unit_kept (ite_either (ite_either h (ite_either h.noteStall h.noteTried)) (issue_inv h (fun _ _ ht => ht.setTile ..)))

theorem execMatrixFinish_kept (h : s.Inv) {tile} : Kept (execMatrixFinish tile s) := unit_kept (h.setTile ..).tileLeave

/-! ### Memory instructions and WAIT -/

theorem memAccess_inv {s0 : State} (h0 : s0.Inv) (h : s.Inv) {a x op dst ls c} : (memAccess a x op dst ls s0 s c).Inv := by
  unfold memAccess
  dsimp only
  split
  · exact h.clauseFault ..
  · refine ite_either h0.noteTried (ite_either h0.noteTried (ite_either (h.setTile ..) (ite_either ?_ ?_)))
    · exact ite_either ((h.frame (by rfl)).setTile ..) (h.setTile ..)
    · split
      · exact h.translateAll.clauseFault ..
      · exact h.translateAll.unissued
      · exact h.translateAll.unissued.pageFault
      · exact (h.translateAll.frame (by rfl)).setTile ..

theorem loadMeaning_kept (h : s.Inv) {sext a e} : Kept (loadMeaning sext a e s) := by
  unfold loadMeaning
  exact unit_kept (issue_inv h fun _ _ ht => memAccess_inv h ht)

theorem execSt_kept (h : s.Inv) {a e} : Kept (execSt a e s) := by
  unfold execSt
  exact unit_kept (issue_inv h fun _ _ ht => memAccess_inv h ht)

theorem execLdu_kept (h : s.Inv) {a e} : Kept (execLdu a e s) := by
  unfold execLdu
  exact unit_kept (issue_inv h fun _ _ ht => memAccess_inv h ht)

theorem execStu_kept (h : s.Inv) {a e} : Kept (execStu a e s) := by
  unfold execStu
  exact unit_kept (issue_inv h fun _ _ ht => memAccess_inv h ht)

theorem atomMeaning_kept (h : s.Inv) {op a e} : Kept (atomMeaning op a e s) := by
  unfold atomMeaning
  exact unit_kept (issue_inv h fun _ _ ht => memAccess_inv h ht)

theorem execWait_kept (h : s.Inv) {a e} : Kept (execWait a e s) := by
  unfold execWait
  refine unit_kept (issue_inv h (fun _ _ ht => ite_either (ht.setClause ..) ?_))
  refine ite_either (ite_either (ht.setClause ..) (ht.setTile ..)) (ite_either (ite_either (ht.clauseFault ..) (ht.setTile ..)) ?_)
  refine ite_either (ht.clauseFault ..) (ite_either (ht.clauseFault ..) (ite_either h.noteTried ?_))
  split
  next e => exact (((ht.translate ..).of_pair e).unissued).pageFault
  next e => exact ((ht.translate ..).of_pair e).unissued
  next e => exact ((ht.translate ..).of_pair e).clauseFault ..
  next e => exact ((ht.translate ..).of_pair e).clauseFault ..
  next e =>
    extract_lets _ _ _ _ s1
    have h1 : s1.Inv := ((ht.translate ..).of_pair e).setTile ..
    exact ite_either h1 (h1.frame (by rfl))

/-! ### Compares, selects, conversions and moves -/

theorem issuePred2_kept (h : s.Inv) {f a e} : Kept (issuePred2 f a e s) := unit_kept (issueClause_inv h)

/-! ### PREF -/

theorem prefLane_inv (h : s.Inv) {w x k ea} : (prefLane w x k s ea).1.Inv := by
  unfold prefLane
  refine .ite_fst h ?_
  split
  next e => exact (h.translate ..).of_pair e
  next e => exact (h.translate ..).of_pair e

theorem execPref_kept (h : s.Inv) {a e} : Kept (execPref a e s) := by
  unfold execPref
  refine unit_kept (issue_inv h (fun _ _ ht => ite_either h.noteTried ?_))
  extract_lets
  split
  next e =>
    refine (State.Inv.foldl (.of_pair ?_ e) _ (fun _ _ hv => hv.frame (by rfl)) _).setClause ..
    refine State.Inv.foldl_fst (p := (_, _)) ht _ (fun _ _ hp => ?_) _
    exact prefLane_inv hp

/-! ### The home slices' service of requests -/

theorem State.Inv.sendData (h : s.Inv) {r} : (s.sendData r).Inv := by
  unfold State.sendData
  exact h.meet.homeBytes.respond

theorem State.Inv.hostServe (h : s.Inv) {line excl} : (s.hostServe line excl).Inv := by
  unfold State.hostServe
  extract_lets _ _ s1
  have h1 : s1.Inv := h.meet.hostBytes.setHost
  exact h1.frame rfl

theorem State.Inv.written (h : s.Inv) {r mask} : (s.written r mask).Inv := h.homeBytes.wrote

theorem State.Inv.applyWr (h : s.Inv) {r} : (s.applyWr r).Inv := by
  unfold State.applyWr
  extract_lets _ _ s1 s2
  have h1 : s1.Inv := (h.dlog ..).forget.meet
  have h2 : s2.Inv := h1.setMem (memWf_foldl (fun _ _ hm => memWf_putLe _ _ _ hm) h1.mem)
  exact (h2.foldl _ (fun _ _ ht => ite_either ht.setPoison ht) _).written.respond

theorem State.Inv.applyAtom (h : s.Inv) {r} : (s.applyAtom r).Inv := by
  unfold State.applyAtom
  extract_lets _ s1 s2
  have h1 : s1.Inv := h.meet
  have h2 : s2.Inv := h1.dlog ..
  refine ite_either h1.respond ?_
  split
  next e =>
    extract_lets s3
    have h3 : s3.Inv := (h2.setMem (memWf_of_pair (memWf_atomRun h2.mem) e)).written
    exact ite_either h3.respond h3.respond

theorem State.Inv.applyRed (h : s.Inv) {r folded} : (s.applyRed r folded).Inv := by
  unfold State.applyRed
  extract_lets _ _ _ _ s1 s2
  have h1 : s1.Inv := (h.bump ..).meet
  have h2 : s2.Inv := h1.dlog ..
  refine ite_either (h1.foldl _ (fun _ _ ht => ht.respond) _) ?_
  split
  next e =>
    exact ((h2.setMem (memWf_of_pair (memWf_redGroup h2.mem) e)).written.bump ..).foldl _ (fun _ _ ht => ht.respond) _

theorem State.Inv.serve (h : s.Inv) {r folded} : (s.serve r folded).Inv := by
  unfold State.serve
  extract_lets s1 s2
  have h1 : s1.Inv := h.touchLine
  have h2 : s2.Inv := h1.sendData
  split
  · exact h1.sendData
  · exact ite_either h2 h2.setFwd
  · exact h1.applyWr
  · exact h1.applyAtom
  · exact h1.applyRed
  · exact h1.hostServe
  · exact h1.hostServe
  · exact h1
  · exact h1

theorem State.Inv.forward (h : s.Inv) {r u waiters} : (s.forward r u waiters).Inv := ite_either h.setMiss.respond h.setMiss

theorem State.Inv.outside (h : s.Inv) {r} : (s.outside r).Inv := by
  unfold State.outside
  extract_lets s1
  have h1 : s1.Inv := h.rasCount
  split
  · exact h1.respond
  · exact h1.respond
  · exact ite_either h1.respond h1.respond
  · exact h1.hostRefuse
  · exact h1.hostRefuse
  · exact h1
  · exact h1
  · exact h1.respond

theorem State.Inv.start (h : s.Inv) {r folded} : (s.start r folded).Inv := by
  unfold State.start
  extract_lets _ all fillOr gone
  have hf {u : State} (hu : u.Inv) : (fillOr u).Inv := by
    refine ite_either ?_ hu.setMiss
    split
    · exact ite_either hu.allocate.serve.pack hu.allocate.serve
    · exact hu.serve
  have hg {inv} : (gone inv s).Inv := ite_either (hf h.loseHost) h.snoop
  refine ite_either (h.foldl _ (fun _ _ ht => ht.outside) _) ?_
  split
  · refine ite_either h.hostRefuse ?_
    split
    · exact h.snoop.setMiss
    · exact hf h
  · refine ite_either h.hostRefuse ?_
    split
    · exact h.snoop.setMiss
    · exact hf h
  · exact ite_either (hf h) (ite_either hg (hf h))
  · refine ite_either (hf h) (ite_either hg ?_)
    split
    · exact h.forward
    · exact hf h
  · exact hg
  · exact hf h

theorem State.Inv.serveGroups (h : s.Inv) {xs} : (s.serveGroups xs).Inv := by
  induction xs generalizing s with
  | nil => exact h
  | cons x xs ih =>
    unfold State.serveGroups
    split
    · exact ih h.setMiss
    · exact ih h.start

theorem State.Inv.serveAll (h : s.Inv) {rs} : (s.serveAll rs).Inv := h.serveGroups

theorem State.Inv.nextFwd (h : s.Inv) {tile} : (s.nextFwd tile).Inv := by
  unfold State.nextFwd
  dsimp only
  split
  · exact h
  · split
    · split
      · exact h.forward
      · exact h.setMiss
    · exact h

theorem State.Inv.release (h : s.Inv) {line waiters} : (s.release line waiters).Inv := h.setMiss.serveAll
theorem State.Inv.recalled (h : s.Inv) {victim} : (s.recalled victim).Inv := h.foldl _ (fun _ _ ht => ht.release) _
theorem State.Inv.dropReq (h : s.Inv) {id} : (s.dropReq id).Inv := h.frame rfl
theorem State.Inv.setReq (h : s.Inv) {r} : (s.setReq r).Inv := h.frame rfl
theorem State.Inv.resend (h : s.Inv) {r} : (s.resend r).Inv := h.frame rfl
theorem State.Inv.refuse (h : s.Inv) {r} : (s.refuse r).Inv := ite_either (h.setReq.respond.bump ..) (ite_either h h.setReq.respond)

theorem State.Inv.acceptReq (h : s.Inv) {r} : (s.acceptReq r).Inv := by
  unfold State.acceptReq
  extract_lets _ s1 s2
  have h1 : s1.Inv := h.dropReq
  have h2 : s2.Inv := ite_either h1 (h1.foldl _ (fun _ _ ht => ht.bump ..) _)
  exact ite_either (h2.frame (by rfl)) h2

theorem State.Inv.takeReq (h : s.Inv) {r} : (s.takeReq r).Inv := by
  unfold State.takeReq
  extract_lets _ s1
  have h1 : s1.Inv := h.acceptReq.foldl _ (fun _ _ ht => ht.dropReq) _
  refine ite_either h (ite_either h.acceptReq.outside ?_)
  split
  · exact ite_either h1.setMiss h.refuse
  · exact ite_either h1.start h.refuse

theorem State.Inv.readErrs (h : s.Inv) {r errs} : (s.readErrs r errs).Inv := ite_either h h.upset

theorem homeReq_kept (h : s.Inv) {kind id errs} : Kept (homeReq kind id errs s) := by
  unfold homeReq
  split
  · exact kept_next h.readErrs.takeReq
  · exact kept_next h

theorem execWatch_kept (h : s.Inv) {req} : Kept (execWatch req s) := by
  unfold execWatch
  split
  · exact kept_next h
  · extract_lets s1
    have h1 : s1.Inv := h.dropReq
    exact kept_next (ite_either h1 (h1.frame (by rfl)))

theorem execUnwatch_kept (h : s.Inv) {req} : Kept (execUnwatch req s) := by
  unfold execUnwatch
  split
  · exact kept_next h
  · exact kept_next (h.frame (by rfl))

/-! ### Coherence messages, and the delivery of answers -/

theorem State.Inv.settle (h : s.Inv) {a} : (s.settle a).Inv := ite_either (ite_either h.clauseEmpty h) (h.setTile ..)

theorem State.Inv.deliver (h : s.Inv) {a kernel acc vals bad} : (s.deliver a kernel acc vals bad).Inv := by
  unfold State.deliver
  extract_lets _
  split
  · exact (ite_either (h.setTile ..) h).setKernel ..
  · extract_lets _ _ _ s1
    have h1 : s1.Inv := (h.setClause ..).settle
    exact ite_either (h.setClause ..) (ite_either (h1.clauseFault ..) h1)

theorem State.Inv.dataIn (h : s.Inv) {x} : (s.dataIn x).Inv := by
  unfold State.dataIn
  extract_lets _ _ _ _ s1
  have h1 : s1.Inv := ite_either (h.setTile ..) h
  refine ite_either h ?_
  split
  · exact h1.deliver
  · exact h1

theorem State.Inv.dropRsp (h : s.Inv) {id} : (s.dropRsp id).Inv := h.frame rfl

theorem takeRsp_kept (h : s.Inv) {f : Rsp → State → State} (hf : ∀ x u, u.Inv → (f x u).Inv) {kind id} : Kept (takeRsp kind id s f) := by
  unfold takeRsp
  split
  · exact kept_next (hf _ _ h.dropRsp)
  · exact kept_next h

theorem execDataRsp_kept (h : s.Inv) {msg} : Kept (execDataRsp msg s) := by
  unfold execDataRsp
  split
  · exact kept_next h
  · split
    · exact kept_next (ite_either h h.dropRsp)
    · exact kept_next h.dropRsp.dataIn

theorem State.Inv.lateAnswer (h : s.Inv) : s.lateAnswer.Inv := h.rasCount

theorem execDataF_kept (h : s.Inv) {msg} : Kept (execDataF msg s) := by
  unfold execDataF
  refine takeRsp_kept h (fun _ _ ht => ite_either (ht.frame (by rfl)).lateAnswer (State.Inv.dataIn ?_))
  split
  · exact ht.setMiss
  · exact ht

theorem execAck_kept (h : s.Inv) {msg} : Kept (execAck msg s) := by
  unfold execAck
  refine takeRsp_kept h (fun _ _ ht => ?_)
  split
  · exact ht.deliver
  · exact ht

theorem execAtomRsp_kept (h : s.Inv) {msg} : Kept (execAtomRsp msg s) := by
  unfold execAtomRsp
  refine takeRsp_kept h (fun _ _ ht => ?_)
  split
  · exact ht.deliver
  · exact ht

theorem execRetry_kept (h : s.Inv) {msg} : Kept (execRetry msg s) := takeRsp_kept h (fun _ _ ht => ht)

theorem execGrant_kept (h : s.Inv) {slice} : Kept (execGrant slice s) := by
  unfold execGrant
  refine unit_kept ?_
  split
  · exact h.resend.respond
  · exact h

theorem execGrantHoldExpire_kept (h : s.Inv) {req} : Kept (execGrantHoldExpire req s) := by
  unfold execGrantHoldExpire
  split
  · exact kept_next (h.frame (by rfl)).resend
  · exact kept_next h

theorem execNack_kept (h : s.Inv) {msg} : Kept (execNack msg s) := by
  unfold execNack
  refine takeRsp_kept h (fun _ _ ht => ?_)
  split
  · exact ht.setReq
  · exact ht

theorem execNackBackoffExpire_kept (h : s.Inv) {req} : Kept (execNackBackoffExpire req s) := by
  unfold execNackBackoffExpire
  split
  · exact kept_next h.resend
  · exact kept_next h

theorem execFwd_kept (h : s.Inv) {msg} : Kept (execFwd msg s) := by
  unfold execFwd
  refine takeRsp_kept h (fun _ _ ht => ?_)
  dsimp only
  split
  · exact (ht.setTile ..).respond.respond
  · exact ht.respond

theorem State.Inv.fwdEnd (h : s.Inv) {line tile waiters} : (s.fwdEnd line tile waiters).Inv := h.release.nextFwd
theorem State.Inv.fwdServed (h : s.Inv) {r u m} : (s.fwdServed r u m).Inv := h.setFwd.fwdEnd
theorem State.Inv.serveFwd (h : s.Inv) {r u m} : (s.serveFwd r u m).Inv := h.setFwd.fwdEnd
theorem State.Inv.lateFwd (h : s.Inv) {r tile miss} : (s.lateFwd r tile miss).Inv := (h.frame (by rfl)).lateAnswer.nextFwd

theorem execFwdAck_kept (h : s.Inv) {msg} : Kept (execFwdAck msg s) := by
  unfold execFwdAck
  refine takeRsp_kept h (fun _ _ ht => ?_)
  split
  · exact ht.fwdServed
  · exact ht.lateFwd

theorem execFwdMiss_kept (h : s.Inv) {msg} : Kept (execFwdMiss msg s) := by
  unfold execFwdMiss
  refine takeRsp_kept h (fun _ _ ht => ?_)
  split
  · exact ht.serveFwd
  · exact ht.lateFwd

theorem State.Inv.cohTimeout (h : s.Inv) : s.cohTimeout.Inv := h.setFld ..

theorem execFwdTimeout_kept (h : s.Inv) {req} : Kept (execFwdTimeout req s) := by
  unfold execFwdTimeout
  split
  · extract_lets s1
    have h1 : s1.Inv := (h.reach ..).cohTimeout
    split
    · exact kept_next (ite_either h1.serveFwd (h1.frame (by rfl)).serveFwd)
    · exact kept_next h
  · exact kept_next h

theorem State.Inv.hostTake (h : s.Inv) {r} : (s.hostTake r).Inv := by
  unfold State.hostTake
  refine ite_either h ?_
  split
  · exact ite_either h.setMiss h
  · exact ite_either h.start h

theorem hostRead_kept (h : s.Inv) {excl line} : Kept (hostRead excl line s) := by
  unfold hostRead
  refine unit_kept (ite_either h (ite_either h.hostRefuse (ite_either h.hostRefuse.rasCount ?_)))
  split
  next e => exact (h.freshId.of_snd e).hostTake

theorem State.Inv.hostLine (h : s.Inv) {line d} : (s.hostLine line d).Inv := by
  unfold State.hostLine
  extract_lets _ _ s1 s2 _ _ s3
  have h1 : s1.Inv := h.hostBytes.forget.allocate
  have h2 : s2.Inv := h1.setMem (memWf_put _ _ h1.mem)
  have h3 : s3.Inv := h2.foldl _ (fun _ _ ht => ite_either ht.poisonSector ht.setPoison) _
  exact ite_either h.rasCount h3.wroteBack.packNew

theorem execHostWriteBack_kept (h : s.Inv) {line keepS data} : Kept (execHostWriteBack line keepS data s) :=
  unit_kept (ite_either h.hostLine.setHost h.lateAnswer)

theorem State.Inv.notifyParsers (h : s.Inv) {line} : (s.notifyParsers line).Inv := h.foldl _ (fun _ _ ht => ht.notifyWatch) _

theorem snoopAnswer_kept (h : s.Inv) {line data st} : Kept (snoopAnswer line data st s) := by
  unfold snoopAnswer
  extract_lets s1
  have h1 : s1.Inv := by
    unfold s1
    split
    · exact h.hostLine
    · exact h
  refine unit_kept ?_
  split
  · exact ite_either h1.setHost.release.recalled.notifyParsers h.lateAnswer
  · exact h.lateAnswer

theorem execBisnpTimeout_kept (h : s.Inv) {line} : Kept (execBisnpTimeout line s) := by
  unfold execBisnpTimeout
  refine unit_kept ?_
  split
  · exact ite_either (h.reach ..).cohTimeout.loseHost.release.recalled.notifyParsers h
  · exact h

theorem execH2dSnoop_kept (h : s.Inv) {line} : Kept (execH2dSnoop line s) := kept_next (h.frame (by rfl))

/-! ### Fills, hot slices and the case-tag table -/

theorem execFillReturn_kept (h : s.Inv) {line errs array} : Kept (execFillReturn line errs array s) := by
  unfold execFillReturn
  refine unit_kept ?_
  split
  · extract_lets key _ s1
    have h1 : s1.Inv := by
      unfold s1 key
      split
      · exact h.setKey
      · exact h
    exact ite_either h (ite_either h.release
      h1.chanBytes.fillErrors.errsArise.upset.meet.allocate.repack.release.packNew)
  · exact h

theorem State.Inv.hotRecord (h : s.Inv) {slice w entering} : (s.hotRecord slice w entering).Inv := by
  unfold State.hotRecord
  exact ((h.setWord ..).setWord ..).setFld ..

theorem execHotWindowEnd_kept (h : s.Inv) {slice w} : Kept (execHotWindowEnd slice w s) := by
  unfold execHotWindowEnd
  extract_lets _ _ _ _ s1 s2 _ s3
  have h1 : s1.Inv := ite_either (h.bump ..) h
  have h2 : s2.Inv := h1.frame rfl
  have h3 : s3.Inv := h1.frame rfl
  have hseen {u : State} {l} (hu : u.Inv) : { u with hotSeen := l }.Inv := hu.frame rfl
  exact unit_kept (ite_either (ite_either ((hseen h2.hotRecord).ras ..) h2) (ite_either (ite_either h3.hotRecord h3) h1))

theorem State.Inv.regApply (h : s.Inv) : s.regApply.Inv :=
  (((ite_either (h.foldl _ (fun _ _ ht => ht.setWord ..) _) h).setFld ..).setFld ..).setFld ..

theorem execUcRegApply_kept (h : s.Inv) : Kept (execUcRegApply s) := kept_next (h.sup (fun _ ht => ht.regApply))

/-! ### How commands end -/

theorem State.Inv.countReleased (h : s.Inv) {reads writes} : (s.countReleased reads writes).Inv := h.rasCount

theorem State.Inv.meterTile (h : s.Inv) {w tile write ls} : (s.meterTile w tile write ls).Inv :=
  h.foldl _ (fun _ _ ht => ite_either ht.charge (ht.foldl _ (fun _ _ hu => hu.homeBytes) _)) _

theorem State.Inv.gateTile (h : s.Inv) {w tile reads writes} : (s.gateTile w tile reads writes).1.Inv := by
  unfold State.gateTile
  split
  next e => exact (h.gate ..).of_pair e
  next e => exact ((h.gate ..).of_pair e).meterTile.meterTile.countReleased.homeReads

theorem State.Inv.addRec (h : s.Inv) {qn r} : (s.addRec qn r).Inv := ite_either (h.setQueue ..) h
theorem State.Inv.jobDone (h : s.Inv) {c} : (s.jobDone c).Inv := h.setCtx ..
theorem State.Inv.jobLaunched (h : s.Inv) {c} : (s.jobLaunched c).Inv := h.setCtx ..

theorem State.Inv.finish (h : s.Inv) {qn id status} : (s.finish qn id status).Inv := by
  unfold State.finish
  dsimp only
  split
  · exact h
  · exact (h.setQueue ..).addRec.jobDone

theorem State.Inv.evlogLost (h : s.Inv) {p} : (s.evlogLost p).Inv := h.setFld ..

theorem State.Inv.tryEvent (h : s.Inv) {e} : (s.tryEvent e).1.Inv := by
  unfold State.tryEvent
  refine .ite_fst (h.raiseVec ..) (.ite_fst (h.evlogLost.raiseVec ..) (.ite_fst (h.evlogLost.raiseVec ..) ?_))
  dsimp only
  split
  next e => exact (h.places ..).of_pair e
  next e =>
    have ht := (h.places ..).of_pair e
    split
    next e => exact (ht.gateAll ..).of_pair e
    next e => exact ((((ht.gateAll ..).of_pair e).storeAll ..).setFld ..).raiseVec ..
  next e =>
    have ht := (h.places ..).of_pair e
    exact .ite_fst (ht.evlogLost.raiseVec ..) (ht.pageNeed ..)
  next e => exact ((h.places ..).of_pair e).evlogLost.raiseVec ..

theorem State.Inv.addEvent (h : s.Inv) {e} : (s.addEvent e).Inv := by
  unfold State.addEvent
  refine ite_either (h.frame (by rfl)) ?_
  split
  next e => exact h.tryEvent.of_pair e
  next e => exact (h.tryEvent.of_pair e).frame rfl

theorem State.Inv.flushEvents (h : s.Inv) : s.flushEvents.Inv := (h.frame (by rfl)).foldl _ (fun _ _ ht => ht.addEvent) _
theorem State.Inv.unhold (h : s.Inv) {k} : (s.unhold k).Inv := ite_either (h.frame (by rfl)) h

theorem State.Inv.setPlacing (h : s.Inv) {p ks} : (s.setPlacing p ks).Inv := by
  unfold State.setPlacing
  extract_lets _ s1 s2
  have h1 : s1.Inv := h.setPart ..
  have h2 : s2.Inv := by
    unfold s2
    split
    · exact ite_either h1.unhold h1
    · exact h1
  split
  · exact ite_either (h2.setKernel ..) h2
  · exact h2

theorem State.Inv.endKernel (h : s.Inv) {k} : (s.endKernel k).Inv := by
  unfold State.endKernel
  extract_lets _ _ s1 s2 _ s3 _ _ s4
  have h1 : s1.Inv := h.foldl _ (fun _ _ ht => ht.occupy.setTile ..) _
  have h2 : s2.Inv := h1.frame rfl
  have h4 : s4.Inv := ((h2.setCtx ..).setPart ..).setPlacing
  exact h4.frame rfl

theorem State.Inv.dropUnsent (h : s.Inv) {is} : (s.dropUnsent is).Inv := h.frame rfl
theorem State.Inv.endXfer (h : s.Inv) {x} : (s.endXfer x).Inv := h.frame rfl

theorem State.Inv.squash (h : s.Inv) {qn c} : (s.squash qn c).Inv := by
  unfold State.squash
  split
  · exact h.endKernel
  · exact h.endXfer
  · exact h.frame rfl
  · exact h

theorem State.Inv.keepBad (h : s.Inv) {was ls} : (s.keepBad was ls).Inv :=
  h.foldl _ (fun _ _ ht => ite_either ht (ht.foldl _ (fun _ _ hu => ite_either hu.poisonSector hu) _)) _

theorem State.Inv.undefine (h : s.Inv) {qn rs} : (s.undefine qn rs).Inv := by
  unfold State.undefine
  refine h.foldl _ (fun _ _ ht => ?_) _
  split
  next e =>
    have hu := (ht.places ..).of_pair e
    split
    next e => exact ((hu.draw.of_snd e).storeAll ..).keepBad
  next e => exact (ht.places ..).of_pair e

theorem State.Inv.cut (h : s.Inv) {qn c status} : (s.cut qn c status).Inv := h.squash.undefine.finish
theorem State.Inv.setModel (h : s.Inv) {i m} : (s.setModel i m).Inv := h.frame rfl

theorem State.Inv.unload (h : s.Inv) {i} : (s.unload i).Inv := by
  unfold State.unload
  extract_lets _ _ _ s1
  have h1 : s1.Inv := by
    refine h.setModel.foldl _ (fun _ _ ht => ?_) _
    split
    · exact ite_either ht.unpair.evict ht
    · exact ht
  exact h1.frame rfl

theorem State.Inv.unregister (h : s.Inv) {i} : (s.unregister i).Inv := (h.unload.frame (by rfl)).foldl _ (fun _ _ ht => ht.setPin) _

theorem State.Inv.loseCtx (h : s.Inv) {c cause status qn seq va} : (s.loseCtx c cause status qn seq va).Inv :=
  ite_either h.rasCount (((((((h.setCtx ..).foldl _ (fun _ _ ht => (ht.setQueue ..).foldl _ (fun _ _ hu => hu.cut) _) _).foldl _
    (fun _ _ ht => ht.endKernel) _).frame (by rfl)).foldl _ (fun _ _ ht => ht.unregister) _).sendPages ..).setCtx ..)

theorem State.Inv.recEvent (h : s.Inv) {qn r} : (s.recEvent qn r).Inv := ite_either h.addEvent h

theorem State.Inv.writeRec (h : s.Inv) {qn r} : (s.writeRec qn r).1.Inv := by
  unfold State.writeRec
  refine .ite_fst (h.setQueue ..).recEvent (.ite_fst h ?_)
  dsimp only
  split
  next e => exact (h.places ..).of_pair e
  next e =>
    have ht := (h.places ..).of_pair e
    split
    next e => exact (ht.gateAll ..).of_pair e
    next e => exact ((((ht.gateAll ..).of_pair e).storeAll ..).setQueue ..).recEvent
  next e =>
    have ht := (h.places ..).of_pair e
    exact .ite_fst (ht.setQueue ..).loseCtx.recEvent ((ht.pageNeed ..).setQueue ..)
  next e => exact (((h.places ..).of_pair e).setQueue ..).loseCtx.recEvent
  next e => exact (((h.places ..).of_pair e).setQueue ..).loseCtx.recEvent

theorem State.Inv.flushRecs (h : s.Inv) {qn n} : (s.flushRecs qn n).Inv := by
  induction n generalizing s with
  | zero => exact h
  | succ n ih =>
    unfold State.flushRecs
    split
    · exact h
    · split
      next e => exact ih (h.writeRec.of_pair e)
      next e => exact h.writeRec.of_pair e

theorem State.Inv.writeHead (h : s.Inv) {qn} : (s.writeHead qn).Inv := by
  unfold State.writeHead
  refine ite_either h (ite_either (h.setQueue ..) ?_)
  split
  next e => exact ((h.places ..).of_pair e).setQueue ..
  next e =>
    have ht := (h.places ..).of_pair e
    split
    next e => exact ((ht.gateAll ..).of_pair e).setQueue ..
    next e => exact (((ht.gateAll ..).of_pair e).storeAll ..).setQueue ..
  next e =>
    have ht := (h.places ..).of_pair e
    exact ite_either (ht.setQueue ..).loseCtx ((ht.pageNeed ..).setQueue ..)
  next e => exact (((h.places ..).of_pair e).setQueue ..).loseCtx
  next e => exact (((h.places ..).of_pair e).setQueue ..).loseCtx

theorem State.Inv.flushRound (h : s.Inv) : s.flushRound.Inv := by
  unfold State.flushRound
  refine h.foldl _ (fun _ _ ht => ?_) _
  extract_lets s1
  have h1 : s1.Inv := ht.flushRecs
  exact ite_either h1.writeHead h1

theorem State.Inv.flushRounds (h : s.Inv) {n} : (s.flushRounds n).Inv := by
  induction n generalizing s with
  | zero => exact h
  | succ n ih => exact ih h.flushRound

theorem State.Inv.flush (h : s.Inv) : s.flush.Inv := ite_either h h.flushEvents.flushRounds

/-! ### Events of tiles and kernels -/

theorem execTileAssign_kept (h : s.Inv) {tile} : Kept (execTileAssign tile s) := by
  unfold execTileAssign
  extract_lets _ s1
  have h1 : s1.Inv := h.occupy
  refine unit_kept ?_
  split
  · exact h
  · refine ite_either h ?_
    split
    · exact h
    · exact ite_either (h1.setTile ..) (((h1.setTile ..).setKernel ..).setPart ..)

theorem execBlockPlace_kept (h : s.Inv) {kernel} : Kept (execBlockPlace kernel s) := by
  unfold execBlockPlace
  refine ite_either (kept_next h) ?_
  split
  · exact kept_next h
  · extract_lets _ _ _ s1
    have h1 : s1.Inv := (h.frame (by rfl)).setKernel ..
    exact kept_next (ite_either (h1.setPlacing.foldl _ (fun _ _ ht => ht.tileLeave) _) h1)

theorem execArgumentReadReturn_kept (h : s.Inv) {a} : Kept (execArgumentReadReturn a s) := by
  unfold execArgumentReadReturn
  refine unit_kept (ite_either h ?_)
  split
  next e => exact (h.places ..).of_pair e
  next e => exact ((h.places ..).of_pair e).pageFault
  next e => exact ((h.places ..).of_pair e).clauseFault ..
  next e => exact ((h.places ..).of_pair e).clauseFault ..
  next e =>
    have ht := (h.places ..).of_pair e
    split
    next e => exact ht.gateTile.of_pair e
    next e =>
      have hu := ht.gateTile.of_pair e
      split
      · exact ite_either (hu.clauseFault ..) (hu.setTile ..)

theorem execPromote_kept (h : s.Inv) {tile slot} : Kept (execPromote tile slot s) := by
  unfold execPromote
  refine unit_kept ?_
  dsimp only
  split
  · exact ite_either (h.setTile ..) h
  · exact h

theorem execLoaddepDemote_kept (h : s.Inv) {a load} : Kept (execLoaddepDemote a load s) := by
  unfold execLoaddepDemote
  refine unit_kept ?_
  dsimp only
  split
  · exact h
  · exact ite_either ((h.reachCycle ..).setTile ..) h

theorem State.Inv.dropWatch (h : s.Inv) {a w} : (s.dropWatch a w).Inv := by
  unfold State.dropWatch
  extract_lets s1
  have h1 : s1.Inv := h.frame rfl
  exact ite_either h1 (h1.frame (by rfl))

theorem State.Inv.endWaitAt (h : s.Inv) {a met} : (s.endWaitAt a met).Inv := h.dropWatch.setTile ..
theorem State.Inv.reread (h : s.Inv) {a} : (s.reread a).Inv := (h.frame (by rfl)).setClause ..
theorem State.Inv.watchSaw (h : s.Inv) {a word} : (s.watchSaw a word).Inv := ite_either h.endWaitAt (ite_either h.reread (h.setClause ..))

theorem execWatchRereadReturn_kept (h : s.Inv) {a} : Kept (execWatchRereadReturn a s) := by
  unfold execWatchRereadReturn
  refine unit_kept ?_
  extract_lets _
  split
  · extract_lets s1
    have h1 : s1.Inv := h.dropRsp
    exact ite_either (ite_either (h1.dropWatch.clauseFault ..) h1.watchSaw) h
  · exact h

theorem execHostWatchPoll_kept (h : s.Inv) {a} : Kept (execHostWatchPoll a s) := unit_kept (ite_either h.watchSaw h)
theorem execQsc_kept (h : s.Inv) {tile} : Kept (execQsc tile s) := unit_kept (h.setTile ..)

theorem State.Inv.stopKernel (h : s.Inv) {kernel} : (s.stopKernel kernel).Inv := by
  unfold State.stopKernel
  dsimp only
  split
  · exact h
  · exact h.endKernel.finish.loseCtx.flush

theorem execDeadlockDeclare_kept (h : s.Inv) {kernel} : Kept (execDeadlockDeclare kernel s) :=
  ite_either (kept_next h) (kept_next ((((h.foldl _ (fun _ _ ht => ht.reachCycle ..) _).bump ..).ras ..).setKernel ..).stopKernel)

theorem execStop_kept (h : s.Inv) {kernel} : Kept (execStop kernel s) :=
  ite_either (kept_next h) (ite_either (kept_next (h.frame (by rfl))) (kept_next h.stopKernel))

theorem execSwitchOutRequest_kept (h : s.Inv) {tile} : Kept (execSwitchOutRequest tile s) := unit_kept (ite_either (h.setTile ..) h)

theorem execSwitchOutDrainEnd_kept (h : s.Inv) {tile} : Kept (execSwitchOutDrainEnd tile s) := by
  unfold execSwitchOutDrainEnd
  refine unit_kept ?_
  dsimp only
  split
  · exact h
  · refine ite_either h ?_
    split
    next e => exact h.gateTile.of_pair e
    next e => exact (((h.gateTile.of_pair e).foldl _ (fun _ _ ht => ht.dropWatch) _).storeAll ..).setTile ..

theorem execTileSaved_kept (h : s.Inv) {tile} : Kept (execTileSaved tile s) := by
  unfold execTileSaved
  refine unit_kept ?_
  dsimp only
  split
  · exact h
  · exact ite_either h ((h.occupy.setKernel ..).setTile ..)

theorem State.Inv.eligible (h : s.Inv) {kid} : (s.eligible kid).Inv := (h.setKernel ..).setPlacing
theorem State.Inv.loseOut (h : s.Inv) : s.loseOut.Inv := h.foldl _ (fun _ _ ht => ht.loseCtx.flush) _

theorem execKernelSwitchedOut_kept (h : s.Inv) {kernel} : Kept (execKernelSwitchedOut kernel s) := by
  unfold execKernelSwitchedOut
  refine ite_either (kept_next h) ?_
  extract_lets _ _
  split
  next e => exact kept_next ((h.gateAll ..).of_pair e)
  next e =>
    extract_lets s1 _ s2 _ s3
    have h1 : s1.Inv := ((h.gateAll ..).of_pair e).storeAll ..
    have h2 : s2.Inv := h1.setKernel ..
    have h3 : s3.Inv := h2.setPlacing
    exact ite_either (kept_next (h2.setKernel ..).setPlacing.loseOut) (kept_next (ite_either h3 h3.eligible).loseOut)

theorem State.Inv.rewatchOne (h : s.Inv) {a} : (s.rewatchOne a).Inv := by
  unfold State.rewatchOne
  refine ite_either h ?_
  split
  next e => exact (((h.translate ..).of_pair e).setClause ..).pageFault
  next e => exact ((h.translate ..).of_pair e).clauseFault ..
  next e => exact ((h.translate ..).of_pair e).setClause ..
  next e => exact ((h.translate ..).of_pair e).clauseFault ..
  next e =>
    extract_lets _ _ s1
    have h1 : s1.Inv := ((h.translate ..).of_pair e).setClause ..
    exact ite_either h1 (h1.frame (by rfl)).reread

theorem State.Inv.rewatch (h : s.Inv) {tile} : (s.rewatch tile).Inv := h.foldl _ (fun _ _ ht => ht.rewatchOne) _
theorem State.Inv.noRestore (h : s.Inv) {kernel} : (s.noRestore kernel).Inv := h.endKernel.finish.loseCtx.flush

theorem State.Inv.notCount (h : s.Inv) {qn id ps} : (s.notCount qn id ps).Inv := by
  unfold State.notCount
  dsimp only
  split
  · exact h.setQueue ..
  · exact h

theorem execKernelResume_kept (h : s.Inv) {kernel} : Kept (execKernelResume kernel s) := by
  unfold execKernelResume
  refine ite_either (kept_next h) ?_
  extract_lets _ _ _ _
  split
  next e => exact kept_next ((h.gateAll ..).of_pair e)
  next e =>
    have ht := (h.gateAll ..).of_pair e
    split
    extract_lets _ _ s1 _ s2 s3 s4 s5 s6
    have h1 : s1.Inv := ht.foldl _ (fun _ _ hu => (hu.frame (by rfl)).setTile ..) _
    have h3 : s3.Inv := (h1.setKernel ..).setCtx ..
    have h5 : s5.Inv := (ite_either h3.notCount h3).setPart ..
    have h6 : s6.Inv := ite_either h5 h5.setPlacing
    exact ite_either (kept_next ht.noRestore) (kept_next (h6.foldl _ (fun _ _ hu => hu.rewatch) _))

theorem execPreemptQuantumExpire_kept (h : s.Inv) {p} : Kept (execPreemptQuantumExpire p s) := by
  unfold execPreemptQuantumExpire
  refine unit_kept (ite_either h ?_)
  split
  · split
    · exact h
    · exact h.reach ..
  · exact ((h.reach ..).setPart ..).switchOut

theorem execLocalLoadReturn_kept (h : s.Inv) {a load bad} : Kept (execLocalLoadReturn a load bad s) := by
  unfold execLocalLoadReturn
  refine unit_kept ?_
  dsimp only
  split
  · exact (h.setClause ..).deliver
  · exact h

theorem execTranslationWalkDone_kept (h : s.Inv) {a} : Kept (execTranslationWalkDone a s) :=
  unit_kept (ite_either h.rewatchOne (h.setClause ..))

theorem State.Inv.hostWritten (h : s.Inv) {r} : (s.hostWritten r).Inv := by
  unfold State.hostWritten
  split
  · exact ite_either (h.setClause ..) h
  · exact h

theorem State.Inv.hostDone (h : s.Inv) {r poisoned} : (s.hostDone r poisoned).Inv := by
  unfold State.hostDone
  extract_lets s1 _ _ s2 s3 _ _ s4
  have h1 : s1.Inv := ite_either h h.charge
  have h2 : s2.Inv := ite_either (h1.foldl _ (fun _ _ ht => ht.hostSpoilt) _) h1
  have h3 : s3.Inv := h2.foldl _ (fun _ _ ht => (ht.dlog ..).hostCured) _
  have h4 : s4.Inv := (h3.setHostMem (memWf_foldl (fun _ _ hm => memWf_putLe _ _ _ hm) h3.host)).frame rfl
  split
  · exact (h2.frame (by rfl)).deliver
  · exact ite_either (h2.frame (by rfl)).hostWritten (ite_either (h4.setClause ..) h4).deliver
  · refine ite_either (h2.frame (by rfl)).deliver ?_
    split
    next e => exact ((h3.setHostMem (memWf_of_pair (memWf_atomRun h3.host) e)).frame (by rfl)).deliver
  · exact h2.frame rfl

theorem execHostLinkCompletion_kept (h : s.Inv) {req poisoned} : Kept (execHostLinkCompletion req poisoned s) := by
  unfold execHostLinkCompletion
  split
  · exact ite_either (kept_next h) (kept_next h.hostDone)
  · exact kept_next h

/-! ### The Tier Manager -/

theorem State.Inv.rehouse (h : s.Inv) {page f} : (s.rehouse page f).Inv := h.wantMove

theorem State.Inv.vacate (h : s.Inv) {f} : (s.vacate f).Inv := by
  unfold State.vacate
  split
  · exact ite_either h.rehouse h
  · exact ite_either h (ite_either h.markRetired h.freeFrame)

theorem State.Inv.needMove (h : s.Inv) {page} : (s.needMove page).Inv := by
  unfold State.needMove
  extract_lets _ s1
  have h1 : s1.Inv := h.frame rfl
  exact ite_either h1 (ite_either h1.rehouse (ite_either h1.wantMove h1))

theorem State.Inv.releasePage (h : s.Inv) {page} : (s.releasePage page).Inv :=
  ite_either h (ite_either h.setPage (h.frame (by rfl)).setPage.vacate)

theorem State.Inv.tierDo (h : s.Inv) {op} : (s.tierDo op).1.Inv :=
  .ite_fst (.ite_fst h (.ite_fst h (h.foldl _ (fun _ _ ht => ite_either ht.releasePage ht.setPin) _)))
    (.ite_fst (.ite_fst h (.ite_fst h h.drain)) h)

theorem State.Inv.tierEnd (h : s.Inv) {status} : (s.tierEnd status).Inv := (h.setFld ..).setFld ..

theorem State.Inv.tierCmd (h : s.Inv) {op} : (s.tierCmd op).Inv := by
  unfold State.tierCmd
  extract_lets _ s1
  have h1 : s1.Inv := h.setFld ..
  refine ite_either h1 ?_
  split
  next e =>
    have ht := h1.tierDo.of_pair e
    exact ite_either ht.tierEnd ((ht.frame (by rfl)).setFld ..)

theorem execPageMoveStart_kept (h : s.Inv) {page} : Kept (execPageMoveStart page s) := by
  unfold execPageMoveStart
  refine unit_kept (ite_either h ?_)
  split
  · refine ite_either h ?_
    split
    · exact (h.takeFrame.frame (by rfl)).bump ..
    · exact h
  · split
    · exact h
    · extract_lets _ _ _ _ _ s1
      have h1 : s1.Inv := h.frame rfl
      exact ite_either h (ite_either (h.frame (by rfl)) (ite_either h ((ite_either h1.takeFrame h1).bump ..)))

theorem State.Inv.poisonMem (h : s.Inv) {sector} : (s.poisonMem sector).Inv := ite_either (ite_either h (h.frame (by rfl))) h.poisonSector

theorem execPageMoveDone_kept (h : s.Inv) {page badSectors} : Kept (execPageMoveDone page badSectors s) := by
  unfold execPageMoveDone
  refine unit_kept ?_
  split
  · exact h
  · extract_lets _ _ s1 _ _ s2 s3 s4 s5 s6 s7
    have h1 : s1.Inv := h.foldl _ (fun _ _ ht => ht.poisonMem) _
    have h2 : s2.Inv := (h1.bump ..).bump ..
    have h3 : s3.Inv := h2.frame rfl
    have h5 : s5.Inv := h3.setPage.vacate
    have h6 : s6.Inv := by
      unfold s6
      split
      · exact h5.releasePage
      · exact h5.setPin
      · exact h5
    have h7 : s7.Inv := h6.needMove
    exact ite_either h (ite_either (h7.frame (by rfl)).tierEnd (h7.frame (by rfl)))

theorem execMapRebuildDone_kept (h : s.Inv) {channel} : Kept (execMapRebuildDone channel s) := by
  unfold execMapRebuildDone
  extract_lets _ s1
  have h1 : s1.Inv := h.frame rfl
  exact unit_kept (ite_either h ((h1.takeHalf.getD (h1.raiseVec ..)).frame (by rfl)))

theorem State.Inv.heatUpdate (h : s.Inv) : s.heatUpdate.Inv := h.frame rfl
theorem State.Inv.movePlan (h : s.Inv) : s.movePlan.Inv := ite_either (h.frame (by rfl)) (((h.frame (by rfl)).bump ..).bump ..)
theorem State.Inv.sensorEvent (h : s.Inv) {unit} : (s.sensorEvent unit).Inv := h.ras ..
theorem State.Inv.setRefr (h : s.Inv) {fast u r} : (s.setRefr fast u r).Inv := h.foldl _ (fun _ _ ht => ite_either ht ht.setChan) _

theorem State.Inv.takeTemp (h : s.Inv) {stack t} : (s.takeTemp stack t).Inv := by
  unfold State.takeTemp
  split
  · extract_lets s1
    have h1 : s1.Inv := (h.frame (by rfl)).setRefr
    exact ite_either h1.sensorEvent h1

theorem State.Inv.setCapTemp (h : s.Inv) {device x} : (s.setCapTemp device x).Inv := (h.frame (by rfl)).setRefr
theorem execStackTempSample_kept (h : s.Inv) {stack temp} : Kept (execStackTempSample stack temp s) := unit_kept h.takeTemp

theorem execTempReadingTimeout_kept (h : s.Inv) {fast u} : Kept (execTempReadingTimeout fast u s) := by
  unfold execTempReadingTimeout
  extract_lets _ s1
  have h1 : s1.Inv := h.setCapTemp
  exact unit_kept (ite_either h.takeTemp (ite_either h1 h1.sensorEvent))

theorem execCapTempReport_kept (h : s.Inv) {device refr temp} : Kept (execCapTempReport device refr temp s) := by
  unfold execCapTempReport
  extract_lets _ _ _ s1
  have h1 : s1.Inv := h.setCapTemp
  exact unit_kept (ite_either (ite_either h1 h1.sensorEvent) (ite_either h.setCapTemp h.setCapTemp))

theorem State.Inv.setScrub (h : s.Inv) {fast x} : (s.setScrub fast x).Inv := ite_either (h.frame (by rfl)) (h.frame (by rfl))

theorem State.Inv.scrubQuery (h : s.Inv) {line i} : (s.scrubQuery line i).1.Inv := by
  unfold State.scrubQuery
  extract_lets _
  split
  · extract_lets s1 s2
    have h1 : s1.Inv := (h.frame (by rfl)).meet
    have h2 : s2.Inv := by
      unfold s2
      split
      · exact h1.setFrame
      · exact h1
    exact .ite_fst (h2.chanBytes.bump ..) h.poisonSector
  · exact h.poisonSector

theorem State.Inv.scrubErr (h : s.Inv) {f e} : (s.scrubErr f e).Inv := by
  unfold State.scrubErr
  refine ite_either h (ite_either h.rasCount.classify ?_)
  split
  · exact h.classify
  · split
    next e => exact (h.scrubQuery.of_pair e).classify

theorem execScrubRead_kept (h : s.Inv) {fast frame errs} : Kept (execScrubRead fast frame errs s) :=
  unit_kept (ite_either h ((h.reach ..).setScrub.foldl _ (fun _ _ ht => ht.scrubErr) _))

theorem execScrubPassEnd_kept (h : s.Inv) {fast} : Kept (execScrubPassEnd fast s) :=
  ite_either (kept_next h) (kept_next ((h.reach ..).frame (by rfl)).setScrub)

theorem execColumnRepairDone_kept (h : s.Inv) {channel} : Kept (execColumnRepairDone channel s) := by
  unfold execColumnRepairDone
  refine unit_kept ?_
  split
  · exact h.frame rfl
  · exact h

theorem execChannelNoAnswer_kept (h : s.Inv) {fast channel} : Kept (execChannelNoAnswer fast channel s) :=
  unit_kept (h.drain.frame (by rfl))

theorem execChannelMappedOut_kept (h : s.Inv) {fast channel} : Kept (execChannelMappedOut fast channel s) :=
  unit_kept (ite_either (h.setChan.ras ..) h)

end Sys2Proof.Machine
end

section
/-! SUPPORT. What the Parser, the engines and the fabric do keeps the state's invariant. -/

namespace Sys2Proof.Machine

variable {s t : State}

/-! ### Queues, doorbells, and the descriptor at the front -/

theorem viaFn_kept (h : s.Inv) {f : State → State} (hf : ∀ u, u.Inv → (f u).Inv) {fn} : Kept (viaFn fn s f) :=
  unit_kept (ite_either h (ite_either (hf _ h) h.rejectInput))

theorem State.Inv.cmdDone (h : s.Inv) {f op st} : (s.cmdDone f op st).Inv := ((h.setFld ..).setFld ..).setFld ..

theorem queOp_kept (h : s.Inv) {f : Nat → Nat → State → State × Nat} (hf : ∀ x y u, u.Inv → (f x y u).1.Inv) {op fn queue} : Kept
  (queOp op fn queue s f) := by
  unfold queOp
  refine viaFn_kept h (fun _ ht => ?_)
  extract_lets s1
  have h1 : s1.Inv := ht.setFld ..
  split
  · exact h1.cmdDone
  · refine ite_either h1.cmdDone (ite_either h1.cmdDone ?_)
    split
    next e => exact ((hf _ _ _ h1).of_pair e).cmdDone

theorem execQueCreate_kept (h : s.Inv) {fn queue} : Kept (execQueCreate fn queue s) :=
  queOp_kept h (fun _ _ _ ht => .ite_fst ht (.ite_fst ht (.ite_fst ht (ht.setQueue ..))))

theorem execQueStart_kept (h : s.Inv) {fn queue} : Kept (execQueStart fn queue s) :=
  queOp_kept h (fun _ _ _ ht => .ite_fst (ht.setQueue ..) ht)

theorem execQueStop_kept (h : s.Inv) {fn queue} : Kept (execQueStop fn queue s) :=
  queOp_kept h (fun _ _ _ ht => .ite_fst (ht.setQueue ..) ht)

theorem execQueDestroy_kept (h : s.Inv) {fn queue} : Kept (execQueDestroy fn queue s) :=
  queOp_kept h (fun _ _ _ ht => .ite_fst ht (.ite_fst ht (ht.setQueue ..)))

theorem State.Inv.endFront (h : s.Inv) {qn d status event} : (s.endFront qn d status event).Inv := by
  unfold State.endFront
  extract_lets _ _ _ _ _ _ s1
  have h1 : s1.Inv := (h.setQueue ..).addRec
  exact ite_either h1 h1.jobLaunched.jobDone

theorem State.Inv.endCall (h : s.Inv) {qn} : (s.endCall qn).Inv := by
  unfold State.endCall
  dsimp only
  split
  · exact h
  · split
    · exact h.setQueue ..
    · exact (h.setQueue ..).addRec

theorem State.Inv.tidyStep (h : s.Inv) {qn} : OptInv (s.tidyStep qn) := by
  unfold State.tidyStep
  refine ite_either opt_none ?_
  split
  · dsimp only
    split
    · exact ite_either (opt_some (h.setQueue ..)) (ite_either (opt_some (h.setQueue ..))
        (ite_either opt_none (ite_either (opt_some h.endFront) (ite_either (opt_some h.endFront) opt_none))))
    · exact ite_either opt_none (ite_either opt_none (opt_some h.endCall))
  · split
    · exact ite_either (opt_some (h.setQueue ..)) (ite_either opt_none (ite_either (opt_some (h.setQueue ..))
        (ite_either (opt_some h.endFront) (ite_either (opt_some h.endFront) (ite_either (opt_some h.endFront) opt_none)))))
    · exact opt_none

theorem State.Inv.abortSettle (h : s.Inv) {qn} : (s.abortSettle qn).Inv := by
  unfold State.abortSettle
  refine ite_either h ?_
  split
  · exact ite_either (h.setQueue ..) h
  · exact h
  · exact ite_either h (h.setQueue ..)

theorem State.Inv.tidy (h : s.Inv) {qn n} : (s.tidy qn n).Inv := by
  induction n generalizing s with
  | zero => exact h
  | succ n ih =>
    unfold State.tidy
    split
    next e => exact ih (h.tidyStep.of_some e).flush.abortSettle
    · exact h

theorem State.Inv.settleFront (h : s.Inv) {qn} : (s.settleFront qn).Inv := h.tidy.abortSettle

theorem State.Inv.unreadable (h : s.Inv) {qn count cause status va} : (s.unreadable qn count cause status va).Inv := by
  unfold State.unreadable
  extract_lets _ _ _ s1
  have h1 : s1.Inv := (h.setQueue ..).addRec
  exact ite_either h1 h1.loseCtx

theorem State.Inv.readAhead (h : s.Inv) {qn n} : (s.readAhead qn n).Inv := by
  induction n generalizing s with
  | zero => exact h
  | succ n ih =>
    unfold State.readAhead
    extract_lets _
    split
    · exact h
    · extract_lets skipIt
      have hk {u : State} (hu : u.Inv) : (skipIt u).Inv := ite_either hu (hu.setQueue ..)
      refine ite_either (ite_either (hk h.unreadable) h) ?_
      split
      next e => exact (h.places ..).of_pair e
      next e =>
        have ht := (h.places ..).of_pair e
        split
        next e => exact (ht.gateAll ..).of_pair e
        next e =>
          have hu := (ht.gateAll ..).of_pair e
          split
          exact ite_either (ite_either (hk hu.unreadable) hu) (ih (hu.setQueue ..))
      next e => exact ((h.places ..).of_pair e).pageNeed ..
      next e =>
        have ht := (h.places ..).of_pair e
        exact ite_either (hk ht.unreadable) ht
      next e =>
        have ht := (h.places ..).of_pair e
        exact ite_either (hk ht.unreadable) ht

theorem execDescriptorFetch_kept (h : s.Inv) {qn} : Kept (execDescriptorFetch qn s) := by
  unfold execDescriptorFetch
  extract_lets s1 _ _ s2
  have h1 : s1.Inv := h.settleFront
  have h2 : s2.Inv := h1.readAhead
  exact unit_kept (ite_either h1 (ite_either h2.writeHead h2).flush.settleFront.flush)

theorem State.Inv.served (h : s.Inv) {qn} : (s.served qn).Inv := h.setPart ..

theorem onFront_kept (h : s.Inv) {f : Desc → State → State} (hf : ∀ x u, u.Inv → (f x u).Inv) {op is ok qn} : Kept
    (onFront op is ok qn s f) := by
  unfold onFront
  extract_lets s1
  have h1 : s1.Inv := h.settleFront
  refine unit_kept ?_
  split
  · exact h1
  · refine ite_either h1 (ite_either h1 (ite_either h1 (ite_either h1 (State.Inv.flush (State.Inv.settleFront (State.Inv.flush ?_))))))
    refine State.Inv.served ?_
    split
    · exact h1.endFront
    · exact hf _ _ h1

theorem State.Inv.dispatch (h : s.Inv) {qn d work blocking f} : (s.dispatch qn d work blocking f).Inv :=
  ((h.frame (by rfl)).setQueue ..).jobLaunched

theorem State.Inv.ctrlRead (h : s.Inv) {qn d va n} : (Sum.elim id Prod.fst ((s.ctrlRead qn d va n))).Inv := by
  unfold State.ctrlRead
  refine .ite_elim h.endFront.loseCtx ?_
  split
  next e => exact (h.places ..).of_pair e
  next e =>
    have ht := (h.places ..).of_pair e
    split
    next e => exact (ht.gateAll ..).of_pair e
    next e =>
      have hu := (ht.gateAll ..).of_pair e
      split
      · exact .ite_elim hu.endFront.loseCtx hu
  next e => exact ((((h.places ..).of_pair e).pageNeed ..).frame (by rfl)).setQueue ..
  next e => exact ((h.places ..).of_pair e).endFront.loseCtx
  next e => exact ((h.places ..).of_pair e).endFront.loseCtx

theorem doorbell_kept (h : s.Inv) {f : Nat → Queue → State → State} (hf : ∀ x y u, u.Inv → (f x y u).Inv) {fn page} : Kept
  (doorbell fn page s f) := by
  unfold doorbell
  refine viaFn_kept h (fun _ ht => ?_)
  split
  · exact ht
  · exact ite_either ht (hf _ _ _ ht)

theorem execSqTail_kept (h : s.Inv) {fn page value} : Kept (execSqTail fn page value s) :=
  doorbell_kept h (fun _ _ _ ht => ite_either (ht.setQueue ..) (ht.setQueue ..))

theorem execCqHead_kept (h : s.Inv) {fn page value} : Kept (execCqHead fn page value s) :=
  doorbell_kept h (fun _ _ _ ht => ite_either (ht.setQueue ..).flush (ht.setQueue ..))

theorem State.Inv.findInRing (h : s.Inv) {qn seq xs} : (s.findInRing qn seq xs).1.Inv := by
  induction xs generalizing s with
  | nil => exact h
  | cons x xs ih =>
    unfold State.findInRing
    dsimp only
    split
    next e => exact (h.places ..).of_pair e
    next e => exact ih ((h.places ..).of_pair e)
    next e =>
      have ht := (h.places ..).of_pair e
      split
      next e => exact (ht.gateAll ..).of_pair e
      next e =>
        have hu := (ht.gateAll ..).of_pair e
        split
        · exact hu
        · exact ih hu

theorem State.Inv.expire (h : s.Inv) {qn id} : (s.expire qn id).Inv := by
  unfold State.expire
  dsimp only
  split
  · exact h.cut.loseCtx
  · exact h.endFront.loseCtx
  · exact h

theorem State.Inv.abortCmd (h : s.Inv) {qn c} : (s.abortCmd qn c).Inv := ite_either h.expire h.cut

theorem execAbort_kept (h : s.Inv) {fn page seq} : Kept (execAbort fn page seq s) := by
  unfold execAbort
  refine doorbell_kept h (fun _ _ _ ht => ite_either ht ?_)
  dsimp only
  split
  · exact (ht.setQueue ..).abortCmd.flush.settleFront.flush
  · split
    · exact (ht.setQueue ..).settleFront.flush
    · refine ite_either ht ?_
      split
      next e => exact ht.findInRing.of_pair e
      next e => exact (ht.findInRing.of_pair e).setQueue ..
      next e => exact (ht.findInRing.of_pair e).setQueue ..

theorem execAbortAll_kept (h : s.Inv) {fn page} : Kept (execAbortAll fn page s) :=
  doorbell_kept h (fun _ _ _ ht => ite_either ht ((ht.setQueue ..).foldl _ (fun _ _ hu => hu.abortCmd)
    _).flush.abortSettle.settleFront.flush)

/-! ### The mover, SIGNAL and TIMESTAMP -/

theorem State.Inv.tryPlaces (h : s.Inv) {who ctx acc va n} : (s.tryPlaces who ctx acc va n).1.Inv := by
  unfold State.tryPlaces
  split
  next e => exact (h.placePages ..).of_pair e
  next e => exact (h.placePages ..).of_pair e
  next e => exact (h.placePages ..).of_pair e
  next e => exact (h.placePages ..).of_pair e
  next e => exact (h.placePages ..).of_pair e

theorem State.Inv.tryRead (h : s.Inv) {w ctx va n} : (s.tryRead w ctx va n).1.Inv := by
  unfold State.tryRead
  split
  next e => exact h.tryPlaces.of_pair e
  next e =>
    have ht := h.tryPlaces.of_pair e
    split
    next e => exact (ht.gateAll ..).of_pair e
    next e => exact (ht.gateAll ..).of_pair e

theorem State.Inv.markAll (h : s.Inv) {ls m} : (s.markAll ls m).Inv := by
  induction ls generalizing s m with
  | nil => exact h
  | cons l ls ih => exact ih (ite_either h (h.foldl _ (fun _ _ ht => ite_either ht.poisonSector ht) _))

theorem State.Inv.putMarked (h : s.Inv) {w ls m} : (s.putMarked w ls m).Inv := (h.storeAll ..).markAll

theorem State.Inv.gather (h : s.Inv) {w ctx src tab es a b xs} : (s.gather w ctx src tab es a b xs).1.Inv := by
  induction xs generalizing s with
  | nil => exact h
  | cons x xs ih =>
    unfold State.gather
    split
    next e => exact h.tryRead.of_pair e
    next e =>
      have ht := h.tryRead.of_pair e
      extract_lets _ _ part
      have hp : part.1.Inv := .ite_fst ht.draw ht.tryRead
      clear_value part
      split
      · exact hp
      · split
        next e => exact (ih hp).of_pair e
        next => exact ih hp

theorem State.Inv.moveSrc (h : s.Inv) {w ctx c a n} : (s.moveSrc w ctx c a n).1.Inv := by
  unfold State.moveSrc
  split
  · split
    next e =>
      have ht := h.tryRead.of_pair e
      exact .ite_fst ht.draw ht
    next => exact h.tryRead
  · exact h
  · exact h.gather

theorem State.Inv.reduceAt (h : s.Inv) {w f ms ls} : (s.reduceAt w f ms ls).1.Inv := by
  induction ms generalizing s ls with
  | nil => exact h
  | cons m ms ih =>
    unfold State.reduceAt
    extract_lets _ _ next s1
    have h1 : s1.Inv := h.homeReads
    have hn {u bad} (hu : u.Inv) : (next u bad).1.Inv := ih hu
    refine .ite_fst (hn h1.markAll) ?_
    split
    · exact hn h1
    · have h2 := h1.storeAll (w := w) (ls := headPlaces (accWidth f) ls)
      exact hn (ite_either ((h2 ..).bump ..) (h2 ..))

theorem State.Inv.moveSeg (h : s.Inv) {qn c k} : (s.moveSeg qn c k).1.Inv := by
  unfold State.moveSeg
  extract_lets
  refine .ite_fst ?_ ?_
  · split
    next e => exact h.tryRead.of_pair e
    next e =>
      have ht := h.tryRead.of_pair e
      split
      next e => exact ht.tryPlaces.of_pair e
      next e =>
        have hu := ht.tryPlaces.of_pair e
        refine .ite_fst hu ?_
        split
        next e => exact (hu.gateAll ..).of_pair e
        next e =>
          have hv := (hu.gateAll ..).of_pair e
          exact .ite_fst hv.reduceAt hv.reduceAt
  · split
    next e => exact h.moveSrc.of_pair e
    next e =>
      have ht := h.moveSrc.of_pair e
      split
      next e => exact ht.tryPlaces.of_pair e
      next e =>
        have hu := ht.tryPlaces.of_pair e
        split
        next e => exact (hu.gateAll ..).of_pair e
        next e => exact ((hu.gateAll ..).of_pair e).putMarked

theorem State.Inv.setSeg (h : s.Inv) {qn id k st} : (s.setSeg qn id k st).Inv := by
  unfold State.setSeg
  dsimp only
  split
  · exact h.setQueue ..
  · exact h

theorem State.Inv.cmdPage (h : s.Inv) {qn id va write} : (s.cmdPage qn id va write).Inv := h.pageNeed ..

theorem State.Inv.runSeg (h : s.Inv) {qn id k} : (s.runSeg qn id k).Inv := by
  unfold State.runSeg
  dsimp only
  split
  · exact h
  · refine ite_either h ?_
    split
    next e => exact (h.moveSeg.of_pair e).setSeg
    next e => exact (h.moveSeg.of_pair e).setSeg
    next e => exact h.moveSeg.of_pair e
    next e => exact h.moveSeg.of_pair e
    next e => exact (h.moveSeg.of_pair e).cmdPage.setSeg

theorem State.Inv.runCmd (h : s.Inv) {qn id} : (s.runCmd qn id).Inv := by
  unfold State.runCmd
  split
  · exact ite_either (h.foldl _ (fun _ _ ht => ht.runSeg) _) h
  · exact h

theorem State.Inv.wordOnce (h : s.Inv) {qn va add f} : (s.wordOnce qn va add f).1.Inv := by
  unfold State.wordOnce
  extract_lets
  split
  next e => exact h.tryPlaces.of_pair e
  next e =>
    have ht := h.tryPlaces.of_pair e
    refine .ite_fst ht ?_
    split
    next e => exact (ht.gateAll ..).of_pair e
    next e =>
      have hu := (ht.gateAll ..).of_pair e
      exact .ite_fst hu (hu.storeAll ..)

theorem State.Inv.tierOnce (h : s.Inv) {qn q c} : (s.tierOnce qn q c).1.Inv := by
  unfold State.tierOnce
  extract_lets _
  split
  next e => exact h.tryPlaces.of_pair e
  next e =>
    have ht := h.tryPlaces.of_pair e
    extract_lets _ s1
    have h1 : s1.Inv := ht.foldl _ (fun _ _ hu => hu.setPin) _
    exact .ite_fst ht (.ite_fst ht (.ite_fst h1 h1))

theorem State.Inv.runOnce (h : s.Inv) {qn id} : (s.runOnce qn id).Inv := by
  unfold State.runOnce
  extract_lets _ work
  split
  · exact h
  · extract_lets _ r
    have hw {u : State} {w} (hu : u.Inv) : (work u w).Inv := by
      unfold work
      split
      · exact hu.setQueue ..
      · exact hu
    have hr : r.1.Inv := by
      unfold r
      split
      · exact h.wordOnce
      · exact h.wordOnce
      · exact h.tierOnce
    clear_value r
    refine ite_either h ?_
    split
    · exact hr.finish
    · exact hw hr
    · exact hw hr
    · exact hw hr.cmdPage
    · exact hr.finish.loseCtx

theorem State.Inv.dispatchOnce (h : s.Inv) {qn d} : (s.dispatchOnce qn d).Inv := h.dispatch.runOnce
theorem State.Inv.dispatchMove (h : s.Inv) {qn d total} : (s.dispatchMove qn d total).Inv := h.dispatch.runCmd

/-! ### LAUNCH, WAIT, control commands and watches -/

theorem State.Inv.pagesHost (h : s.Inv) {w ctx xs} : (s.pagesHost w ctx xs).1.Inv := by
  induction xs generalizing s with
  | nil => exact h
  | cons x xs ih =>
    unfold State.pagesHost
    split
    next e => exact (h.translate ..).of_pair e
    next e => exact ih ((h.translate ..).of_pair e)
    next e =>
      have hu := (h.translate ..).of_pair e
      exact .ite_fst hu (ih hu)

theorem State.Inv.enlist (h : s.Inv) {p k invoke} : (s.enlist p k invoke).Inv := ite_either h.setPlacing h.setPlacing

theorem State.Inv.startKernel (h : s.Inv) {qn id f} : (s.startKernel qn id f).Inv := by
  unfold State.startKernel
  dsimp only
  split
  · exact h
  · exact (((h.frame (by rfl)).setKernel ..).setQueue ..).enlist

theorem State.Inv.launch (h : s.Inv) {qn d regs} : (s.launch qn d regs).Inv := ite_either h.endFront h.dispatch.startKernel

theorem execLaunch_kept (h : s.Inv) {queue} : Kept (execLaunch queue s) := by
  unfold execLaunch
  refine onFront_kept h (fun _ _ ht => ite_either ht.endFront (ite_either ht.launch ?_))
  split
  next e => exact ht.ctrlRead.of_inl e
  next e =>
    have hu := ht.ctrlRead.of_inr e
    split
    · exact hu.endFront
    · split
      next e => exact hu.pagesHost.of_pair e
      next e => exact (hu.pagesHost.of_pair e).endFront
      next e => exact (hu.pagesHost.of_pair e).launch

theorem State.Inv.endWait (h : s.Inv) {qn c status} : (s.endWait qn c status).Inv := h.squash.finish
theorem State.Inv.waitFail (h : s.Inv) {qn c cause status va} : (s.waitFail qn c cause status va).Inv := h.endWait.loseCtx

theorem State.Inv.waitTest (h : s.Inv) {qn id} : (s.waitTest qn id).Inv := by
  unfold State.waitTest
  split
  · split
    · dsimp only
      split
      next e => exact (h.gateAll ..).of_pair e
      next e =>
        have ht := (h.gateAll ..).of_pair e
        exact ite_either ht.waitFail (ite_either ht.endWait ht)
    · exact h
  · exact h

theorem State.Inv.waitLocate (h : s.Inv) {qn id} : (s.waitLocate qn id).Inv := by
  unfold State.waitLocate
  dsimp only
  split
  · exact h
  · split
    next e => exact (h.places ..).of_pair e
    next e => exact ((h.places ..).of_pair e).cmdPage.setQueue ..
    next e => exact ((h.places ..).of_pair e).waitFail
    next e => exact ((h.places ..).of_pair e).waitFail
    next e =>
      have ht := (h.places ..).of_pair e
      exact (ite_either (ht.setQueue ..) (ht.frame (by rfl))).waitTest

theorem execCmdWait_kept (h : s.Inv) {queue} : Kept (execCmdWait queue s) :=
  onFront_kept h (fun _ _ ht => ite_either ht.endFront ht.dispatch.waitLocate)

theorem execParserHostPoll_kept (h : s.Inv) {queue} : Kept (execParserHostPoll queue s) := by
  unfold execParserHostPoll
  refine unit_kept (ite_either h ?_)
  split
  · exact h.waitTest.flush.settleFront.flush
  · exact h

theorem execWatchNotify_kept (h : s.Inv) {msg} : Kept (execWatchNotify msg s) := by
  unfold execWatchNotify
  refine ite_either (kept_next h) (takeRsp_kept h (fun _ _ ht => ?_))
  split
  · exact ht.waitTest.flush.settleFront.flush
  · extract_lets _ _ s1
    have h1 : s1.Inv := ht.setTile ..
    exact ite_either (ite_either (h1.setClause ..) h1.reread) ht
  · exact ht

theorem execCond_kept (h : s.Inv) {queue} : Kept (execCond queue s) := by
  unfold execCond
  refine onFront_kept h (fun _ _ ht => ?_)
  split
  next e => exact ht.ctrlRead.of_inl e
  next e =>
    have hu := ht.ctrlRead.of_inr e
    exact ite_either (hu.setQueue ..) (hu.setQueue ..)

theorem execCmdCall_kept (h : s.Inv) {queue} : Kept (execCmdCall queue s) :=
  onFront_kept h (fun _ _ ht => ite_either ht.endFront (ht.setQueue ..))

theorem execReturnOp_kept (h : s.Inv) {queue} : Kept (execReturnOp queue s) := by
  unfold execReturnOp
  refine onFront_kept h (fun _ _ ht => ?_)
  dsimp only
  split
  · exact ht.endFront
  · exact ite_either (ht.setQueue ..) ht.endFront

theorem execLoopOp_kept (h : s.Inv) {queue} : Kept (execLoopOp queue s) := by
  unfold execLoopOp
  refine onFront_kept h (fun _ _ ht => ?_)
  dsimp only
  split
  · exact ht.endFront
  · exact ite_either ht.endFront (ht.setQueue ..)

theorem execEndloop_kept (h : s.Inv) {queue} : Kept (execEndloop queue s) := by
  unfold execEndloop
  refine onFront_kept h (fun _ _ ht => ?_)
  dsimp only
  split
  · exact ite_either (ht.setQueue ..) (ht.setQueue ..)
  · exact ht.endFront

theorem execCmdFence_kept (h : s.Inv) {queue} : Kept (execCmdFence queue s) := by
  unfold execCmdFence
  refine onFront_kept h (fun _ _ ht => ?_)
  split
  · exact ht.endFront
  · exact ht.dispatch

theorem execPreemptPoint_kept (h : s.Inv) {queue} : Kept (execPreemptPoint queue s) :=
  onFront_kept h (fun _ _ ht => ite_either ht ht.endFront)

theorem evlogWrite_kept (h : s.Inv) {f : State → State} (hf : ∀ u, u.Inv → (f u).Inv) {fn part} : Kept (evlogWrite fn part s f) :=
  unit_kept (ite_either h (ite_either h.rejectInput (ite_either h ((((hf _ h).setFld ..).setFld ..).setFld ..))))

theorem execEvlogConfigWrite_kept (h : s.Inv) {fn part field value} : Kept (execEvlogConfigWrite fn part field value s) := by
  unfold execEvlogConfigWrite
  refine evlogWrite_kept h (fun _ ht => ?_)
  split
  · exact ht.setWord ..
  · exact ht.setFld ..
  · exact ht.setFld ..

theorem execEvlogHeadWrite_kept (h : s.Inv) {fn part value} : Kept (execEvlogHeadWrite fn part value s) :=
  unit_kept (ite_either h (ite_either h.rejectInput (ite_either h (ite_either (h.setFld ..) h.rejectInput))))

/-! ### The Herbarium -/

theorem State.Inv.herbTry (h : s.Inv) {i n} : (s.herbTry i n).Inv := by
  induction n generalizing s with
  | zero => exact h
  | succ n ih =>
    unfold State.herbTry
    refine ite_either h (ite_either h.setModel ?_)
    split
    · exact ih (h.unload.bump ..)
    · exact h

theorem State.Inv.endPrefetch (h : s.Inv) {i st} : (s.endPrefetch i st).Inv :=
  (h.frame (by rfl)).foldl _ (fun _ _ ht => (ht.setFld ..).setFld ..) _

theorem State.Inv.herbKick (h : s.Inv) : s.herbKick.Inv :=
  (h.foldl _ (fun _ _ ht => ht.endPrefetch) _).foldl _ (fun _ _ ht => ht.herbTry) _

theorem State.Inv.reserveLine (h : s.Inv) {p i line} : (s.reserveLine p i line).Inv := by
  unfold State.reserveLine
  extract_lets way _
  clear_value way
  split
  · extract_lets s1 _ _ s2
    have h1 : s1.Inv := h.foldl _ (fun _ _ ht => ht.evict) _
    have h2 : s2.Inv := ite_either (h1.foldl _ (fun _ _ ht => ht.poisonSector) _) h1
    exact h2.chanBytes.meet.unpair.setFrame.pack
  · exact h.homeRead.bump ..

theorem State.Inv.startInvoke (h : s.Inv) {qn id i} : (s.startInvoke qn id i).Inv := by
  unfold State.startInvoke
  dsimp only
  split
  · exact h
  · exact h.startKernel

theorem State.Inv.herbUse (h : s.Inv) {i} : (s.herbUse i).Inv := (h.frame (by rfl)).setModel

theorem execHerbFillDone_kept (h : s.Inv) {handle} : Kept (execHerbFillDone handle s) := by
  unfold execHerbFillDone
  refine unit_kept (ite_either h ?_)
  split
  · exact h
  · refine ite_either h ?_
    dsimp only
    split
    next e => exact (h.gate ..).of_pair e
    next e => exact (((((h.gate ..).of_pair e).foldl _ (fun _ _ ht => ht.reserveLine) _).foldl _ (fun _ _ ht => ht.homeReads)
      _).setModel.foldl _ (fun _ _ ht => ht.setTile ..) _).herbUse.endPrefetch.foldl _ (fun _ _ ht => ht.startInvoke) _

theorem execInvoke_kept (h : s.Inv) {queue} : Kept (execInvoke queue s) := by
  unfold execInvoke
  refine onFront_kept h (fun _ _ ht => ?_)
  extract_lets _ _ _ s1
  have h1 : s1.Inv := ht.dispatch
  exact ite_either ht.endFront (ite_either ht.endFront (ite_either (h1.bump ..).herbUse.startInvoke (h1.bump ..).herbTry))

theorem State.Inv.herbFields (h : s.Inv) {fn op handle} : (s.herbFields fn op handle).Inv := (h.setFld ..).setFld ..

theorem herbOp_kept (h : s.Inv) {f : State → State × Option Nat} (hf : ∀ u, u.Inv → (f u).1.Inv) {op fn handle} : Kept
  (herbOp op fn handle s f) := by
  unfold herbOp
  refine viaFn_kept h (fun _ ht => ?_)
  extract_lets s1
  have h1 : s1.Inv := ht.setFld ..
  refine ite_either ht.herbFields (ite_either h1.cmdDone ?_)
  split
  next e => exact ((hf _ h1).of_pair e).cmdDone
  next e => exact (hf _ h1).of_pair e

theorem State.Inv.herbCheck (h : s.Inv) {p d} : (s.herbCheck p d).1.Inv := by
  unfold State.herbCheck
  refine .ite_fst h (.ite_fst h (.ite_fst h ?_))
  dsimp only
  split
  next e => exact (h.places ..).of_pair e
  next e =>
    have ht := (h.places ..).of_pair e
    split
    next e => exact (ht.places ..).of_pair e
    next e =>
      have hu := (ht.places ..).of_pair e
      split
      next e => exact (hu.places ..).of_pair e
      next e =>
        have hv := (hu.places ..).of_pair e
        exact .ite_fst hv (.ite_fst hv hv)

theorem execHerbRegister_kept (h : s.Inv) {fn} : Kept (execHerbRegister fn s) := by
  unfold execHerbRegister
  refine herbOp_kept h (fun _ ht => ?_)
  dsimp only
  split
  next e => exact ht.herbCheck.of_pair e
  next e => exact ht.herbCheck.of_pair e
  next e => exact ((ht.herbCheck.of_pair e).foldl _ (fun _ _ hu => hu.setPin) _).setModel

theorem execHerbUnregister_kept (h : s.Inv) {fn handle} : Kept (execHerbUnregister fn handle s) :=
  herbOp_kept h (fun _ ht => .ite_fst ht (.ite_fst ht ht.unregister.endPrefetch))

theorem execHerbPin_kept (h : s.Inv) {fn handle} : Kept (execHerbPin fn handle s) :=
  herbOp_kept h (fun _ ht => .ite_fst ht (.ite_fst ht ht.setModel))

theorem execHerbUnpin_kept (h : s.Inv) {fn handle} : Kept (execHerbUnpin fn handle s) :=
  herbOp_kept h (fun _ ht => .ite_fst ht.setModel.herbKick ht)

theorem execHerbPrefetch_kept (h : s.Inv) {fn handle} : Kept (execHerbPrefetch fn handle s) := by
  unfold execHerbPrefetch
  refine viaFn_kept h (fun _ ht => ?_)
  extract_lets _ s1 s2
  have h1 : s1.Inv := ht.setFld ..
  have h2 : s2.Inv := h1.frame rfl
  exact ite_either ht.herbFields (ite_either h1.cmdDone (ite_either h1.cmdDone
    (ite_either h1.herbUse.cmdDone (((h2.setFld ..).setFld ..).setFld ..).herbTry)))

/-! ### Contexts and the invalidation of translations -/

theorem ctxOp_kept (h : s.Inv) {f : State → State × Nat} (hf : ∀ u, u.Inv → (f u).1.Inv) {op fn ctx} : Kept (ctxOp op fn ctx s f) := by
  unfold ctxOp
  refine viaFn_kept h (fun _ ht => ?_)
  extract_lets s1
  have h1 : s1.Inv := by
    unfold s1
    split
    · exact ht.setFld ..
    · exact ht
  refine ite_either h1.cmdDone ?_
  split
  next e => exact ((hf _ h1).of_pair e).cmdDone

theorem execCtxCreate_kept (h : s.Inv) {fn} : Kept (execCtxCreate fn s) := by
  unfold execCtxCreate
  refine ctxOp_kept h (fun _ ht => .ite_fst ht (.ite_fst ht (.ite_fst ht ?_)))
  split
  · exact ht
  · exact .ite_fst ht (.ite_fst ht (.ite_fst ht (((ht.foldl _ (fun _ _ hu => hu.setPin) _).setCtx ..).setFld ..)))

theorem State.Inv.freeCtx (h : s.Inv) {c} : (s.freeCtx c).Inv :=
  ((((h.foldl _ (fun _ _ ht => ht.unregister.endPrefetch) _).frame (by rfl)).sendPages ..).setCtx ..).foldl _ (fun _ _ ht => ht.setPin) _

theorem execCtxDestroy_kept (h : s.Inv) {fn ctx} : Kept (execCtxDestroy fn ctx s) :=
  ctxOp_kept h (fun _ ht => .ite_fst ht (.ite_fst ht ht.freeCtx))

theorem execCtxQuery_kept (h : s.Inv) {fn ctx} : Kept (execCtxQuery fn ctx s) :=
  ctxOp_kept h (fun _ ht => .ite_fst ht (((((ht.setWord ..).setWord ..).setWord ..).setWord ..).setWord ..))

theorem execCtxKill_kept (h : s.Inv) {fn ctx} : Kept (execCtxKill fn ctx s) := ctxOp_kept h (fun _ ht => .ite_fst ht.loseCtx.flush ht)
theorem State.Inv.dropL1 (h : s.Inv) {is} : (s.dropL1 is).Inv := h.frame rfl

theorem execCtxInv_kept (h : s.Inv) {fn pages ctx} : Kept (execCtxInv fn pages ctx s) := by
  unfold execCtxInv
  refine viaFn_kept h (fun _ ht => ?_)
  extract_lets _ _ s1 s2 s3
  have h1 : s1.Inv := (ht.setFld ..).setFld ..
  have h2 : s2.Inv := h1.dropX.dropL1
  have h3 : s3.Inv := (h2.setFld ..).setFld ..
  exact ite_either h1 (ite_either (h1.setFld ..) (h3.frame (by rfl)))

theorem execCtxInvDone_kept (h : s.Inv) {fn} : Kept (execCtxInvDone fn s) := by
  unfold execCtxInvDone
  refine unit_kept ?_
  split
  · exact ite_either h (((h.frame (by rfl)).setFld ..).setFld ..)
  · exact h

theorem execAtsInvalidate_kept (h : s.Inv) {fn addr pages} : Kept (execAtsInvalidate fn addr pages s) := by
  unfold execAtsInvalidate
  extract_lets _ _ _ s1
  have h1 : s1.Inv := h.frame rfl
  exact unit_kept (ite_either h ((ite_either h1 h1.dropL1).frame (by rfl)))

/-! ### Fabric messages -/

theorem State.Inv.setCohort (h : s.Inv) {p c} : (s.setCohort p c).Inv := h.frame rfl
theorem State.Inv.setPort (h : s.Inv) {p x} : (s.setPort p x).Inv := h.frame rfl
theorem State.Inv.setXfer (h : s.Inv) {x f} : (s.setXfer x f).Inv := h.frame rfl
theorem State.Inv.portBytes (h : s.Inv) {m out} : (s.portBytes m out).Inv := h.charge

theorem State.Inv.sendOn (h : s.Inv) {p m} : (s.sendOn p m).Inv := by
  unfold State.sendOn
  extract_lets _ s1
  have h1 : s1.Inv := h.portBytes
  split
  · exact h.frame rfl
  · exact ite_either (h1.frame (by rfl)) h.setPort

theorem State.Inv.fillPort (h : s.Inv) {p n} : (s.fillPort p n).Inv := by
  induction n generalizing s with
  | zero => exact h
  | succ n ih =>
    unfold State.fillPort
    dsimp only
    split
    · exact h
    · exact ite_either (ih h.setPort.sendOn.setPort) h

theorem State.Inv.post (h : s.Inv) {m} : (s.post m).Inv := by
  unfold State.post
  refine ite_either (ite_either (h.frame (by rfl)) (h.frame (by rfl))) ?_
  split
  · exact h.sendOn
  · exact h.frame rfl

theorem State.Inv.repost (h : s.Inv) : s.repost.Inv := by
  unfold State.repost
  refine (h.frame (by rfl)).foldl _ (fun _ _ ht => ?_) _
  split
  · exact ht.sendOn
  · exact ht.frame rfl

theorem State.Inv.noteSent (h : s.Inv) {m} : (s.noteSent m).Inv := ite_either (h.frame (by rfl)) (h.frame (by rfl))

theorem State.Inv.sendFrom (h : s.Inv) {p m} : (s.sendFrom p m).Inv := by
  unfold State.sendFrom
  extract_lets _ _ _ s1
  have h1 : s1.Inv := h.setCohort
  exact ite_either (ite_either h (ite_either (h.frame (by rfl)) h1.noteSent.post)) h1.noteSent.post

theorem State.Inv.unstall (h : s.Inv) : s.unstall.Inv := (h.frame (by rfl)).foldl _ (fun _ _ ht => ht.sendFrom) _
theorem State.Inv.ackMsg (h : s.Inv) {p m status} : (s.ackMsg p m status).Inv := h.sendFrom
theorem State.Inv.routeLost (h : s.Inv) {m} : (s.routeLost m).Inv := h.post

theorem State.Inv.replayTook (h : s.Inv) {p d i w x} : (s.replayTook p d i w x).Inv := by
  unfold State.replayTook
  split
  · exact h.storeAll ..

theorem State.Inv.staleCount (h : s.Inv) {p} : (s.staleCount p).Inv := h.setFld ..

theorem State.Inv.accept (h : s.Inv) {p m} : (Sum.elim Prod.fst id (s.accept p m)).Inv := by
  unfold State.accept
  refine .ite_elim h (.ite_elim h.rejectInput.ackMsg (.ite_elim h.staleCount ?_))
  split
  · exact h.staleCount.ackMsg
  · refine .ite_elim (.ite_elim h.rejectInput.ackMsg h) (.ite_elim h ?_)
    split
    next e => exact State.Inv.of_pair (by exact .ite_fst h (h.gateAll ..)) e
    next e =>
      have ht := State.Inv.of_pair (by exact .ite_fst h (h.gateAll ..)) e
      dsimp only
      split
      · exact ht.rejectInput.ackMsg
      · refine .ite_elim ht (.ite_elim ht.rasCount ?_)
        split
        · exact h.gateAll ..
        next e => exact (State.Inv.of_pair (by exact .ite_fst ht (ht.gateAll ..)) e).replayTook

theorem State.Inv.arrive (h : s.Inv) {m} : (s.arrive m).Inv :=
  ite_either h.rejectInput (ite_either (ite_either h.rejectInput h.post) (ite_either h.rejectInput h.portBytes.post))

/-! ### Fabric ports and laser sources -/

theorem State.Inv.setEls (h : s.Inv) {i x} : (s.setEls i x).Inv := h.frame rfl
theorem State.Inv.portGo (h : s.Inv) {p st} : (s.portGo p st).Inv := (h.setFld ..).setPort
theorem State.Inv.portTrain (h : s.Inv) {p} : (s.portTrain p).Inv := ite_either (h.portGo.setFld ..) h

theorem State.Inv.passOn (h : s.Inv) {p ms} : (s.passOn p ms).Inv := by
  unfold State.passOn
  dsimp only
  split
  · exact h.setPort.fillPort
  · exact h.foldl _ (fun _ _ ht => ht.routeLost) _

theorem State.Inv.portDark (h : s.Inv) {p} : (s.portDark p).Inv := by
  unfold State.portDark
  extract_lets _ _ _ _ s1
  have h1 : s1.Inv := ((h.setFld ..).setPort.setFld ..).setFld ..
  exact (ite_either (h1.ras ..).passOn h1).setFld ..

theorem State.Inv.portFail (h : s.Inv) {p} : (s.portFail p).Inv := (h.portDark.setFld ..).setPort

theorem onPort_kept (h : s.Inv) {f : State → State} (hf : ∀ u, u.Inv → (f u).Inv) {p} : Kept (onPort p s f) :=
  unit_kept (ite_either (hf _ h) h)

theorem execPortLightOn_kept (h : s.Inv) {port} : Kept (execPortLightOn port s) := onPort_kept h (fun _ ht => ht.setPort.portTrain)

theorem State.Inv.pickLanes (h : s.Inv) {p good} : (s.pickLanes p good).Inv := by
  unfold State.pickLanes
  exact h.draw.setPort.setFld ..

theorem execPortTrainStepDone_kept (h : s.Inv) {port info} : Kept (execPortTrainStepDone port info s) := by
  unfold execPortTrainStepDone
  refine onPort_kept h (fun _ ht => ?_)
  split
  · exact ite_either (ht.setFld ..).portGo (ht.setFld ..)
  · exact ite_either (ht.setFld ..).pickLanes.portGo ht
  · exact ht.portGo
  · refine ite_either ht ?_
    split
    · exact ht.portFail
    · exact ((ht.setFld ..).setFld ..).portGo.repost
  · exact ht

theorem execPortTrainTimeout_kept (h : s.Inv) {port} : Kept (execPortTrainTimeout port s) :=
  onPort_kept h (fun _ ht => ite_either ht (ht.reach ..).portFail)

theorem execPortRetryWaitEnd_kept (h : s.Inv) {port} : Kept (execPortRetryWaitEnd port s) :=
  onPort_kept h (fun _ ht => ite_either ht (ht.reach ..).portTrain)

theorem execPortDown_kept (h : s.Inv) {port} : Kept (execPortDown port s) := by
  unfold execPortDown
  refine onPort_kept h (fun _ ht => ?_)
  extract_lets _ s1
  have h1 : s1.Inv := ht.setPort
  exact ite_either (ite_either h1 h1.portDark) (ite_either ht.portDark ht)

theorem execPortRetrain_kept (h : s.Inv) {port} : Kept (execPortRetrain port s) := onPort_kept h (fun _ ht => ht.portDark.setFld ..)
theorem State.Inv.narrow (h : s.Inv) {p good} : (s.narrow p good).Inv := ite_either h.portDark h

theorem execWavelengthSerCheck_kept (h : s.Inv) {port read} : Kept (execWavelengthSerCheck port read s) := by
  unfold execWavelengthSerCheck
  refine onPort_kept h (fun _ ht => ?_)
  extract_lets _ _ _ s1
  have h1 : s1.Inv := ht.setFld ..
  refine ite_either ht ?_
  split
  · exact h1
  · exact ite_either h1 (ite_either h1.setPort h1.narrow)

theorem execWavelengthSwap_kept (h : s.Inv) {port} : Kept (execWavelengthSwap port s) := by
  unfold execWavelengthSwap
  refine onPort_kept h (fun _ ht => ?_)
  dsimp only
  split
  · exact ite_either (ht.setPort.setFld ..) ht
  · exact ht

theorem execWavelengthRetest_kept (h : s.Inv) {port pass} : Kept (execWavelengthRetest port pass s) := by
  unfold execWavelengthRetest
  refine onPort_kept h (fun _ ht => ?_)
  extract_lets _ _ s1
  have h1 : s1.Inv := ht.setFld ..
  refine ite_either ht (ite_either (ite_either h1.portDark h1) ?_)
  split
  · exact ite_either (h1.setFld ..) h1
  · exact h1

theorem execFabIdSet_kept (h : s.Inv) {value} : Kept (execFabIdSet value s) :=
  kept_next (h.sup (fun _ ht => ite_either ht ((ht.setFld ..).setFld ..)))

theorem onEls_kept (h : s.Inv) {f : State → State} (hf : ∀ u, u.Inv → (f u).Inv) {i} : Kept (onEls i s f) :=
  unit_kept (ite_either h (hf _ h))

theorem State.Inv.elsOut (h : s.Inv) {i n} : (s.elsOut i n).Inv := h.setFld ..

theorem State.Inv.elsDark (h : s.Inv) {i} : (s.elsDark i).Inv := by
  unfold State.elsDark
  extract_lets _ s1
  have h1 : s1.Inv := (h.setEls.setFld ..).elsOut
  exact ite_either h1.elsOut (ite_either h1 (h1.foldl _ (fun _ _ ht => ite_either ht ht.portDark) _))

theorem execElsSvc_kept (h : s.Inv) {els} : Kept (execElsSvc els s) := by
  unfold execElsSvc
  refine unit_kept (h.sup (fun _ ht => ?_))
  extract_lets s1
  have h1 : s1.Inv := ht.setFld ..
  exact ite_either (h1.elsDark.setFld ..) h1

theorem execElsRemoved_kept (h : s.Inv) {els} : Kept (execElsRemoved els s) :=
  onEls_kept h (fun _ ht => ite_either ht (ite_either ht.elsDark (((ht.setFld ..).setFld ..).elsDark.ras ..)))

theorem execElsInserted_kept (h : s.Inv) {els} : Kept (execElsInserted els s) :=
  onEls_kept h (fun _ ht => ite_either ht ((ht.setFld ..).setEls.ras ..))

theorem State.Inv.elsLocked (h : s.Inv) {i} : (s.elsLocked i).Inv := by
  unfold State.elsLocked
  extract_lets _ s1 s2
  have h1 : s1.Inv := (h.setEls.setFld ..).elsOut
  have h2 : s2.Inv := ite_either h1.elsOut h1
  exact ite_either h2 (h2.foldl _ (fun _ _ ht => ht.portTrain) _)

theorem execElsCombLock_kept (h : s.Inv) {els} : Kept (execElsCombLock els s) := by
  unfold execElsCombLock
  refine unit_kept ?_
  split
  · exact h.elsLocked
  · exact h

theorem execElsLockTimeout_kept (h : s.Inv) {els} : Kept (execElsLockTimeout els s) := by
  unfold execElsLockTimeout
  refine unit_kept ?_
  split
  · exact (h.reach ..).setEls.elsOut.ras ..
  · exact h

theorem State.Inv.ackFlits (h : s.Inv) {p ack} : (s.ackFlits p ack).Inv := h.setPort.fillPort
theorem State.Inv.askReplay (h : s.Inv) {p} : (s.askReplay p).Inv := ite_either h.portDark (ite_either h (h.frame (by rfl)))

theorem State.Inv.collect (h : s.Inv) {p vc bytes} : (s.collect p vc bytes).Inv := by
  unfold State.collect
  extract_lets _ _ s1
  have h1 : s1.Inv := h.setPort
  exact ite_either (ite_either h1.arrive h1.rejectInput) h.setPort

theorem State.Inv.takeFlit (h : s.Inv) {p f} : (s.takeFlit p f).Inv := by
  unfold State.takeFlit
  extract_lets _ s1
  have h1 : s1.Inv := h.setPort
  split
  · exact ite_either h1.rejectInput h1.collect
  · split
    · exact h1.collect
    · exact h1
  · exact ite_either h1.collect h1

theorem execFlitReceive_kept (h : s.Inv) {port flit} : Kept (execFlitReceive port flit s) := by
  unfold execFlitReceive
  refine onPort_kept h (fun _ ht => ?_)
  extract_lets s1
  have h1 : s1.Inv := ht.ackFlits
  exact ite_either ht (ite_either ht.askReplay (ite_either h1 (ite_either h1.takeFlit (ite_either h1 h1.askReplay))))

theorem execReplayRequest_kept (h : s.Inv) {port seq} : Kept (execReplayRequest port seq s) :=
  onPort_kept h (fun _ ht => ite_either ht (ite_either ht.portDark (ht.frame (by rfl))))

/-! ### Transfers -/

theorem State.Inv.endFab (h : s.Inv) {x status} : (s.endFab x status).Inv := by
  unfold State.endFab
  split
  · exact h
  · dsimp only
    split
    · exact h.endXfer
    · exact (h.setQueue ..).cut

theorem State.Inv.endOldLinks (h : s.Inv) : s.endOldLinks.Inv := by
  unfold State.endOldLinks
  refine h.foldl _ (fun _ _ ht => ?_) _
  split
  · exact ite_either ht.endFab ht
  · exact ht

theorem State.Inv.settleAll (h : s.Inv) : s.settleAll.Inv := (h.endOldLinks.herbKick.flush.foldl _ (fun _ _ ht => ht.settleFront) _).flush

theorem State.Inv.sendAll (h : s.Inv) {x ms} : (s.sendAll x ms).Inv := by
  unfold State.sendAll
  split
  · exact h
  · exact h.setXfer.foldl _ (fun _ _ ht => ht.sendFrom) _

theorem State.Inv.startSeg (h : s.Inv) {x k} : (s.startSeg x k).Inv := by
  unfold State.startSeg
  split
  · exact h
  next t _ =>
    split
    · exact h
    · extract_lets off n pause va
      have hp {u : State} {w wr} (hu : u.Inv) : (pause u w wr).Inv := hu.cmdPage.setSeg
      refine ite_either h (ite_either ?_ ?_)
      · have hr : (s.tryRead (s.whoEng t.queue) t.ctx va n).1.Inv := h.tryRead
        generalize s.tryRead (s.whoEng t.queue) t.ctx va n = r at hr ⊢
        rcases r with ⟨u, m | _ | _ | ⟨w, wr⟩ | _ | _⟩
        · dsimp only
          exact (ite_either hr.setSeg hr).sendAll
        · exact hr.setSeg
        · exact hr.setSeg
        · exact hp hr
        · exact hr
        · exact hr.setSeg
      · have hr : (s.tryPlaces (s.whoEng t.queue) t.ctx .write va n).1.Inv := h.tryPlaces
        generalize s.tryPlaces (s.whoEng t.queue) t.ctx .write va n = r at hr ⊢
        rcases r with ⟨u, m | _ | _ | ⟨w, wr⟩ | _ | _⟩
        · exact hr.sendAll
        · exact hr.setSeg
        · exact hr.setSeg
        · exact hp hr
        · exact hr
        · exact hr.setSeg

theorem State.Inv.startXfer (h : s.Inv) {x} : (s.startXfer x).Inv := by
  unfold State.startXfer
  split
  · exact h.foldl _ (fun _ _ ht => ht.startSeg) _
  · exact h

theorem State.Inv.kickFlags (h : s.Inv) {qn} : (s.kickFlags qn).Inv := by
  unfold State.kickFlags
  refine h.foldl _ (fun _ _ ht => ?_) _
  split
  · exact ite_either ht ht.sendAll
  · exact ht

theorem State.Inv.settleSeg (h : s.Inv) {x k} : (s.settleSeg x k).Inv := by
  unfold State.settleSeg
  split
  · exact h
  · split
    · exact h
    · exact ite_either h.setSeg h

theorem State.Inv.answer (h : s.Inv) {x is ok} : (s.answer x is ok).Inv := by
  unfold State.answer
  split
  · exact h
  · split
    · exact h
    · extract_lets s1 s2
      have h1 : s1.Inv := h.setXfer
      have h2 : s2.Inv := ite_either h1 h1.setSeg
      exact h2.settleSeg.kickFlags

theorem State.Inv.land (h : s.Inv) {x k} : (s.land x k).Inv := by
  unfold State.land
  split
  · exact h
  next t _ =>
    extract_lets _ off n done
    have hd {u : State} {st} (hu : u.Inv) : (done u st).Inv := hu.setXfer.setSeg
    refine ite_either h (ite_either (hd h) ?_)
    have hr : (s.tryPlaces (s.whoEng t.queue) t.ctx .write (t.loc.toNat + off) n).1.Inv := h.tryPlaces
    generalize s.tryPlaces (s.whoEng t.queue) t.ctx .write (t.loc.toNat + off) n = r at hr ⊢
    rcases r with ⟨u, ls | _ | _ | ⟨w, wr⟩ | _ | _⟩
    · dsimp only
      split
      next e => exact State.Inv.of_pair (hr.gateAll ..) e
      next e =>
        have hu := State.Inv.of_pair (hr.gateAll ..) e
        exact hd ((State.Inv.ite_snd (q := (0, _)) hu.draw hu).storeAll ..)
    · exact hd hr
    · exact hd hr
    · exact hr.cmdPage.setSeg
    · exact hr
    · exact hd hr

theorem State.Inv.getAnswer (h : s.Inv) {x is data failed bad} : (s.getAnswer x is data failed bad).Inv := by
  unfold State.getAnswer
  split
  · exact h
  · split
    · exact h
    · exact h.setXfer.land

theorem State.Inv.landAll (h : s.Inv) {x} : (s.landAll x).Inv := by
  unfold State.landAll
  split
  · exact h
  · refine h.foldl _ (fun _ _ ht => ?_) _
    split
    · exact ht
    · split
      · exact ht
      · exact ite_either ht.land ht

theorem State.Inv.dispatchXfer (h : s.Inv) {qn d t f} : (s.dispatchXfer qn d t f).1.Inv := by
  unfold State.dispatchXfer
  extract_lets _ s1
  have h1 : s1.Inv := h.dispatch
  exact (h1.frame (by rfl)).setXfer

theorem State.Inv.putOrGet (h : s.Inv) {qn d kind loc rem len} : (s.putOrGet qn d kind loc rem len).Inv := by
  unfold State.putOrGet
  extract_lets _
  split
  · exact h.endFront
  · split
    next e =>
      have ht := h.dispatchXfer.of_pair e
      exact ite_either ht.kickFlags ht.startXfer

theorem State.Inv.dropIn (h : s.Inv) {id} : (s.dropIn id).Inv := h.frame rfl

theorem onMsg_kept (h : s.Inv) {f : Nat → FabMsg → State → State ⊕ State} (hf : ∀ x y u, u.Inv → (Sum.elim id id (f x y u)).Inv) {is id} :
    Kept (onMsg is id s f) := by
  unfold onMsg
  refine kept_next ?_
  split
  · exact h
  · refine ite_either h ?_
    split
    next e => exact State.Inv.of_inr (h.accept ..) e
    next e => exact (State.Inv.of_inl (h.accept ..) e).dropIn
    next e =>
      have ht := State.Inv.of_inl (h.accept ..) e
      split
      next e => exact ((hf _ _ _ ht).of_inl e).dropIn
      next e => exact (hf _ _ _ ht).of_inr e

theorem State.Inv.fabPlaces (h : s.Inv) {p acc va n} : (s.fabPlaces p acc va n).1.Inv := by
  unfold State.fabPlaces
  refine .ite_fst h ?_
  split
  next e => exact (h.places ..).of_pair e
  next e => exact (h.places ..).of_pair e
  next e => exact (h.places ..).of_pair e

theorem State.Inv.fabBegun (h : s.Inv) {p acc va n} : (s.fabBegun p acc va n).Inv := by
  unfold State.fabBegun
  split
  next e =>
    have ht := h.fabPlaces.of_pair e
    exact .ite_fst (ht.gateAll ..) (ht.gateAll ..)
  next e => exact h.fabPlaces.of_pair e

theorem State.Inv.inWrite (h : s.Inv) {s0 : State} (h0 : s0.Inv) {p m va} : (Sum.elim Prod.fst id (s.inWrite s0 p m va)).Inv := by
  unfold State.inWrite
  split
  · exact h0.fabBegun
  next e => exact (h.fabPlaces.of_pair e).ackMsg
  next e =>
    have ht := h.fabPlaces.of_pair e
    split
    · exact h0.fabBegun
    next e => exact (((ht.gateAll ..).of_pair e).storeAll ..).ackMsg

theorem dropFlag_inv {a : State × Bool ⊕ State} (ha : (Sum.elim Prod.fst id a).Inv) : (Sum.elim id id (dropFlag a)).Inv := by
  cases a with
  | inl _ => exact ha
  | inr _ => exact ha

theorem execGetReq_kept (h : s.Inv) {inbox} : Kept (execGetReq inbox s) := by
  unfold execGetReq
  refine onMsg_kept h (fun _ _ _ ht => ?_)
  split
  · exact h.fabBegun
  next e => exact (ht.fabPlaces.of_pair e).ackMsg
  next e =>
    have hu := ht.fabPlaces.of_pair e
    split
    · exact h.fabBegun
    next e =>
      extract_lets _
      split
      next e' => exact (((hu.gateAll ..).of_pair e).draw.of_snd e').sendFrom

theorem execGetData_kept (h : s.Inv) {inbox} : Kept (execGetData inbox s) := by
  unfold execGetData
  refine onMsg_kept h (fun _ _ _ ht => ?_)
  extract_lets _
  split
  · exact ht.staleCount
  · exact .ite_elim ht.staleCount ht.getAnswer.settleAll

theorem State.Inv.putAcked (h : s.Inv) {p m} : OptInv (s.putAcked p m) := by
  unfold State.putAcked
  split
  · exact opt_some (h.frame (by rfl)).kickFlags
  · exact opt_none

theorem execFabricAck_kept (h : s.Inv) {inbox} : Kept (execFabricAck inbox s) := by
  unfold execFabricAck
  refine onMsg_kept h (fun _ _ _ ht => ?_)
  refine .ite_elim ht.rejectInput ?_
  split
  · exact ht.putAcked.getD ht.staleCount
  · exact .ite_elim ht.staleCount (.ite_elim ht.answer.settleAll (.ite_elim ht.getAnswer.settleAll
      (.ite_elim ht.answer.settleAll ht.endFab.settleAll)))

theorem execRouteLostNak_kept (h : s.Inv) {inbox} : Kept (execRouteLostNak inbox s) := by
  unfold execRouteLostNak
  refine onMsg_kept h (fun _ _ _ ht => ?_)
  refine .ite_elim ht.rejectInput ?_
  split
  · exact ht.post
  · exact ht.staleCount

/-! ### Cohorts -/

theorem State.Inv.fabEvent (h : s.Inv) : s.fabEvent.Inv := h.raiseVec ..

theorem State.Inv.paceChanged (h : s.Inv) : s.paceChanged.Inv := by
  unfold State.paceChanged
  refine h.foldl _ (fun _ _ ht => ?_) _
  split
  exact ite_either ht (ite_either ((ht.setCohort.setFld ..).setFld ..) ((ht.setCohort.setFld ..).setFld ..).fabEvent)

theorem State.Inv.releaseWaits (h : s.Inv) {p is status} : (s.releaseWaits p is status).Inv :=
  h.foldl _ (fun _ _ ht => ht.foldl _ (fun _ _ hu => ite_either hu.endWait hu) _) _

theorem State.Inv.ctl (h : s.Inv) {p type d addr dp} : (s.ctl p type d addr dp).Inv := h.sendFrom

theorem State.Inv.fence (h : s.Inv) {p} : (s.fence p).Inv :=
  ite_either h (((((h.setFld ..).setFld ..).dropUnsent.foldl _ (fun _ _ ht => ht.endFab) _).releaseWaits.foldl _ (fun _ _ ht => ht.ctl)
    _).setCohort.foldl _ (fun _ _ ht => ht.ctl) _)

theorem State.Inv.lose (h : s.Inv) {p m} : (s.lose p m).Inv :=
  ite_either h (h.setCohort.foldl _ (fun _ _ ht => ht.endFab) _).releaseWaits.fence

theorem onPart_kept (h : s.Inv) {f : State → State} (hf : ∀ u, u.Inv → (f u).Inv) {p} : Kept (onPart p s f) :=
  unit_kept (ite_either (hf _ h) h)

theorem onCtl_kept (h : s.Inv) {f : Nat → FabMsg → State → State} (hf : ∀ x y u, u.Inv → (f x y u).Inv) {type inbox} :
    Kept (onCtl type inbox s f) := by
  refine onMsg_kept h (fun _ _ _ ht => ?_)
  exact ite_either (hf _ _ _ ht) ht

theorem execHb_kept (h : s.Inv) {inbox} : Kept (execHb inbox s) := ite_either (kept_next h) (onCtl_kept h (fun _ _ _ ht => ht.setCohort))

theorem execHbSend_kept (h : s.Inv) {part} : Kept (execHbSend part s) :=
  onPart_kept h (fun _ ht => ite_either ht ((ht.reach ..).setCohort.foldl _ (fun _ _ hu => hu.ctl) _))

theorem State.Inv.holdPace (h : s.Inv) {src b} : (s.holdPace src b).Inv := (h.frame (by rfl)).paceChanged

theorem execPace_kept (h : s.Inv) {inbox} : Kept (execPace inbox s) :=
  ite_either (kept_next h) (onCtl_kept h (fun _ _ _ ht => ht.holdPace))

theorem execPaceHoldExpire_kept (h : s.Inv) {source} : Kept (execPaceHoldExpire source s) := by
  unfold execPaceHoldExpire
  refine kept_next ?_
  split
  · exact ite_either (h.reach ..).holdPace h
  · exact h

theorem execCohortFenceMsg_kept (h : s.Inv) {inbox} : Kept (execCohortFenceMsg inbox s) :=
  onCtl_kept h (fun _ _ _ ht => ht.fence.settleAll)

theorem execProbe_kept (h : s.Inv) {inbox} : Kept (execProbe inbox s) := by
  refine onMsg_kept h (fun _ _ _ ht => ?_)
  exact ht.sendFrom

theorem execProbeRsp_kept (h : s.Inv) {inbox} : Kept (execProbeRsp inbox s) := by
  refine onMsg_kept h (fun _ _ _ ht => ?_)
  exact (ite_either ht.setCohort ht).foldl _ (fun _ _ hu => ite_either hu.setXfer hu) _

theorem execRouteWaitTimeout_kept (h : s.Inv) {msg} : Kept (execRouteWaitTimeout msg s) := by
  unfold execRouteWaitTimeout
  refine kept_next ?_
  split
  · exact h
  · extract_lets drop s1
    have hd {u : State} (hu : u.Inv) : (drop u).Inv := hu.frame rfl
    have h1 : s1.Inv := h.reach ..
    exact ite_either h (ite_either (ite_either (hd h1.lose).settleAll (hd h1)) (hd (h.reach ..)).routeLost)

theorem execPeerTimeout_kept (h : s.Inv) {part member why} : Kept (execPeerTimeout part member why s) := by
  unfold execPeerTimeout
  refine onPart_kept h (fun _ ht => ?_)
  split
  · exact (ht.reach ..).lose.settleAll
  · exact ht

theorem execSweepEnd_kept (h : s.Inv) {part} : Kept (execSweepEnd part s) := by
  unfold execSweepEnd
  refine onPart_kept h (fun _ ht => ?_)
  extract_lets _
  split
  · exact ht
  · exact ((((ht.reach ..).setCohort.foldl _ (fun _ _ hu => hu.lose) _).foldl _ (fun _ _ hu => hu.setWord ..) _).setFld
      ..).fabEvent.settleAll

theorem execCohFenceSet_kept (h : s.Inv) {part} : Kept (execCohFenceSet part s) := onPart_kept h (fun _ ht => ht.fence.settleAll)

theorem execEpochWrite_kept (h : s.Inv) {part epoch} : Kept (execEpochWrite part epoch s) := by
  unfold execEpochWrite
  refine onPart_kept h (fun _ ht => ?_)
  extract_lets _ _ s1 s2 s3 s4 _ s5 _ s6
  have h1 : s1.Inv := ht.foldl _ (fun _ _ hu => hu.endFab) _
  have h2 : s2.Inv := h1.setFld ..
  have h3 : s3.Inv := ite_either h2.releaseWaits h2
  have h4 : s4.Inv := ((h3.setFld ..).setFld ..).setFld ..
  have h5 : s5.Inv := ite_either (h4.foldl _ (fun _ _ hu => hu.setPin) _) (ite_either (h4.foldl _ (fun _ _ hu => hu.setPin) _) h4)
  have h6 : s6.Inv := h5.setCohort
  exact ite_either ht (h6.frame (by rfl)).paceChanged.settleAll

/-! ### Collectives and the KV ring -/

theorem State.Inv.askPage (h : s.Inv) {x w write} : (s.askPage x w write).Inv := by
  unfold State.askPage
  split
  · exact h.setXfer.cmdPage
  · exact h

/-- The equation of `State.engPlaces` for a list that is not empty. -/
theorem State.engPlaces_cons {x acc va n rs} : s.engPlaces x acc ((va, n) :: rs) = match s.xfer x with
    | none => (s, none)
    | some t =>
      let on (s : State) (o : Option (List (Loc × Nat))) := match s.engPlaces x acc rs with
        | (s, some os) => (s, some ((n, o) :: os))
        | r => r
      match s.tryPlaces (s.whoEng t.queue) t.ctx acc va n with
      | (s, .inl ls) => on s (some ls)
      | (s, .inr (.page w wr)) => if s.refused t (w.toNat / 4096) wr then on s none else (s.askPage x w wr, none)
      | (s, .inr .wait) => (s, none)
      | (s, .inr _) => on s none := rfl
theorem State.Inv.engPlaces (h : s.Inv) {x acc xs} : (s.engPlaces x acc xs).1.Inv := by
  induction xs generalizing s with
  | nil => exact h
  | cons y xs ih =>
    obtain ⟨va, n⟩ := y
    rw [State.engPlaces_cons]
    split
    · exact h
    next t _ =>
      extract_lets on
      have ho {u : State} {o} (hu : u.Inv) : (on u o).1.Inv := by
        unfold on
        split
        next e => exact (ih hu).of_pair e
        next => exact ih hu
      have hr : (s.tryPlaces (s.whoEng t.queue) t.ctx acc va n).1.Inv := h.tryPlaces
      generalize s.tryPlaces (s.whoEng t.queue) t.ctx acc va n = r at hr ⊢
      rcases r with ⟨u, ls | _ | _ | ⟨w, wr⟩ | _ | _⟩
      · exact ho hr
      · exact ho hr
      · exact ho hr
      · exact .ite_fst (ho hr) hr.askPage
      · exact hr
      · exact ho hr

theorem State.Inv.engRead (h : s.Inv) {x va n} : (s.engRead x va n).1.Inv := by
  unfold State.engRead
  split
  · exact h
  · split
    next e => exact h.engPlaces.of_pair e
    next e =>
      have ht := h.engPlaces.of_pair e
      split
      next e => exact (ht.gateAll ..).of_pair e
      next e =>
        have hu := (ht.gateAll ..).of_pair e
        split
        next e => exact State.Inv.of_snd (by exact .ite_snd hu hu.draw) e

theorem State.Inv.engPut (h : s.Inv) {x ps} : (s.engPut x ps).1.Inv := by
  unfold State.engPut
  split
  · exact h
  · split
    next e => exact h.engPlaces.of_pair e
    next e =>
      have ht := h.engPlaces.of_pair e
      split
      next e => exact (ht.gateAll ..).of_pair e
      next e =>
        refine ((ht.gateAll ..).of_pair e).foldl _ (fun _ _ hu => ?_) _
        split
        · exact hu.putMarked
        · exact hu

theorem State.Inv.engWrite (h : s.Inv) {x va m} : (s.engWrite x va m).1.Inv := by
  unfold State.engWrite
  split
  next e => exact h.engPut.of_pair e
  next e => exact h.engPut.of_pair e

theorem State.Inv.finalAt (h : s.Inv) {x off n bad} : (s.finalAt x off n bad).Inv := by
  unfold State.finalAt
  split
  · exact h
  · extract_lets _ s1
    have h1 : s1.Inv := h.setXfer
    split
    · exact h1
    · exact h1.setQueue ..

theorem State.Inv.collSend (h : s.Inv) {x j phase off m} : (s.collSend x j phase off m).Inv := by
  unfold State.collSend
  split
  · exact h
  · exact h.sendAll

theorem State.Inv.collScatter (h : s.Inv) {x n} : (s.collScatter x n).Inv := by
  induction n generalizing s with
  | zero => exact h
  | succ n ih =>
    unfold State.collScatter
    split
    · exact h
    · extract_lets _ _ next
      have hn {u : State} (hu : u.Inv) : (next u).Inv := by
        unfold next
        split
        · exact hu.setXfer
        · exact hu
      refine ite_either h (ite_either (ih (hn h)) ?_)
      split
      next e => exact ih (hn (h.engRead.of_pair e).collSend)
      next e => exact h.engRead.of_pair e

theorem State.Inv.collResult (h : s.Inv) {x t} : (s.collResult x t).1.Inv := by
  unfold State.collResult
  refine .ite_fst ?_ ?_
  · refine .ite_fst h ?_
    split
    next e => exact h.engRead.of_pair e
    next e => exact h.engRead.of_pair e
  · refine .ite_fst h ?_
    split
    next e => exact h.engRead.of_pair e
    next e => exact h.engRead.of_pair e

theorem State.Inv.collPut (h : s.Inv) {x a t sz m gaps} : (s.collPut x a t sz m gaps).1.Inv := by
  unfold State.collPut
  dsimp only
  split
  next e => exact h.engPut.of_pair e
  next e => exact ((h.engPut.of_pair e).foldl _ (fun _ _ ht => ht.finalAt) _).foldl _ (fun _ _ ht => ht.finalAt) _

theorem State.Inv.collGo (h : s.Inv) {x} : (s.collGo x).Inv := by
  unfold State.collGo
  split
  · exact h
  · extract_lets s1
    have h1 : s1.Inv := h.collScatter
    refine ite_either h ?_
    split
    · exact h1
    · refine ite_either h1 ?_
      split
      next e => exact h1.collResult.of_pair e
      next e =>
        have ht := h1.collResult.of_pair e
        extract_lets _ _ wrote
        have hw : wrote.1.Inv := by
          unfold wrote
          split
          · exact .ite_fst ht ht.collPut
          · exact ht
        clear_value wrote
        split
        · exact hw
        · extract_lets s2 s3
          have h2 : s2.Inv := (hw.bump ..).bump ..
          have h3 : s3.Inv := by
            unfold s3
            split
            · exact h2.setXfer
            · exact h2
          exact h3.foldl _ (fun _ _ hu => ite_either hu hu.collSend) _

theorem State.Inv.workBuf (h : s.Inv) {qn q va need} : (s.workBuf qn q va need).1.Inv := by
  unfold State.workBuf
  refine .ite_fst h ?_
  have hr : (s.tryPlaces (s.whoEng qn) q.ctx .write va need).1.Inv := h.tryPlaces
  generalize s.tryPlaces (s.whoEng qn) q.ctx .write va need = r at hr ⊢
  rcases r with ⟨u, ls | _ | _ | ⟨w, wr⟩ | _ | _⟩
  · dsimp only
    split
    next e => exact State.Inv.of_pair (hr.gateAll ..) e
    next e => exact ((State.Inv.of_pair (hr.gateAll ..) e).draw.storeAll ..).keepBad
  · exact hr
  · exact hr
  · exact hr
  · exact hr
  · exact hr

theorem State.Inv.collStart (h : s.Inv) {f : CollOp → State → State} (hf : ∀ x u, u.Inv → (f x u).Inv) {qn d kind} :
    (s.collStart qn d kind f).Inv := by
  unfold State.collStart
  refine ite_either h.endFront ?_
  split
  next e => exact State.Inv.of_inl (h.ctrlRead ..) e
  next e =>
    have ht := State.Inv.of_inr (h.ctrlRead ..) e
    refine ite_either ht.endFront (ite_either ht.endFront ?_)
    extract_lets _
    split
    next e => exact State.Inv.of_inl (ht.ctrlRead ..) e
    next e =>
      have hu := State.Inv.of_inr (ht.ctrlRead ..) e
      split
      · exact hu.endFront
      · exact ite_either hu.endFront (ite_either hu.endFront (hf _ _ hu))

theorem collRow_kept (h : s.Inv) {kind queue} : Kept (collRow kind queue s) := by
  unfold collRow
  refine onFront_kept h (fun _ _ ht => ht.collStart (fun _ _ hu => ?_))
  refine ite_either hu.endFront ?_
  split
  next e => exact hu.workBuf.of_pair e
  next e => exact (hu.workBuf.of_pair e).endFront
  next e =>
    have hv := hu.workBuf.of_pair e
    extract_lets _
    split
    next e => exact (hv.dispatchXfer.of_pair e).collGo.endOldLinks

theorem State.Inv.contribute (h : s.Inv) {x f j off m denied} : (s.contribute x f j off m denied).Inv := h.setXfer

theorem execCollData_kept (h : s.Inv) {inbox} : Kept (execCollData inbox s) := by
  unfold execCollData
  refine onMsg_kept h (fun _ _ _ ht => ?_)
  split
  · exact h
  · extract_lets seen
    have hs {u : State} (hu : u.Inv) : (seen u).Inv := by
      unfold seen
      split
      · exact hu.setXfer
      · exact hu
    refine .ite_elim ?_ ?_
    · split
      · exact h.fabPlaces
      next e => exact (hs (ht.fabPlaces.of_pair e).contribute).ackMsg.collGo.settleAll
    · split
      next e => exact State.Inv.of_inr (f := Prod.fst) (g := id) (ht.inWrite h) e
      next e => exact (hs (State.Inv.of_inl (ht.inWrite h) e)).finalAt.collGo.settleAll

theorem execCollStepTimeout_kept (h : s.Inv) {xfer} : Kept (execCollStepTimeout xfer s) := by
  unfold execCollStepTimeout
  refine kept_next ?_
  split
  · exact h
  · exact ite_either h ((h.reach ..).setCohort.setXfer.foldl _ (fun _ _ ht => ht.ctl) _)

theorem State.Inv.ringPost (h : s.Inv) {x n} : (s.ringPost x n).Inv := by
  induction n generalizing s with
  | zero => exact h
  | succ n ih =>
    unfold State.ringPost
    split
    · exact h
    · refine ite_either h (ite_either (ih h.setXfer) ?_)
      split
      next e => exact h.engWrite.of_pair e
      next e =>
        have ht := h.engWrite.of_pair e
        extract_lets _ s1
        have h1 : s1.Inv := ite_either ht.setSeg (ite_either ht.setSeg ht)
        split
        · exact ih h1.setXfer
        · exact h1

theorem State.Inv.ringSend (h : s.Inv) {x n} : (s.ringSend x n).Inv := by
  induction n generalizing s with
  | zero => exact h
  | succ n ih =>
    unfold State.ringSend
    split
    · exact h
    · refine ite_either h ?_
      split
      next e => exact h.engRead.of_pair e
      next e =>
        split
        extract_lets _ _ _ s1
        have h1 : s1.Inv := (h.engRead.of_pair e).sendAll
        split
        · exact ih h1.setXfer
        · exact h1

theorem State.Inv.ringGo (h : s.Inv) {x} : (s.ringGo x).Inv := by
  unfold State.ringGo
  split
  · exact ite_either h h.ringPost.ringSend
  · exact h

theorem execKvRing_kept (h : s.Inv) {queue} : Kept (execKvRing queue s) := by
  unfold execKvRing
  refine onFront_kept h (fun _ _ ht => ht.collStart (fun _ _ hu => ?_))
  refine ite_either hu.endFront (ite_either hu.endFront ?_)
  extract_lets _
  split
  next e => exact hu.tryRead.of_pair e
  next e =>
    have hv := hu.tryRead.of_pair e
    extract_lets _
    split
    next e => exact (hv.dispatchXfer.of_pair e).ringGo

theorem execKvData_kept (h : s.Inv) {inbox} : Kept (execKvData inbox s) := by
  unfold execKvData
  refine onMsg_kept h (fun _ _ _ ht => ?_)
  extract_lets _ _
  split
  · exact h
  · extract_lets _
    split
    next e => exact State.Inv.of_inr (f := Prod.fst) (g := id) (ht.inWrite h) e
    next e =>
      have hu := State.Inv.of_inl (ht.inWrite h) e
      extract_lets s1 s2
      have h1 : s1.Inv := ite_either hu.setSeg hu
      have h2 : s2.Inv := by
        unfold s2
        split
        · exact h1.setXfer
        · exact h1
      exact h2.ringGo.settleAll

theorem execKvCredit_kept (h : s.Inv) {inbox} : Kept (execKvCredit inbox s) := by
  unfold execKvCredit
  refine onMsg_kept h (fun _ _ _ ht => ?_)
  split
  · exact .ite_elim ht.staleCount ht.setXfer.ringGo.settleAll
  · exact ht.staleCount

theorem execKvConsumedRise_kept (h : s.Inv) {ring} : Kept (execKvConsumedRise ring s) := by
  unfold execKvConsumedRise
  refine kept_next ?_
  split
  · exact h
  · refine ite_either h ?_
    split
    next e => exact h.engRead.of_pair e
    next e =>
      have ht := h.engRead.of_pair e
      extract_lets _ _ s1
      have h1 : s1.Inv := by
        unfold s1
        split
        · exact ht.setXfer
        · exact ht
      clear_value s1
      split
      refine ite_either ht ?_
      split
      · exact h1.sendFrom
      · exact h1

end Sys2Proof.Machine
end

section
/-! SUPPORT. What partitions, keys, power, boot and registers do keeps the state's invariant. -/

namespace Sys2Proof.Machine

variable {s t : State}

/-! ### Completion, timeout and page responses -/

theorem State.Inv.endOver (h : s.Inv) {k} : (s.endOver k).Inv := (h.foldl _ (fun _ _ ht => ht.setTile ..) _).endKernel

theorem State.Inv.retryCmd (h : s.Inv) {qn id} : (s.retryCmd qn id).Inv := by
  unfold State.retryCmd
  split
  · exact h
  · split
    · exact h.runCmd
    · exact h.runOnce
    · exact h
    · exact h.waitTest
    · split
      · split
        · exact h.startXfer.landAll
        · exact h.startXfer.landAll
        · exact h.kickFlags
        · exact h.collGo
        · exact h.ringGo
      · exact h
    · exact h

theorem State.Inv.complete (h : s.Inv) {qn id} : (s.complete qn id).Inv := by
  unfold State.complete
  split
  · exact h
  · split
    · exact ite_either h.endOver.finish h
    · split
      · exact h.finish
      · exact h
    · exact ite_either h h.finish
    · exact ite_either h h.finish
    · split
      · exact h.endXfer.finish
      · exact h
    · exact h

theorem execCommandComplete_kept (h : s.Inv) {queue cmd} : Kept (execCommandComplete queue cmd s) :=
  unit_kept (ite_either h h.retryCmd.endOldLinks.complete.settleAll)

theorem execCommandTimeout_kept (h : s.Inv) {queue cmd} : Kept (execCommandTimeout queue cmd s) := by
  unfold execCommandTimeout
  refine unit_kept ?_
  split
  · exact h
  · exact ite_either h (h.reach ..).expire.flush.settleFront.settleAll

theorem State.Inv.kernelRefused (h : s.Inv) {k page} : (s.kernelRefused k page).Inv := ite_either h h.endKernel.finish.loseCtx

theorem State.Inv.kernelAnswered (h : s.Inv) {k} : (s.kernelAnswered k).Inv :=
  ite_either h (ite_either h.eligible (ite_either (h.setKernel ..) h))

theorem State.Inv.segsAnswered (h : s.Inv) {qn id r ok} : (s.segsAnswered qn id r ok).Inv := by
  unfold State.segsAnswered
  dsimp only
  split
  · exact h
  · exact h.setQueue ..

theorem State.Inv.askedThere (h : s.Inv) {x qn id r ok} : (s.askedThere x qn id r ok).Inv := by
  unfold State.askedThere
  split
  · exact h.setXfer
  · exact h

theorem State.Inv.cmdAnswered (h : s.Inv) {qn id r ok} : (s.cmdAnswered qn id r ok).Inv := by
  unfold State.cmdAnswered
  dsimp only
  split
  · exact h
  · split
    · exact h.segsAnswered.runCmd
    · exact ite_either h (ite_either h.runOnce h.finish.loseCtx)
    · exact ite_either h.waitLocate h.waitFail
    · split
      · split
        · exact h.segsAnswered.startXfer.landAll
        · exact h.segsAnswered.startXfer.landAll
        · exact h.askedThere.collGo
        · exact h.askedThere.ringGo
        · exact h
      · exact h
    · exact h

theorem State.Inv.fetchAnswered (h : s.Inv) {qn page ok} : (s.fetchAnswered qn page ok).Inv := ite_either h (h.setQueue ..)
theorem State.Inv.readAnswered (h : s.Inv) {qn page ok} : (s.readAnswered qn page ok).Inv := ite_either h (h.setQueue ..)

theorem State.Inv.walkAgain (h : s.Inv) {w ctx va xs} : (s.walkAgain w ctx va xs).1.Inv := by
  induction xs generalizing s with
  | nil => exact h
  | cons x xs ih =>
    unfold State.walkAgain
    split
    next e => exact (h.translate ..).of_pair e
    next e =>
      have ht := (h.translate ..).of_pair e
      split
      next e => exact (ih ht).of_pair e
      next => exact ih ht

theorem execPageResponse_kept (h : s.Inv) {ctx page write code} : Kept (execPageResponse ctx page write code s) := by
  unfold execPageResponse
  refine kept_next ?_
  split
  · exact h
  · refine ite_either h ?_
    dsimp only
    split
    next e => exact h.walkAgain.of_pair e
    next e => exact (((((((h.walkAgain.of_pair e).frame (by rfl)).foldl _ (fun _ _ ht => ite_either ht.kernelAnswered ht.kernelRefused)
      _).foldl _
      (fun _ _ ht => ht.cmdAnswered) _).foldl _ (fun _ _ ht => ht.fetchAnswered) _).foldl _ (fun _ _ ht => ht.readAnswered) _).sendPages
      ..).settleAll

/-! ### Key slots and the mailbox -/

theorem State.Inv.underKey (h : s.Inv) {old new late first n} : (s.underKey old new late first n).Inv :=
  h.foldl _ (fun _ _ ht => ht.draw.foldl _ (fun _ _ hu => ite_either hu (hu.setMem (memWf_put _ _ hu.mem))) _) _

theorem State.Inv.rekeyed (h : s.Inv) {n old new late} : (s.rekeyed n old new late).Inv :=
  h.foldl _ (fun _ _ ht => ht.foldl _ (fun _ _ hu => hu.underKey) _) _

theorem State.Inv.putKey (h : s.Inv) {n type key} : (s.putKey n type key).Inv := by
  unfold State.putKey
  extract_lets _ _ s1
  have h1 : s1.Inv := h.setKey
  exact (ite_either h1.rekeyed h1).unstall

theorem State.Inv.install (h : s.Inv) {n type key force viaMb} : (s.install n type key force viaMb).1.Inv :=
  .ite_fst h (.ite_fst h (.ite_fst h (.ite_fst h.setKey h.putKey)))

theorem State.Inv.emptySlot (h : s.Inv) {n} : (s.emptySlot n).Inv := by
  unfold State.emptySlot
  extract_lets _ _ s1
  have h1 : s1.Inv := (h.foldl _ (fun _ _ ht => ht.poisonSector) _).setKey
  refine ite_either ?_ h1
  split
  next e => exact (((h1.draw.of_snd e).setFld ..).setFld ..).setFld ..

theorem State.Inv.forceErase (h : s.Inv) {n} : (s.forceErase n).Inv := by
  unfold State.forceErase
  refine State.Inv.foldl (State.Inv.foldl ?_ _ (fun _ _ ht => ht.foldl _ (fun _ _ hu => hu.endFab) _) _) _ (fun _ _ ht => ht.fence) _
  refine State.Inv.foldl (State.Inv.frame (State.Inv.emptySlot ?_) (by rfl)) _ (fun _ _ ht => ht.endKernel.finish) _
  refine h.foldl _ (fun _ _ ht => ?_) _
  split
  · exact ht.foldl _ (fun _ _ hu => hu.poisonSector) _
  · exact ht

theorem State.Inv.tdiFail (h : s.Inv) {p why} : (s.tdiFail p why).Inv :=
  ite_either h (h.setTdi.foldl _ (fun _ _ ht => ht.loseCtx) _).forceErase

theorem State.Inv.forcedOn (h : s.Inv) {n} : (s.forcedOn n).Inv := h.foldl _ (fun _ _ ht => ht.tdiFail) _
theorem State.Inv.erase (h : s.Inv) {n force} : (s.erase n force).1.Inv := .ite_fst h.emptySlot (.ite_fst h h.forceErase.forcedOn)

theorem State.Inv.installOn (h : s.Inv) {n type key force viaMb} : (s.installOn n type key force viaMb).1.Inv := by
  unfold State.installOn
  dsimp only
  split
  next e =>
    have ht := h.install.of_pair e
    exact .ite_fst ht.forcedOn ht
  next e => exact h.install.of_pair e

theorem execNegCommit_kept (h : s.Inv) {fn} : Kept (execNegCommit fn s) :=
  viaFn_kept h (fun _ ht => ite_either ht.tdiFail.settleAll (ite_either ht (((ht.setFld ..).setFld ..).setFld ..)))

theorem State.Inv.mbFields (h : s.Inv) {op c} : (s.mbFields op c).Inv := (((h.setFld ..).setFld ..).setFld ..).setFld ..

theorem mbOp_kept (h : s.Inv) {f : State → State × Nat} (hf : ∀ u, u.Inv → (f u).1.Inv) {op c} : Kept (mbOp op c s f) := by
  unfold mbOp
  refine kept_next (ite_either h (ite_either h.mbFields ?_))
  split
  next e =>
    extract_lets _ s1
    have h1 : s1.Inv := ((hf _ h.mbFields).of_pair e).foldl _ (fun _ _ ht => ht.setWord ..) _
    exact (ite_either ((h1.setFld ..).setFld ..) (h1.setFld ..)).settleAll

theorem execMbGenerate_kept (h : s.Inv) {cmd} : Kept (execMbGenerate cmd s) := by
  unfold execMbGenerate
  refine mbOp_kept h (fun _ ht => ?_)
  split
  next e => exact (ht.draw.of_snd e).installOn

theorem execMbSetPlain_kept (h : s.Inv) {cmd} : Kept (execMbSetPlain cmd s) := mbOp_kept h (fun _ ht => .ite_fst ht ht.installOn)
theorem execMbErase_kept (h : s.Inv) {cmd} : Kept (execMbErase cmd s) := mbOp_kept h (fun _ ht => ht.erase)
theorem execMbQuery_kept (h : s.Inv) {cmd} : Kept (execMbQuery cmd s) := mbOp_kept h (fun _ ht => ht.setKey)

theorem execKeyRetireDone_kept (h : s.Inv) {slot} : Kept (execKeyRetireDone slot s) := by
  unfold execKeyRetireDone
  extract_lets _ s1
  have h1 : s1.Inv := h.putKey
  exact unit_kept (ite_either h (ite_either (((h1.setFld ..).setFld ..).setFld ..) h1).settleAll)

/-! ### Partitions, Function Level Reset, hash-key rotation -/

theorem State.Inv.prtDone (h : s.Inv) {st} : (s.prtDone st).Inv := (h.setFld ..).setFld ..
theorem State.Inv.granted (h : s.Inv) {p es} : (s.granted p es).Inv := ite_either (h.foldl _ (fun _ _ ht => ht.underKey) _) h

theorem State.Inv.prtMake (h : s.Inv) {p} : (s.prtMake p).Inv := by
  unfold State.prtMake
  refine ite_either h.prtDone ?_
  split
  · exact h.prtDone
  · exact (h.setPart ..).granted.prtDone

theorem State.Inv.resetStart (h : s.Inv) {p f} : (s.resetStart p f).Inv := by
  unfold State.resetStart
  extract_lets _ s1
  have h1 : s1.Inv := h.setPart ..
  exact ((((ite_either h1.fence h1).foldl _ (fun _ _ ht => ht.endKernel) _).frame (by rfl)).sendPages ..).settleAll

theorem State.Inv.squashWrites (h : s.Inv) {q c} : (s.squashWrites q c).Inv := by
  unfold State.squashWrites
  refine h.foldl _ (fun _ _ ht => ite_either ht ?_) _
  split
  · exact ite_either ht ht.poisonSector
  · exact ht

theorem State.Inv.squashPart (h : s.Inv) {p} : (s.squashPart p).Inv :=
  ((h.foldl _ (fun _ _ ht => ht.foldl _ (fun _ _ hu => hu.squashWrites.squash) _) _).frame (by rfl))

theorem State.Inv.evlogReset (h : s.Inv) {p} : (s.evlogReset p).Inv := h.foldl _ (fun _ _ ht => ht.setWord ..) _
theorem State.Inv.negReset (h : s.Inv) {fn} : (s.negReset fn).Inv := h.foldl _ (fun _ _ ht => ht.setWord ..) _
theorem State.Inv.msixReset (h : s.Inv) {fn} : (s.msixReset fn).Inv := ⟨h.mem, h.host, tabWf_filter _ h.regs, h.time⟩

theorem State.Inv.dropPart (h : s.Inv) {p} : (s.dropPart p).Inv := by
  unfold State.dropPart
  extract_lets s1 _ s2 s3 s4
  have h1 : s1.Inv := h.foldl _ (fun _ _ ht => ht.setQueue ..) _
  have h2 : s2.Inv := h1.foldl _ (fun _ _ ht => ht.freeCtx) _
  have h3 : s3.Inv := h2.evlogReset
  have h4 : s4.Inv := h3.frame rfl
  exact h4.setPart ..

theorem State.Inv.destroyStart (h : s.Inv) {p} : (s.destroyStart p).Inv := (h.foldl _ (fun _ _ ht => ht.setTile ..) _).setPart ..
theorem State.Inv.rotBegin (h : s.Inv) : s.rotBegin.Inv := ite_either (h.frame (by rfl)) h

theorem State.Inv.resetEnd (h : s.Inv) {p} : (s.resetEnd p).Inv := by
  unfold State.resetEnd
  extract_lets _ s1 _ s2 s3 s4
  have h1 : s1.Inv := h.setPart ..
  have h2 : s2.Inv := ite_either h1.forceErase.setTdi h1
  have h3 : s3.Inv := by
    unfold s3
    split
    · exact h2.frame rfl
    · exact h2
  have h4 : s4.Inv := ite_either h3.prtDone h3
  exact (ite_either h4.destroyStart h4).rotBegin.settleAll

theorem execPrtResetDrainEnd_kept (h : s.Inv) {part} : Kept (execPrtResetDrainEnd part s) :=
  unit_kept (ite_either h (ite_either (h.reach ..) h).squashPart.dropPart.resetEnd)

theorem State.Inv.prtReset (h : s.Inv) {p destroy} : (s.prtReset p destroy).Inv := ite_either h.prtDone h.resetStart

theorem State.Inv.prtRun (h : s.Inv) {op p} : (s.prtRun op p).Inv := by
  unfold State.prtRun
  split
  · exact h.prtMake
  · exact h.prtReset
  · exact h.prtReset

theorem State.Inv.prtFields (h : s.Inv) {op part} : (s.prtFields op part).Inv := (h.setFld ..).setFld ..

theorem prtOp_kept (h : s.Inv) {f : State → State} (hf : ∀ u, u.Inv → (f u).Inv) {op part} : Kept (prtOp op part s f) := by
  unfold prtOp
  refine kept_next (h.sup (fun _ ht => ?_))
  extract_lets s1 s2
  have h1 : s1.Inv := ht.prtFields
  have h2 : s2.Inv := h1.setFld ..
  exact ite_either h1 (ite_either h2.prtDone (hf _ h2))

theorem State.Inv.afterRot (h : s.Inv) {op p} : (s.afterRot op p).Inv := ite_either h.prtRun (h.frame (by rfl))
theorem execPrtCreate_kept (h : s.Inv) {part} : Kept (execPrtCreate part s) := prtOp_kept h (fun _ ht => ht.afterRot)
theorem execPrtDestroy_kept (h : s.Inv) {part} : Kept (execPrtDestroy part s) := prtOp_kept h (fun _ ht => ht.afterRot)
theorem execPrtReset_kept (h : s.Inv) {part} : Kept (execPrtReset part s) := prtOp_kept h (fun _ ht => ht.afterRot)
theorem State.Inv.reassign (h : s.Inv) {p vf} : (s.reassign p vf).Inv := (h.frame (by rfl)).negReset.evlogReset

theorem execPrtAssign_kept (h : s.Inv) {part} : Kept (execPrtAssign part s) :=
  prtOp_kept h (fun _ ht => ite_either ht.prtDone (ite_either ht.prtDone (ite_either ht.prtDone ht.reassign.prtDone)))

theorem execPrtUnassign_kept (h : s.Inv) {part} : Kept (execPrtUnassign part s) :=
  prtOp_kept h (fun _ ht => ite_either ht.prtDone (ite_either ht.prtDone ht.reassign.prtDone))

theorem execPrtGrow_kept (h : s.Inv) {part} : Kept (execPrtGrow part s) := by
  unfold execPrtGrow
  refine prtOp_kept h (fun _ ht => ite_either ht.prtDone ?_)
  split
  · exact ht.prtDone
  · exact (ht.setPart ..).granted.prtDone

theorem execPrtZeroDone_kept (h : s.Inv) {part} : Kept (execPrtZeroDone part s) := by
  unfold execPrtZeroDone
  refine unit_kept (ite_either h ?_)
  dsimp only
  split
  next e => exact (h.gate ..).of_pair e
  next e =>
    have ht := (h.gate ..).of_pair e
    exact (ht.setMem (tabWf_filter _ ht.mem)).frame rfl

theorem State.Inv.hotReset (h : s.Inv) : s.hotReset.Inv := by
  unfold State.hotReset
  extract_lets s1 s2
  have h1 : s1.Inv := h.foldl _ (fun _ _ ht => ht.negReset.msixReset) _
  clear_value s1
  have h2 : s2.Inv := h1.frame rfl
  refine h2.foldl _ (fun _ _ ht => ?_) _
  dsimp only
  split
  · exact ht.resetStart
  · exact ht.setPart ..
  · exact ht

theorem State.Inv.flr (h : s.Inv) {fn} : (s.flr fn).Inv := by
  unfold State.flr
  extract_lets _ s1 s2
  have h1 : s1.Inv := h.negReset.msixReset
  have h2 : s2.Inv := h1.frame rfl
  refine ite_either h.hotReset (ite_either h2 ?_)
  split
  · exact h2.resetStart
  · exact h2.setPart ..
  · exact h2

theorem execFunctionLevelReset_kept (h : s.Inv) {fn} : Kept (execFunctionLevelReset fn s) :=
  unit_kept (ite_either h (ite_either h.flr (ite_either h (h.frame (by rfl)))))

theorem execHashRotRequest_kept (h : s.Inv) : Kept (execHashRotRequest s) :=
  kept_next (h.sup (fun _ ht => ite_either ht ((ht.setFld ..).frame (by rfl)).rotBegin))

theorem State.Inv.recallAll (h : s.Inv) {lines} : (s.recallAll lines).Inv := h.foldl _ (fun _ _ ht => ite_either ht.snoop ht) _

theorem execHashRotDrained_kept (h : s.Inv) : Kept (execHashRotDrained s) :=
  kept_next (ite_either h (ite_either h.recallAll
    (((h.foldl _ (fun _ _ ht => ht.loseHost) _).foldl _ (fun _ _ ht => ht.evict) _).frame (by rfl))))

theorem execHashRotDone_kept (h : s.Inv) {us} : Kept (execHashRotDone us s) := by
  unfold execHashRotDone
  refine kept_next (ite_either h ?_)
  split
  next e =>
    extract_lets s1 _ s2 _ s3 s4 s5 _ s6 _
    have h1 : s1.Inv := (h.draw.of_snd e).reach ..
    have h2 : s2.Inv := (((h1.setFld ..).setFld ..).setFld ..).setFld ..
    have h3 : s3.Inv := h2.frame rfl
    have h4 : s4.Inv := h3.foldl _ (fun _ _ ht => ht.notifyLine) _
    have h5 : s5.Inv := by
      unfold s5
      split
      · exact (h4.frame (by rfl)).prtRun
      · exact h4
    have h6 : s6.Inv := State.Inv.foldl (h5.frame (by rfl)) _ (fun _ _ ht => ht.flr) _
    exact (h6.foldl _ (fun _ _ ht => ht.resetStart) _).settleAll

theorem State.Inv.dlogStart (h : s.Inv) {p} : (s.dlogStart p).Inv := (h.setPart ..).setFld ..

theorem State.Inv.dlogCtl (h : s.Inv) {p v} : (s.dlogCtl p v).Inv := by
  unfold State.dlogCtl
  extract_lets _ s1 _ s2
  have h1 : s1.Inv := ite_either (h.setFld ..) h
  have h2 : s2.Inv := (ite_either (h1.setFld ..) h1).setFld ..
  exact ite_either ((h2.setFld ..).setFld ..).dlogStart (ite_either h2.dlogStart h2)

theorem execDlogEnable_kept (h : s.Inv) {part value} : Kept (execDlogEnable part value s) := unit_kept (h.sup (fun _ ht => ht.dlogCtl))
theorem execDlogRound_kept (h : s.Inv) {part} : Kept (execDlogRound part s) := unit_kept (h.sup (fun _ ht => ht.dlogStart))

theorem execDlogHeadWrite_kept (h : s.Inv) {part value} : Kept (execDlogHeadWrite part value s) :=
  unit_kept (h.sup (fun _ ht => ite_either (ht.setFld ..) ht))

theorem State.Inv.msixOut (h : s.Inv) {fn v} : (s.msixOut fn v).Inv := h.frame rfl

theorem execMsixSend_kept (h : s.Inv) {fn vector} : Kept (execMsixSend fn vector s) := by
  unfold execMsixSend
  extract_lets s1
  have h1 : s1.Inv := h.frame rfl
  exact unit_kept (ite_either h (ite_either (h1.setFld ..) h1.msixOut))

theorem execMsixUnmask_kept (h : s.Inv) {fn vector} : Kept (execMsixUnmask fn vector s) := by
  unfold execMsixUnmask
  extract_lets s1
  have h1 : s1.Inv := h.setFld ..
  exact unit_kept (ite_either h (ite_either h.rejectInput (ite_either (h1.setFld ..).msixOut h1)))

/-! ### Power, clocks and telemetry -/

theorem State.Inv.pwrMeter (h : s.Inv) : s.pwrMeter.Inv := by
  unfold State.pwrMeter
  extract_lets _ s1
  have h1 : s1.Inv := ite_either (h.bump ..) h
  exact (ite_either h1 (h1.bump ..)).frame rfl

theorem State.Inv.setClk (h : s.Inv) {f mhz} : (s.setClk f mhz).Inv := (h.frame (by rfl)).setFld ..
theorem execTclkSet_kept (h : s.Inv) {frond value} : Kept (execTclkSet frond value s) := unit_kept (ite_either (h.setFld ..) h)

theorem execTclkSwitch_kept (h : s.Inv) {frond} : Kept (execTclkSwitch frond s) := by
  unfold execTclkSwitch
  extract_lets s1
  have h1 : s1.Inv := h.setFld ..
  exact unit_kept (ite_either h (ite_either h1 h1.pwrMeter.setClk))

theorem State.Inv.lowFrond (h : s.Inv) {f} : (s.lowFrond f).Inv := (h.setFld ..).setClk

theorem State.Inv.lowCause (h : s.Inv) {bit status} : (s.lowCause bit status).Inv := by
  unfold State.lowCause
  extract_lets s1 _ s2
  have h1 : s1.Inv := h.pwrMeter.setFld ..
  have h2 : s2.Inv := ite_either h1 (((h1.setFld ..).setFld ..).foldl _ (fun _ _ ht => ht.lowFrond) _)
  split
  · exact h2.ras ..
  · exact ite_either h2 (h2.ras ..)

theorem State.Inv.lowEnd (h : s.Inv) : s.lowEnd.Inv := ite_either h ((h.pwrMeter.setFld ..).foldl _ (fun _ _ ht => ht.setFld ..) _)

theorem execCapFail_kept (h : s.Inv) : Kept (execCapFail s) := by
  unfold execCapFail
  refine kept_next ?_
  split
  · exact ite_either h (h.lowCause.frame (by rfl))
  · exact h

theorem State.Inv.setB (h : s.Inv) {b} : (s.setB b).Inv := ite_either h (h.pwrMeter.setFld ..)
theorem State.Inv.sensorBad (h : s.Inv) {unit} : (s.sensorBad unit).Inv := (h.setFld ..).sensorEvent
theorem State.Inv.powerBad (h : s.Inv) : s.powerBad.Inv := ((ite_either h h.sensorBad).frame (by rfl)).setB

theorem State.Inv.capLoop (h : s.Inv) {p} : (s.capLoop p).Inv := by
  unfold State.capLoop
  extract_lets _ _ _ _ _ _ s1
  have h1 : s1.Inv := (ite_either h h.setB).frame rfl
  split
  · exact ite_either h1 (h1.frame (by rfl)).lowEnd
  · exact h1

theorem State.Inv.takePower (h : s.Inv) {r r'} : (s.takePower r r').Inv := by
  unfold State.takePower
  extract_lets _ s1
  have h1 : s1.Inv := h.frame rfl
  split
  · extract_lets s2
    have h2 : s2.Inv := (h1.setFld ..).setFld ..
    exact ite_either h1.powerBad (ite_either (h2.frame (by rfl)).setB (h2.frame (by rfl)).capLoop)
  · exact ite_either h.powerBad h

theorem State.Inv.readSensor (h : s.Inv) {k v} : (s.readSensor k v).Inv := by
  unfold State.readSensor
  split
  exact ite_either (h.frame (by rfl)).sensorBad (h.frame (by rfl))

theorem State.Inv.thermal (h : s.Inv) {f} : (s.thermal f).Inv := by
  have h1 {x y} : ((s.setFld (tclkReg f 47 40) x).setFld (tclkReg f 39 32) y).Inv := (h.setFld ..).setFld ..
  have hp {u : State} {x} (hu : u.Inv) : { u with pwr := x }.Inv := hu.frame rfl
  exact ite_either (ite_either (ite_either (hp h1) ((hp h1).setFld ..)) h1)
    (ite_either (((ite_either (hp h1) (hp h1).lowFrond).setFld ..).ras ..) h1)

theorem State.Inv.noteHot (h : s.Inv) {cause unit hot} : (s.noteHot cause unit hot).Inv :=
  ite_either (ite_either h (h.frame (by rfl))) (ite_either h (h.frame (by rfl)))

theorem State.Inv.energy (h : s.Inv) {off n} : (s.energy off n).Inv := ite_either h (h.bump ..)

theorem State.Inv.tileEnergy (h : s.Inv) {tile q n} : (s.tileEnergy tile q n).Inv := by
  unfold State.tileEnergy
  split
  · exact h.energy
  · split
    · exact h.energy
    · exact h

theorem State.Inv.shareTile (h : s.Inv) {tile share} : (s.shareTile tile share).Inv := by
  unfold State.shareTile
  extract_lets _ _
  split
  next e =>
    refine State.Inv.tileEnergy (.of_pair ?_ e)
    refine State.Inv.foldl_fst (p := (_, _)) h _ (fun _ _ ht => ?_) _
    exact ht.tileEnergy

theorem State.Inv.charges (h : s.Inv) {r} : (s.charges r).Inv := by
  unfold State.charges
  extract_lets watts
  have hw {u : State} {v} (hu : u.Inv) : (watts u v).2.Inv := by
    unfold watts
    split
    · exact hu
    · exact hu.draw
  split
  next e =>
    have ht := (hw h).of_snd e
    split
    next e =>
      extract_lets s1 s2 s3
      have h1 : s1.Inv := ((hw ht).of_snd e).energy.energy
      have h2 : s2.Inv := h1.foldl _ (fun _ _ hu => ite_either hu (hu.foldl _ (fun _ _ hv => hv.shareTile) _)) _
      have h3 : s3.Inv := h2.foldl _ (fun _ _ hu => hu.energy) _
      exact h3.frame rfl

theorem execPowerSample_kept (h : s.Inv) {r} : Kept (execPowerSample r s) := by
  unfold execPowerSample
  extract_lets _ _ _ _ _ _ _ _ _ s1 s2
  have h1 : s1.Inv := (((((((h.reach ..).pwrMeter.frame (by rfl)).charges.foldl _ (fun _ _ ht => ht.readSensor) _).foldl _
    (fun _ _ ht => ht.thermal)
    _).setFld ..).foldl _ (fun _ _ ht => ht.noteHot) _).foldl _ (fun _ _ ht => ht.noteHot) _).foldl _ (fun _ _ ht => ht.noteHot) _
  have h2 : s2.Inv := ite_either (h1.setFld ..) h1
  exact kept_next (ite_either h (ite_either h2 h2.takePower))

theorem execSensorTimeout_kept (h : s.Inv) {sensor} : Kept (execSensorTimeout sensor s) := by
  unfold execSensorTimeout
  split
  · exact kept_next (ite_either h (h.reach ..).powerBad)
  · exact kept_next (ite_either h (h.reach ..).powerBad)
  · exact unit_kept (ite_either h ((h.reach ..).foldl _ (fun _ _ ht => ht.readSensor) _))

theorem execPmbusPoll_kept (h : s.Inv) {r} : Kept (execPmbusPoll r s) :=
  kept_next (ite_either h (ite_either h.powerBad ((h.frame (by rfl)).setFld ..)))

theorem State.Inv.writeCap (h : s.Inv) {v} : (s.writeCap v).Inv := h.setFld ..
theorem execPwrCapWrite_kept (h : s.Inv) {value} : Kept (execPwrCapWrite value s) := kept_next (ite_either h.writeCap h)

theorem State.Inv.sendPace (h : s.Inv) {b} : (s.sendPace b).Inv :=
  ((h.foldl _ (fun _ _ ht => ite_either ht (ht.foldl _ (fun _ _ hu => hu.ctl) _)) _).frame (by rfl))

theorem execPaceSend_kept (h : s.Inv) : Kept (execPaceSend s) :=
  kept_next (h.sup (fun _ ht => ite_either (ite_either ht ht.sendPace) (ite_either ht.sendPace (ht.reach ..).sendPace)))

theorem State.Inv.latchOne (h : s.Inv) {off v} : (s.latchOne off v).Inv :=
  ite_either (h.setWord ..) (ite_either (h.setFld ..) (h.setWord ..))

theorem State.Inv.latch (h : s.Inv) {tEnd} : (s.latch tEnd).Inv := by
  unfold State.latch
  extract_lets _ s1
  have h1 : s1.Inv := ⟨h.mem, h.host, tabWf_filter _ h.regs, h.time⟩
  exact (((((h1.foldl _ (fun _ _ ht => ht.latchOne) _).foldl _ (fun _ _ ht => ht.setWord ..) _).setWord ..).setWord ..).setWord
    ..).setWord ..

theorem execTelemetryEpoch_kept (h : s.Inv) : Kept (execTelemetryEpoch s) := by
  unfold execTelemetryEpoch
  extract_lets _ s1 s2 _ s3
  have h1 : s1.Inv := (h.reach ..).pwrMeter.latch
  have h2 : s2.Inv := (h1.setFld ..).setFld ..
  clear_value s2
  have h3 : s3.Inv := h2.frame rfl
  exact kept_next (ite_either h h3.heatUpdate.movePlan)

theorem execTelemetryLatchEnd_kept (h : s.Inv) : Kept (execTelemetryLatchEnd s) := kept_next (ite_either h (h.setFld ..))

/-! ### The Trust Controller -/

theorem State.Inv.setFw (h : s.Inv) {c f} : (s.setFw c f).Inv := h.frame rfl
theorem State.Inv.released (h : s.Inv) {c} : (s.released c).Inv := h.frame rfl

theorem State.Inv.bootImage (h : s.Inv) {c} : OptInv (s.bootImage c) :=
  ite_either (opt_some h.setFw.released) (ite_either (opt_some h.setFw.released) opt_none)

theorem State.Inv.reply (h : s.Inv) {via r} : (s.reply via r).Inv := h.frame rfl
theorem State.Inv.setTrust (h : s.Inv) {t} : (s.setTrust t).Inv := (h.frame (by rfl)).setFld ..

theorem onConn_kept (h : s.Inv) {f : State → State} (hf : ∀ u, u.Inv → (f u).Inv) {via need} : Kept (onConn via need s f) :=
  kept_next (ite_either h (ite_either h.reply (hf _ h)))

theorem State.Inv.setConn (h : s.Inv) {via n} : (s.setConn via n).Inv := h.setTrust

theorem execNegotiateAlgorithms_kept (h : s.Inv) {via algs} : Kept (execNegotiateAlgorithms via algs s) :=
  onConn_kept h (fun _ ht => ite_either ht.setConn.reply ht.reply)

theorem State.Inv.deriveKeys (h : s.Inv) : s.deriveKeys.Inv := h.frame rfl

theorem execSpdmChallenge_kept (h : s.Inv) {via slot} : Kept (execSpdmChallenge via slot s) :=
  onConn_kept h (fun _ ht => ite_either ht.reply ht.setTrust.reply)

theorem execKeyExchange_kept (h : s.Inv) {via} : Kept (execKeyExchange via s) := by
  unfold execKeyExchange
  refine onConn_kept h (fun _ ht => ?_)
  split
  · exact ht.reply
  · exact ht.setTrust.reply

theorem onSess_kept (h : s.Inv) {f : Sess → State → State} (hf : ∀ x u, u.Inv → (f x u).Inv) {sess} : Kept (onSess sess s f) := by
  unfold onSess
  refine kept_next ?_
  split
  · exact ite_either (hf _ _ h) h
  · exact h

theorem onOpen_kept (h : s.Inv) {f : Sess → State → State} (hf : ∀ x u, u.Inv → (f x u).Inv) {sess} : Kept (onOpen sess s f) :=
  onSess_kept h (fun _ _ ht => ite_either (hf _ _ ht) ht.reply)

theorem State.Inv.dropSess (h : s.Inv) {n} : (s.dropSess n).Inv := h.setTrust

theorem execSpdmFinish_kept (h : s.Inv) {sess auth} : Kept (execSpdmFinish sess auth s) :=
  onSess_kept h (fun _ _ ht => ite_either ht.reply (ite_either ht.dropSess.reply ht.setTrust.reply))

theorem execEndSession_kept (h : s.Inv) {sess} : Kept (execEndSession sess s) := onOpen_kept h (fun _ _ ht => ht.dropSess.reply)

theorem execKzKeySet_kept (h : s.Inv) {sess slot type force key} : Kept (execKzKeySet sess slot type force key s) := by
  unfold execKzKeySet
  refine onOpen_kept h (fun _ _ ht => ite_either ht.reply (ite_either ht.reply ?_))
  split
  next e => exact (ht.installOn.of_pair e).reply.settleAll

theorem execIdeKm_kept (h : s.Inv) {sess op} : Kept (execIdeKm sess op s) :=
  onOpen_kept h (fun _ _ ht => ite_either ht.reply (ite_either (ite_either ht.setTrust.reply ht.reply) ht.setTrust.reply))

theorem execIdeIntegrityFail_kept (h : s.Inv) {stream} : Kept (execIdeIntegrityFail stream s) :=
  kept_next (ite_either h (h.setTrust.foldl _ (fun _ _ ht => ite_either ht.tdiFail ht) _).settleAll)

theorem State.Inv.flushPages (h : s.Inv) {grant} : (s.flushPages grant).1.Inv :=
  .ite_fst h.recallAll ((h.foldl _ (fun _ _ ht => ht.loseHost) _).foldl _ (fun _ _ ht => ht.evict) _)

theorem execLockInterface_kept (h : s.Inv) {sess part stream} : Kept (execLockInterface sess part stream s) := by
  unfold execLockInterface
  refine ite_either kept_fault (onOpen_kept h (fun _ _ ht => ite_either ht.reply ?_))
  split
  next e => exact ht.flushPages.of_pair e
  next e =>
    have hu := ht.flushPages.of_pair e
    split
    next e => exact (hu.draw.of_snd e).putKey.setTdi.reply

theorem execStartInterface_kept (h : s.Inv) {sess part} : Kept (execStartInterface sess part s) :=
  ite_either kept_fault (onOpen_kept h (fun _ _ ht => ite_either ht.setTdi.reply.settleAll ht.reply))

theorem execStopInterface_kept (h : s.Inv) {sess part} : Kept (execStopInterface sess part s) := by
  unfold execStopInterface
  refine ite_either kept_fault (onOpen_kept h (fun _ _ ht => ite_either ht.reply ?_))
  split
  · exact ite_either ht.resetStart (ht.setPart ..)
  · exact ht.setPart ..
  · exact ht.reply

theorem execGetDeviceInterfaceReport_kept (h : s.Inv) {sess part} : Kept (execGetDeviceInterfaceReport sess part s) :=
  ite_either kept_fault (onOpen_kept h (fun _ _ ht => ht.reply))

theorem execTdiError_kept (h : s.Inv) {part why} : Kept (execTdiError part why s) := unit_kept (ite_either h.tdiFail.settleAll h)
theorem State.Inv.voidMem (h : s.Inv) : s.voidMem.Inv := h.draw.setMem (tabWf_map _ h.draw.mem)

theorem execKzUnlock_kept (h : s.Inv) {via sess req} : Kept (execKzUnlock via sess req s) :=
  onConn_kept h (fun _ ht => ite_either ht.rejectInput.reply (ite_either ht.reply
    (((ht.setTrust.frame (by rfl)).voidMem.setFld ..).setFld ..).setTrust.reply))

theorem execFirmwareUpdate_kept (h : s.Inv) {comp image} : Kept (execFirmwareUpdate comp image s) :=
  unit_kept (ite_either h h.setFw.reply)

theorem State.Inv.fwRecord (h : s.Inv) {comp i} : (s.fwRecord comp i).Inv := h.ras ..

theorem execActivateFirmware_kept (h : s.Inv) {comp} : Kept (execActivateFirmware comp s) := by
  unfold execActivateFirmware
  extract_lets _ _ s1 s2
  have h1 : s1.Inv := h.reply
  have h2 : s2.Inv := h1.setFw
  exact unit_kept (ite_either h (ite_either h.reply (ite_either h1.setFw (ite_either (h2.frame (by rfl)) h2).setTrust.fwRecord)))

/-! ### Boot, resets and trips -/

/-- The registers that a reset keeps are in their form: FAB_ELS keeps present alone, and its other fields reset to 0 (R452). -/
theorem tabWf_clearedRegs {lo : Nat} {t : Tab W64} (h : tabWfFrom regReset lo t = true) : tabWfFrom regReset lo
    (t.map fun x => if isIn 0x00600100 0x00600120 x.1 then (x.1, 1) else x) = true := by
  induction t generalizing lo with
  | nil => rfl
  | cons e t ih =>
    simp only [tabWfFrom, Bool.and_eq_true, decide_eq_true_eq] at h
    obtain ⟨⟨hlo, hne⟩, ht⟩ := h
    rw [List.map_cons]
    split
    next hi =>
      simp only [tabWfFrom, Bool.and_eq_true, decide_eq_true_eq]
      exact ⟨⟨hlo, one_ne_regReset_fabEls hi⟩, ih ht⟩
    next =>
      simp only [tabWfFrom, Bool.and_eq_true, decide_eq_true_eq]
      exact ⟨⟨hlo, hne⟩, ih ht⟩

theorem State.Inv.cleared (h : s.Inv) : s.cleared.Inv :=
  ⟨rfl, h.host, tabWf_clearedRegs (tabWf_filter _ h.regs), Nat.le_refl _⟩

theorem State.Inv.powerOff (h : s.Inv) : s.powerOff.Inv :=
  ⟨h.cleared.mem, h.cleared.host, tabWf_filter _ h.cleared.regs, h.cleared.time⟩

theorem State.Inv.railsOff (h : s.Inv) {supply inRange} : (s.railsOff supply inRange).Inv := h.cleared.frame rfl

theorem execInputInRange_kept (h : s.Inv) {millivolts els} : Kept (execInputInRange millivolts els s) :=
  kept_next (ite_either h (ite_either (h.frame (by rfl)) ((h.powerOff.frame (by rfl)).foldl _ (fun _ _ ht => ht.setFld ..) _)))

theorem execInputBelowRange_kept (h : s.Inv) {millivolts} : Kept (execInputBelowRange millivolts s) :=
  kept_next (ite_either h (ite_either h.powerOff (ite_either (h.frame (by rfl)) h.railsOff)))

theorem State.Inv.elsStart (h : s.Inv) : s.elsStart.Inv := h.frame rfl

theorem State.Inv.boot (h : s.Inv) {straps} : (s.boot straps).Inv := by
  have hf {u : State} {x} (hu : u.Inv) : { u with fuses := x }.Inv := hu.frame rfl
  have hp {u : State} {x} (hu : u.Inv) : { u with pwr := x }.Inv := hu.frame rfl
  have ht {u : State} {k x} (hu : u.Inv) : { u with hashKey := k, trust := x }.Inv := hu.frame rfl
  exact ht (((((((hp (hf h).cleared).setFld ..).setFld ..).setFld ..).setFld ..).setWord ..).elsStart.draw.draw.draw)

theorem execRailsUp_kept (h : s.Inv) : Kept (execRailsUp s) := by
  unfold execRailsUp
  extract_lets _ s1
  have h1 : s1.Inv := (h.frame (by rfl)).elsStart
  refine kept_next (ite_either h ?_)
  split
  · exact h1.boot
  · exact h1

theorem execPerstDeassert_kept (h : s.Inv) {straps} : Kept (execPerstDeassert straps s) :=
  kept_next (ite_either h (ite_either h.boot (h.frame (by rfl))))

theorem execPerstAssert_kept (h : s.Inv) {ns} : Kept (execPerstAssert ns s) :=
  kept_next (ite_either h (ite_either h.rejectInput (ite_either (h.frame (by rfl)) ((h.cleared.setFld ..).frame (by rfl)))))

theorem State.Inv.bootRecord (h : s.Inv) : s.bootRecord.Inv := h.ras ..
theorem State.Inv.recovery (h : s.Inv) : s.recovery.Inv := ((h.setFld ..).setFld ..).bootRecord

theorem execTrustStageDone_kept (h : s.Inv) : Kept (execTrustStageDone s) := by
  unfold execTrustStageDone
  refine kept_next (ite_either h ?_)
  extract_lets _
  split
  · exact h.recovery
  next e =>
    extract_lets _ s1 _ s2
    have h1 : s1.Inv := ((h.bootImage.of_some e).setFld ..).setFld ..
    have h2 : s2.Inv := h1.setTrust.deriveKeys
    exact (ite_either h2 h2.fwRecord).setFld ..

theorem State.Inv.bootImages (h : s.Inv) {xs} : (s.bootImages xs).1.Inv := by
  induction xs generalizing s with
  | nil => exact h
  | cons x xs ih =>
    unfold State.bootImages
    split
    next e => exact ih (h.bootImage.of_some e)
    · exact h

theorem execImagesStageDone_kept (h : s.Inv) : Kept (execImagesStageDone s) := by
  unfold execImagesStageDone
  refine kept_next (ite_either h ?_)
  split
  next e => exact (h.bootImages.of_pair e).setFld ..
  next e => exact (h.bootImages.of_pair e).recovery

theorem State.Inv.substitute (h : s.Inv) {t} : (s.substitute t).Inv := by
  have hm {u : State} {x y} (hu : u.Inv) : { u with tmap := x, failedPhys := y }.Inv := hu.frame rfl
  unfold State.substitute
  extract_lets _ _
  split
  next e => exact (hm (h.draw.of_snd e)).ras ..

theorem State.Inv.noSpareLeft (h : s.Inv) {t} : (s.noSpareLeft t).Inv := ite_either h ((h.frame (by rfl)).ras ..)
theorem State.Inv.disableGroup (h : s.Inv) {g} : (s.disableGroup g).Inv := ite_either h ((h.setFld ..).setFld ..)
theorem State.Inv.badTile (h : s.Inv) {t} : (s.badTile t).Inv := ite_either h.noSpareLeft.disableGroup h.substitute
theorem State.Inv.failed (h : s.Inv) : s.failed.Inv := (h.setFld ..).bootRecord

theorem execSelftestStageDone_kept (h : s.Inv) {r} : Kept (execSelftestStageDone r s) := by
  unfold execSelftestStageDone
  extract_lets _ _ s1 s2 s3 s4
  have h1 : s1.Inv := h.frame rfl
  have h2 : s2.Inv := h1.foldl _ (fun _ _ ht => ht.disableGroup) _
  have h3 : s3.Inv := h2.foldl _ (fun _ _ ht => ht.badTile) _
  have h4 : s4.Inv := h3.foldl _ (fun _ _ ht => ht.setFld ..) _
  exact unit_kept (ite_either h (ite_either h.failed (((h4.setFld ..).setFld ..).setFld ..)))

theorem State.Inv.layMap (h : s.Inv) {fast cap} : (s.layMap fast cap).Inv := by
  unfold State.layMap
  extract_lets out s1 s2 new s3 s4 s5
  have ho {u : State} {t c} (hu : u.Inv) : (out u t c).Inv := ite_either hu hu.setChan
  have h2 : s2.Inv := (h.foldl _ (fun _ _ ht => ho ht) _).foldl _ (fun _ _ ht => ho ht) _
  have hn {u : State} {t c} (hu : u.Inv) : (new t u c).Inv := ite_either hu ((ho hu).ras ..)
  have h4 : s4.Inv := (h2.foldl _ (fun _ _ ht => hn ht) _).foldl _ (fun _ _ ht => hn ht) _
  have h5 : s5.Inv := h4.foldl _ (fun _ _ ht => ht.setChan) _
  clear_value s5
  exact h5.frame rfl

theorem State.Inv.hostSetUp (h : s.Inv) : s.hostSetUp.Inv := h.frame rfl

theorem execMemoryStageDone_kept (h : s.Inv) {r ms} : Kept (execMemoryStageDone r ms s) := by
  unfold execMemoryStageDone
  extract_lets s1 s2 s3 _ _ s4 s5
  have h2 : s2.Inv := ((h.layMap.setFld ..).setFld ..).setFld ..
  have h3 : s3.Inv := h2.bootRecord
  have hv {u : State} {x} (hu : u.Inv) : { u with svc := x }.Inv := hu.frame rfl
  have h4 : s4.Inv := hv h3
  have h5 : s5.Inv := h4.foldl _ (fun _ _ ht => ht.ras ..) _
  exact unit_kept (ite_either h (h5.hostSetUp.foldl _ (fun _ _ ht => ht.portTrain) _))

theorem execHostLinkTrained_kept (h : s.Inv) : Kept (execHostLinkTrained s) := by
  unfold execHostLinkTrained
  extract_lets s1
  have h1 : s1.Inv := h.frame rfl
  exact kept_next (ite_either h (ite_either h1.hostSetUp h1))

theorem execHotReset_kept (h : s.Inv) : Kept (execHotReset s) :=
  kept_next (h.sup (fun _ ht => ite_either ht.hotReset (ite_either ht (ht.frame (by rfl)))))

theorem State.Inv.fatal (h : s.Inv) {why} : (s.fatal why).Inv := by
  unfold State.fatal
  extract_lets _ _ _ _ s1
  have h1 : s1.Inv := (((h.setFld ..).foldl _ (fun _ _ ht => ht.loseCtx) _).foldl _ (fun _ _ ht => ht.endKernel) _).frame rfl
  exact ite_either h (((ite_either ((h1.setFld ..).setFld ..) h1).ras ..).frame (by rfl))

theorem execFatalError_kept (h : s.Inv) {why} : Kept (execFatalError why s) := kept_next h.fatal

theorem execStipeFlitReplay_kept (h : s.Inv) {link ok} : Kept (execStipeFlitReplay link ok s) := by
  unfold execStipeFlitReplay
  extract_lets _ s1
  have h1 : s1.Inv := h.frame rfl
  exact kept_next (ite_either h (ite_either (h.frame (by rfl)) (ite_either h1.fatal h1)))

theorem execTrip_kept (h : s.Inv) {cause u} : Kept (execTrip cause u s) := by
  unfold execTrip
  refine unit_kept (ite_either h ?_)
  split
  · exact ite_either h (h.frame (by rfl)).railsOff
  · exact h

/-! ### Tile errors, spares and self-test -/

theorem State.Inv.quarantine (h : s.Inv) {t sup} : (s.quarantine t sup).Inv := by
  unfold State.quarantine
  extract_lets s1
  have h1 : s1.Inv := h.frame rfl
  exact ite_either h (ite_either h1.noSpareLeft.loseOut h1)

theorem State.Inv.poisonClause (h : s.Inv) {a} : (s.poisonClause a).Inv := ite_either h (h.clauseFault ..)

theorem execTileErrorReport_kept (h : s.Inv) {tile err} : Kept (execTileErrorReport tile err s) := by
  unfold execTileErrorReport
  extract_lets _ _ hit _ s1
  have h1 : s1.Inv := (h.frame (by rfl)).rasCount
  have hh {e} : (hit s e).Inv := by
    unfold hit
    split
    · exact ite_either h.poisonClause h
    · exact h
  refine unit_kept (ite_either h ?_)
  split
  · exact ite_either (h1.rasAppend.raiseVec ..).quarantine h1
  · exact (hh.ras ..).quarantine
  · exact (hh.ras ..).quarantine

theorem State.Inv.spareEnd (h : s.Inv) {st} : (s.spareEnd st).Inv := (h.setFld ..).setFld ..

theorem State.Inv.spareOp (h : s.Inv) {f : State → State} (hf : ∀ u, u.Inv → (f u).Inv) {op tile} : (s.spareOp op tile f).Inv := by
  unfold State.spareOp
  extract_lets s1
  have h1 : s1.Inv := (h.setFld ..).setFld ..
  exact ite_either h1 (hf _ (h1.setFld ..))

theorem execSpareQuarantine_kept (h : s.Inv) {tile} : Kept (execSpareQuarantine tile s) := by
  unfold execSpareQuarantine
  refine kept_next (h.ans (fun _ ht => ht.spareOp (fun _ hu => ?_)))
  exact ite_either hu.spareEnd (ite_either hu.spareEnd (ite_either hu.quarantine.spareEnd hu.quarantine))

theorem execSpareCancel_kept (h : s.Inv) {tile} : Kept (execSpareCancel tile s) :=
  kept_next (h.ans (fun _ ht => ht.spareOp (fun _ hu => ite_either hu.spareEnd
    (ite_either (hu.setFld ..) (ite_either (hu.frame (by rfl)).spareEnd hu.spareEnd)))))

theorem execTileSubstitute_kept (h : s.Inv) {tile} : Kept (execTileSubstitute tile s) := by
  have hq {u : State} {x} (hu : u.Inv) : { u with quarantined := x }.Inv := hu.frame rfl
  exact unit_kept (ite_either h (ite_either (ite_either h.noSpareLeft.loseOut.spareEnd h.noSpareLeft.loseOut)
    (ite_either (hq (h.substitute.setTile ..)).spareEnd (hq (h.substitute.setTile ..)))))

theorem State.Inv.bistOp (h : s.Inv) {kind u seed} : (s.bistOp kind u seed).Inv := by
  have hb {u : State} {x} (hu : u.Inv) : { u with bist := x }.Inv := hu.frame rfl
  have h1 {x y z} : (((s.setFld (bistCmd 2 0) x).setFld (bistCmd 16 8) y).setFld (bistCmd 47 32) z).Inv :=
    ((h.setFld ..).setFld ..).setFld ..
  exact ite_either h1 (ite_either (h1.setFld ..) (ite_either (h1.setFld ..) (hb (h1.setFld ..))))

theorem execBistDone_kept (h : s.Inv) {r} : Kept (execBistDone r s) := by
  have hf {u : State} {x} (hu : u.Inv) : { u with failedPhys := x }.Inv := hu.frame rfl
  have hb {u : State} (hu : u.Inv) : { u with bist := none }.Inv := hu.frame rfl
  unfold execBistDone
  refine kept_next ?_
  split
  · exact h
  · extract_lets s1 _ s2 s3 s4 s5
    have h1 : s1.Inv := h.reach ..
    have h3 : s3.Inv := ((((h1.setFld ..).setFld ..).setFld ..).setWord ..).setWord ..
    have h4 : s4.Inv := ite_either (h3.foldl _ (fun _ _ ht => ht.setTile ..) _) h3
    have h5 : s5.Inv := ite_either (hf h4) h4
    exact ((hb h5).setFld ..).ras ..

theorem execServiceRecordWrite_kept (h : s.Inv) : Kept (execServiceRecordWrite s) := kept_next (ite_either h (h.frame (by rfl)))

theorem execChannelRecal_kept (h : s.Inv) {fast channel temp} : Kept (execChannelRecal fast channel temp s) := by
  unfold execChannelRecal
  extract_lets _ s1
  have h1 : s1.Inv := by
    unfold s1
    split
    · exact ite_either h (h.reach ..)
    · exact h
  clear_value s1
  exact unit_kept (ite_either h (h1.frame (by rfl)))

theorem execI3cStallTimeout_kept (h : s.Inv) : Kept (execI3cStallTimeout s) := kept_next (ite_either h.rejectInput h)

theorem execPcieCompletionTimeout_kept (h : s.Inv) {req} : Kept (execPcieCompletionTimeout req s) := by
  unfold execPcieCompletionTimeout
  refine kept_next ?_
  split
  · exact h.rejectInput.hostDone
  · exact h

/-! ### Writes of registers, and BAR4 -/

theorem State.Inv.run (h : s.Inv) {r : Res} (hr : Kept r) : (s.run r).Inv := by
  unfold State.run
  split
  next e => exact hr _ rfl
  · exact h

theorem State.Inv.putBits (h : s.Inv) {k mask v} : (s.putBits k mask v).Inv := h.setWord ..
theorem State.Inv.w1c (h : s.Inv) {f v} : (s.w1c f v).Inv := h.setFld ..

theorem State.Inv.writeNeg (h : s.Inv) {fn o v} : (s.writeNeg fn o v).Inv := by
  unfold State.writeNeg
  refine ite_either (ite_either h.tdiFail.settleAll (ite_either h h.putBits)) ?_
  refine ite_either (ite_either (h.run (execNegCommit_kept h)) h) ?_
  split
  · exact ite_either h.tdiFail.settleAll (ite_either h h.putBits)
  · exact h

theorem State.Inv.stage (h : s.Inv) {key go v} : (s.stage key go v).Inv := ite_either h (h.setWord ..)

theorem State.Inv.writePrt (h : s.Inv) {o v} : (s.writePrt o v).Inv := by
  unfold State.writePrt
  refine ite_either h.stage ?_
  refine ite_either ?_ (ite_either h (ite_either (ite_either (h.setWord ..) h)
    (ite_either (h.run (execDlogEnable_kept h)) (ite_either (h.run (execDlogHeadWrite_kept h)) h))))
  refine ite_either h.prtFields ?_
  split
  · exact h.run (execPrtCreate_kept h)
  · exact h.run (execPrtDestroy_kept h)
  · exact h.run (execPrtReset_kept h)
  · exact h.run (execPrtAssign_kept h)
  · exact h.run (execPrtUnassign_kept h)
  · exact h.run (execPrtGrow_kept h)
  · exact h.run (prtOp_kept h (fun _ ht => ht.prtDone))

theorem State.Inv.writeQue (h : s.Inv) {fn o v} : (s.writeQue fn o v).Inv := by
  unfold State.writeQue
  extract_lets _ _ s1
  have h1 : s1.Inv := h.run (execEvlogConfigWrite_kept h)
  refine ite_either h.stage ?_
  refine ite_either ?_ (ite_either h (ite_either (h.run (execEvlogConfigWrite_kept h))
    (ite_either (h1.run (execEvlogConfigWrite_kept h1)) (ite_either (h.run (execEvlogHeadWrite_kept h)) h))))
  refine ite_either ((h.setFld ..).setFld ..) ?_
  split
  · exact h.run (execQueCreate_kept h)
  · exact h.run (execQueStart_kept h)
  · exact h.run (execQueStop_kept h)
  · exact h.run (execQueDestroy_kept h)
  · exact (h.setFld ..).cmdDone

theorem State.Inv.writeCtx (h : s.Inv) {fn o v} : (s.writeCtx fn o v).Inv := by
  unfold State.writeCtx
  refine ite_either h.stage ?_
  refine ite_either ?_ (ite_either (h.setWord ..) (ite_either (ite_either (h.w1c.run (execCtxInv_kept h.w1c))
    ((h.w1c.setFld ..).setFld ..)) h))
  refine ite_either ((h.setFld ..).setFld ..) ?_
  split
  · exact h.run (execCtxCreate_kept (h.setFld ..))
  · exact h.run (execCtxDestroy_kept h)
  · exact h.run (execCtxQuery_kept h)
  · exact h.run (execCtxKill_kept h)
  · exact (h.setFld ..).cmdDone

theorem State.Inv.writeHerb (h : s.Inv) {fn o v} : (s.writeHerb fn o v).Inv := by
  unfold State.writeHerb
  refine ite_either (ite_either h (h.setFld ..)) (ite_either (ite_either h (h.setFld ..)) (ite_either ?_ (ite_either h.stage h)))
  refine ite_either h.herbFields ?_
  split
  · exact h.run (execHerbRegister_kept (h.setFld ..))
  · exact h.run (execHerbUnregister_kept h)
  · exact h.run (execHerbPin_kept h)
  · exact h.run (execHerbUnpin_kept h)
  · exact h.run (execHerbPrefetch_kept h)
  · exact h.run (herbOp_kept h (fun _ ht => ht))

theorem State.Inv.writeTier (h : s.Inv) {o v} : (s.writeTier o v).Inv := by
  unfold State.writeTier
  refine ite_either ((((h.setFld ..).setFld ..).setFld ..).setFld ..) (ite_either h.putBits (ite_either h.stage ?_))
  refine ite_either (ite_either h.tierCmd (h.setFld ..)) (ite_either (((h.setFld ..).setFld ..).setFld ..) ?_)
  split
  · exact h.setFld ..
  · exact h

theorem State.Inv.writeUc (h : s.Inv) {o v} : (s.writeUc o v).Inv := by
  unfold State.writeUc
  refine ite_either h.putBits (ite_either (ite_either (h.w1c.run (execHashRotRequest_kept h.w1c)) h.w1c) (ite_either h.putBits ?_))
  refine ite_either (h.setFld ..).w1c (ite_either (ite_either (h.w1c.run (execUcRegApply_kept h.w1c)) h.w1c) ?_)
  refine ite_either ((h.setFld ..).setFld ..) ?_
  split
  · exact h.putBits
  · split
    · exact h.putBits
    · split
      · exact h.putBits
      · exact h

theorem State.Inv.writeTmo (h : s.Inv) {v} : (s.writeTmo v).Inv := (((h.setFld ..).setFld ..).setFld ..).setFld ..

theorem State.Inv.writePort (h : s.Inv) {p v} : (s.writePort p v).Inv := by
  unfold State.writePort
  extract_lets _ s1 s2
  have h1 : s1.Inv := ((h.setFld ..).setFld ..).setFld ..
  have h2 : s2.Inv := ite_either (h1.run (execPortRetrain_kept h1)) h1
  exact ite_either (ite_either h2 h2.portDark) h2.portTrain

theorem State.Inv.writeCoh (h : s.Inv) {p r v} : (s.writeCoh p r v).Inv :=
  ite_either (h.run (execEpochWrite_kept h)) (ite_either (ite_either (h.run (execCohFenceSet_kept h)) h)
    (ite_either h.w1c (ite_either h (ite_either h.putBits (ite_either (h.setFld ..) h)))))

theorem State.Inv.writeFab (h : s.Inv) {o v} : (s.writeFab o v).Inv := by
  unfold State.writeFab
  refine ite_either (h.run (execFabIdSet_kept h)) (ite_either h.writeTmo ?_)
  split
  · exact ite_either (h.run (execElsSvc_kept h)) (h.setFld ..)
  · split
    · exact h.writePort
    · exact ite_either h.writeCoh (ite_either (h.setFld ..).repost (ite_either (ite_either (h.setFld ..) h)
        (ite_either (ite_either (h.setFld ..) h) h)))

theorem State.Inv.writePwr (h : s.Inv) {o v} : (s.writePwr o v).Inv := by
  unfold State.writePwr
  refine ite_either h.writeCap (ite_either ((h.setFld ..).setFld ..) (ite_either h.w1c ?_))
  split
  · exact h.run (execTclkSet_kept h)
  · exact h

theorem State.Inv.lockWrite (h : s.Inv) {f : State → State} (hf : ∀ u, u.Inv → (f u).Inv) {k} : (s.lockWrite k f).Inv :=
  ite_either h ((hf _ h).frame (by rfl))

theorem State.Inv.writeTc (h : s.Inv) {o v} : (s.writeTc o v).Inv := by
  unfold State.writeTc
  refine ite_either ((h.lockWrite (fun _ ht => ht.setFld ..)).setFld ..) (ite_either ?_ ?_)
  · refine ite_either h.putBits ?_
    split
    · exact h.run (execMbGenerate_kept h)
    · exact h.run (execMbSetPlain_kept h)
    · exact h.run (execMbErase_kept h)
    · exact h.run (execMbQuery_kept h)
    · exact h.run (mbOp_kept h (fun _ ht => ht))
  · split
    · exact h.lockWrite (fun _ ht => ht.setWord ..)
    · exact ite_either h.stage h

theorem State.Inv.writeRas (h : s.Inv) {o v} : (s.writeRas o v).Inv := by
  unfold State.writeRas
  refine ite_either h.putBits (ite_either (((h.setFld ..).setFld ..).setFld ..) (ite_either (ite_either h.bistOp h.putBits) ?_))
  refine ite_either (ite_either h.putBits ?_) h
  split
  · exact h.run (execSpareQuarantine_kept h)
  · exact h.run (execSpareCancel_kept h)
  · exact h.spareOp (fun _ ht => ht.spareEnd)

theorem State.Inv.writeMsix (h : s.Inv) {fn o v} : (s.writeMsix fn o v).Inv := by
  unfold State.writeMsix
  refine ite_either h ?_
  split
  · exact h.setFld ..
  · exact h.setFld ..
  · exact h.setFld ..
  · exact ite_either (h.setFld ..) (h.run (execMsixUnmask_kept h))

theorem State.Inv.writeReg (h : s.Inv) {fn o v} : (s.writeReg fn o v).Inv :=
  ite_either h.writeNeg (ite_either h.writeQue (ite_either h.writeCtx (ite_either (ite_either h h.writeHerb)
    (ite_either h.writeMsix (ite_either h (ite_either h.writePrt (ite_either h.writeTier
    (ite_either h.writeUc (ite_either h.writeFab (ite_either h.writePwr (ite_either h.writeTc
    (ite_either h.writeRas (ite_either (h.setFld ..) h)))))))))))))

theorem State.Inv.writeBar0 (h : s.Inv) {fn o bytes v} : (s.writeBar0 fn o bytes v).Inv :=
  ite_either (ite_either h.writeReg h.writeReg.writeReg) (ite_either h.rejectInput h.writeReg)

theorem State.Inv.writeBar2 (h : s.Inv) {fn o bytes v} : (s.writeBar2 fn o bytes v).Inv :=
  ite_either (h.run (execSqTail_kept h)) (ite_either (h.run (execCqHead_kept h))
    (ite_either (ite_either h.rejectInput (ite_either (h.run (execAbortAll_kept h)) (h.run (execAbort_kept h))))
    (ite_either h.rejectInput h)))

theorem execRegisterWrite_kept (h : s.Inv) {fn bar offset bytes value} : Kept (execRegisterWrite fn bar offset bytes value s) := by
  unfold execRegisterWrite
  refine unit_kept (ite_either h (ite_either h.rejectInput (ite_either (ite_either h.writeBar2 h) ?_)))
  split
  · exact h
  · exact ite_either h.writeBar0 h

theorem State.Inv.refuseBar4 (h : s.Inv) {fn a} : (s.refuseBar4 fn a).Inv := h.frame rfl

theorem State.Inv.doBar4 (h : s.Inv) {fn a ps} : (s.doBar4 fn a ps).Inv := by
  unfold State.doBar4
  extract_lets _
  split
  · split
    next e => exact (h.gateAll ..).of_pair e
    next e => exact ((h.gateAll ..).of_pair e).charge.storeAll ..
  · refine ite_either (h.frame (by rfl)) ?_
    split
    next e => exact (h.gateAll ..).of_pair e
    next e => exact ((h.gateAll ..).of_pair e).charge.frame rfl

theorem execBar4Access_kept (h : s.Inv) {fn a} : Kept (execBar4Access fn a s) := by
  unfold execBar4Access
  refine unit_kept (ite_either h (ite_either (ite_either h (h.frame (by rfl))) (ite_either h.refuseBar4 ?_)))
  refine ite_either (ite_either h.rejectInput h.refuseBar4) (ite_either (ite_either h.rejectInput (h.rejectInput.frame (by rfl))) ?_)
  split
  · exact ite_either h.rejectInput h.refuseBar4
  · exact ite_either h.doBar4 h.refuseBar4

end Sys2Proof.Machine
end

section
/-! PROOFS of the unified cache's statements: the invariant of a state. -/

namespace Sys2Proof.Machine

variable {s t : State}

/-- Every command keeps the invariant of the state. -/
theorem exec_kept (h : s.Inv) (i : Instr) : Kept (exec i s) := by
  unfold exec
  cases i with
  | iadd | isub | ineg | iabs | imin | imax | iaddc | isubb | imul | imulh | imad | idiv | irem | imulw | and | or | xor | andn | not
  | popc | clz | ctz | brev | bfe | bfi | prmt | shl | shr | sar | mov | fadd | fsub | fmul | ffma | fmin | fmax | fabs | fneg | fdiv
  | fsqrt | fclass | exp2 | log2 | rcp | rsq | tanh => exact issueAlu_kept h
  | setp | sel | pnot | p2u | u2p | movi | movih | cvt | srd | swr | v2u | smxstep | shfl | vote | nop | fence =>
    exact unit_kept (issueClause_inv h)
  | pand | por | pxor => exact issuePred2_kept h
  | maskgen => exact execMaskgen_kept h
  | ld | lds => exact loadMeaning_kept h
  | st => exact execSt_kept h
  | ldu => exact execLdu_kept h
  | stu => exact execStu_kept h
  | pref => exact execPref_kept h
  | atomAdd | atomMinu | atomMins | atomMaxu | atomMaxs | atomAnd | atomOr | atomXor | atomExch | atomCas | atomFadd =>
    exact atomMeaning_kept h
  | br => exact execBr_kept h
  | brx => exact execBrx_kept h
  | call => exact execCall_kept h
  | split => exact execSplit_kept h
  | join => exact execJoin_kept h
  | bar => exact execBar_kept h
  | wait => exact execWait_kept h
  | exit => exact execExit_kept h
  | mma | mmas | accld | accst | accz => exact issueMat_kept h
  | matrixFinish => exact execMatrixFinish_kept h
  | blockPlace => exact execBlockPlace_kept h
  | argumentReadReturn => exact execArgumentReadReturn_kept h
  | promote => exact execPromote_kept h
  | loaddepDemote => exact execLoaddepDemote_kept h
  | waitLimitExpire | sleepEnd => exact unit_kept (ite_either (h.reachCycle ..).endWaitAt h)
  | watchRereadReturn => exact execWatchRereadReturn_kept h
  | hostWatchPoll => exact execHostWatchPoll_kept h
  | qsc => exact execQsc_kept h
  | deadlockDeclare => exact execDeadlockDeclare_kept h
  | stop => exact execStop_kept h
  | switchOutRequest => exact execSwitchOutRequest_kept h
  | switchOutDrainEnd => exact execSwitchOutDrainEnd_kept h
  | tileSaved => exact execTileSaved_kept h
  | kernelSwitchedOut => exact execKernelSwitchedOut_kept h
  | kernelResume => exact execKernelResume_kept h
  | tileAssign => exact execTileAssign_kept h
  | preemptQuantumExpire => exact execPreemptQuantumExpire_kept h
  | rd | rdRo | wr | atom | red => exact homeReq_kept h
  | watch => exact execWatch_kept h
  | unwatch => exact execUnwatch_kept h
  | watchNotify => exact execWatchNotify_kept h
  | hostReadShared | hostReadExclusive => exact hostRead_kept h
  | hostWriteBack => exact execHostWriteBack_kept h
  | fwd => exact execFwd_kept h
  | fwdAck => exact execFwdAck_kept h
  | fwdMiss => exact execFwdMiss_kept h
  | birsps | birspi => exact snoopAnswer_kept h
  | dataRsp => exact execDataRsp_kept h
  | dataF => exact execDataF_kept h
  | ack => exact execAck_kept h
  | atomRsp => exact execAtomRsp_kept h
  | retry => exact execRetry_kept h
  | grant => exact execGrant_kept h
  | grantHoldExpire => exact execGrantHoldExpire_kept h
  | nack => exact execNack_kept h
  | nackBackoffExpire => exact execNackBackoffExpire_kept h
  | fwdTimeout => exact execFwdTimeout_kept h
  | bisnpTimeout => exact execBisnpTimeout_kept h
  | fillReturn => exact execFillReturn_kept h
  | hotWindowEnd => exact execHotWindowEnd_kept h
  | hashRotRequest => exact execHashRotRequest_kept h
  | hashRotDrained => exact execHashRotDrained_kept h
  | hashRotDone => exact execHashRotDone_kept h
  | ucRegApply => exact execUcRegApply_kept h
  | telemetryEpoch => exact execTelemetryEpoch_kept h
  | telemetryLatchEnd => exact execTelemetryLatchEnd_kept h
  | pageMoveStart => exact execPageMoveStart_kept h
  | pageMoveDone => exact execPageMoveDone_kept h
  | mapRebuildDone => exact execMapRebuildDone_kept h
  | tierManage | tierPinFast | tierPinCap | tierRelease | tierMapoutFast | tierMapoutCap =>
    exact kept_next (h.sup (fun _ ht => ht.tierCmd))
  | stackTempSample => exact execStackTempSample_kept h
  | tempReadingTimeout => exact execTempReadingTimeout_kept h
  | capTempReport => exact execCapTempReport_kept h
  | scrubRead => exact execScrubRead_kept h
  | scrubPassEnd => exact execScrubPassEnd_kept h
  | columnRepairDone => exact execColumnRepairDone_kept h
  | channelNoAnswer => exact execChannelNoAnswer_kept h
  | channelMappedOut => exact execChannelMappedOut_kept h
  | stipeFlitReplay => exact execStipeFlitReplay_kept h
  | msixSend => exact execMsixSend_kept h
  | portLightOn => exact execPortLightOn_kept h
  | portTrainStepDone => exact execPortTrainStepDone_kept h
  | portTrainTimeout => exact execPortTrainTimeout_kept h
  | portRetryWaitEnd => exact execPortRetryWaitEnd_kept h
  | portDown => exact execPortDown_kept h
  | wavelengthSerCheck => exact execWavelengthSerCheck_kept h
  | wavelengthSwap => exact execWavelengthSwap_kept h
  | wavelengthRetest => exact execWavelengthRetest_kept h
  | portRetrain => exact execPortRetrain_kept h
  | fabIdSet => exact execFabIdSet_kept h
  | elsSvc => exact execElsSvc_kept h
  | elsRemoved => exact execElsRemoved_kept h
  | elsInserted => exact execElsInserted_kept h
  | elsCombLock => exact execElsCombLock_kept h
  | elsLockTimeout => exact execElsLockTimeout_kept h
  | flitReceive => exact execFlitReceive_kept h
  | replayRequest => exact execReplayRequest_kept h
  | putData | putFlag => exact onMsg_kept h (fun _ _ _ ht => dropFlag_inv (ht.inWrite h))
  | getReq => exact execGetReq_kept h
  | getData => exact execGetData_kept h
  | fabricAck => exact execFabricAck_kept h
  | routeLostNak => exact execRouteLostNak_kept h
  | collData => exact execCollData_kept h
  | kvData => exact execKvData_kept h
  | kvCredit => exact execKvCredit_kept h
  | kvConsumedRise => exact execKvConsumedRise_kept h
  | hb => exact execHb_kept h
  | hbSend => exact execHbSend_kept h
  | pace => exact execPace_kept h
  | paceSend => exact execPaceSend_kept h
  | paceHoldExpire => exact execPaceHoldExpire_kept h
  | cohortFenceMsg => exact execCohortFenceMsg_kept h
  | probe => exact execProbe_kept h
  | probeRsp => exact execProbeRsp_kept h
  | routeWaitTimeout => exact execRouteWaitTimeout_kept h
  | peerTimeout => exact execPeerTimeout_kept h
  | collStepTimeout => exact execCollStepTimeout_kept h
  | sweepEnd => exact execSweepEnd_kept h
  | cohFenceSet => exact execCohFenceSet_kept h
  | epochWrite => exact execEpochWrite_kept h
  | negCommit => exact execNegCommit_kept h
  | queCreate => exact execQueCreate_kept h
  | queStart => exact execQueStart_kept h
  | queStop => exact execQueStop_kept h
  | queDestroy => exact execQueDestroy_kept h
  | sqTail => exact execSqTail_kept h
  | cqHead => exact execCqHead_kept h
  | abort => exact execAbort_kept h
  | abortAll => exact execAbortAll_kept h
  | descriptorFetch => exact execDescriptorFetch_kept h
  | launch => exact execLaunch_kept h
  | moveCopy | moveFill | moveGather | moveReduce => exact onFront_kept h (fun _ _ ht => ht.dispatchMove)
  | moveTier | signalOp | timestampOp => exact onFront_kept h (fun _ _ ht => ht.dispatchOnce)
  | cmdWait => exact execCmdWait_kept h
  | parserHostPoll => exact execParserHostPoll_kept h
  | eventOp | cmdNop => exact onFront_kept h (fun _ _ ht => ht.endFront)
  | cond => exact execCond_kept h
  | loopOp => exact execLoopOp_kept h
  | endloop => exact execEndloop_kept h
  | cmdCall => exact execCmdCall_kept h
  | returnOp => exact execReturnOp_kept h
  | cmdFence => exact execCmdFence_kept h
  | putOp | putKindFlag | getOp => exact onFront_kept h (fun _ _ ht => ht.putOrGet)
  | allReduce | reduceScatter | allGather | broadcastOp | reduceOp => exact collRow_kept h
  | kvRing => exact execKvRing_kept h
  | invoke => exact execInvoke_kept h
  | preemptPoint => exact execPreemptPoint_kept h
  | commandComplete => exact execCommandComplete_kept h
  | commandTimeout => exact execCommandTimeout_kept h
  | evlogConfigWrite => exact execEvlogConfigWrite_kept h
  | evlogHeadWrite => exact execEvlogHeadWrite_kept h
  | ctxCreate => exact execCtxCreate_kept h
  | ctxDestroy => exact execCtxDestroy_kept h
  | ctxQuery => exact execCtxQuery_kept h
  | ctxKill => exact execCtxKill_kept h
  | ctxInv => exact execCtxInv_kept h
  | ctxInvDone => exact execCtxInvDone_kept h
  | atsInvalidate => exact execAtsInvalidate_kept h
  | pageResponse => exact execPageResponse_kept h
  | prtCreate => exact execPrtCreate_kept h
  | prtDestroy => exact execPrtDestroy_kept h
  | prtReset => exact execPrtReset_kept h
  | prtAssign => exact execPrtAssign_kept h
  | prtUnassign => exact execPrtUnassign_kept h
  | prtGrow => exact execPrtGrow_kept h
  | prtResetDrainEnd => exact execPrtResetDrainEnd_kept h
  | prtZeroDone => exact execPrtZeroDone_kept h
  | functionLevelReset => exact execFunctionLevelReset_kept h
  | dlogEnable => exact execDlogEnable_kept h
  | dlogRound => exact execDlogRound_kept h
  | dlogHeadWrite => exact execDlogHeadWrite_kept h
  | herbRegister => exact execHerbRegister_kept h
  | herbUnregister => exact execHerbUnregister_kept h
  | herbPin => exact execHerbPin_kept h
  | herbUnpin => exact execHerbUnpin_kept h
  | herbPrefetch => exact execHerbPrefetch_kept h
  | herbFillDone => exact execHerbFillDone_kept h
  | getVersion | getCapabilities => exact onConn_kept h (fun _ ht => ht.setConn.reply)
  | negotiateAlgorithms => exact execNegotiateAlgorithms_kept h
  | getDigests | getCertificate | getMeasurements => exact onConn_kept h (fun _ ht => ht.reply)
  | spdmChallenge => exact execSpdmChallenge_kept h
  | keyExchange => exact execKeyExchange_kept h
  | spdmFinish => exact execSpdmFinish_kept h
  | keyUpdate | spdmHeartbeat => exact onOpen_kept h (fun _ _ ht => ht.reply)
  | endSession => exact execEndSession_kept h
  | kzKeySet => exact execKzKeySet_kept h
  | ideKm => exact execIdeKm_kept h
  | lockInterface => exact execLockInterface_kept h
  | startInterface => exact execStartInterface_kept h
  | stopInterface => exact execStopInterface_kept h
  | getDeviceInterfaceReport => exact execGetDeviceInterfaceReport_kept h
  | kzUnlock => exact execKzUnlock_kept h
  | tdiError => exact execTdiError_kept h
  | ideIntegrityFail => exact execIdeIntegrityFail_kept h
  | mbGenerate => exact execMbGenerate_kept h
  | mbSetPlain => exact execMbSetPlain_kept h
  | mbErase => exact execMbErase_kept h
  | mbQuery => exact execMbQuery_kept h
  | keyRetireDone => exact execKeyRetireDone_kept h
  | firmwareUpdate => exact execFirmwareUpdate_kept h
  | activateFirmware => exact execActivateFirmware_kept h
  | powerSample => exact execPowerSample_kept h
  | capFail => exact execCapFail_kept h
  | brakeAssert | converterAlert => exact kept_next (ite_either h (h.lowCause.setFld ..))
  | brakeRelease | alertRelease => exact kept_next (ite_either h (h.setFld ..).lowEnd)
  | sensorTimeout => exact execSensorTimeout_kept h
  | trip => exact execTrip_kept h
  | tripClear | svcRead | i3cEntdaa | boundaryScanInstruction => exact kept_next (ite_either (h.frame (by rfl)) h)
  | pwrCapWrite => exact execPwrCapWrite_kept h
  | tclkSet => exact execTclkSet_kept h
  | tclkSwitch => exact execTclkSwitch_kept h
  | pmbusPoll => exact execPmbusPoll_kept h
  | inputInRange => exact execInputInRange_kept h
  | inputBelowRange => exact execInputBelowRange_kept h
  | railsUp => exact execRailsUp_kept h
  | perstDeassert => exact execPerstDeassert_kept h
  | trustStageDone => exact execTrustStageDone_kept h
  | imagesStageDone => exact execImagesStageDone_kept h
  | selftestStageDone => exact execSelftestStageDone_kept h
  | memoryStageDone => exact execMemoryStageDone_kept h
  | perstAssert => exact execPerstAssert_kept h
  | hotReset => exact execHotReset_kept h
  | hostLinkTrained => exact execHostLinkTrained_kept h
  | fatalError => exact execFatalError_kept h
  | tileErrorReport => exact execTileErrorReport_kept h
  | spareQuarantine => exact execSpareQuarantine_kept h
  | spareCancel => exact execSpareCancel_kept h
  | tileSubstitute => exact execTileSubstitute_kept h
  | bistTileGroup | bistSpares | bistFastChannel | bistCapChannel | bistPort => exact kept_next (h.ans (fun _ ht => ht.bistOp))
  | bistDone => exact execBistDone_kept h
  | serviceRecordWrite => exact execServiceRecordWrite_kept h
  | channelRecal => exact execChannelRecal_kept h
  | i3cStallTimeout => exact execI3cStallTimeout_kept h
  | pcieCompletionTimeout => exact execPcieCompletionTimeout_kept h
  | h2dSnoop => exact execH2dSnoop_kept h
  | bar4Access => exact execBar4Access_kept h
  | msixUnmask => exact execMsixUnmask_kept h
  | registerWrite => exact execRegisterWrite_kept h
  | hostLinkCompletion => exact execHostLinkCompletion_kept h
  | localLoadReturn => exact execLocalLoadReturn_kept h
  | translationWalkDone => exact execTranslationWalkDone_kept h

theorem State.Inv.idle (h : s.Inv) : s.idle.Inv := h.of_eq rfl rfl rfl (Nat.le_add_right ..) rfl

/-- Settles O56: the model's time alone passes where no command waits; every command keeps the invariant by `exec_kept`. -/
theorem invariantKept : Obligations.InvariantKept := by
  unfold Obligations.InvariantKept
  intro s t h
  unfold step
  split
  · exact kept_next h.idle t
  · exact exec_kept (h.frame (by rfl)) _ t

end Sys2Proof.Machine
end

section
/-! SUPPORT. Hot slices and the staged case-tag registers: HOT_WINDOW_END and UC_REG_APPLY (spec/05 R260 to R262; spec/08 R388, R395,
R396). -/

namespace Sys2Proof.Machine

variable {s : State}

/-! ### The hot-slice log (Table 5.10) -/

/-- A record of the log writes registers alone. -/
theorem State.hotRecord_eq (slice : Nat) (w : HotWindow) (b : Bool) :
    s.hotRecord slice w b = { s with regs := (s.hotRecord slice w b).regs } := rfl

/-- A record moves the head of the log on by one, modulo its 16 bits. -/
theorem State.fld_hotHead_hotRecord (slice : Nat) (w : HotWindow) (b : Bool) :
    (s.hotRecord slice w b).fld hotHead = (s.fld hotHead + 1) % 65536 :=
  State.fld_setFld _ hotHead _ (by decide)

/-- The log stands apart from the words above it. -/
theorem State.word_hotRecord (slice : Nat) (w : HotWindow) (b : Bool) {k : Nat} (h : 0x00501400 ≤ k) :
    (s.hotRecord slice w b).word k = s.word k := by
  have hm := Nat.mod_lt (s.fld hotHead) (show 0 < 64 by decide)
  have hk : k ≠ hotHead.key := fun hk => absurd (hk ▸ h) (by decide)
  rw [State.hotRecord, State.word_setFld, if_neg hk, State.word_setWord, if_neg (by omega), State.word_setWord, if_neg (by omega)]

/-- The live counters stand above every register (R609). -/
theorem State.word_bump_liveKey (off n : Nat) {k : Nat} (h : k < 2 ^ 60) : (s.bump (liveKey off) n).word k = s.word k := by
  rw [State.word_bump, if_neg (by unfold liveKey; omega)]

theorem State.fld_bump_liveKey (off n : Nat) {f : Field} (h : f.key < 2 ^ 60) : (s.bump (liveKey off) n).fld f = s.fld f := by
  rw [State.fld, State.word_bump_liveKey off n h, State.fld]

@[simp] theorem State.ras_mem (code sev part u : Nat) (d0 d1 : W64) : (s.ras code sev part u d0 d1).mem = s.mem := by
  simp [State.ras, State.rasAppend, apply_ite State.mem]

@[simp] theorem State.ras_hot (code sev part u : Nat) (d0 d1 : W64) :
    (s.ras code sev part u d0 d1).hot = s.hot ∧ (s.ras code sev part u d0 d1).hotSeen = s.hotSeen := by
  simp [State.ras, State.rasAppend, apply_ite State.hot, apply_ite State.hotSeen]

/-! ### HOT_WINDOW_END (R260 to R262) -/

/-- A slice enters the hot set. -/
def State.enlistHot (s : State) (slice : Nat) : State := { s with hot := slice :: s.hot }

/-- A slice leaves the hot set. -/
def State.delistHot (s : State) (slice : Nat) : State := { s with hot := s.hot.filter (· != slice) }

/-- A slice has been recorded as hot. -/
def State.seeHot (s : State) (slice : Nat) : State := { s with hotSeen := slice :: s.hotSeen }

theorem State.seeHot_regs (s : State) (slice : Nat) : (s.seeHot slice).regs = s.regs := rfl

theorem State.seeHot_word (slice k : Nat) : (s.seeHot slice).word k = s.word k := by rw [State.word, State.seeHot_regs, State.word]

/-- The log of a slice that enters: once for each slice. -/
def State.logHot (s : State) (slice : Nat) (w : HotWindow) (ev : Bool) : State :=
  if ev && !s.hotSeen.contains slice then
    ((s.hotRecord slice w true).seeHot slice).ras 0x10 0 0xFF slice
  else s

/-- What the end of a window does to a slice: `was` is its state before, `now` its state after, and `ev` says whether the log is on. -/
def State.hotTurn (s : State) (slice : Nat) (w : HotWindow) (ev was now : Bool) : State :=
  let s := if now then s.bump (liveKey (0x00C04000 + 4 * slice)) else s
  if now && !was then (s.enlistHot slice).logHot slice w ev
  else if was && !now then if ev then (s.delistHot slice).hotRecord slice w false else s.delistHot slice
  else s

theorem exec_hotWindowEnd {slice : Nat} (hs : slice < 512) (w : HotWindow) :
    exec (.hotWindowEnd slice w) s = .next (s.hotTurn slice w (s.fld hotEvEn == 1) (s.hot.contains slice)
      (if s.hot.contains slice then decide (s.fld hotThresh - 32 ≤ w.average) else decide (s.fld hotThresh ≤ w.average))) :=
  unit_of (decide_eq_true hs)

theorem State.logHot_frame (slice : Nat) (w : HotWindow) (ev : Bool) :
    (s.logHot slice w ev).hot = s.hot ∧ (s.logHot slice w ev).mem = s.mem := by
  unfold State.logHot
  split
  · exact ⟨(State.ras_hot ..).1, State.ras_mem ..⟩
  · exact ⟨rfl, rfl⟩

/-- The first time a slice becomes hot with the log on, it is recorded and counted. -/
theorem State.logHot_first {slice : Nat} (w : HotWindow) (hn : s.hotSeen.contains slice = false) :
    (s.logHot slice w true).fld hotHead = (s.fld hotHead + 1) % 65536 ∧ slice ∈ (s.logHot slice w true).hotSeen ∧
      (s.logHot slice w true).word (0x00A00800 + 8 * 0x10) = s.word (0x00A00800 + 8 * 0x10) + 1 := by
  have hb : (true && !s.hotSeen.contains slice) = true := by rw [hn, Bool.not_false, Bool.and_self]
  rw [State.logHot, if_pos hb]
  refine ⟨?_, ?_, ?_⟩
  · rw [State.ras_fld _ _ _ _ _ _ (by decide), State.fld_of_regs (State.seeHot_regs ..)]
    exact State.fld_hotHead_hotRecord ..
  · rw [(State.ras_hot ..).2]
    exact List.mem_cons_self
  · rw [State.ras_count (by decide), State.seeHot_word]
    exact congrArg (· + 1) (State.word_hotRecord _ _ _ (by decide))

theorem hotWindowEnd_enters {slice : Nat} {w : HotWindow} (hs : slice < 512) (hc : s.hot.contains slice = false)
    (hw : s.fld hotThresh ≤ w.average) :
    ∃ t, exec (.hotWindowEnd slice w) s = .next t ∧ slice ∈ t.hot ∧ t.mem = s.mem ∧
      (s.fld hotEvEn = 1 → s.hotSeen.contains slice = false →
        t.fld hotHead = (s.fld hotHead + 1) % 65536 ∧ slice ∈ t.hotSeen ∧
        t.word (0x00A00800 + 8 * 0x10) = s.word (0x00A00800 + 8 * 0x10) + 1) := by
  let u := (s.bump (liveKey (0x00C04000 + 4 * slice))).enlistHot slice
  have he : exec (.hotWindowEnd slice w) s = .next (u.logHot slice w (s.fld hotEvEn == 1)) := by
    rw [exec_hotWindowEnd hs, hc, decide_eq_true hw]
    rfl
  obtain ⟨hhot, hmem⟩ := u.logHot_frame slice w (s.fld hotEvEn == 1)
  refine ⟨_, he, hhot ▸ List.mem_cons_self, hmem, fun hev hn => ?_⟩
  rw [hev]
  obtain ⟨hhead, hseen, hcount⟩ := State.logHot_first (s := u) w hn
  refine ⟨hhead.trans (congrArg (fun n => (n + 1) % 65536) ?_), hseen, hcount.trans (congrArg (· + 1) ?_)⟩
  · exact State.fld_bump_liveKey _ _ (by decide)
  · exact State.word_bump_liveKey _ _ (by decide)

/-- A slice whose average falls 32 below the threshold leaves the hot state, and the log records it. -/
theorem hotWindowEnd_leaves {slice : Nat} {w : HotWindow} (hs : slice < 512) (hc : slice ∈ s.hot)
    (hw : w.average < s.fld hotThresh - 32) :
    ∃ t, exec (.hotWindowEnd slice w) s = .next t ∧ slice ∉ t.hot ∧ t = { s with hot := t.hot, regs := t.regs } ∧
      (s.fld hotEvEn = 1 → t.fld hotHead = (s.fld hotHead + 1) % 65536) := by
  have he : exec (.hotWindowEnd slice w) s =
      .next (if s.fld hotEvEn == 1 then (s.delistHot slice).hotRecord slice w false else s.delistHot slice) := by
    rw [exec_hotWindowEnd hs, List.contains_iff_mem.mpr hc, if_pos rfl, decide_eq_false (Nat.not_le.mpr hw)]
    rfl
  have hout : slice ∉ (s.delistHot slice).hot := by simp [State.delistHot]
  refine ⟨_, he, ?_⟩
  split
  · exact ⟨hout, rfl, fun _ => State.fld_hotHead_hotRecord ..⟩
  · next h => exact ⟨hout, rfl, fun h1 => absurd (beq_iff_eq.mpr h1) h⟩

/-! ### UC_REG_APPLY (R388, R395, R396) -/

theorem State.applyStatus_le : s.applyStatus ≤ 3 := by
  unfold State.applyStatus
  dsimp only
  split
  · decide
  · split
    · decide
    · split <;> decide

theorem appliedKey_inj {j k : Nat} (h : appliedKey j = appliedKey k) : j = k := Nat.add_left_cancel h

/-- The staged words lie below the places where they are applied. -/
theorem ucStaged_lt {k : Nat} (h : k ∈ ucStaged) : k < 2 ^ 61 := by
  simp only [ucStaged, List.mem_append, List.mem_map, List.mem_range] at h
  omega

/-- The registers after the words of `ks` were applied. -/
def State.applied (s : State) (ks : List Nat) : State := ks.foldl (fun s k => s.setWord (appliedKey k) (s.word k)) s

theorem State.applied_eq (s : State) (ks : List Nat) : s.applied ks = { s with regs := (s.applied ks).regs } := by
  induction ks generalizing s with
  | nil => rfl
  | cons k ks ih => exact (ih (s.setWord (appliedKey k) (s.word k))).trans rfl

/-- Below the applied words nothing changes; an applied word takes the value of its staged word. -/
theorem State.word_applied (s : State) (ks : List Nat) (hks : ∀ k ∈ ks, k < 2 ^ 61) :
    (∀ k < 2 ^ 61, (s.applied ks).word k = s.word k) ∧
      ∀ k < 2 ^ 61, (s.applied ks).word (appliedKey k) = if k ∈ ks then s.word k else s.word (appliedKey k) := by
  induction ks generalizing s with
  | nil => exact ⟨fun _ _ => rfl, fun k _ => (if_neg (List.not_mem_nil)).symm⟩
  | cons j ks ih =>
    obtain ⟨hj, hks⟩ := List.forall_mem_cons.mp hks
    obtain ⟨hbelow, happ⟩ := ih (s.setWord (appliedKey j) (s.word j)) hks
    have hstage (k : Nat) (hk : k < 2 ^ 61) : (s.setWord (appliedKey j) (s.word j)).word k = s.word k := by
      rw [State.word_setWord, if_neg (by unfold appliedKey; omega)]
    refine ⟨fun k hk => (hbelow k hk).trans (hstage k hk), fun k hk => (happ k hk).trans ?_⟩
    rw [hstage k hk, State.word_setWord]
    by_cases hkj : k = j
    · subst k
      simp
    · have hne : appliedKey k ≠ appliedKey j := fun h => hkj (appliedKey_inj h)
      simp [hkj, hne]

theorem State.regApply_eq (s : State) : s.regApply = { s with regs := s.regApply.regs } := by
  have h : (if s.applyStatus = 0 then s.applied ucStaged else s) =
      { s with regs := (if s.applyStatus = 0 then s.applied ucStaged else s).regs } := by
    split
    · exact s.applied_eq ucStaged
    · rfl
  have he : s.regApply = (((if s.applyStatus = 0 then s.applied ucStaged else s).setFld ucApply 0).setFld ucApplyDone 1).setFld
      ucApplyStatus s.applyStatus := rfl
  rw [he, h]
  rfl

/-- UC_REG_APPLY: applied as a whole or not at all, with its status. -/
theorem ucRegApply_applies (hr : s.ready = true) :
    ∃ t, exec .ucRegApply s = .next t ∧ t = { s with regs := t.regs } ∧ t.fld ucApply = 0 ∧ t.fld ucApplyDone = 1 ∧
      t.fld ucApplyStatus = s.applyStatus ∧
      ∀ k ∈ ucStaged, t.word (appliedKey k) = if s.applyStatus = 0 then s.word k else s.word (appliedKey k) := by
  have he : exec .ucRegApply s = .next s.regApply := by
    show Host.Outcome.next (s.sup State.regApply) = _
    rw [State.sup, if_pos hr]
  refine ⟨_, he, s.regApply_eq, ?_, ?_, ?_, fun k hk => ?_⟩
  · rw [State.regApply, State.fld_setFld_of_apart _ (by decide) (by decide), State.fld_setFld_of_apart _ (by decide) (by decide),
      State.fld_setFld _ _ _ (by decide)]
    rfl
  · rw [State.regApply, State.fld_setFld_of_apart _ (by decide) (by decide), State.fld_setFld _ _ _ (by decide)]
    rfl
  · have hle := s.applyStatus_le
    rw [State.regApply, State.fld_setFld _ _ _ (by decide)]
    exact Nat.mod_eq_of_lt (Nat.lt_of_le_of_lt hle (by decide))
  · have hk' : k < 2 ^ 61 := ucStaged_lt hk
    have hne {f : Field} (hf : f.key < 2 ^ 61) : appliedKey k ≠ f.key := by
      unfold appliedKey
      omega
    rw [State.regApply, State.word_setFld, if_neg (hne (by decide)), State.word_setFld, if_neg (hne (by decide)), State.word_setFld,
      if_neg (hne (by decide))]
    split
    · exact ((s.word_applied ucStaged fun _ => ucStaged_lt).2 k hk').trans (if_pos hk)
    · rfl

end Sys2Proof.Machine
end

section
/-! SUPPORT. What the homes of the lines hold, and what leaves it as it is: bytes counted, errors classified, frames of the tiers retired
(spec/05 R223; spec/06 R309; spec/07 R349 to R356). -/

namespace Sys2Proof.Machine

variable {s : State}

/-! ### The view of the homes -/

/-- What the homes of the lines hold: the bytes of memory and their poison, the frames and the misses, the host's copies, the partitions,
the errors that stand unmet, and which pages are released; and the tiles, whose L1s hold copies. -/
structure HomeView where
  mem : Mem
  poison : Tab Bool
  frames : Tab (Option Frame)
  misses : Tab (Option Miss)
  hosts : Tab (Option HostSt)
  parts : Tab Part
  upsets : List (Nat × Bool)
  tierErrs : List (Nat × MemErr)
  released : Nat → Bool
  tiles : Tab Tile

def State.homes (s : State) : HomeView :=
  { mem := s.mem, poison := s.poison, frames := s.frames, misses := s.misses, hosts := s.hosts, parts := s.parts, upsets := s.upsets
    tierErrs := s.tierErrs, released := fun n => (s.page n).released, tiles := s.tiles }

theorem foldl_homes {β : Type} {f : State → β → State} (hf : ∀ t x, (f t x).homes = t.homes) (xs : List β) :
    (xs.foldl f s).homes = s.homes := foldl_keeps (fun t => t.homes = s.homes) f (fun t x ht => (hf t x).trans ht) xs rfl

/-! ### Counts, records and bytes moved -/

@[simp] theorem State.setWord_homes (k : Nat) (v : W64) : (s.setWord k v).homes = s.homes := rfl
@[simp] theorem State.setFld_homes (g : Field) (v : Nat) : (s.setFld g v).homes = s.homes := State.setWord_homes ..
@[simp] theorem State.bump_homes (k n : Nat) : (s.bump k n).homes = s.homes := State.setWord_homes ..
@[simp] theorem State.rasCount_homes (code n : Nat) : (s.rasCount code n).homes = s.homes := State.bump_homes ..
@[simp] theorem State.raiseVec_homes (fn v : Nat) : (s.raiseVec fn v).homes = s.homes := rfl
@[simp] theorem State.touch_homes (line way : Nat) : (s.touch line way).homes = s.homes := rfl

@[simp] theorem State.rasAppend_homes (code sev part u : Nat) (d0 d1 : W64) : (s.rasAppend code sev part u d0 d1).homes = s.homes := by
  simp only [State.rasAppend, State.setFld_homes, State.setWord_homes]

@[simp] theorem State.ras_homes (code sev part u : Nat) (d0 d1 : W64) : (s.ras code sev part u d0 d1).homes = s.homes := by
  simp [State.ras, apply_ite State.homes]

@[simp] theorem State.setChan_homes (fast : Bool) (c : Nat) (x : Chan) : (s.setChan fast c x).homes = s.homes := by
  cases fast <;> rfl

@[simp] theorem State.charge_homes (w : Who) (n : Nat) : (s.charge w n).homes = s.homes := by
  unfold State.charge
  split
  · rfl
  · exact ite_either (P := fun t : State => t.homes = s.homes) rfl rfl

@[simp] theorem State.lane_homes (w : Who) (tt : Bool) (n : Nat) : (s.lane w tt n).homes = s.homes := by
  simp [State.lane]

/-- A page written with the mark that it has changes nothing at the homes. -/
theorem State.setPage_homes {n : Nat} {x : Page} (h : x.released = (s.page n).released) : (s.setPage n x).homes = s.homes := by
  have hr : (fun k => ((s.setPage n x).page k).released) = fun k => (s.page k).released := by
    funext k
    rw [State.page_setPage]
    split
    · next hk => rw [h, hk]
    · rfl
  exact congrArg (fun r => { s.homes with released := r }) hr

@[simp] theorem State.sample_homes (line : Nat) : (s.sample line).homes = s.homes := by
  refine ite_either (P := fun t : State => t.homes = s.homes) rfl ?_
  exact State.setPage_homes (s := s) (n := line / 512)
    (x := { s.page (line / 512) with count := min 65535 ((s.page (line / 512)).count + 2 ^ s.fld (smpField (s.frameOf line).fast)) }) rfl

@[simp] theorem State.tierBytes_homes (line tag n : Nat) : (s.tierBytes line tag n).homes = s.homes := by
  simp [State.tierBytes, apply_ite State.homes]

@[simp] theorem State.steer_homes (line : Nat) : (s.steer line).homes = s.homes := by
  unfold State.steer
  split
  · rfl
  · rfl

@[simp] theorem State.chanBytes_homes (w : Who) (line n : Nat) : (s.chanBytes w line n).homes = s.homes := by
  simp [State.chanBytes, apply_ite State.homes]

@[simp] theorem State.homeBytes_homes (w : Who) (tile line n : Nat) (write : Bool) : (s.homeBytes w tile line n write).homes = s.homes := by
  simp [State.homeBytes]

@[simp] theorem State.touchLine_homes (line : Nat) : (s.touchLine line).homes = s.homes := by
  unfold State.touchLine
  split <;> rfl

/-! ### Errors classified (R351 to R356) -/

@[simp] theorem State.wantMove_homes (m : Move) : (s.wantMove m).homes = s.homes := by
  unfold State.wantMove
  split <;> rfl

@[simp] theorem State.owedCheck_homes (was : Nat) : (s.owedCheck was).homes = s.homes := by
  simp [State.owedCheck, apply_ite State.homes]

/-- A frame joins the retired ones. -/
def State.enterRetired (s : State) (f : FrameNo) : State :=
  { s with retired := f :: s.retired, retiring := s.retiring.filter (· != f) }

@[simp] theorem State.enterRetired_homes (f : FrameNo) : (s.enterRetired f).homes = s.homes := rfl

@[simp] theorem State.markRetired_homes (f : FrameNo) : (s.markRetired f).homes = s.homes := by
  have h (c : Chan) : (((s.enterRetired f).setChan f.fast f.ch c).ras 0x0D 2 0xFF f.ch (BitVec.ofNat 64 f.n)).homes = s.homes := by simp
  exact ite_either (P := fun t : State => t.homes = s.homes) rfl ((State.owedCheck_homes _).trans (h _))

/-- A capacity channel's share of the map is to be rebuilt. -/
@[simp] theorem State.rebuilding_homes (c : Nat) : ({ s with rebuilding := s.rebuilding ++ [c] } : State).homes = s.homes := rfl

@[simp] theorem State.drain_homes (fast : Bool) (c : Nat) (dead : Bool) : (s.drain fast c dead).homes = s.homes := by
  unfold State.drain
  dsimp only
  refine ite_either (P := fun t : State => t.homes = s.homes) ?_ ?_
  · exact ite_either (P := fun t : State => t.homes = s.homes) (State.setChan_homes ..) rfl
  · rw [State.owedCheck_homes, foldl_homes fun _ _ => State.wantMove_homes _]
    refine ite_either (P := fun t : State => t.homes = s.homes) ?_ (State.setChan_homes ..)
    refine ite_either (P := fun t : State => t.homes = s.homes) ?_ ?_
    · exact (State.rebuilding_homes _).trans (State.setChan_homes ..)
    · exact (State.raiseVec_homes ..).trans (State.setChan_homes ..)

@[simp] theorem State.retiring_homes (l : List FrameNo) : ({ s with retiring := l } : State).homes = s.homes := rfl

@[simp] theorem State.retire_homes (f : FrameNo) : (s.retire f).homes = s.homes := by
  simp only [State.retire, apply_ite State.homes, State.drain_homes, ite_self]
  split
  · rfl
  · split <;> simp [apply_ite State.homes]

@[simp] theorem State.repairs_homes (l : List (Nat × Nat)) : ({ s with repairs := l } : State).homes = s.homes := rfl
@[simp] theorem State.badRows_homes (l : List (Bool × Nat × Nat × Nat)) : ({ s with badRows := l } : State).homes = s.homes := rfl
@[simp] theorem State.cells_homes (l : List CellKey) : ({ s with cells := l } : State).homes = s.homes := rfl

@[simp] theorem State.columnFault_homes (fast : Bool) (l : MemLoc) : (s.columnFault fast l).homes = s.homes := by
  unfold State.columnFault
  dsimp only
  split
  · rw [State.ras_homes, State.repairs_homes, State.setChan_homes]
  · exact foldl_homes (fun _ _ => State.retire_homes _) _

@[simp] theorem State.uncorrectable_homes (f : FrameNo) (recovered : Bool) (l : MemLoc) :
    (s.uncorrectable f recovered l).homes = s.homes := by
  simp only [State.uncorrectable, apply_ite State.homes, State.drain_homes, State.retire_homes, State.badRows_homes, ite_self]

@[simp] theorem State.classify_homes (f : FrameNo) (sector : Nat) (correctable recovered : Bool) (bit : Nat) :
    (s.classify f sector correctable recovered bit).homes = s.homes := by
  simp only [State.classify, apply_ite State.homes, State.uncorrectable_homes, State.columnFault_homes, State.retire_homes,
    State.cells_homes, ite_self]

/-! ### Sectors that become poisoned -/

/-- The poison of memory after these sectors became poisoned. -/
def markBad (p : Tab Bool) (ks : List Nat) : Tab Bool := ks.foldl (fun p k => tabSet (fun _ => false) p k true) p

/-- What is poisoned stays so, and each sector of the list is. -/
theorem tabGet_markBad {p : Tab Bool} {ks : List Nat} {k : Nat} (h : tabGet (fun _ => false) p k = true ∨ k ∈ ks) :
    tabGet (fun _ => false) (markBad p ks) k = true :=
  tabGet_foldl_tabSet _ id (fun _ => true) ks p (fun _ _ _ => rfl) (h.imp_right fun hk => ⟨k, hk, rfl⟩)

def HomeView.mark (h : HomeView) (ks : List Nat) : HomeView := { h with poison := markBad h.poison ks }

/-- The frame of a line stands alone. -/
def HomeView.Unpacked (h : HomeView) (line : Nat) : Prop := ∀ f, tabGet frameNone h.frames line = some f → f.packed = false

/-- R248: a line whose frame stands alone is not split. -/
theorem State.split_of_unpacked {line : Nat} (h : s.homes.Unpacked line) : s.split line = s := by
  unfold State.split
  split
  · rfl
  · next f hf => rw [h f hf, Bool.not_false, if_pos rfl]

theorem State.poisonSector_homes {k : Nat} (h : s.homes.Unpacked (k / 4)) : (s.poisonSector k).homes = s.homes.mark [k] := by
  rw [State.poisonSector, State.split_of_unpacked h]
  rfl

/-- Acts that each poison some sectors of a line whose frame stands alone poison all of theirs. -/
theorem foldl_homes_mark {β : Type} {f : State → β → State} {ks : β → List Nat} {line : Nat} (xs : List β)
    (hf : ∀ t, ∀ x ∈ xs, t.homes.Unpacked line → (f t x).homes = t.homes.mark (ks x)) (h : s.homes.Unpacked line) :
    (xs.foldl f s).homes = s.homes.mark (xs.flatMap ks) := by
  induction xs generalizing s with
  | nil => rfl
  | cons x xs ih =>
    obtain ⟨hx, hxs⟩ := List.forall_mem_cons.mp fun x hx t => hf t x hx
    have he := hx s h
    rw [List.foldl_cons, ih (fun t y hy => hxs y hy t) (he ▸ h), he, List.flatMap_cons]
    simp only [HomeView.mark, markBad, List.foldl_append]

/-- The sectors of a line that its errors in memory poison (R350). -/
def deadSectors (line : Nat) (errs : List MemErr) : List Nat :=
  errs.flatMap fun e => if e.correctable then [] else [4 * line + e.sector]

theorem State.tierErrors_homes {line : Nat} {errs : List MemErr} (he : ∀ e ∈ errs, e.sector < 4) (h : s.homes.Unpacked line) :
    (s.tierErrors line errs).homes = s.homes.mark (deadSectors line errs) := by
  refine foldl_homes_mark errs (fun t e hm hu => ?_) h
  rw [State.classify_homes]
  cases e.correctable
  · have hk : (4 * line + e.sector) / 4 = line := by
      have hlt := he e hm
      omega
    exact State.poisonSector_homes (hk.symm ▸ hu)
  · rfl

/-- The errors that the fill of a line meets, where none stood there before. -/
theorem State.fillErrors_homes {line need : Nat} (errs : List MemErr) (hk : s.keyless (line / 512) = false) (ht : s.tierErrs = [])
    (h : s.homes.Unpacked line) : (s.fillErrors line need errs).homes =
      s.homes.mark (deadSectors line (errs.filter fun e => decide (e.sector < 4) && bitOf need e.sector)) := by
  have ho : s.overwritten line need = s := by simp [State.overwritten, ht]
  have he : s.fillErrors line need errs = s.tierErrors line (errs.filter fun e => decide (e.sector < 4) && bitOf need e.sector) := by
    simp [State.fillErrors, hk, ht, ho]
  rw [he]
  refine State.tierErrors_homes (fun e hm => ?_) h
  obtain ⟨_, hp⟩ := List.mem_filter.mp hm
  exact of_decide_eq_true (Bool.and_eq_true_iff.mp hp).1

/-- The sectors that the errors met in the data array poison (R223). -/
def metSectors (hit : List (Nat × Bool)) : List Nat := hit.flatMap fun u => if u.2 then [] else [u.1]

/-- A read of the data array poisons the sectors in which it meets an uncorrectable error, and those errors are gone. -/
theorem State.meet_homes {line : Nat} (mask part : Nat) (h : s.homes.Unpacked line) :
    (s.meet line mask part).homes =
      { s.homes.mark (metSectors (s.upsets.filter fun u => u.1 / 4 == line && bitOf mask (u.1 % 4))) with
        upsets := s.upsets.filter fun u => u.1 / 4 != line || !bitOf mask (u.1 % 4) } := by
  unfold State.meet
  split
  · next he =>
    rw [List.isEmpty_iff] at he
    rw [he]
    exact congrArg (fun l => { s.homes with upsets := l }) he
  · have hfold := foldl_homes_mark (s := s) (line := line)
      (f := fun s u => if u.2 then s.rasCount 0x09 else (s.poisonSector u.1).ras 0x0A 2 part (s.sliceOf line))
      (ks := fun u => if u.2 then [] else [u.1]) (s.upsets.filter fun u => u.1 / 4 == line && bitOf mask (u.1 % 4)) ?_ h
    · exact congrArg (fun v : HomeView => { v with upsets := v.upsets.filter fun u => u.1 / 4 != line || !bitOf mask (u.1 % 4) }) hfold
    · intro t u hm hu
      obtain ⟨_, hp⟩ := List.mem_filter.mp hm
      have hk : u.1 / 4 = line := beq_iff_eq.mp (Bool.and_eq_true_iff.mp hp).1
      cases u.2
      · rw [if_neg Bool.false_ne_true, State.ras_homes, if_neg Bool.false_ne_true]
        exact State.poisonSector_homes (hk.symm ▸ hu)
      · rfl

end Sys2Proof.Machine
end

section
/-! SUPPORT. A fill that returns: the errors that it meets, the frame that it completes, and the read that waits for it (spec/05 R223,
R234; spec/06 R309, Table 6.6). -/

namespace Sys2Proof.Machine

variable {s : State}

/-! ### Sectors of a frame -/

theorem bitOf_land (a b i : Nat) : bitOf (Nat.land a b) i = (bitOf a i && bitOf b i) := Nat.testBit_and a b i

/-- The sectors of a line that a fill does not bring. -/
theorem bitOf_rest (need : Nat) {i : Nat} (hi : i < 4) : bitOf (15 - need % 16) i = !bitOf need i := by
  have h : 15 - need % 16 = 2 ^ 4 - (need % 2 ^ 4 + 1) := by omega
  rw [bitOf, h, Nat.testBit_two_pow_sub_succ (Nat.mod_lt _ (by decide)), Nat.testBit_mod_two_pow, decide_eq_true hi, Bool.true_and,
    Bool.true_and, bitOf]

theorem sectors_eq_zero {f : Nat → Bool} (h : ∀ i < 4, f i = false) : sectors f = 0 :=
  List.foldlRecOn (motive := fun m : Nat => m = 0) (List.range 4) _ rfl fun m hm i hi => by
    rw [h i (List.mem_range.mp hi), if_neg Bool.false_ne_true, hm]

/-- A line whose four sectors are valid lacks none. -/
theorem State.lacks_of_full {line : Nat} (h : s.validAt line = 15) (want : Nat) : s.lacks line want = 0 := by
  unfold State.lacks
  rw [h]
  refine sectors_eq_zero fun i hi => ?_
  have hb : bitOf 15 i = true := (bitOf_rest 0 hi).trans (by simp [bitOf])
  rw [hb, Bool.not_true, Bool.and_false]

theorem State.validAt_of_frame {line : Nat} {f : Frame} (h : s.frame line = some f) : s.validAt line = f.valid := by
  rw [State.validAt, h]

/-! ### The frame of the line -/

/-- A frame with more of its sectors valid. -/
def Frame.filled (f : Frame) (need : Nat) : Frame := { f with valid := Nat.lor f.valid need, dirty := Nat.lor f.dirty 0 }

/-- A line that has a frame keeps it, with the sectors that the fill brought. -/
theorem State.allocate_homes {line : Nat} {f : Frame} (h : s.frame line = some f) (tag p need : Nat) :
    (s.allocate line tag p need 0).homes = { s.homes with frames := tabSet frameNone s.frames line (some (f.filled need)) } := by
  unfold State.allocate
  rw [h]
  rfl

theorem State.repack_of_unpacked {line : Nat} (h : s.homes.Unpacked line) : s.repack line = s := by
  unfold State.repack
  split
  · next f g hf _ => rw [h f hf, Bool.not_false, Bool.true_or, if_pos rfl]
  · rfl

/-! ### Errors that arise as the fill returns -/

/-- The errors of the data array that arise in sectors that the line's frame holds and the fill does not bring. -/
def arrayRisen (line valid need : Nat) (arr : List ArrayErr) : List (Nat × Bool) :=
  (arr.filter fun e => decide (e.sector < 4) && bitOf (Nat.land valid (15 - need % 16)) e.sector).map
    fun e => (4 * line + e.sector, e.correctable)

/-- Each of them lies in a sector of the line that is read as the fill returns. -/
theorem arrayRisen_met {line valid need : Nat} {arr : List ArrayErr} {u : Nat × Bool} (h : u ∈ arrayRisen line valid need arr) :
    (u.1 / 4 == line && bitOf (15 - need % 16) (u.1 % 4)) = true := by
  obtain ⟨e, he, rfl⟩ := List.mem_map.mp h
  obtain ⟨_, hp⟩ := List.mem_filter.mp he
  obtain ⟨hlt, hb⟩ := Bool.and_eq_true_iff.mp hp
  have hlt := of_decide_eq_true hlt
  rw [bitOf_land, Bool.and_eq_true] at hb
  have hdiv : (4 * line + e.sector) / 4 = line := by omega
  have hmod : (4 * line + e.sector) % 4 = e.sector := by omega
  rw [hdiv, hmod, hb.2, beq_self_eq_true, Bool.and_self]

/-- What the errors of memory poison as a fill returns. -/
theorem mem_deadSectors {line need : Nat} {errs : List MemErr} {e : MemErr} (he : e ∈ errs) (hc : e.correctable = false)
    (hlt : e.sector < 4) (hn : bitOf need e.sector = true) :
    4 * line + e.sector ∈ deadSectors line (errs.filter fun e => decide (e.sector < 4) && bitOf need e.sector) := by
  refine List.mem_flatMap.mpr ⟨e, List.mem_filter.mpr ⟨he, ?_⟩, ?_⟩
  · rw [decide_eq_true hlt, hn, Bool.and_self]
  · rw [hc, if_neg Bool.false_ne_true]
    exact List.mem_singleton.mpr rfl

/-- What the errors of the data array poison. -/
theorem mem_metSectors {line valid need : Nat} {arr : List ArrayErr} {e : ArrayErr} (he : e ∈ arr) (hc : e.correctable = false)
    (hlt : e.sector < 4) (hv : bitOf valid e.sector = true) (hn : bitOf need e.sector = false) :
    4 * line + e.sector ∈ metSectors (arrayRisen line valid need arr) := by
  refine List.mem_flatMap.mpr ⟨(4 * line + e.sector, e.correctable), List.mem_map.mpr ⟨e, List.mem_filter.mpr ⟨he, ?_⟩, rfl⟩, ?_⟩
  · rw [decide_eq_true hlt, bitOf_land, hv, bitOf_rest need hlt, hn, Bool.not_false, Bool.and_self, Bool.and_self]
  · dsimp only
    rw [hc, if_neg Bool.false_ne_true]
    exact List.mem_singleton.mpr rfl

/-- The sectors that are poisoned as a fill returns. -/
def fillBad (line valid need : Nat) (errs : List MemErr) (arr : List ArrayErr) : List Nat :=
  deadSectors line (errs.filter fun e => decide (e.sector < 4) && bitOf need e.sector) ++ metSectors (arrayRisen line valid need arr)

/-- Errors that arise in sectors of the line, and the read of the data array that meets them. -/
theorem State.upset_meet_homes {line need : Nat} (arr : List ArrayErr) (part : Nat) (h : s.homes.Unpacked line) (hu : s.upsets = []) :
    ((s.upset line (15 - need % 16) arr).meet line (15 - need % 16) part).homes =
      s.homes.mark (metSectors (arrayRisen line (s.validAt line) need arr)) := by
  have hups : (s.upset line (15 - need % 16) arr).upsets = arrayRisen line (s.validAt line) need arr := by
    show s.upsets ++ _ = _
    rw [hu, List.nil_append]
    rfl
  have hhomes : (s.upset line (15 - need % 16) arr).homes = { s.homes with upsets := (s.upset line (15 - need % 16) arr).upsets } := rfl
  have hp : (s.upset line (15 - need % 16) arr).homes.Unpacked line := by
    rw [hhomes]
    exact h
  have hall : (arrayRisen line (s.validAt line) need arr).filter (fun u => u.1 / 4 == line && bitOf (15 - need % 16) (u.1 % 4)) =
      arrayRisen line (s.validAt line) need arr := List.filter_eq_self.mpr fun u hm => arrayRisen_met hm
  have hnone : (arrayRisen line (s.validAt line) need arr).filter (fun u => u.1 / 4 != line || !bitOf (15 - need % 16) (u.1 % 4)) = [] := by
    refine List.filter_eq_nil_iff.mpr fun u hm => ?_
    obtain ⟨hl, hb⟩ := Bool.and_eq_true_iff.mp (arrayRisen_met hm)
    rw [bne, hl, hb]
    decide
  rw [State.meet_homes _ _ hp, hups, hall, hnone, hhomes]
  exact congrArg (fun l => { s.homes.mark (metSectors (arrayRisen line (s.validAt line) need arr)) with upsets := l }) hu.symm

/-! ### The fill -/

/-- The line with its fill returned, before what waited for it is served. -/
def State.refill (s : State) (line : Nat) (m : Miss) (who : Who) (errs : List MemErr) (arr : List ArrayErr) : State :=
  let n := ((List.range 4).filter fun i => bitOf m.need i).length
  let s := ((s.chanBytes who line (32 * n)).fillErrors line m.need errs).errsArise line m.need errs
  let s := (s.upset line (15 - m.need % 16) arr).meet line (15 - m.need % 16) (fillTag m).2
  let s := s.allocate line (fillTag m).1 (fillTag m).2 m.need 0
  s.repack line

/-- The frame takes the sectors that the fill brought, and stands alone as before. -/
theorem State.allocate_repack_homes {line : Nat} {f : Frame} (hf : s.frame line = some f) (hp : f.packed = false) (tag p need : Nat) :
    ((s.allocate line tag p need 0).repack line).homes =
      { s.homes with frames := tabSet frameNone s.frames line (some (f.filled need)) } := by
  have ha := State.allocate_homes hf tag p need
  have hu : (s.allocate line tag p need 0).homes.Unpacked line := fun g hg => by
    rw [ha] at hg
    have hg : some (f.filled need) = some g := ((tabGet_set ..).trans (if_pos rfl)).symm.trans hg
    obtain rfl := Option.some.inj hg
    exact hp
  rw [State.repack_of_unpacked hu, ha]

theorem State.unpacked_of_frame {line : Nat} {f : Frame} (hf : s.frame line = some f) (hp : f.packed = false) :
    s.homes.Unpacked line := fun g hg => by
  obtain rfl : f = g := Option.some.inj (hf.symm.trans hg)
  exact hp

/-- A frame is found at the homes. -/
theorem State.frame_of_homes {t : State} (h : t.homes.frames = s.frames) (line : Nat) : t.frame line = s.frame line := by
  have h : t.frames = s.frames := h
  rw [State.frame, h, State.frame]

/-- The errors of the data array are met, and the frame takes the sectors that the fill brought. -/
theorem State.fillFrame_homes {line : Nat} {f : Frame} (hf : s.frame line = some f) (hp : f.packed = false) (hu : s.upsets = [])
    (arr : List ArrayErr) (tag part need : Nat) :
    ((((s.upset line (15 - need % 16) arr).meet line (15 - need % 16) part).allocate line tag part need 0).repack line).homes =
      { s.homes.mark (metSectors (arrayRisen line f.valid need arr)) with
        frames := tabSet frameNone s.frames line (some (f.filled need)) } := by
  have hm := State.upset_meet_homes (need := need) arr part (State.unpacked_of_frame hf hp) hu
  rw [State.validAt_of_frame hf] at hm
  have hframes : ((s.upset line (15 - need % 16) arr).meet line (15 - need % 16) part).homes.frames = s.frames := by rw [hm]; rfl
  rw [State.allocate_repack_homes ((State.frame_of_homes hframes line).trans hf) hp, hm]
  exact congrArg (fun x => { s.homes.mark (metSectors (arrayRisen line f.valid need arr)) with
    frames := tabSet frameNone x line (some (f.filled need)) }) hframes

/-- The sectors come from memory, with the errors that stand there. -/
theorem State.fillMemory_homes {line need : Nat} (who : Who) (n : Nat) (errs : List MemErr) (h : s.homes.Unpacked line)
    (ht : s.tierErrs = []) (hk : s.memSlot (line / 512) = none) :
    ∃ te, (((s.chanBytes who line n).fillErrors line need errs).errsArise line need errs).homes =
      { s.homes.mark (deadSectors line (errs.filter fun e => decide (e.sector < 4) && bitOf need e.sector)) with tierErrs := te } := by
  have ha : (s.chanBytes who line n).homes = s.homes := State.chanBytes_homes ..
  have hparts : (s.chanBytes who line n).parts = s.parts := congrArg HomeView.parts ha
  have hkey : (s.chanBytes who line n).keyless (line / 512) = false := by
    rw [State.keyless, State.memSlot, hparts]
    rw [State.memSlot] at hk
    rw [hk]
  have he := State.fillErrors_homes (need := need) errs hkey ((congrArg HomeView.tierErrs ha).trans ht) (ha ▸ h)
  rw [ha] at he
  exact ⟨_, congrArg (fun v : HomeView => { v with tierErrs :=
    (((s.chanBytes who line n).fillErrors line need errs).errsArise line need errs).tierErrs }) he⟩

/-- The homes once the fill of a line that has a frame of its own has returned. -/
theorem State.refill_homes {line : Nat} {m : Miss} {f : Frame} (who : Who) (errs : List MemErr) (arr : List ArrayErr)
    (hf : s.frame line = some f) (hp : f.packed = false) (hu : s.upsets = []) (ht : s.tierErrs = []) (hk : s.memSlot (line / 512) = none) :
    ∃ te, (s.refill line m who errs arr).homes = { s.homes.mark (fillBad line f.valid m.need errs arr) with
      frames := tabSet frameNone s.frames line (some (f.filled m.need)), tierErrs := te } := by
  obtain ⟨te, hb⟩ := State.fillMemory_homes (need := m.need) who (32 * ((List.range 4).filter fun i => bitOf m.need i).length) errs
    (State.unpacked_of_frame hf hp) ht hk
  refine ⟨te, ?_⟩
  unfold State.refill
  dsimp only
  generalize ((s.chanBytes who line (32 * ((List.range 4).filter fun i => bitOf m.need i).length)).fillErrors line m.need errs).errsArise line
    m.need errs = b at hb ⊢
  have hframes : b.homes.frames = s.frames := by rw [hb]; rfl
  have hups : b.homes.upsets = [] := by rw [hb]; exact hu
  rw [State.fillFrame_homes ((State.frame_of_homes hframes line).trans hf) hp hups, hb]
  rw [show b.frames = s.frames from hframes]
  simp only [HomeView.mark, fillBad, markBad, List.foldl_append]

/-! ### The read that waited -/

/-- A read is answered with the line as it is, and the homes stay as they are. -/
theorem State.sendData_answers (r : Req) (hu : s.upsets = []) :
    (s.sendData r).homes = s.homes ∧ Claims.Answered (s.sendData r) r .data fun y =>
      y.data = memBytes s.mem (r.line * 128) 128 ∧ y.poison = Nat.land ((s.sendData r).linePoison r.line) r.mask := by
  have hm : s.meet r.line r.mask r.part = s := by simp [State.meet, hu]
  have hh := State.homeBytes_homes (s := s) (s.whoReq r) r.src.tile r.line (32 * sectorCount r.mask) false
  unfold State.sendData
  rw [hm]
  dsimp only
  generalize s.homeBytes (s.whoReq r) r.src.tile r.line (32 * sectorCount r.mask) false = u at hh ⊢
  have hmem : u.mem = s.mem := congrArg HomeView.mem hh
  exact ⟨hh, _, List.mem_append_right _ (List.mem_singleton.mpr rfl), rfl, rfl, congrArg (memBytes · (r.line * 128) 128) hmem, rfl⟩

/-- A read whose line is valid at its home, with no copy of the host in the way, is served at once. -/
theorem State.start_rd {r : Req} (hk : r.kind = .rd) (hr : (s.page (r.line / 512)).released = false) (hh : s.hostOf r.line ≠ some .em)
    (hn : s.needs r = 0) : s.start r = (s.touchLine r.line).sendData r := by
  have hs : s.serve r = (s.touchLine r.line).sendData r := by simp only [State.serve, hk]
  have he : (s.hostOf r.line == some HostSt.em) = false := beq_eq_false_iff_ne.mpr hh
  unfold State.start
  simp only [hr, hk, he, hn, hs, if_true, Bool.false_eq_true, if_false, ite_self]

/-- A request that waits alone is served alone. -/
theorem groupFolds_single (r : Req) : groupFolds [r] = [(r, [])] := by
  rw [groupFolds, List.foldl_cons, List.foldl_nil]
  split
  · next h => cases h
  · rfl

/-- What waited for a line that is valid at its home is served from there: here one read. -/
theorem State.release_rd {line : Nat} {r : Req} {g : Frame} (hl : r.line = line) (hk : r.kind = .rd)
    (hr : (s.page (line / 512)).released = false) (hh : s.hostOf line ≠ some .em) (hf : s.frame line = some g) (hv : g.valid = 15)
    (hu : s.upsets = []) :
    (s.release line [r]).homes = { s.homes with misses := tabSet missNone s.misses line none } ∧
      Claims.Answered (s.release line [r]) r .data fun y => y.data = memBytes s.mem (line * 128) 128 ∧
        y.poison = Nat.land ((s.release line [r]).linePoison line) r.mask := by
  subst hl
  let u := s.setMiss r.line none
  have hmiss : u.miss r.line = none := (State.miss_setMiss ..).trans (if_pos rfl)
  have hneed : u.needs r = 0 := State.lacks_of_full ((State.validAt_of_frame (s := u) hf).trans hv) _
  have he : s.release r.line [r] = (u.touchLine r.line).sendData r := by
    rw [State.release, State.serveAll, groupFolds_single, State.serveGroups]
    dsimp only
    rw [hmiss]
    exact State.start_rd hk hr hh hneed
  have ht := State.touchLine_homes (s := u) r.line
  obtain ⟨hhomes, hans⟩ := State.sendData_answers (s := u.touchLine r.line) r ((congrArg HomeView.upsets ht).trans hu)
  rw [he]
  refine ⟨hhomes.trans ht, ?_⟩
  rw [show (u.touchLine r.line).mem = s.mem from congrArg HomeView.mem ht] at hans
  exact hans

/-! ### FILL_RETURN -/

/-- Whom the bytes of a fill serve. -/
def State.fillWho (s : State) (line : Nat) (m : Miss) : Who := match m.waiters with
  | r :: _ => { s.whoReq r with tag := (fillTag m).1 }
  | [] => { part := (s.ownerOf (line / 512)).getD 255, tag := (fillTag m).1 }

/-- The fill of a line that has a frame, under a page with no key. -/
theorem exec_fillReturn {line : Nat} {m : Miss} {f : Frame} (errs : List MemErr) (arr : List ArrayErr) (hl : lineExists s line = true)
    (hm : s.miss line = some m) (hw : m.why = .fill) (hrep : s.repairs = []) (hr : (s.page (line / 512)).released = false)
    (hk : s.memSlot (line / 512) = none) (hf : s.frame line = some f) :
    exec (.fillReturn line errs arr) s = .next ((s.refill line m (s.fillWho line m) errs arr).release line m.waiters) := by
  have hno : s.repairing line m.need = false := by rw [State.repairing, hrep]; rfl
  have hcond : (m.why != .fill || false || s.repairing line m.need) = false := by rw [hw, hno]; rfl
  have hnew : (s.frame line).isNone = false := by rw [hf]; rfl
  show execFillReturn line errs arr s = _
  rw [execFillReturn, unit_of hl, hm]
  dsimp only
  rw [hk]
  dsimp only
  rw [hcond, if_neg Bool.false_ne_true, hr, if_neg Bool.false_ne_true, hnew]
  rfl

/-- FILL_RETURN with one read that waits: the line is whole, its uncorrectable sectors are poisoned, and the read is answered. -/
theorem fillReturn_completes {line : Nat} {m : Miss} {r : Req} {f : Frame} (errs : List MemErr) (arr : List ArrayErr)
    (hl : lineExists s line = true) (hm : s.miss line = some m) (hw : m.why = .fill) (hwait : m.waiters = [r]) (hline : r.line = line)
    (hkind : r.kind = .rd) (hrep : s.repairs = []) (hu : s.upsets = []) (ht : s.tierErrs = [])
    (hr : (s.page (line / 512)).released = false) (hk : s.memSlot (line / 512) = none) (hh : s.hostOf line ≠ some .em)
    (hf : s.frame line = some f) (hp : f.packed = false) (hv : Nat.lor f.valid m.need = 15) :
    ∃ t g, exec (.fillReturn line errs arr) s = .next t ∧ t.miss line = none ∧ t.mem = s.mem ∧
      (Claims.Answered t r .data fun y => y.data = memBytes s.mem (line * 128) 128 ∧ y.poison = Nat.land (t.linePoison line) r.mask) ∧
      t.frame line = some g ∧ g.valid = 15 ∧ t.poison = markBad s.poison (fillBad line f.valid m.need errs arr) := by
  obtain ⟨te, hu1⟩ := State.refill_homes (m := m) (s.fillWho line m) errs arr hf hp hu ht hk
  have he := exec_fillReturn errs arr hl hm hw hrep hr hk hf
  rw [hwait] at he
  generalize s.refill line m (s.fillWho line m) errs arr = u at hu1 he
  have hfu : u.frame line = some (f.filled m.need) :=
    (congrArg (fun v : HomeView => tabGet frameNone v.frames line) hu1).trans ((tabGet_set ..).trans (if_pos rfl))
  have hru : (u.page (line / 512)).released = false := (congrArg (fun v : HomeView => v.released (line / 512)) hu1).trans hr
  have hhu : u.hostOf line ≠ some .em := fun hem =>
    hh ((congrArg (fun v : HomeView => tabGet hostNone v.hosts line) hu1).symm.trans hem)
  have huu : u.upsets = [] := (congrArg HomeView.upsets hu1).trans hu
  have hmem : u.mem = s.mem := congrArg HomeView.mem hu1
  obtain ⟨ht1, hans⟩ := State.release_rd hline hkind hru hhu hfu hv huu
  rw [hmem] at hans
  generalize u.release line [r] = t at ht1 hans he
  refine ⟨t, f.filled m.need, he, ?_, ?_, hans, ?_, hv, ?_⟩
  · exact (congrArg (fun v : HomeView => tabGet missNone v.misses line) ht1).trans ((tabGet_set ..).trans (if_pos rfl))
  · exact (congrArg HomeView.mem ht1).trans hmem
  · exact (congrArg (fun v : HomeView => tabGet frameNone v.frames line) ht1).trans hfu
  · exact (congrArg HomeView.poison ht1).trans (congrArg HomeView.poison hu1)

/-! ### The statement -/

/-- Settles O27: the fill by `fillReturn_completes`, the slices and the staged registers by the lemmas on their commands. -/
theorem fillsAndSlices : Obligations.FillsAndSlices := by
  unfold Obligations.FillsAndSlices
  refine ⟨?_, fun s slice w => hotWindowEnd_enters, fun s slice w => hotWindowEnd_leaves, fun s => ucRegApply_applies⟩
  intro s line errs arr m r f hl hm hw hwait hline hkind hrep hu ht hr hk hh hf hp hv
  obtain ⟨t, g, he, hmiss, hmem, hans, hg, hgv, hpoison⟩ :=
    fillReturn_completes errs arr hl hm hw hwait hline hkind hrep hu ht hr hk hh hf hp hv
  refine ⟨t, g, he, hmiss, hmem, hans, hg, hgv, ?_, fun e hm hc hlt hval hneed => ?_, fun e hm hc hlt hneed => ?_⟩
  · rintro rfl rfl
    exact hpoison
  · rw [hpoison]
    exact tabGet_markBad (.inr (List.mem_append_right _ (mem_metSectors hm hc hlt hval hneed)))
  · rw [hpoison]
    exact tabGet_markBad (.inr (List.mem_append_left _ (mem_deadSectors hm hc hlt hneed)))

end Sys2Proof.Machine
end

section
/-! SUPPORT. Hash-key rotation (spec/05 R265 to R267, Table 5.11): its start, the recall of the host's lines, the emptying of the cache and
of the L1s, and its end. -/

namespace Sys2Proof.Machine

variable {s t : State}

/-! ### The request -/

/-- The rotation is asked for, and waits. -/
def State.rotAsk (s : State) : State := { s.setFld (rotReg 0 0) 1 with rot := .waiting }

theorem exec_hashRotRequest (hr : s.ready = true) (hi : s.rot = .idle) : exec .hashRotRequest s = .next s.rotAsk.rotBegin := by
  have hne : ¬ (s.rot != Rot.idle) = true := by rw [hi]; decide
  show execHashRotRequest s = _
  rw [execHashRotRequest, State.sup, if_pos hr]
  exact congrArg Host.Outcome.next (if_neg hne)

theorem any_resetting_eq_false (h : ∀ x ∈ s.parts, x.2.st ≠ .resetting) : (s.parts.any fun x => x.2.st == .resetting) = false :=
  List.any_eq_false.mpr fun x hx hb => h x hx (beq_iff_eq.mp hb)

theorem any_resetting_eq_true (h : ∃ x ∈ s.parts, x.2.st = .resetting) : (s.parts.any fun x => x.2.st == .resetting) = true := by
  obtain ⟨x, hx, hst⟩ := h
  exact List.any_eq_true.mpr ⟨x, hx, beq_iff_eq.mpr hst⟩

/-- With no partition reset in progress a rotation starts to drain at once. -/
theorem hashRotRequest_drains (hr : s.ready = true) (hi : s.rot = .idle) (hp : ∀ x ∈ s.parts, x.2.st ≠ .resetting) :
    ∃ t, exec .hashRotRequest s = .next t ∧ t.rot = .draining ∧ t.rotAt = s.now ∧ t.fld (rotReg 0 0) = 1 ∧
      t = { s with regs := t.regs, rot := t.rot, rotAt := t.rotAt, rotCycles := t.rotCycles } := by
  have hc : (s.rotAsk.rot == Rot.waiting && !(s.rotAsk.parts.any fun x => x.2.st == .resetting)) = true := by
    rw [show s.rotAsk.parts = s.parts from rfl, any_resetting_eq_false hp]
    rfl
  refine ⟨_, exec_hashRotRequest hr hi, ?_⟩
  rw [State.rotBegin, if_pos hc]
  exact ⟨rfl, rfl, State.fld_setFld _ (rotReg 0 0) 1 (by decide), rfl⟩

/-- While a partition is reset a rotation waits. -/
theorem hashRotRequest_waits (hr : s.ready = true) (hi : s.rot = .idle) (hp : ∃ x ∈ s.parts, x.2.st = .resetting) :
    ∃ t, exec .hashRotRequest s = .next t ∧ t.rot = .waiting ∧ t = { s with regs := t.regs, rot := t.rot } := by
  have hc : ¬ (s.rotAsk.rot == Rot.waiting && !(s.rotAsk.parts.any fun x => x.2.st == .resetting)) = true := by
    rw [show s.rotAsk.parts = s.parts from rfl, any_resetting_eq_true hp, Bool.not_true, Bool.and_false]
    exact Bool.false_ne_true
  refine ⟨_, exec_hashRotRequest hr hi, ?_⟩
  rw [State.rotBegin, if_neg hc]
  exact ⟨rfl, rfl⟩

/-! ### The recall of the host's lines -/

theorem length_tabSkip_le {α : Type} (k : Nat) (m : Tab α) : (tabSkip k m).length ≤ m.length := by
  induction m with
  | nil => exact Nat.le_refl _
  | cons y m ih =>
    unfold tabSkip
    split
    · exact Nat.le_succ_of_le ih
    · exact Nat.le_refl _

/-- A write lengthens a table by at most one entry. -/
theorem length_tabSet_le {α : Type} [DecidableEq α] (d : Nat → α) (m : Tab α) (k : Nat) (v : α) :
    (tabSet d m k v).length ≤ m.length + 1 := by
  induction m with
  | nil =>
    unfold tabSet
    split <;> simp
  | cons y m ih =>
    have hskip := length_tabSkip_le k m
    unfold tabSet
    split
    · split <;> simp
    · split
      · split
        · simp only [List.length_cons]
          omega
        · simp
      · simp only [List.length_cons]
        omega

/-- Every miss has sent the host a snoop that invalidates. -/
def State.AllRecalled (s : State) : Prop := ∀ l, (s.miss l).isSome = true → Sent.snoop l true ∈ s.sent

theorem State.miss_snoop (line l : Nat) : ((s.snoop line true []).miss l).isSome = if l = line then true else (s.miss l).isSome := by
  refine (congrArg Option.isSome (State.miss_setMiss s line _ l)).trans ?_
  split <;> rfl

theorem State.AllRecalled.snoop (h : s.AllRecalled) (line : Nat) : (s.snoop line true []).AllRecalled := fun l hl => by
  rw [State.miss_snoop] at hl
  show Sent.snoop l true ∈ Sent.snoop line true :: s.sent
  split at hl
  · next he => exact he ▸ List.mem_cons_self
  · exact List.mem_cons_of_mem _ (h l hl)

/-- What a recall of lines leaves alone, and that every line of its list has a miss. -/
structure State.Recalls (s t : State) (lines : List Nat) : Prop where
  rot : t.rot = s.rot
  mem : Claims.SameMem s t
  recalled : t.AllRecalled
  grows : ∀ l, (s.miss l).isSome = true → (t.miss l).isSome = true
  taken : ∀ l ∈ lines, (t.miss l).isSome = true

/-- With a miss register to spare for every line of its list, a recall sends a snoop for each that has no miss yet. -/
theorem State.recallAll_recalls (lines : List Nat) (ha : s.AllRecalled) (hq : s.reqs = [])
    (hroom : 2 * (s.misses.length + lines.length) + s.missOff.length < 48) : s.Recalls (s.recallAll lines) lines := by
  induction lines generalizing s with
  | nil => exact ⟨rfl, ⟨rfl, rfl, rfl, rfl⟩, ha, fun _ h => h, fun l hl => absurd hl List.not_mem_nil⟩
  | cons line lines ih =>
    rw [List.length_cons] at hroom
    by_cases hm : (s.miss line).isNone = true
    · have hc : ((s.miss line).isNone && s.missRoom line 15) = true := by
        rw [hm, State.missRoom, hq, if_pos (by rw [List.length_nil]; omega), Bool.true_and]
      have hlen : (s.snoop line true []).misses.length ≤ s.misses.length + 1 := length_tabSet_le ..
      obtain ⟨hrot, hmem, hrec, hgrows, htaken⟩ := ih (s := s.snoop line true []) (ha.snoop line) hq (by
        show 2 * ((s.snoop line true []).misses.length + lines.length) + s.missOff.length < 48
        omega)
      have he : s.recallAll (line :: lines) = (s.snoop line true []).recallAll lines := by
        show State.recallAll (if _ then _ else _) lines = _
        rw [if_pos hc]
      rw [he]
      refine ⟨hrot, hmem, hrec, fun l hl => hgrows l ?_, List.forall_mem_cons.mpr ⟨hgrows line ?_, htaken⟩⟩
      · rw [State.miss_snoop, hl, ite_self]
      · rw [State.miss_snoop, if_pos rfl]
    · have hc : ¬ ((s.miss line).isNone && s.missRoom line 15) = true := fun h => hm (Bool.and_eq_true_iff.mp h).1
      obtain ⟨hrot, hmem, hrec, hgrows, htaken⟩ := ih (s := s) ha hq (by omega)
      have he : s.recallAll (line :: lines) = s.recallAll lines := by
        show State.recallAll (if _ then _ else _) lines = _
        rw [if_neg hc]
      rw [he]
      refine ⟨hrot, hmem, hrec, hgrows, List.forall_mem_cons.mpr ⟨hgrows line ?_, htaken⟩⟩
      rw [Option.isNone_iff_eq_none] at hm
      exact Option.isSome_iff_ne_none.mpr hm

/-- Nothing is under way between the homes and their requesters. -/
theorem State.netIdle_empty (h : s.netIdle = true) : s.reqs = [] ∧ s.misses = [] := by
  simp only [State.netIdle, Bool.and_eq_true, List.isEmpty_iff] at h
  obtain ⟨⟨⟨⟨hreqs, _⟩, hmisses⟩, _⟩, _⟩ := h
  exact ⟨hreqs, hmisses⟩

/-- A rotation that has drained calls back the lines that the host holds. -/
theorem hashRotDrained_recalls (hrot : s.rot = .draining) (hn : s.netIdle = true) (hh : s.hosts ≠ []) (hs : s.silent = false)
    (hroom : 2 * s.hosts.length + s.missOff.length < 48) :
    ∃ t, exec .hashRotDrained s = .next t ∧ t.rot = .draining ∧ Claims.SameMem s t ∧
      ∀ h ∈ s.hosts, (t.miss h.1).isSome = true ∧ Sent.snoop h.1 true ∈ t.sent := by
  obtain ⟨hreqs, hmisses⟩ := State.netIdle_empty hn
  have he : exec .hashRotDrained s = .next (s.recallAll (s.hosts.map (·.1))) := by
    have h0 : ¬ (s.rot != Rot.draining || !s.netIdle) = true := by rw [hrot, hn]; decide
    have h1 : (!s.hosts.isEmpty && !s.silent) = true := by
      rw [List.isEmpty_eq_false_iff.mpr hh, hs]
      rfl
    show execHashRotDrained s = _
    rw [execHashRotDrained, if_neg h0, if_pos h1]
  have hnone (l : Nat) : s.miss l = none := by rw [State.miss, hmisses]; rfl
  obtain ⟨hr, hmem, hrec, _, htaken⟩ := s.recallAll_recalls (s.hosts.map (·.1))
    (fun l hl => by rw [hnone l] at hl; cases hl) hreqs (by rw [hmisses, List.length_map, List.length_nil]; omega)
  refine ⟨_, he, hr.trans hrot, hmem, fun h hx => ?_⟩
  have hm := htaken h.1 (List.mem_map_of_mem hx)
  exact ⟨hm, hrec h.1 hm⟩

/-! ### Evictions: frames and tiles -/

/-- The frames of the homes, and the tiles. -/
def State.chips (s : State) : Tab (Option Frame) × Tab Tile := (s.frames, s.tiles)

theorem foldl_chips {β : Type} {f : State → β → State} (hf : ∀ t x, (f t x).chips = t.chips) (xs : List β) :
    (xs.foldl f s).chips = s.chips := foldl_keeps (fun t => t.chips = s.chips) f (fun t x ht => (hf t x).trans ht) xs rfl

/-- What leaves the homes as they are leaves their frames and the tiles. -/
theorem State.chips_of_homes (h : t.homes = s.homes) : t.chips = s.chips := congrArg (fun v : HomeView => (v.frames, v.tiles)) h

@[simp] theorem State.setPoison_chips (k : Nat) (b : Bool) : (s.setPoison k b).chips = s.chips := rfl
@[simp] theorem State.forget_chips (line mask : Nat) : (s.forget line mask).chips = s.chips := rfl
@[simp] theorem State.rasCount_chips (code n : Nat) : (s.rasCount code n).chips = s.chips := State.chips_of_homes (State.rasCount_homes ..)

@[simp] theorem State.ras_chips (code sev part u : Nat) (d0 d1 : W64) : (s.ras code sev part u d0 d1).chips = s.chips :=
  State.chips_of_homes (State.ras_homes ..)

@[simp] theorem State.chanBytes_chips (w : Who) (line n : Nat) : (s.chanBytes w line n).chips = s.chips :=
  State.chips_of_homes (State.chanBytes_homes ..)

@[simp] theorem State.evictErrs_chips (line part dirty : Nat) : (s.evictErrs line part dirty).chips = s.chips := by
  simp [State.evictErrs, apply_ite State.chips, foldl_chips]

@[simp] theorem State.uncover_chips (line dirty : Nat) : (s.uncover line dirty).chips = s.chips := by
  refine ite_either (P := fun t : State => t.chips = s.chips) rfl ?_
  exact foldl_chips (f := fun s k => s.setPoison k true) (fun _ _ => rfl) _

@[simp] theorem State.overwritten_chips (line mask : Nat) : (s.overwritten line mask).chips = s.chips :=
  ite_either (P := fun t : State => t.chips = s.chips) rfl rfl

@[simp] theorem State.lateBack_chips (line : Nat) (back : List Nat) : (s.lateBack line back).chips = s.chips := by
  unfold State.lateBack
  split
  · exact ite_either (P := fun t : State => t.chips = s.chips) rfl rfl
  · rfl

@[simp] theorem State.poisonAll_chips (line : Nat) (ks : List Nat) :
    (ks.foldl (fun s i => s.setPoison (4 * line + i) true) s).chips = s.chips :=
  foldl_chips (f := fun s i => s.setPoison (4 * line + i) true) (fun _ _ => rfl) ks

/-- The tiles of `t` are those of `s` but for their L1s. -/
structure State.SparesTiles (s t : State) : Prop where
  wf : tabWf tileNone s.tiles = true → tabWf tileNone t.tiles = true
  clauses : ∀ u, (t.tile u).clauses = (s.tile u).clauses
  spm : ∀ u, (t.tile u).spm = (s.tile u).spm

theorem State.SparesTiles.of_tiles (h : t.tiles = s.tiles) : s.SparesTiles t :=
  ⟨fun hw => h ▸ hw, fun u => by rw [State.tile, h, State.tile], fun u => by rw [State.tile, h, State.tile]⟩

theorem State.SparesTiles.of_chips (h : t.chips = s.chips) : s.SparesTiles t := .of_tiles (congrArg Prod.snd h)

theorem State.SparesTiles.trans {u : State} (h : s.SparesTiles t) (h' : t.SparesTiles u) : s.SparesTiles u :=
  ⟨fun hw => h'.wf (h.wf hw), fun k => (h'.clauses k).trans (h.clauses k), fun k => (h'.spm k).trans (h.spm k)⟩

/-- A line of an L1 gains or loses the mark of a forwarder. -/
theorem State.sparesTiles_l1State (line tile : Nat) (f : Bool) : s.SparesTiles (s.l1State line tile f) := by
  unfold State.l1State
  split
  · refine ⟨fun hw => tabWf_set _ _ hw, fun u => ?_, fun u => ?_⟩
    · rw [State.tile_setTile]
      split
      · next h => rw [h]
      · rfl
    · rw [State.tile_setTile]
      split
      · next h => rw [h]
      · rfl
  · exact .of_tiles rfl

@[simp] theorem State.l1State_frames (line tile : Nat) (f : Bool) : (s.l1State line tile f).frames = s.frames := by
  unfold State.l1State
  split <;> rfl

theorem State.sparesTiles_setFwd_none (line : Nat) : s.SparesTiles (s.setFwd line none) := by
  unfold State.setFwd
  split
  · exact .of_tiles rfl
  · next f _ =>
    cases f.fwd
    · exact .of_tiles rfl
    · exact (State.sparesTiles_l1State ..).trans (.of_tiles rfl)

/-- The record of a forwarder is in the frame of its line. -/
theorem State.frame_setFwd_none {line l : Nat} (h : l ≠ line) : (s.setFwd line none).frame l = s.frame l := by
  unfold State.setFwd
  split
  · rfl
  · next f _ =>
    cases f.fwd
    · exact (State.frame_setFrame ..).trans (if_neg h)
    · refine (State.frame_setFrame ..).trans ((if_neg h).trans ?_)
      rw [State.frame, State.l1State_frames, State.frame]

/-- A line whose frame is dropped. -/
def State.dropFrame (s : State) (line : Nat) : State := (s.setFwd line none).setFrame line none

theorem State.sparesTiles_dropFrame (line : Nat) : s.SparesTiles (s.dropFrame line) :=
  (s.sparesTiles_setFwd_none line).trans (.of_tiles rfl)

theorem State.frame_dropFrame (line l : Nat) : (s.dropFrame line).frame l = if l = line then none else s.frame l := by
  refine (State.frame_setFrame ..).trans ?_
  split
  · rfl
  · next h => exact State.frame_setFwd_none h

theorem State.frame_of_chips (h : t.chips = s.chips) (l : Nat) : t.frame l = s.frame l := by
  have hf : t.frames = s.frames := congrArg Prod.fst h
  rw [State.frame, hf, State.frame]

/-- A line whose dirty sectors have been read for their write-back. -/
def State.backed (s : State) (line : Nat) (f : Frame) : State :=
  let s := ((s.evictErrs line f.part f.dirty).uncover line f.dirty).overwritten line f.dirty
  let back := (List.range 4).filter fun i => bitOf f.dirty i
  if s.keyless (line / 512) then back.foldl (fun s i => s.setPoison (4 * line + i) true) s else s.lateBack line back

theorem State.backed_chips (line : Nat) (f : Frame) : (s.backed line f).chips = s.chips := by
  simp only [State.backed, apply_ite State.chips, State.poisonAll_chips, State.lateBack_chips, State.overwritten_chips, State.uncover_chips,
    State.evictErrs_chips, ite_self]

/-- An eviction drops the frame of its line and no other, and touches of the tiles only their L1s. -/
theorem State.evict_spares (line : Nat) :
    s.SparesTiles (s.evict line) ∧ ∀ l, (s.evict line).frame l = if l = line then none else s.frame l := by
  unfold State.evict
  split
  · next hf =>
    refine ⟨.of_tiles rfl, fun l => ?_⟩
    split
    · next hl => rw [hl, hf]
    · rfl
  · next f hf =>
    show s.SparesTiles (((s.backed line f).dropFrame line).chanBytes _ line _) ∧
      ∀ l, (((s.backed line f).dropFrame line).chanBytes _ line _).frame l = _
    have hu := s.backed_chips line f
    generalize s.backed line f = u at hu ⊢
    have hc (w : Who) (n : Nat) : ((u.dropFrame line).chanBytes w line n).chips = (u.dropFrame line).chips := State.chanBytes_chips ..
    refine ⟨.trans (.of_chips hu) (.trans (u.sparesTiles_dropFrame line) (.of_chips (hc ..))), fun l => ?_⟩
    refine (State.frame_of_chips (hc ..) l).trans ((State.frame_dropFrame ..).trans ?_)
    rw [State.frame_of_chips hu]

/-- Evictions of a list of lines leave none of them a frame, and give none to any other. -/
theorem State.evictAll_spares (lines : List Nat) : s.SparesTiles (lines.foldl State.evict s) ∧
    ∀ l, (l ∈ lines ∨ s.frame l = none) → (lines.foldl State.evict s).frame l = none := by
  induction lines generalizing s with
  | nil => exact ⟨.of_tiles rfl, fun l hl => hl.resolve_left List.not_mem_nil⟩
  | cons line lines ih =>
    obtain ⟨hspare, hframe⟩ := s.evict_spares line
    obtain ⟨hspares, hframes⟩ := ih (s := s.evict line)
    refine ⟨hspare.trans hspares, fun l hl => hframes l ?_⟩
    rw [hframe l]
    by_cases he : l = line
    · exact .inr (if_pos he)
    · rw [if_neg he]
      exact hl.imp_left fun hm => (List.mem_cons.mp hm).resolve_left he

/-- A line with a frame is listed. -/
theorem State.frame_listed (s : State) (l : Nat) : l ∈ s.frames.map (·.1) ∨ s.frame l = none :=
  (tabGet_mem frameNone s.frames l).imp_left fun hm => List.mem_map.mpr ⟨_, hm, rfl⟩

/-- Every L1 is emptied, and the models that a reserve held are to be read again. -/
def State.emptyL1s (s : State) : State :=
  { s with
    rot := .rekey
    tiles := tabMap tileNone (fun _ t => { t with l1 := [] }) s.tiles
    models := tabMap modelNone (fun _ m => if m.resident then { m with resident := false, filling := true, refill := true } else m) s.models }

theorem State.tile_emptyL1s (hw : tabWf tileNone s.tiles = true) (u : Nat) : s.emptyL1s.tile u = { s.tile u with l1 := [] } :=
  tabGet_map (fun _ (t : Tile) => { t with l1 := [] }) (fun _ => rfl) hw u

/-- A rotation that has drained, with no line at the host, empties the cache and the L1s. -/
theorem hashRotDrained_empties (hrot : s.rot = .draining) (hn : s.netIdle = true) (hh : s.hosts = [])
    (hw : tabWf tileNone s.tiles = true) :
    ∃ t, exec .hashRotDrained s = .next t ∧ t.rot = .rekey ∧ t.mem = s.mem ∧ (∀ line, t.frame line = none) ∧
      ∀ u, (t.tile u).l1 = [] ∧ (t.tile u).clauses = (s.tile u).clauses ∧ (t.tile u).spm = (s.tile u).spm := by
  have he : exec .hashRotDrained s = .next ((s.frames.map (·.1)).foldl State.evict s).emptyL1s := by
    have h0 : ¬ (s.rot != Rot.draining || !s.netIdle) = true := by rw [hrot, hn]; decide
    show execHashRotDrained s = _
    rw [execHashRotDrained, if_neg h0, hh]
    rfl
  have hk := (State.Keeps.refl s).foldl State.evict (fun _ l hu => hu.evict l) (s.frames.map (·.1))
  obtain ⟨hspares, hframes⟩ := s.evictAll_spares (s.frames.map (·.1))
  generalize (s.frames.map (·.1)).foldl State.evict s = u at he hk hspares hframes
  refine ⟨_, he, rfl, hk.mem, fun line => hframes line (s.frame_listed line), fun k => ?_⟩
  rw [State.tile_emptyL1s (hspares.wf hw)]
  exact ⟨rfl, hspares.clauses k, hspares.spm k⟩

/-! ### The end of the rotation -/

/-- Where no command, event, transfer or prefetch waits, there is nothing to settle. -/
theorem State.settleAll_of_empty (hq : s.queues = []) (he : s.events = []) (hp : s.prefetches = []) (hx : s.xfers = []) :
    s.settleAll = s := by
  have hlinks : s.endOldLinks = s := by rw [State.endOldLinks, hx]; rfl
  have hkick : s.herbKick = s := by
    simp [State.herbKick, hq, hp, rankSort]
  have hflush : s.flush = s := by
    rw [State.flush, hq, he]
    exact if_pos (Bool.or_true _)
  rw [State.settleAll, hlinks, hkick, hflush, hq]
  exact hflush

/-- The registers of the rotation at its end: done, counted, with its time. -/
def State.rotReport (s : State) (us : Nat) : State :=
  (((s.setFld (rotReg 0 0) 0).setFld (rotReg 1 1) 1).setFld (rotReg 15 8) (s.fld (rotReg 15 8) + 1)).setFld (rotReg 31 16) (min 65535 us)

/-- A fresh key is in force, and the tiles skip the cycles in which they stood still. -/
def State.rekey (s : State) (v : Nat) : State :=
  { s with
    hashKey := BitVec.ofNat 128 v, rot := .idle, rotAt := 0, rotCycles := []
    tiles := tabMap tileNone (fun t x => x.skip (s.rotCycles.getD (frondOf t) 0) (s.cycle (frondOf t))) s.tiles }

/-- A drawn value taken from the free ones. -/
def State.drawn (s : State) : State := { s with freeCtr := s.freeCtr + 1 }

/-- The state that holds once the key is in force, before what the rotation held up goes on. -/
def State.rotated (s : State) (us : Nat) : State :=
  ((s.drawn.reach (s.rotAt + us * 10 ^ 6)).rotReport us).rekey (Config.free s.freeCtr)

theorem State.fld_rotReport (us : Nat) : (s.rotReport us).fld (rotReg 0 0) = 0 ∧ (s.rotReport us).fld (rotReg 1 1) = 1 ∧
    (s.rotReport us).fld (rotReg 31 16) = min 65535 us := by
  unfold State.rotReport
  refine ⟨?_, ?_, ?_⟩
  · rw [State.fld_setFld_of_apart _ (by decide) (by decide), State.fld_setFld_of_apart _ (by decide) (by decide),
      State.fld_setFld_of_apart _ (by decide) (by decide), State.fld_setFld _ _ _ (by decide)]
    rfl
  · rw [State.fld_setFld_of_apart _ (by decide) (by decide), State.fld_setFld_of_apart _ (by decide) (by decide),
      State.fld_setFld _ _ _ (by decide)]
    rfl
  · rw [State.fld_setFld _ _ _ (by decide)]
    exact Nat.mod_eq_of_lt (Nat.lt_of_le_of_lt (Nat.min_le_left ..) (by decide))

/-- What the rotation held up goes on. -/
def State.rotResume (s : State) : State :=
  let s := (s.watches.map (·.1)).eraseDups.foldl State.notifyLine s
  let s := match s.prtHeld with
    | some (op, p) => { s with prtHeld := none }.prtRun op p
    | none => s
  let fs := s.flrs
  let s := fs.foldl State.flr { s with flrs := [] }
  let ps := (s.parts.filter fun x => x.2.st == .ready && x.2.tdiStop).map (·.1)
  (ps.foldl (fun s p => s.resetStart p id) s).settleAll

theorem exec_hashRotDone (us : Nat) (h : s.rot = .rekey) : exec (.hashRotDone us) s = .next (s.rotated us).rotResume := by
  have h0 : ¬ (s.rot != Rot.rekey) = true := by rw [h]; decide
  show execHashRotDone us s = _
  rw [execHashRotDone, if_neg h0]
  rfl

/-- Nothing goes on where nothing was held up. -/
theorem State.rotResume_of_empty (hq : s.queues = []) (he : s.events = []) (hf : s.flrs = []) (hp : s.prefetches = [])
    (hw : s.watches = []) (hx : s.xfers = []) (hh : s.prtHeld = none) (ht : ∀ x ∈ s.parts, x.2.tdiStop = false) : s.rotResume = s := by
  have hps : (s.parts.filter fun x => x.2.st == .ready && x.2.tdiStop) = [] := List.filter_eq_nil_iff.mpr fun x hx hb => by
    rw [ht x hx, Bool.and_false] at hb
    cases hb
  have hflrs : { s with flrs := [] } = s := congrArg (fun l => { s with flrs := l }) hf.symm
  rw [State.rotResume, hw, List.map_nil, List.eraseDups_nil, List.foldl_nil]
  rw [hh]
  dsimp only
  rw [hf, hflrs, List.foldl_nil, hps]
  exact State.settleAll_of_empty hq he hp hx

/-- The end of a rotation: a fresh key is in force, and the time that it took is reported. -/
theorem hashRotDone_rekeys (us : Nat) (hrot : s.rot = .rekey) (hq : s.queues = []) (he : s.events = []) (hf : s.flrs = [])
    (hp : s.prefetches = []) (hw : s.watches = []) (hx : s.xfers = []) (hh : s.prtHeld = none) (ht : ∀ x ∈ s.parts, x.2.tdiStop = false) :
    ∃ t, exec (.hashRotDone us) s = .next t ∧ t.rot = .idle ∧ t.hashKey = BitVec.ofNat 128 (Config.free s.freeCtr) ∧
      t.freeCtr = s.freeCtr + 1 ∧ s.rotAt + us * 10 ^ 6 ≤ t.now ∧ t.mem = s.mem ∧ t.fld (rotReg 0 0) = 0 ∧ t.fld (rotReg 1 1) = 1 ∧
      t.fld (rotReg 31 16) = min 65535 us := by
  have hexec : exec (.hashRotDone us) s = .next (s.rotated us) := by
    rw [exec_hashRotDone us hrot, State.rotResume_of_empty (s := s.rotated us) hq he hf hp hw hx hh ht]
  refine ⟨_, hexec, rfl, rfl, rfl, Nat.le_max_right .., rfl, ?_⟩
  exact State.fld_rotReport (s := s.drawn.reach (s.rotAt + us * 10 ^ 6)) us

end Sys2Proof.Machine
end

section
/-! SUPPORT. Telemetry epochs (spec/07 R330; spec/13 R608 to R610): the snapshot of the live counters, the heat of the pages, and the end
of the latch. -/

namespace Sys2Proof.Machine

variable {s : State}

/-! ### What an epoch's end reads and moves besides the registers -/

structure EpochView where
  mem : Mem
  bad : BadSet
  pages : Tab Page
  now : Nat
  t0 : Nat
  epoch : Nat
  epochStart : Nat
  tileCe : List (Nat × Nat)

def State.epochView (s : State) : EpochView :=
  { mem := s.mem, bad := s.bad, pages := s.pages, now := s.now, t0 := s.t0, epoch := s.epoch, epochStart := s.epochStart
    tileCe := s.tileCe }

theorem foldl_epochView {β : Type} {f : State → β → State} (hf : ∀ t x, (f t x).epochView = t.epochView) (xs : List β) :
    (xs.foldl f s).epochView = s.epochView :=
  foldl_keeps (fun t => t.epochView = s.epochView) f (fun t x ht => (hf t x).trans ht) xs rfl

@[simp] theorem State.setWord_epochView (k : Nat) (v : W64) : (s.setWord k v).epochView = s.epochView := rfl
@[simp] theorem State.setFld_epochView (g : Field) (v : Nat) : (s.setFld g v).epochView = s.epochView := State.setWord_epochView ..
@[simp] theorem State.bump_epochView (k n : Nat) : (s.bump k n).epochView = s.epochView := State.setWord_epochView ..

/-! ### The meters -/

/-- The meters have been read. -/
def State.metered (s : State) : State := { s with pwr := { s.pwr with meterAt := s.now, meterC := fronds.map s.cycle } }

theorem State.pwrMeter_eq (s : State) : ∃ ns n, s.pwrMeter =
    (let u := if s.fld pwrLowest = 1 then s.bump (liveKey 0x00C00070) ns else s
     (if n = 0 then u else u.bump (liveKey 0x00C00078) n).metered) := ⟨_, _, rfl⟩

/-- Reading the meters writes live counters. -/
theorem State.pwrMeter_keeps (s : State) : s.pwrMeter.epochView = s.epochView ∧
    (tabWf regReset s.regs = true → tabWf regReset s.pwrMeter.regs = true) := by
  obtain ⟨ns, n, he⟩ := s.pwrMeter_eq
  rw [he]
  have hbump {u : State} (k m : Nat) (h : u.epochView = s.epochView ∧ (tabWf regReset s.regs = true → tabWf regReset u.regs = true)) :
      (u.bump k m).epochView = s.epochView ∧ (tabWf regReset s.regs = true → tabWf regReset (u.bump k m).regs = true) :=
    ⟨h.1, fun hw => tabWf_set _ _ (h.2 hw)⟩
  have hu := ite_either (c := s.fld pwrLowest = 1)
    (P := fun u : State => u.epochView = s.epochView ∧ (tabWf regReset s.regs = true → tabWf regReset u.regs = true))
    (hbump (liveKey 0x00C00070) ns ⟨rfl, id⟩) ⟨rfl, id⟩
  exact ite_either (c := n = 0)
    (P := fun u : State => u.metered.epochView = s.epochView ∧ (tabWf regReset s.regs = true → tabWf regReset u.metered.regs = true))
    hu (hbump (liveKey 0x00C00078) n hu)

/-! ### The snapshot (R609) -/

/-- Every live counter reads 0. -/
def State.LiveZero (s : State) : Prop := ∀ off < 2 ^ 60, s.word (liveKey off) = 0

theorem State.LiveZero.setWord (h : s.LiveZero) {k : Nat} (hk : k < 2 ^ 60) (v : W64) : (s.setWord k v).LiveZero := fun off ho => by
  rw [State.word_setWord, if_neg (by unfold liveKey; omega), h off ho]

theorem State.LiveZero.setFld (h : s.LiveZero) {g : Field} (hg : g.key < 2 ^ 60) (v : Nat) : (s.setFld g v).LiveZero := h.setWord hg _

/-- The snapshot of a counter stands at the counter's own offset. -/
theorem State.LiveZero.latchOne (h : s.LiveZero) {off : Nat} (ho : off < 2 ^ 60) (v : W64) : (s.latchOne off v).LiveZero := by
  have hk : (fieldAt off 31 0).key ≤ off := by
    unfold fieldAt
    split
    · exact Nat.sub_le ..
    · exact Nat.le_refl _
  unfold State.latchOne
  split
  · exact h.setWord ho _
  · split
    · exact h.setFld (Nat.lt_of_le_of_lt hk ho) _
    · exact h.setWord ho _

@[simp] theorem State.latchOne_epochView (off : Nat) (v : W64) : (s.latchOne off v).epochView = s.epochView := by
  unfold State.latchOne
  split
  · rfl
  · split <;> rfl

/-- The live counters, by their offsets. -/
def State.liveWords (s : State) : List (Nat × W64) :=
  (s.regs.filter fun x => decide (2 ^ 60 ≤ x.1) && decide (x.1 < 2 ^ 61)).map fun x => (x.1 - 2 ^ 60, x.2)

theorem State.liveWords_lt {x : Nat × W64} (h : x ∈ s.liveWords) : x.1 < 2 ^ 60 := by
  obtain ⟨y, hy, rfl⟩ := List.mem_map.mp h
  obtain ⟨_, hp⟩ := List.mem_filter.mp hy
  obtain ⟨hlo, hhi⟩ := Bool.and_eq_true_iff.mp hp
  have hlo := of_decide_eq_true hlo
  have hhi := of_decide_eq_true hhi
  show y.1 - 2 ^ 60 < 2 ^ 60
  omega

/-- The live counters and the snapshots of the last epoch are gone. -/
def State.telCleared (s : State) : State :=
  { s with regs := s.regs.filter fun x =>
    !(decide (2 ^ 60 ≤ x.1) && decide (x.1 < 2 ^ 61)) && !(decide (0x00C00040 ≤ x.1) && decide (x.1 < 0x00C28000)) }

theorem State.liveZero_telCleared (h : tabWf regReset s.regs = true) : s.telCleared.LiveZero := fun off ho => by
  have hlo : 2 ^ 60 ≤ liveKey off := by unfold liveKey; omega
  have hhi : liveKey off < 2 ^ 61 := by unfold liveKey; omega
  refine (tabGet_filter _ h (liveKey off)).trans ?_
  rw [decide_eq_true hlo, decide_eq_true hhi, Bool.and_self, Bool.not_true, Bool.false_and, if_neg Bool.false_ne_true, regReset,
    if_pos ⟨hlo, hhi⟩]

/-- The snapshots of the live counters, and of the energy of each partition. -/
def State.telLatched (s : State) (live : List (Nat × W64)) (totals : List Nat) : State :=
  totals.zipIdx.foldl (fun s x => s.setWord (0x00C02000 + 32 * x.2) (BitVec.ofNat 64 (x.1 / 2000000)))
    (live.foldl (fun s x => s.latchOne x.1 x.2) s)

theorem State.telLatched_epochView (live : List (Nat × W64)) (totals : List Nat) : (s.telLatched live totals).epochView = s.epochView :=
  (foldl_epochView (fun _ _ => State.setWord_epochView ..) _).trans (foldl_epochView (fun _ _ => State.latchOne_epochView ..) _)

theorem State.LiveZero.telLatched (h : s.LiveZero) {live : List (Nat × W64)} (hl : ∀ x ∈ live, x.1 < 2 ^ 60) {totals : List Nat}
    (ht : totals.length ≤ 48) : (s.telLatched live totals).LiveZero := by
  have h1 : (live.foldl (fun s x => s.latchOne x.1 x.2) s).LiveZero :=
    List.foldlRecOn (motive := State.LiveZero) live _ h fun u hu x hx => hu.latchOne (hl x hx) _
  refine List.foldlRecOn (motive := State.LiveZero) _ _ h1 fun u hu x hx => hu.setWord ?_ _
  have hlt := List.snd_lt_of_mem_zipIdx hx
  omega

/-- The epoch that ends, in the registers: its number, its start and its end. -/
def State.telStamp (s : State) (tEnd : Nat) (rest : Int) : State :=
  (((s.setWord (telMod 0) (BitVec.ofNat 64 s.epoch)).setWord (telMod 8) (BitVec.ofNat 64 s.epochStart)).setWord (telMod 0x10)
    (BitVec.ofNat 64 tEnd)).setWord (telMod 0x28) (BitVec.ofInt 64 rest)

theorem State.latch_eq (s : State) (tEnd : Nat) : ∃ totals rest, totals.length = 48 ∧
    s.latch tEnd = (s.telCleared.telLatched s.liveWords totals).telStamp tEnd rest :=
  ⟨(List.range 48).map (partEnergy s.liveWords), _, by rw [List.length_map, List.length_range], rfl⟩

/-- What the latch does: every live counter falls to 0, and the epoch that ends is in the registers. -/
theorem State.latch_latches (tEnd : Nat) (h : tabWf regReset s.regs = true) :
    (s.latch tEnd).epochView = s.epochView ∧ (s.latch tEnd).LiveZero ∧ (s.latch tEnd).word 0x00C00040 = BitVec.ofNat 64 s.epoch ∧
      (s.latch tEnd).word 0x00C00048 = BitVec.ofNat 64 s.epochStart ∧ (s.latch tEnd).word 0x00C00050 = BitVec.ofNat 64 tEnd := by
  obtain ⟨totals, rest, hlen, he⟩ := s.latch_eq tEnd
  have hv : (s.telCleared.telLatched s.liveWords totals).epochView = s.epochView := (State.telLatched_epochView ..).trans rfl
  have hz : (s.telCleared.telLatched s.liveWords totals).LiveZero :=
    (State.liveZero_telCleared h).telLatched (fun _ hx => State.liveWords_lt hx) (Nat.le_of_eq hlen)
  rw [he]
  generalize s.telCleared.telLatched s.liveWords totals = u at hv hz
  have hepoch : u.epoch = s.epoch := congrArg EpochView.epoch hv
  have hstart : u.epochStart = s.epochStart := congrArg EpochView.epochStart hv
  refine ⟨hv, ?_, ?_, ?_, ?_⟩
  · exact (((hz.setWord (by decide) _).setWord (by decide) _).setWord (by decide) _).setWord (by decide) _
  · simp [State.telStamp, telMod, hepoch]
  · simp [State.telStamp, telMod, hstart]
  · simp [State.telStamp, telMod]

/-! ### The new epoch -/

/-- The sequence number is odd while the latch goes on; the moves of the epoch are reported. -/
def State.epochMark (s : State) : State := (s.setFld telSeq (s.fld telSeq + 1)).setFld polUsed s.policyStarts

def State.epochNext (s : State) (tEnd : Nat) : State :=
  { s with
    epoch := s.epoch + 1, epochStart := tEnd, policyStarts := 0, otherStarts := 0, hotSeen := [], tileCe := []
    pwr := { s.pwr with epochUs := s.fld telEpochUs } }

/-- The marks of the epoch lie in two registers of their own. -/
theorem State.word_epochMark {k : Nat} (h : k ≠ telSeq.key) (h' : k ≠ polUsed.key) : s.epochMark.word k = s.word k := by
  rw [State.epochMark, State.word_setFld, if_neg h', State.word_setFld, if_neg h]

/-- The plan of moves writes two live counters. -/
theorem State.movePlan_keeps (s : State) : s.movePlan.epochView = s.epochView ∧
    ∀ k, k ≠ telTier 0x10 → k ≠ telTier 0x18 → s.movePlan.word k = s.word k := by
  unfold State.movePlan
  dsimp only
  split
  · exact ⟨rfl, fun _ _ _ => rfl⟩
  · refine ⟨rfl, fun k h h' => ?_⟩
    rw [State.word_bump, if_neg h', State.word_bump, if_neg h]
    rfl

/-- The heat of a page at the end of an epoch (R330). -/
def Page.renew (p : Page) : Page := { p with heat := min 65535 (p.heat / 2 + p.count), count := 0, freeze := p.freeze - 1 }

/-- A page that is cold and that nothing counted stays so. -/
theorem Page.renew_of_cold (f : FrameNo) : ({ at_ := f } : Page).renew = { at_ := f } := by
  simp [Page.renew]

theorem Page.renew_basePage (b : BadSet) (n : Nat) : (basePage b n).renew = basePage b n := by
  unfold basePage
  split
  · exact Page.renew_of_cold _
  · split <;> exact Page.renew_of_cold _

theorem State.page_heatUpdate (h : tabWf (basePage s.bad) s.pages = true) (n : Nat) : s.heatUpdate.page n = (s.page n).renew :=
  tabGet_map (fun _ => Page.renew) (Page.renew_basePage s.bad) h n

/-- The state in which the next epoch begins, its latch still going on. -/
def State.epochTurn (s : State) (tEnd : Nat) : State := (s.epochMark.epochNext tEnd).heatUpdate.movePlan

theorem State.epochTurn_epochView (s : State) (tEnd : Nat) : (s.epochTurn tEnd).epochView =
    { s.epochView with epoch := s.epoch + 1, epochStart := tEnd, tileCe := [], pages := s.heatUpdate.pages } :=
  (State.movePlan_keeps _).1.trans rfl

/-- Between epochs only the marks of the epoch and the two counters of the plan of moves change. -/
theorem State.word_epochTurn (tEnd : Nat) {k : Nat} (hs : k ≠ telSeq.key) (hu : k ≠ polUsed.key) (hp : k ≠ telTier 0x10)
    (hl : k ≠ telTier 0x18) : (s.epochTurn tEnd).word k = s.word k :=
  ((State.movePlan_keeps _).2 k hp hl).trans (State.word_epochMark hs hu)

theorem State.page_epochTurn (tEnd : Nat) (h : tabWf (basePage s.bad) s.pages = true) (n : Nat) :
    (s.epochTurn tEnd).page n = (s.page n).renew :=
  (congrArg (fun v : EpochView => tabGet (basePage v.bad) v.pages n) (s.epochTurn_epochView tEnd)).trans (State.page_heatUpdate h n)

theorem exec_telemetryEpoch (hup : s.up = true) (hseq : s.fld telSeq % 2 = 0) :
    exec .telemetryEpoch s = .next (((s.reach (s.t0 + 1000 * (s.epochStart + 1000 * s.pwr.epochUs))).pwrMeter.latch
      (s.epochStart + 1000 * s.pwr.epochUs)).epochTurn (s.epochStart + 1000 * s.pwr.epochUs)) := by
  have hc : ¬ (!s.up || decide (s.fld telSeq % 2 = 1)) = true := by
    rw [hup, hseq]
    decide
  show execTelemetryEpoch s = _
  rw [execTelemetryEpoch]
  exact congrArg Host.Outcome.next (if_neg hc)

/-- The end of an epoch: the snapshot is taken, every live counter falls to 0, and the pages' heat is renewed. -/
theorem telemetryEpoch_turns (hup : s.up = true) (hseq : s.fld telSeq % 2 = 0) (hw : tabWf regReset s.regs = true)
    (hp : tabWf (basePage s.bad) s.pages = true) :
    ∃ t, exec .telemetryEpoch s = .next t ∧ t.epoch = s.epoch + 1 ∧ t.epochStart = s.epochStart + 1000 * s.pwr.epochUs ∧
      s.t0 + 1000 * t.epochStart ≤ t.now ∧ t.word 0x00C00040 = BitVec.ofNat 64 s.epoch ∧
      t.word 0x00C00048 = BitVec.ofNat 64 s.epochStart ∧ t.word 0x00C00050 = BitVec.ofNat 64 t.epochStart ∧
      (∀ off, off < 2 ^ 60 → off ≠ 0x00C000D0 → off ≠ 0x00C000D8 → t.word (liveKey off) = 0) ∧
      (∀ n, t.page n = (s.page n).renew) ∧ t.mem = s.mem ∧ t.tileCe = [] := by
  refine ⟨_, exec_telemetryEpoch hup hseq, ?_⟩
  generalize s.epochStart + 1000 * s.pwr.epochUs = tEnd
  obtain ⟨hmeter, hmw⟩ := (s.reach (s.t0 + 1000 * tEnd)).pwrMeter_keeps
  generalize (s.reach (s.t0 + 1000 * tEnd)).pwrMeter = a at hmeter hmw
  obtain ⟨hlatch, hzero, hepoch, hstart, hend⟩ := a.latch_latches tEnd (hmw hw)
  generalize a.latch tEnd = b at hlatch hzero hepoch hstart hend
  have hview := hlatch.trans hmeter
  have hb : b.epoch = s.epoch := congrArg EpochView.epoch hview
  have hpages : tabWf (basePage b.bad) b.pages = true :=
    (congrArg (fun v : EpochView => tabWf (basePage v.bad) v.pages) hview).trans hp
  have hpage (n : Nat) : b.page n = s.page n := congrArg (fun v : EpochView => tabGet (basePage v.bad) v.pages n) hview
  have hturn := b.epochTurn_epochView tEnd
  have hword {k : Nat} (hk : k < 2 ^ 60) (hs : k ≠ telSeq.key) (hu : k ≠ polUsed.key) : (b.epochTurn tEnd).word k = b.word k :=
    State.word_epochTurn tEnd hs hu (by unfold telTier liveKey; omega) (by unfold telTier liveKey; omega)
  have htEnd : (b.epochTurn tEnd).epochStart = tEnd := congrArg EpochView.epochStart hturn
  have hnow : (b.epochTurn tEnd).now = max s.now (s.t0 + 1000 * tEnd) :=
    (congrArg EpochView.now hturn).trans (congrArg EpochView.now hview)
  refine ⟨?_, htEnd, ?_, ?_, ?_, ?_, fun off ho hl hr => ?_, fun n => ?_, ?_, ?_⟩
  · exact (congrArg EpochView.epoch hturn).trans (congrArg (· + 1) hb)
  · rw [htEnd, hnow]
    exact Nat.le_max_right ..
  · rw [hword (by decide) (by decide) (by decide), hepoch]
    exact congrArg (fun v : EpochView => BitVec.ofNat 64 v.epoch) hmeter
  · rw [hword (by decide) (by decide) (by decide), hstart]
    exact congrArg (fun v : EpochView => BitVec.ofNat 64 v.epochStart) hmeter
  · rw [hword (by decide) (by decide) (by decide), hend, htEnd]
  · have hne : ∀ k < 2 ^ 60, liveKey off ≠ k := fun k hk => by unfold liveKey; omega
    rw [State.word_epochTurn tEnd (hne _ (by decide)) (hne _ (by decide)) (by unfold telTier liveKey; omega)
      (by unfold telTier liveKey; omega)]
    exact hzero off ho
  · rw [State.page_epochTurn tEnd hpages, hpage]
  · exact (congrArg EpochView.mem hturn).trans (congrArg EpochView.mem hview)
  · exact congrArg EpochView.tileCe hturn

/-- The end of a latch: the sequence number is even again. -/
theorem telemetryLatchEnd_ends (h : s.fld telSeq % 2 = 1) :
    ∃ t, exec .telemetryLatchEnd s = .next t ∧ t = { s with regs := t.regs } ∧ t.fld telSeq = (s.fld telSeq + 1) % 2 ^ 32 := by
  have hc : ¬ s.fld telSeq % 2 = 0 := by rw [h]; decide
  have he : exec .telemetryLatchEnd s = .next (s.setFld telSeq (s.fld telSeq + 1)) := by
    show execTelemetryLatchEnd s = _
    rw [execTelemetryLatchEnd, if_neg hc]
  exact ⟨_, he, rfl, State.fld_setFld _ _ _ (by decide)⟩

/-! ### The statement -/

/-- Settles O28: each clause by the lemma on its command above. -/
theorem rotationAndEpochs : Obligations.RotationAndEpochs := by
  unfold Obligations.RotationAndEpochs
  exact ⟨fun s => hashRotRequest_drains, fun s => hashRotRequest_waits, fun s hrot hn hh hw _ => hashRotDrained_empties hrot hn hh hw,
    fun s => hashRotDrained_recalls, fun s us hrot hq he hf _ => hashRotDone_rekeys us hrot hq he hf, fun s => telemetryEpoch_turns,
    fun s => telemetryLatchEnd_ends⟩

end Sys2Proof.Machine
end
